-- ==== Sys2Proof/Word.lean ====
section
/-!
DEFINITION. Sys2Proof/Word.lean: the words the machine handles, and the small closed
sets of names that instructions and state share. No arithmetic beyond core's own.
-/

namespace Sys2Proof

/-- One byte of memory (R7). -/
abbrev Byte := BitVec 8
/-- An n32 word: instruction words, lane seeds, semaphore images (R7). -/
abbrev W32 := BitVec 32
/-- A g register, an address, an 8-byte memory word (R7, R12). -/
abbrev W64 := BitVec 64
/-- A vector register or one queue entry (R12). -/
abbrev VReg := BitVec 2048
/-- A predicate register (R12). -/
abbrev PReg := BitVec 512

/-- A finite map from numbers to values, as a list of pairs with strictly rising keys.
Used for everything sparse: memory, accumulator elements, metadata. -/
abbrev Table (α : Type) := List (Nat × α)

/-- The four block streams of a tile (R12). -/
inductive BStream where
  | v | m | l | s
deriving DecidableEq, Repr

/-- Who issues the instruction that `exec` runs: a stream of a tile, or the supervisor
of a cluster (R17). -/
inductive Agent where
  | control (tile : BitVec 6)
  | block (tile : BitVec 6) (stream : BStream)
  | supervisor (cluster : BitVec 4)
deriving DecidableEq, Repr

end Sys2Proof
end

