-- ==== Sys2Proof/Syntax.lean ====
section
/-!
DEFINITION. Sys2Proof/Syntax.lean: the one inductive of instructions and events, one
constructor for each row of spec/opcode_table.json, in the order of the table. A word row
carries its fields under the names the table gives them, high to low; an event row carries
what the event brings with it.
-/

namespace Sys2Proof

/-- The instructions and events of the part (R23 to R31 and the event rows of the table). -/
inductive Instr where
  /-- ADD (R46): Sets gd to the 64-bit wrapping sum of ga and gb. -/
  | add (d : BitVec 5) (a : BitVec 5) (b : BitVec 5)
  /-- SUB (R46): Sets gd to the 64-bit wrapping difference ga minus gb. -/
  | sub (d : BitVec 5) (a : BitVec 5) (b : BitVec 5)
  /-- AND (R46): Sets gd to the bitwise AND of ga and gb. -/
  | and (d : BitVec 5) (a : BitVec 5) (b : BitVec 5)
  /-- OR (R46): Sets gd to the bitwise OR of ga and gb. -/
  | or (d : BitVec 5) (a : BitVec 5) (b : BitVec 5)
  /-- XOR (R46): Sets gd to the bitwise XOR of ga and gb. -/
  | xor (d : BitVec 5) (a : BitVec 5) (b : BitVec 5)
  /-- ANDN (R46): Sets gd to ga AND NOT gb. -/
  | andn (d : BitVec 5) (a : BitVec 5) (b : BitVec 5)
  /-- SLL (R46): Shifts ga left by gb[5:0]. -/
  | sll (d : BitVec 5) (a : BitVec 5) (b : BitVec 5)
  /-- SRL (R46): Shifts ga right logically by gb[5:0]. -/
  | srl (d : BitVec 5) (a : BitVec 5) (b : BitVec 5)
  /-- SRA (R46): Shifts ga right arithmetically by gb[5:0]. -/
  | sra (d : BitVec 5) (a : BitVec 5) (b : BitVec 5)
  /-- MUL (R46): Sets gd to the low 64 bits of ga times gb. -/
  | mul (d : BitVec 5) (a : BitVec 5) (b : BitVec 5)
  /-- MULH (R46): Sets gd to the high 64 bits of the signed 128-bit product. -/
  | mulh (d : BitVec 5) (a : BitVec 5) (b : BitVec 5)
  /-- MULHN (R46): Sets gd to the high 64 bits of the natural 128-bit product. -/
  | mulhn (d : BitVec 5) (a : BitVec 5) (b : BitVec 5)
  /-- DIV (R47): Signed division truncating toward zero, with defined results for zero divisor and overflow. -/
  | div (d : BitVec 5) (a : BitVec 5) (b : BitVec 5)
  /-- DIVN (R47): Natural division, all ones on a zero divisor. -/
  | divn (d : BitVec 5) (a : BitVec 5) (b : BitVec 5)
  /-- REM (R47): Signed remainder taking the sign of the dividend. -/
  | rem (d : BitVec 5) (a : BitVec 5) (b : BitVec 5)
  /-- REMN (R47): Natural remainder, the dividend on a zero divisor. -/
  | remn (d : BitVec 5) (a : BitVec 5) (b : BitVec 5)
  /-- MIN (R46): Sets gd to the lesser of ga and gb as i64. -/
  | min (d : BitVec 5) (a : BitVec 5) (b : BitVec 5)
  /-- MAX (R46): Sets gd to the greater of ga and gb as i64. -/
  | max (d : BitVec 5) (a : BitVec 5) (b : BitVec 5)
  /-- MINN (R46): Sets gd to the lesser of ga and gb as n64. -/
  | minn (d : BitVec 5) (a : BitVec 5) (b : BitVec 5)
  /-- MAXN (R46): Sets gd to the greater of ga and gb as n64. -/
  | maxn (d : BitVec 5) (a : BitVec 5) (b : BitVec 5)
  /-- CLZ (R46): Counts the leading zero bits of ga. -/
  | clz (d : BitVec 5) (a : BitVec 5)
  /-- CTZ (R46): Counts the trailing zero bits of ga. -/
  | ctz (d : BitVec 5) (a : BitVec 5)
  /-- POP (R46): Counts the one bits of ga. -/
  | pop (d : BitVec 5) (a : BitVec 5)
  /-- ADD32 (R46): Adds the low 32 bits and sign-extends the result. -/
  | add32 (d : BitVec 5) (a : BitVec 5) (b : BitVec 5)
  /-- SUB32 (R46): Subtracts the low 32 bits and sign-extends the result. -/
  | sub32 (d : BitVec 5) (a : BitVec 5) (b : BitVec 5)
  /-- ROL (R46): Rotates ga left by gb[5:0]. -/
  | rol (d : BitVec 5) (a : BitVec 5) (b : BitVec 5)
  /-- ROR (R46): Rotates ga right by gb[5:0]. -/
  | ror (d : BitVec 5) (a : BitVec 5) (b : BitVec 5)
  /-- ADDI (R48): Adds a sign-extended 16-bit immediate to ga. -/
  | addi (d : BitVec 5) (a : BitVec 5) (i : BitVec 16)
  /-- ANDI (R48): ANDs ga with a zero-extended 16-bit immediate. -/
  | andi (d : BitVec 5) (a : BitVec 5) (i : BitVec 16)
  /-- ORI (R48): ORs ga with a zero-extended 16-bit immediate. -/
  | ori (d : BitVec 5) (a : BitVec 5) (i : BitVec 16)
  /-- XORI (R48): XORs ga with a zero-extended 16-bit immediate. -/
  | xori (d : BitVec 5) (a : BitVec 5) (i : BitVec 16)
  /-- SLLI (R48): Shifts ga left by an immediate count. -/
  | slli (d : BitVec 5) (a : BitVec 5) (n : BitVec 6)
  /-- SRLI (R48): Shifts ga right logically by an immediate count. -/
  | srli (d : BitVec 5) (a : BitVec 5) (n : BitVec 6)
  /-- SRAI (R48): Shifts ga right arithmetically by an immediate count. -/
  | srai (d : BitVec 5) (a : BitVec 5) (n : BitVec 6)
  /-- RORI (R48): Rotates ga right by an immediate count. -/
  | rori (d : BitVec 5) (a : BitVec 5) (n : BitVec 6)
  /-- LI (R49): Sets gd to a sign-extended 21-bit immediate. -/
  | li (d : BitVec 5) (i : BitVec 21)
  /-- LIK (R49): Replaces 16-bit chunk k of gd with an immediate, keeping the other bits. -/
  | lik (d : BitVec 5) (k : BitVec 2) (i : BitVec 16)
  /-- CMP (R50): Sets a condition register to the truth of relation cc between ga and gb. -/
  | cmp (c : BitVec 3) (a : BitVec 5) (b : BitVec 5) (f : BitVec 6)
  /-- CMPI (R50): Sets a condition register to the truth of eq, ne, lt or ltn against an immediate. -/
  | cmpi (k : BitVec 2) (c : BitVec 3) (a : BitVec 5) (i : BitVec 16)
  /-- SEL (R51): Sets gd to ga when cn is 1 and to gb otherwise. -/
  | sel (d : BitVec 5) (a : BitVec 5) (b : BitVec 5) (n : BitVec 3)
  /-- CAND (R52): Sets cd to ca AND cb. -/
  | cand (d : BitVec 3) (a : BitVec 3) (b : BitVec 3)
  /-- COR (R52): Sets cd to ca OR cb. -/
  | cor (d : BitVec 3) (a : BitVec 3) (b : BitVec 3)
  /-- CXOR (R52): Sets cd to ca XOR cb. -/
  | cxor (d : BitVec 3) (a : BitVec 3) (b : BitVec 3)
  /-- CANDN (R52): Sets cd to ca AND NOT cb. -/
  | candn (d : BitVec 3) (a : BitVec 3) (b : BitVec 3)
  /-- CNOT (R52): Sets cd to NOT ca. -/
  | cnot (d : BitVec 3) (a : BitVec 3)
  /-- CSET (R52): Sets cd to 1. -/
  | cset (d : BitVec 3)
  /-- CCLR (R52): Sets cd to 0. -/
  | cclr (d : BitVec 3)
  /-- BT_SET (R53): Checks a pc-relative target and places it in a branch-target register, or raises CTLINT. -/
  | btSet (n : BitVec 2) (i : BitVec 21)
  /-- BT_REG (R53): Checks a register target and places it in a branch-target register, or raises CTLINT. -/
  | btReg (n : BitVec 2) (a : BitVec 5)
  /-- BR (R55): Transfers to bn after two delay slots when cn is 1. -/
  | br (n : BitVec 2) (c : BitVec 3)
  /-- BR_N (R55): Transfers to bn after two delay slots when cn is 0. -/
  | brN (n : BitVec 2) (c : BitVec 3)
  /-- BR_A (R55): Always transfers to bn after two delay slots. -/
  | brA (n : BitVec 2)
  /-- CALL (R56): Writes the link, pushes the shadow stack and transfers to bn after two delay slots. -/
  | call (d : BitVec 5) (n : BitVec 2)
  /-- RET (R57): Checks ga against the shadow-stack top, pops it and returns after two delay slots. -/
  | ret (a : BitVec 5)
  /-- LD (R61): Loads 1 to 8 bytes at ga plus offset into gd, extended by size. -/
  | ld (d : BitVec 5) (a : BitVec 5) (s : BitVec 3) (i : BitVec 11)
  /-- ST (R62): Stores the low 1 to 8 bytes of gd at ga plus offset. -/
  | st (d : BitVec 5) (a : BitVec 5) (s : BitVec 2) (i : BitVec 11)
  /-- LDO (R64): Loads at ga plus gb with relaxed or acquire order at a scope. -/
  | ldo (d : BitVec 5) (a : BitVec 5) (b : BitVec 5) (s : BitVec 3) (o : BitVec 1) (p : BitVec 3)
  /-- STO (R64): Stores at ga plus gb with relaxed or release order at a scope. -/
  | sto (d : BitVec 5) (a : BitVec 5) (b : BitVec 5) (s : BitVec 2) (o : BitVec 1) (p : BitVec 3)
  /-- AMO_ADD (R65): Atomically adds gb to memory at ga and returns the old value. -/
  | amoAdd (d : BitVec 5) (a : BitVec 5) (b : BitVec 5) (w : BitVec 1) (o : BitVec 2) (p : BitVec 3)
  /-- AMO_AND (R65): Atomically ANDs gb into memory and returns the old value. -/
  | amoAnd (d : BitVec 5) (a : BitVec 5) (b : BitVec 5) (w : BitVec 1) (o : BitVec 2) (p : BitVec 3)
  /-- AMO_OR (R65): Atomically ORs gb into memory and returns the old value. -/
  | amoOr (d : BitVec 5) (a : BitVec 5) (b : BitVec 5) (w : BitVec 1) (o : BitVec 2) (p : BitVec 3)
  /-- AMO_XOR (R65): Atomically XORs gb into memory and returns the old value. -/
  | amoXor (d : BitVec 5) (a : BitVec 5) (b : BitVec 5) (w : BitVec 1) (o : BitVec 2) (p : BitVec 3)
  /-- AMO_MIN (R65): Atomically stores the signed minimum and returns the old value. -/
  | amoMin (d : BitVec 5) (a : BitVec 5) (b : BitVec 5) (w : BitVec 1) (o : BitVec 2) (p : BitVec 3)
  /-- AMO_MAX (R65): Atomically stores the signed maximum and returns the old value. -/
  | amoMax (d : BitVec 5) (a : BitVec 5) (b : BitVec 5) (w : BitVec 1) (o : BitVec 2) (p : BitVec 3)
  /-- AMO_MINN (R65): Atomically stores the natural minimum and returns the old value. -/
  | amoMinn (d : BitVec 5) (a : BitVec 5) (b : BitVec 5) (w : BitVec 1) (o : BitVec 2) (p : BitVec 3)
  /-- AMO_MAXN (R65): Atomically stores the natural maximum and returns the old value. -/
  | amoMaxn (d : BitVec 5) (a : BitVec 5) (b : BitVec 5) (w : BitVec 1) (o : BitVec 2) (p : BitVec 3)
  /-- AMO_SWAP (R65): Atomically swaps gb with memory and returns the old value. -/
  | amoSwap (d : BitVec 5) (a : BitVec 5) (b : BitVec 5) (w : BitVec 1) (o : BitVec 2) (p : BitVec 3)
  /-- AMO_FADD32 (R66): Atomically adds a binary32 value to memory with one rounding and returns the old value. -/
  | amoFadd32 (d : BitVec 5) (a : BitVec 5) (b : BitVec 5) (o : BitVec 2) (p : BitVec 3)
  /-- CAS (R67): Compares memory with gd, writes gb when equal, and returns the old value. -/
  | cas (d : BitVec 5) (a : BitVec 5) (b : BitVec 5) (w : BitVec 1) (o : BitVec 2) (p : BitVec 3)
  /-- FENCE (R69): Orders the C stream's earlier accesses before later ones at a scope, by kind. -/
  | fence (k : BitVec 2) (p : BitVec 3)
  /-- QMARK (R71): Places a marker restoring program order between the C stream's loads and stores. -/
  | qmark
  /-- SEM_RAISE (R78): Adds n to a semaphore count as a release, or raises SEMOVF. -/
  | semRaise (a : BitVec 5) (n : BitVec 6) (k : BitVec 6)
  /-- SEM_WAIT (R78): Waits until a semaphore is poisoned or holds n, then subtracts n or reports poison. -/
  | semWait (c : BitVec 3) (a : BitVec 5) (n : BitVec 6) (k : BitVec 6)
  /-- SEM_TRY (R78): Subtracts n from an unpoisoned semaphore when it holds n, setting cd to success. -/
  | semTry (c : BitVec 3) (a : BitVec 5) (n : BitVec 6) (k : BitVec 6)
  /-- SEM_SET (R78): Sets a semaphore count to n and clears its poison. -/
  | semSet (a : BitVec 5) (n : BitVec 6) (k : BitVec 6)
  /-- SEM_READ (R78): Reads a semaphore's poison and count into gd. -/
  | semRead (d : BitVec 5) (n : BitVec 6)
  /-- SEM_RING (R78): Clears semaphore N and sets semaphore N+1 to n, preparing a ring. -/
  | semRing (a : BitVec 5) (n : BitVec 6) (k : BitVec 6)
  /-- BAR_ARRIVE (R84): Records an arrival at a domain barrier, returning the phase and advancing it on the M-th arrival. -/
  | barArrive (d : BitVec 5) (i : BitVec 4)
  /-- BAR_WAIT (R84): Waits until a barrier's phase differs from a token. -/
  | barWait (a : BitVec 5) (i : BitVec 4)
  /-- BAR_TEST (R84): Sets cd when a barrier's phase differs from a token. -/
  | barTest (c : BitVec 3) (a : BitVec 5) (i : BitVec 4)
  /-- LW_ARM (R82): Arms a landing word with a target, or disarms it when the target is 0. -/
  | lwArm (a : BitVec 5) (b : BitVec 5)
  /-- LW_GET (R82): Returns a landing word's state once reached, or raises NOTREADY or stalls. -/
  | lwGet (d : BitVec 5) (a : BitVec 5) (b : BitVec 5)
  /-- LW_TEST (R82): Sets cd when a landing word has reached a generation. -/
  | lwTest (c : BitVec 3) (a : BitVec 5) (b : BitVec 5)
  /-- LW_WAIT (R82): Waits until a landing word reaches a generation. -/
  | lwWait (a : BitVec 5) (b : BitVec 5)
  /-- BLK_GO (R85): Starts a block stream at a record, resetting its indices and segment accumulators. -/
  | blkGo (a : BitVec 5) (t : BitVec 2)
  /-- BLK_STOP (R86): Stops a block stream in AWAIT or RUN after its issued instructions complete. -/
  | blkStop (t : BitVec 2)
  /-- BLK_STATUS (R87): Reads a block stream's state, record offset, index and fault stage. -/
  | blkStatus (d : BitVec 5) (t : BitVec 2)
  /-- BLK_PATCH (R88): Writes one field of a control-block record with an indivisible read-modify-write. -/
  | blkPatch (d : BitVec 5) (a : BitVec 5) (k : BitVec 4) (i : BitVec 4)
  /-- FMT_PUSH (R91): Appends a 32-bit format word to the format queue, stalling while full. -/
  | fmtPush (a : BitVec 5)
  /-- WIN_SET (R89): Reads, checks, translates and pins a window image and installs it. -/
  | winSet (a : BitVec 5) (n : BitVec 5)
  /-- WIN_REL (R90): Uninstalls a window and releases its pins. -/
  | winRel (n : BitVec 5)
  /-- WIN_READ (R90): Reads one 64-bit word of an installed window image. -/
  | winRead (d : BitVec 5) (j : BitVec 3) (n : BitVec 5)
  /-- FQ_POP (R91): Pops the oldest vote flag into cd, stalling while the vote queue is empty. -/
  | fqPop (c : BitVec 3)
  /-- TX_OPEN (R99): Opens a transaction with a slot and snapshot stamp, or returns CAP. -/
  | txOpen (d : BitVec 5)
  /-- TX_COMMIT (R363): Ends a transaction, committing it with a stamp or returning its failure status. -/
  | txCommit (d : BitVec 5) (a : BitVec 5)
  /-- TX_ABORT (R99): Discards an open transaction's tentative versions and ends it as EXPLICIT. -/
  | txAbort (a : BitVec 5)
  /-- TX_STAMP (R99): Returns a transaction's snapshot stamp. -/
  | txStamp (d : BitVec 5) (a : BitVec 5)
  /-- TX_RELEASE (R99): Aborts an open transaction and frees its slot and handle. -/
  | txRelease (a : BitVec 5)
  /-- CKPT_CLOSE (R101): Waits for quiescent streams and copies, then closes the current checkpoint interval. -/
  | ckptClose
  /-- CKPT_MARK (R102): Reads the interval number, re-run flag and checkpoint mode. -/
  | ckptMark (d : BitVec 5)
  /-- SYS_RD (R107): Reads a system register into gd. -/
  | sysRd (d : BitVec 5) (x : BitVec 12)
  /-- SYS_WR (R107): Writes ga to a system register under its access codes. -/
  | sysWr (a : BitVec 5) (x : BitVec 12)
  /-- TRAP_ECALL (R104): Ends the context when g10 is 0, otherwise raises ECALL. -/
  | trapEcall
  /-- TRAP_RAISE (R104): Raises a program cause 0x80 to 0xFF, to the user handler or the supervisor. -/
  | trapRaise (c : BitVec 7)
  /-- TRAP_EBREAK (R104): Raises EBREAK to the supervisor or debugger. -/
  | trapEbreak
  /-- URET (R106): Returns from a user-level handler, completing pending delay slots. -/
  | uret
  /-- WAITE_SEM (R92): Waits until a semaphore is non-zero or poisoned, or a timeout passes. -/
  | waiteSem (c : BitVec 3) (a : BitVec 5) (n : BitVec 6)
  /-- WAITE_VOTE (R92): Waits until the vote queue is not empty, or a timeout passes. -/
  | waiteVote (c : BitVec 3) (a : BitVec 5)
  /-- WAITE_STREAM (R92): Waits until a block stream is IDLE, STOPPED or FAULTED, or a timeout passes. -/
  | waiteStream (c : BitVec 3) (a : BitVec 5) (t : BitVec 2)
  /-- CP_GO (R94): Checks, pins and submits a copy record to a die copy engine, returning its sequence number. -/
  | cpGo (d : BitVec 5) (a : BitVec 5) (e : BitVec 1)
  /-- CP_STATUS (R96): Reads the tile's state on a copy engine and clears ERR. -/
  | cpStatus (d : BitVec 5) (e : BitVec 1)
  /-- RT_OPEN (R98): Opens a receive buffer for an expert and phase, returning a handle or a status. -/
  | rtOpen (d : BitVec 5) (a : BitVec 5)
  /-- RT_SEND (R332): Checks and queues a send list for header formation and delivery. -/
  | rtSend (d : BitVec 5) (a : BitVec 5)
  /-- RT_ROUTE (R98): Writes the die's route-table entry for an expert. -/
  | rtRoute (d : BitVec 5) (a : BitVec 5)
  /-- RT_STAT (R98): Writes the counts of a send or receive handle into the command block. -/
  | rtStat (d : BitVec 5) (a : BitVec 5)
  /-- RT_CLOSE (R98): Closes a send or receive handle, returning the tokens counted. -/
  | rtClose (d : BitVec 5) (a : BitVec 5)
  /-- SEG_CNT (R103): Reads a stream's running active-cycle count. -/
  | segCnt (d : BitVec 5) (t : BitVec 2)
  /-- SEG_SIG (R103): Reads a stream's running CRC before final inversion. -/
  | segSig (d : BitVec 5) (t : BitVec 2)
  /-- SEG_LAST (R103): Reads the count and signature of the last closed segment. -/
  | segLast (d : BitVec 5) (t : BitVec 2)
  /-- NOP (R72): Has no effect. -/
  | nop
  /-- PAUSE (R73): Stops C-stream issue for k tc. -/
  | pause (k : BitVec 12)
  /-- PREFETCH (R74): Requests up to 16 lines into the die-pool cache without visible effect. -/
  | prefetch (a : BitVec 5) (n : BitVec 4)
  /-- VADD (R150): Adds elements with one rounding or integer wrap or saturation. -/
  | vadd (d : BitVec 5) (a : BitVec 5) (b : BitVec 5) (p : BitVec 3) (t : BitVec 4) (m : BitVec 4)
  /-- VSUB (R150): Subtracts elements with one rounding or integer wrap or saturation. -/
  | vsub (d : BitVec 5) (a : BitVec 5) (b : BitVec 5) (p : BitVec 3) (t : BitVec 4) (m : BitVec 4)
  /-- VMUL (R150): Multiplies elements with one rounding or integer wrap or saturation. -/
  | vmul (d : BitVec 5) (a : BitVec 5) (b : BitVec 5) (p : BitVec 3) (t : BitVec 4) (m : BitVec 4)
  /-- VFMA (R150): Fused multiply-add of elements with one rounding. -/
  | vfma (d : BitVec 5) (a : BitVec 5) (b : BitVec 5) (p : BitVec 3) (t : BitVec 4) (m : BitVec 4)
  /-- VFMS (R150): Fused multiply-subtract D minus A times B with one rounding. -/
  | vfms (d : BitVec 5) (a : BitVec 5) (b : BitVec 5) (p : BitVec 3) (t : BitVec 4) (m : BitVec 4)
  /-- VMIN (R151): Takes the element-wise minimum. -/
  | vmin (d : BitVec 5) (a : BitVec 5) (b : BitVec 5) (p : BitVec 3) (t : BitVec 4) (k : BitVec 1)
  /-- VMAX (R151): Takes the element-wise maximum. -/
  | vmax (d : BitVec 5) (a : BitVec 5) (b : BitVec 5) (p : BitVec 3) (t : BitVec 4) (k : BitVec 1)
  /-- VABS (R152): Takes the element-wise absolute value. -/
  | vabs (d : BitVec 5) (a : BitVec 5) (p : BitVec 3) (t : BitVec 4) (k : BitVec 1) (s : BitVec 1)
  /-- VNEG (R152): Negates elements. -/
  | vneg (d : BitVec 5) (a : BitVec 5) (p : BitVec 3) (t : BitVec 4) (k : BitVec 1) (s : BitVec 1)
  /-- VCMP (R153): Compares elements and writes the truths to a predicate. -/
  | vcmp (d : BitVec 3) (a : BitVec 5) (b : BitVec 5) (p : BitVec 3) (t : BitVec 4) (k : BitVec 1) (c : BitVec 3)
  /-- VSEL (R154): Selects elements of va or vb by a predicate. -/
  | vsel (d : BitVec 5) (a : BitVec 5) (b : BitVec 5) (p : BitVec 3) (t : BitVec 4) (k : BitVec 1)
  /-- VAND (R155): Bitwise AND of elements. -/
  | vand (d : BitVec 5) (a : BitVec 5) (b : BitVec 5) (p : BitVec 3) (t : BitVec 4) (k : BitVec 1)
  /-- VOR (R155): Bitwise OR of elements. -/
  | vor (d : BitVec 5) (a : BitVec 5) (b : BitVec 5) (p : BitVec 3) (t : BitVec 4) (k : BitVec 1)
  /-- VXOR (R155): Bitwise XOR of elements. -/
  | vxor (d : BitVec 5) (a : BitVec 5) (b : BitVec 5) (p : BitVec 3) (t : BitVec 4) (k : BitVec 1)
  /-- VANDN (R155): Bitwise A AND NOT B of elements. -/
  | vandn (d : BitVec 5) (a : BitVec 5) (b : BitVec 5) (p : BitVec 3) (t : BitVec 4) (k : BitVec 1)
  /-- VNOT (R155): Bitwise NOT of elements. -/
  | vnot (d : BitVec 5) (a : BitVec 5) (p : BitVec 3) (t : BitVec 4) (k : BitVec 1)
  /-- VSLL (R156): Shifts elements left by a register or immediate amount. -/
  | vsll (d : BitVec 5) (a : BitVec 5) (b : BitVec 5) (p : BitVec 3) (t : BitVec 4) (k : BitVec 1) (i : BitVec 1)
  /-- VSRL (R156): Shifts elements right logically. -/
  | vsrl (d : BitVec 5) (a : BitVec 5) (b : BitVec 5) (p : BitVec 3) (t : BitVec 4) (k : BitVec 1) (i : BitVec 1)
  /-- VSRA (R156): Shifts elements right arithmetically. -/
  | vsra (d : BitVec 5) (a : BitVec 5) (b : BitVec 5) (p : BitVec 3) (t : BitVec 4) (k : BitVec 1) (i : BitVec 1)
  /-- VCVT (R157): Converts a slice of elements between formats with one rounding. -/
  | vcvt (d : BitVec 5) (a : BitVec 5) (s : BitVec 4) (u : BitVec 1) (p : BitVec 3) (t : BitVec 4) (r : BitVec 3)
  /-- VQ (R158): Quantises 64 F32 elements by exact division and converts them. -/
  | vq (d : BitVec 5) (a : BitVec 5) (b : BitVec 5) (p : BitVec 3) (t : BitVec 4) (u : BitVec 1) (r : BitVec 3)
  /-- VDQ (R159): Dequantises 64 elements into F32 by exact multiplication. -/
  | vdq (d : BitVec 5) (a : BitVec 5) (b : BitVec 5) (p : BitVec 3) (t : BitVec 4) (r : BitVec 3)
  /-- VBS (R160): Computes per-block scales and writes them as F32 values per element. -/
  | vbs (d : BitVec 5) (a : BitVec 5) (t : BitVec 4) (k : BitVec 2)
  /-- VBS_CODE (R160): Computes per-block scales and writes their codes into four bytes of vd. -/
  | vbsCode (d : BitVec 5) (a : BitVec 5) (p : BitVec 3) (t : BitVec 4) (k : BitVec 2)
  /-- VSFU (R161): Computes rcp, rsqrt, exp2 or log2 of F32 elements with one rounding. -/
  | vsfu (d : BitVec 5) (a : BitVec 5) (p : BitVec 3) (k : BitVec 1) (f : BitVec 3)
  /-- VRED (R162): Reduces elements by sum, max or min over a fixed tree into lane 0. -/
  | vred (d : BitVec 5) (a : BitVec 5) (p : BitVec 3) (t : BitVec 4) (k : BitVec 1) (o : BitVec 2)
  /-- VPERM (R163): Permutes elements of va by indices in vb. -/
  | vperm (d : BitVec 5) (a : BitVec 5) (b : BitVec 5) (p : BitVec 3) (t : BitVec 4) (k : BitVec 1)
  /-- VZIP (R164): Interleaves a half of va and vb. -/
  | vzip (d : BitVec 5) (a : BitVec 5) (b : BitVec 5) (p : BitVec 3) (t : BitVec 4) (k : BitVec 1) (h : BitVec 1)
  /-- VUNZIP (R164): De-interleaves even or odd elements of va and vb. -/
  | vunzip (d : BitVec 5) (a : BitVec 5) (b : BitVec 5) (p : BitVec 3) (t : BitVec 4) (k : BitVec 1) (h : BitVec 1)
  /-- VTR_H (R165): Transposes a 32 by 32 matrix of 16-bit elements across eight registers. -/
  | vtrH (d : BitVec 5) (a : BitVec 5)
  /-- VTR_W (R165): Transposes a 16 by 16 matrix of 32-bit elements across four registers. -/
  | vtrW (d : BitVec 5) (a : BitVec 5)
  /-- VBC (R166): Broadcasts element k of va to the governed elements. -/
  | vbc (d : BitVec 5) (a : BitVec 5) (k : BitVec 5) (p : BitVec 3) (t : BitVec 4) (j : BitVec 4)
  /-- VLD (R171): Loads 256 bytes through a window into a register or queue. -/
  | vld (d : BitVec 5) (w : BitVec 5) (o : BitVec 8) (r : BitVec 8)
  /-- VST (R173): Stores 256 bytes of a register or popped queue head through a window. -/
  | vst (d : BitVec 5) (w : BitVec 5) (o : BitVec 8) (r : BitVec 8)
  /-- VLDM (R172): Loads 2, 4 or 8 consecutive registers through a window. -/
  | vldm (d : BitVec 5) (w : BitVec 5) (k : BitVec 2) (o : BitVec 6) (r : BitVec 8)
  /-- VGX (R174): Gathers elements through a window by an index vector. -/
  | vgx (d : BitVec 5) (w : BitVec 5) (x : BitVec 5) (p : BitVec 3) (r : BitVec 8)
  /-- VSX (R174): Scatters elements through a window by an index vector. -/
  | vsx (d : BitVec 5) (w : BitVec 5) (x : BitVec 5) (p : BitVec 3) (r : BitVec 8)
  /-- VACR (R177): Reads 64 raw accumulator elements into a register. -/
  | vacr (d : BitVec 5) (s : BitVec 3) (b : BitVec 2) (o : BitVec 8) (r : BitVec 8)
  /-- VACW (R177): Writes 64 raw elements into an accumulator row segment. -/
  | vacw (d : BitVec 5) (s : BitVec 3) (b : BitVec 2) (o : BitVec 8) (r : BitVec 8)
  /-- VVOTE_ANY (R178): Pushes to the vote queue whether any governed predicate bit is 1. -/
  | vvoteAny (a : BitVec 3) (p : BitVec 3) (t : BitVec 4)
  /-- VVOTE_ALL (R178): Pushes to the vote queue whether every governed predicate bit is 1. -/
  | vvoteAll (a : BitVec 3) (p : BitVec 3) (t : BitVec 4)
  /-- VPATCH (R179): Patches one field of a control-block record from the V stream. -/
  | vpatch (a : BitVec 5) (i : BitVec 4) (k : BitVec 4)
  /-- VMOV (R167): Copies elements of va unchanged to the governed elements. -/
  | vmov (d : BitVec 5) (a : BitVec 5) (p : BitVec 3) (t : BitVec 4) (k : BitVec 1)
  /-- VMOV_VP (R167): Copies a predicate into the low 512 bits of a vector register. -/
  | vmovVp (d : BitVec 5) (a : BitVec 3)
  /-- VMOV_PV (R167): Copies the low 512 bits of a vector register into a predicate. -/
  | vmovPv (d : BitVec 3) (a : BitVec 5) (k : BitVec 1)
  /-- VNOP (R167): Occupies n issue cycles with no effect. -/
  | vnop (n : BitVec 5)
  /-- VSEED (R180): Replaces the governed lane seeds of the random generators. -/
  | vseed (a : BitVec 5) (p : BitVec 3)
  /-- VPOP (R169): Counts governed set predicate bits into lane 0. -/
  | vpop (d : BitVec 5) (a : BitVec 3) (p : BitVec 3) (t : BitVec 4)
  /-- VIOTA (R168): Writes A[0] plus the element index to each governed element. -/
  | viota (d : BitVec 5) (a : BitVec 5) (p : BitVec 3) (t : BitVec 4) (k : BitVec 1)
  /-- MM (R193): Pops a format word and accumulates a word-path matrix product into a bank. -/
  | mm (k : BitVec 2) (a : BitVec 5) (b : BitVec 5) (s : BitVec 5) (t : BitVec 5) (o : BitVec 4)
  /-- MMP (R193): Pops a format word and accumulates a plane-path product of INT8 and INT-n or SPOT8 weights. -/
  | mmp (k : BitVec 2) (a : BitVec 5) (b : BitVec 5) (s : BitVec 5) (t : BitVec 5) (o : BitVec 4)
  /-- MMR (R195): Pops a format word and writes the rank of each score and its choice bit. -/
  | mmr (k : BitVec 2) (a : BitVec 5) (b : BitVec 5) (o : BitVec 4)
  /-- MMAG (R194): Pops a format word and multiplies each row by the adapter its index selects. -/
  | mmag (k : BitVec 2) (a : BitVec 5) (b : BitVec 5) (s : BitVec 5) (t : BitVec 5) (o : BitVec 4)
  /-- ACZ (R196): Zeroes a bank and its poison mark. -/
  | acz (k : BitVec 2)
  /-- ACL (R196): Loads raw 32-bit values from a window into bank rows. -/
  | acl (k : BitVec 2) (a : BitVec 5) (o : BitVec 4)
  /-- ACS (R196): Pops a format word and drains bank rows to a window, converting once. -/
  | acs (k : BitVec 2) (a : BitVec 5) (o : BitVec 4)
  /-- ACF (R196): Writes a bank's poison mark and flags to a window and clears the flags. -/
  | acf (k : BitVec 2) (a : BitVec 5)
  /-- CPY (R201): Copies a window box to another, skipping out-of-bounds sources. -/
  | cpy (d : BitVec 5) (s : BitVec 5)
  /-- CPYZ (R201): Copies a window box, zero-filling out-of-bounds sources. -/
  | cpyz (d : BitVec 5) (s : BitVec 5)
  /-- GATH (R202): Gathers whole rows by an index window. -/
  | gath (d : BitVec 5) (s : BitVec 5) (x : BitVec 5)
  /-- SCAT (R202): Scatters whole rows by an index window. -/
  | scat (d : BitVec 5) (s : BitVec 5) (x : BitVec 5)
  /-- QFILL (R203): Reads 256 bytes through a window and pushes them to a bound queue. -/
  | qfill (q : BitVec 3) (s : BitVec 5)
  /-- QDRAIN (R203): Pops a bound queue entry and writes it through a window. -/
  | qdrain (d : BitVec 5) (q : BitVec 3)
  /-- RED (R204): Combines each source element indivisibly into the destination, or contributes to a reduction window. -/
  | red (d : BitVec 5) (s : BitVec 5) (o : BitVec 2) (p : BitVec 3)
  /-- BCST (R201): Writes a box at the same store offset in every usable tile of the cluster. -/
  | bcst (d : BitVec 5) (s : BitVec 5)
  /-- PLANE (R205): Packs I8 or I4 elements into INT-n bit planes. -/
  | plane (d : BitVec 5) (s : BitVec 5) (u : BitVec 1) (n : BitVec 3)
  /-- LWR (R201): Copies a box to a landing-word-tagged window, counting every destination byte. -/
  | lwr (d : BitVec 5) (s : BitVec 5)
  /-- OV_NODE_TAKE (R219): Runs a dispatch pass and takes the shares placed on the offered tiles. -/
  | ovNodeTake (s : BitVec 5) (r : BitVec 5) (d : BitVec 5)
  /-- OV_NODE_DONE (R219): Reports this cluster's shares of a node as finished with a cause. -/
  | ovNodeDone (s : BitVec 5) (r : BitVec 5) (d : BitVec 5)
  /-- OV_TILE_LOAD (R216): Starts loading a context from a packet or an image onto an EMPTY tile. -/
  | ovTileLoad (s : BitVec 5) (r : BitVec 5) (d : BitVec 5)
  /-- OV_TILE_SAVE (R216): Starts saving a stopped, faulted or done context to an image. -/
  | ovTileSave (s : BitVec 5) (r : BitVec 5) (d : BitVec 5)
  /-- OV_TILE_GO (R220): Re-pins windows and moves a tile to RUN. -/
  | ovTileGo (r : BitVec 5) (d : BitVec 5)
  /-- OV_TILE_STOP (R220): Moves a running tile to STOPPING, or returns TIMED. -/
  | ovTileStop (r : BitVec 5) (d : BitVec 5)
  /-- OV_TILE_HALT (R221): Adds streams to or removes them from a tile's debug-halt set. -/
  | ovTileHalt (s : BitVec 5) (r : BitVec 5) (d : BitVec 5)
  /-- OV_TILE_STAT (R218): Reports a tile's node, state, cause and halts and clears its interrupt contribution. -/
  | ovTileStat (r : BitVec 5) (d : BitVec 5)
  /-- OV_OP_PLAN (R222): Writes the doomed ranges of a step to a target point without changing anything. -/
  | ovOpPlan (s : BitVec 5) (r : BitVec 5) (d : BitVec 5)
  /-- OV_OP_STEP (R389): Checks claims and starts stepping the die to a target point. -/
  | ovOpStep (r : BitVec 5) (d : BitVec 5)
  /-- OV_ROW_RD (R224): Reads one Clearing-table entry. -/
  | ovRowRd (s : BitVec 5) (r : BitVec 5) (d : BitVec 5)
  /-- OV_ERR_POP (R225): Removes the oldest error record of the die into a buffer. -/
  | ovErrPop (r : BitVec 5) (d : BitVec 5)
  /-- OV_CKPT_ROLL (R226): Checks a node and starts rolling it back to the start of its interval. -/
  | ovCkptRoll (r : BitVec 5) (d : BitVec 5)
  /-- TAP_IDCODE (R416): Selects the 32-bit IDCODE register. -/
  | tapIdcode
  /-- TAP_FRZSTAT (R416): Selects the one-bit frozen status. -/
  | tapFrzstat
  /-- TAP_SCANOUT (R416): Shifts out the package state chain when frozen with DBGEN set. -/
  | tapScanout (n : Nat)
  /-- TAP_MEMRD (R416): Reads 64 bits at a local physical address when frozen with DBGEN set. -/
  | tapMemrd (a : BitVec 48)
  /-- TAP_BYPASS (R416): Selects the one-bit bypass register. -/
  | tapBypass
  /-- C_STALL_RESOLVE (R75): A stalled C-stream instruction finds its condition true and performs its whole effect. -/
  | cStallResolve (t : BitVec 6)
  /-- PAUSE_END (R73): The count of a pause expires and C-stream issue resumes. -/
  | pauseEnd (t : BitVec 6)
  /-- WAITE_TIMEOUT (R92): The timeout of waite expires and it completes with cd 0. -/
  | waiteTimeout (t : BitVec 6)
  /-- BLOCK_AWAIT_GRANT (R229): A block stream's await is granted, its count subtracted and its record fetched and checked. -/
  | blockAwaitGrant (t : BitVec 6) (x : BitVec 2)
  /-- RING_AWAIT_GRANT (R186): A ring slot's semaphore await is granted before the first instruction naming the window. -/
  | ringAwaitGrant (t : BitVec 6) (x : BitVec 2)
  /-- RING_RAISE (R186): After the holding period's last access, raises the ring semaphore and advances the position. -/
  | ringRaise (t : BitVec 6) (x : BitVec 2)
  /-- EXPOSED_RESULT_WRITE (R146): An exposed instruction's result is written and it retires when its latency count expires. -/
  | exposedResultWrite (t : BitVec 6)
  /-- LOAD_DATA_LAND (R236): Late load data lands, is written and ends the freeze. -/
  | loadDataLand (t : BitVec 6)
  /-- QFILL_DATA_LAND (R203): The read of a qfill lands and is pushed to its queue. -/
  | qfillDataLand (t : BitVec 6)
  /-- BLOCK_RETIRE (R230): Once all accesses are performed, the block closes its segment, checks poison and raises. -/
  | blockRetire (t : BitVec 6) (x : BitVec 2)
  /-- KERNEL_BOUNDARY (R299): A STOPPING context reaches its kernel-iteration boundary and stops issuing. -/
  | kernelBoundary (t : BitVec 6)
  /-- TILE_STOPPED (R299): After the required instructions retire, the tile enters STOPPED. -/
  | tileStopped (t : BitVec 6)
  /-- CONTEXT_DONE (R310): After copies and routing operations complete, an ended context's tile enters DONE. -/
  | contextDone (t : BitVec 6)
  /-- DEBUG_BREAK_TAKEN (R311): The C stream takes DEBUG at its next instruction boundary. -/
  | debugBreakTaken (t : BitVec 6)
  /-- TILE_LOAD_COMPLETE (R216): A context load finishes and the tile enters READY or FAULTED. -/
  | tileLoadComplete (t : BitVec 6)
  /-- TILE_SAVE_COMPLETE (R302): After copies drain, the image is written, pins end, the release is made and the tile enters EMPTY. -/
  | tileSaveComplete (t : BitVec 6)
  /-- CKPT_ROLL_COMPLETE (R372): After the node's operations drain, logged lines are restored and its tiles become EMPTY. -/
  | ckptRollComplete (h : BitVec 32)
  /-- OP_STEP_COMPLETE (R389): After write-back and the pause, the die runs at the new point and rd is written. -/
  | opStepComplete (d : BitVec 2)
  /-- COPY_START (R95): A die copy engine begins a queued copy. -/
  | copyStart (d : BitVec 2) (e : BitVec 1)
  /-- LANDING_WORD_ARRIVAL (R81): An arrival of counted bytes updates a landing word's count and generation. -/
  | landingWordArrival (a : BitVec 58) (n : BitVec 32) (e : Bool)
  /-- COPY_COMPLETE (R95): A copy finishes its last byte and raises its semaphore as a release. -/
  | copyComplete (d : BitVec 2) (e : BitVec 1)
  /-- RT_HEADER_FORM (R316): The routing engine forms and sends the next header of a send list. -/
  | rtHeaderForm (d : BitVec 2) (h : BitVec 4)
  /-- ROUTE_HEADER (R316): A receive buffer accepts, refuses or drops as duplicate a route header and payload. -/
  | routeHeader (p : BitVec 4) (m : BitVec 128) (d : BitVec 2) (h : BitVec 6) (r : BitVec 256) (q : List Byte)
  /-- SUMMARY_SEND (R334): A receive buffer sends its base and acceptance map on its timer or count. -/
  | summarySend (d : BitVec 2) (h : BitVec 6) (f : BitVec 16) (k : BitVec 12)
  /-- SUMMARY (R335): The sender marks tokens acknowledged and raises the send's completion when done. -/
  | summary (p : BitVec 4) (m : BitVec 128) (d : BitVec 2) (h : BitVec 6) (f : BitVec 16) (b : BitVec 32) (q : BitVec 256)
  /-- BOUNCE (R335): The sender re-routes a refused token to its second choice or lists it as overflow. -/
  | bounce (p : BitVec 4) (m : BitVec 128) (d : BitVec 2) (h : BitVec 6) (r : BitVec 256)
  /-- ROUTE_RESEND (R336): After a route change, unacknowledged tokens are re-sent in ascending SEQ. -/
  | routeResend (d : BitVec 2) (h : BitVec 4) (k : Bool)
  /-- REDUCTION_CONTRIBUTION (R339): A link unit combines an arriving contribution in the fixed merge tree. -/
  | reductionContribution (p : BitVec 4) (m : BitVec 128) (w : BitVec 6) (c : BitVec 10) (e : BitVec 32) (l : BitVec 23) (g : BitVec 32) (q : List Byte)
  /-- EPOCH_ACK (R341): A link unit drops retained contributions of an acknowledged line and epoch. -/
  | epochAck (p : BitVec 4) (m : BitVec 128) (w : BitVec 6) (e : BitVec 32) (l : BitVec 23)
  /-- REDUCTION_TIMEOUT (R341): After 1 ms without progress, open lines complete with an error and ERR is set. -/
  | reductionTimeout (w : BitVec 6)
  /-- READ_REQUEST (R326): A remote read request is performed at its home port and answered. -/
  | readRequest (p : BitVec 4) (m : BitVec 128) (k : BitVec 16) (n : BitVec 8)
  /-- WRITE_REQUEST (R326): A remote write request is performed at its home port and answered. -/
  | writeRequest (p : BitVec 4) (m : BitVec 128) (k : BitVec 16) (q : List Byte)
  /-- ATOMIC_REQUEST (R326): A remote atomic is performed indivisibly at its home port and answered. -/
  | atomicRequest (p : BitVec 4) (m : BitVec 128) (k : BitVec 16) (o : BitVec 4) (w : BitVec 1) (v : BitVec 64) (u : BitVec 64)
  /-- READ_RESPONSE (R326): A read response completes the requester's access. -/
  | readResponse (p : BitVec 4) (m : BitVec 128) (e : BitVec 2) (q : List Byte)
  /-- WRITE_RESPONSE (R326): A write response completes the requester's access. -/
  | writeResponse (p : BitVec 4) (m : BitVec 128) (e : BitVec 2)
  /-- ATOMIC_RESPONSE (R326): An atomic response completes the requester's access. -/
  | atomicResponse (p : BitVec 4) (m : BitVec 128) (e : BitVec 2) (v : BitVec 64)
  /-- BARRIER_ARRIVAL (R330): The barrier home records a group-level arrival and on the M-th sends the phase. -/
  | barrierArrival (p : BitVec 4) (m : BitVec 128) (g : BitVec 32) (i : BitVec 4) (u : BitVec 20)
  /-- BARRIER_PHASE (R330): A member package's barrier unit takes the new phase as an acquire at group scope. -/
  | barrierPhase (p : BitVec 4) (m : BitVec 128) (g : BitVec 32) (i : BitVec 4) (f : BitVec 31)
  /-- TIME (R343): A time message disciplines the local time base. -/
  | time (p : BitVec 4) (m : BitVec 128) (v : BitVec 64) (n : BitVec 8)
  /-- MANAGEMENT (R326): A management message on Jaroc Link is received. -/
  | management (p : BitVec 4) (m : BitVec 128) (q : List Byte)
  /-- LINK_REPLAY (R325): A CRC error causes a replay request from the flit after the last good SEQ. -/
  | linkReplay (p : BitVec 4)
  /-- PORT_TRAINING (R327): A port trains, measuring RTT and setting its watermarks, or stays LONG. -/
  | portTraining (p : BitVec 4) (r : BitVec 8) (k : BitVec 10) (u : BitVec 4) (b : BitVec 9)
  /-- LANE_RETIRE (R329): A lane is retired and replaced by the spare or the port retrains at four lanes. -/
  | laneRetire (p : BitVec 4) (l : BitVec 4)
  /-- PORT_FAIL (R329): A port fails and incompletely sent messages are lost. -/
  | portFail (p : BitVec 4)
  /-- SYNC_SEND (R343): Every 2^-10 s a Sync message is sent on every UP port. -/
  | syncSend
  /-- PACKET_ACCEPT (R349): The pool reads a packet from a submission queue, accepts it and advances HEAD. -/
  | packetAccept
  /-- DISPATCH_PASS (R288): Places ready nodes by class and deficit, reserving tiles and choosing victims. -/
  | dispatchPass
  /-- CLASS_PROMOTION (R287): A node waiting AGE(c) promotes to class c minus 1. -/
  | classPromotion (h : BitVec 32)
  /-- SLICE_EXPIRY (R290): A node that has run SLICE is stopped for a reserving node of the same class. -/
  | sliceExpiry (h : BitVec 32)
  /-- TIMED_READY (R296): A timed node becomes ready at TSTAMP minus LEAD. -/
  | timedReady (h : BitVec 32)
  /-- TIMED_START (R296): At TSTAMP all shares start, or the node completes with TLATE. -/
  | timedStart (h : BitVec 32)
  /-- NODE_COMPLETE (R295): Completes a node, advancing its landing word with the cause and signalling MSI-X. -/
  | nodeComplete (h : BitVec 32)
  /-- XICTL_GO (R259): Starts a TLB shootdown over covered pages, or sets LOST when busy. -/
  | xictlGo (v : BitVec 64)
  /-- SHOOTDOWN_TLB_DONE (R259): Sets TLBDONE once all accesses using dropped entries are performed. -/
  | shootdownTlbDone
  /-- HDISP_READ (R292): A read of HDISP returns a dispatched host node and removes it. -/
  | hdispRead
  /-- HDONE_WRITE (R292): A host writes HDONE to complete a host node with a cause. -/
  | hdoneWrite (v : BitVec 64)
  /-- QTAIL_WRITE (R349): Records packets submitted and lets the pool read them. -/
  | qtailWrite (q : BitVec 8) (v : BitVec 64)
  /-- TBINIT_WRITE (R344): Sets TIME forward to a starting value before discipline. -/
  | tbinitWrite (v : BitVec 64)
  /-- RWCFG_WRITE (R341): Writes a reduction window's configuration; clearing EN while busy discards open epochs. -/
  | rwcfgWrite (w : BitVec 6) (v : BitVec 64)
  /-- KEY_LOAD (R414): Loads a key slot from KEYDATA and zeroes KEYDATA. -/
  | keyLoad (k : BitVec 8)
  /-- KEY_CLEAR (R414): Clears a key slot and zeroes KEYDATA. -/
  | keyClear (k : BitVec 8)
  /-- CLRLOST (R397): Clears the error log's LOST count. -/
  | clrlost (d : BitVec 2)
  /-- DBGREQ_BREAK (R415): Requests a DEBUG break for a running or stopping tile. -/
  | dbgreqBreak (c : BitVec 4) (t : BitVec 2)
  /-- PTTEST_RUN (R415): Starts the self-test of a quarantined or spare physical tile. -/
  | pttestRun (c : BitVec 4) (p : BitVec 3)
  /-- PTTEST_RET (R415): Returns a passed quarantined tile to SPARE. -/
  | pttestRet (c : BitVec 4) (p : BitVec 3)
  /-- SELF_TEST_COMPLETE (R415): A physical tile self-test completes, setting DONE and PASS. -/
  | selfTestComplete (c : BitVec 4) (p : BitVec 3) (k : Bool)
  /-- REGISTER_WRITE (R8): A write to a register without a row of its own acts under its access codes. -/
  | registerWrite (w : BitVec 2) (a : BitVec 48) (n : Bool) (v : BitVec 64)
  /-- REBASE (R357): When CLOCK reaches 0x8000_0000_0000 the package waits, reclaims and rebases all stamps. -/
  | rebase
  /-- VERSION_STALL_TIMEOUT (R366): A write denied a version record reaches its bound and fails by writer. -/
  | versionStallTimeout (t : BitVec 6) (x : BitVec 3)
  /-- COPPICE_PASS (R367): The Coppice reclaims every record reclaimable at the pass start. -/
  | coppicePass
  /-- CKPT_INTERVAL_TIMER (R368): CKI expires and shares wait at their next kernel arrival to close the interval. -/
  | ckptIntervalTimer (h : BitVec 32)
  /-- CKPT_INTERVAL_CLOSE (R368): When every image is complete, the next interval opens and undo marks clear. -/
  | ckptIntervalClose (h : BitVec 32)
  /-- PATROL_SCRUB (R395): Patrol scrubbing reads rows and lines, correcting or poisoning them. -/
  | patrolScrub (a : BitVec 48) (k : BitVec 2)
  /-- ROW_MOVE_PAUSE (R392): A failed row is moved to its new home in a step pause, with ROWFAIL logged. -/
  | rowMovePause (a : BitVec 2) (u : BitVec 6) (r : BitVec 16)
  /-- CAPACITY_SHRINK (R392): Once the row is unclaimed, the move and prefix shrink happen in one pause. -/
  | capacityShrink (a : BitVec 2) (u : BitVec 6) (r : BitVec 16)
  /-- TILE_FAIL (R393): A failed tile's context stops and a spare takes its number or it retires. -/
  | tileFail (c : BitVec 4) (t : BitVec 2)
  /-- HBM_REPAIR (R394): A stack repairs a failing DRAM row and logs HBMREP. -/
  | hbmRepair (u : BitVec 3) (n : BitVec 32) (k : Bool)
  /-- TELEMETRY_UPDATE (R410): Every 1 ms telemetry updates and WARN is set at TWARN. -/
  | telemetryUpdate (d : BitVec 2) (e : BitVec 32) (w : BitVec 16) (k : BitVec 16) (a : BitVec 16) (b : BitVec 16)
  /-- HOST_WRITE (R274): A host write through BAR0 or BAR2 is performed in order as a group release. -/
  | hostWrite (b : BitVec 1) (a : BitVec 36) (q : List Byte)
  /-- HOST_READ (R274): A host read through BAR0 or BAR2 is performed as a group acquire. -/
  | hostRead (b : BitVec 1) (a : BitVec 36) (n : BitVec 13)
  /-- POWER_ON (R406): PWRGOOD rises with RESET# high and a package reset begins. -/
  | powerOn (h : Bool)
  /-- RESET (R406): RESET# rises and a package reset begins. -/
  | reset (h : Bool)
  /-- POWER_LOSS (R406): PWRGOOD or RESET# falls, ending every operation and losing state. -/
  | powerLoss
  /-- PERST (R406): PERST# resets only the host bridge. -/
  | perst
  /-- FUNCTION_READY (R408): A function passes self-test and sets its ready bit as a group release. -/
  | functionReady (m : BitVec 2) (b : BitVec 6)
  /-- FREEZE (R416): FREEZE# stops every package clock within 1 µs. -/
  | freeze
  /-- MCTP_CONTROL (R412): The endpoint answers an MCTP control message. -/
  | mctpControl (q : List Byte)
  /-- GET_VERSION (R413): Answers an SPDM GET_VERSION request. -/
  | getVersion
  /-- GET_CAPABILITIES (R413): Answers an SPDM GET_CAPABILITIES request. -/
  | getCapabilities
  /-- NEGOTIATE_ALGORITHMS (R413): Answers an SPDM NEGOTIATE_ALGORITHMS request. -/
  | negotiateAlgorithms
  /-- GET_DIGESTS (R413): Answers an SPDM GET_DIGESTS request. -/
  | getDigests
  /-- GET_CERTIFICATE (R413): Returns the certificate chain of slot 0. -/
  | getCertificate (o : BitVec 16) (n : BitVec 16)
  /-- CHALLENGE (R413): Answers an SPDM CHALLENGE with a signature. -/
  | challenge (n : BitVec 256)
  /-- GET_MEASUREMENTS (R413): Returns signed SHA-384 measurements. -/
  | getMeasurements (i : BitVec 8) (n : BitVec 256)
  /-- VENDOR_REGISTER_READ (R412): Performs a register read from a vendor message as a group acquire. -/
  | vendorRegisterRead (a : BitVec 48) (n : Bool)
  /-- VENDOR_REGISTER_WRITE (R412): Performs a register write from a vendor message as a group release. -/
  | vendorRegisterWrite (a : BitVec 48) (n : Bool) (v : BitVec 64)
  /-- VENDOR_STATUS_QUERY (R412): Answers the vendor status query. -/
  | vendorStatusQuery
  /-- VENDOR_FREEZE (R416): The vendor freeze command stops every package clock. -/
  | vendorFreeze
  /-- ILLEGAL_WORD (R18): The C stream fetches a word that is not an instruction of its stream and takes the ILLEGAL trap precisely at it. -/
  | illegalWord
  /-- DIE_FAILURE (R285): A die fails; the ready pool continues on its mirror, the die's send handles end and routes to its receive buffers change. -/
  | dieFailure (d : BitVec 2)
  /-- POOL_PARTITION_CHANGE_DONE (R251): A change of a die's pool partition completes after cache rows are written back, and stalled scratch accesses proceed. -/
  | poolPartitionChangeDone (d : BitVec 2)
  /-- OPERAND_BYTE_ARRIVAL (R198): A late M-stream operand byte arrives and the freeze it caused ends. -/
  | operandByteArrival (t : BitVec 6)
  /-- EXPOSED_ACCESS_ACCEPT (R237): A port accepts an exposed block's access that it could not take at issue, ending the freeze. -/
  | exposedAccessAccept (t : BitVec 6)
  /-- IDLE_FLIT (R325): An idle flit is received, carrying the peer's STOP mask that stops or releases lanes. -/
  | idleFlit (p : BitVec 4) (k : BitVec 8)
  /-- CONFIGURATION_REQUEST (R406): The host sends a PCIe configuration request to the bridge's function, which answers it. -/
  | configurationRequest (a : BitVec 12) (w : Bool) (v : BitVec 32)
  /-- SUPERVISOR_STORE (R208): A supervisor stores to or performs an atomic on memory through the local physical map. -/
  | supervisorStore (c : BitVec 4) (a : BitVec 48) (o : BitVec 4) (n : BitVec 2) (v : BitVec 64)
deriving DecidableEq, Repr

end Sys2Proof
end

