-- ==== Sys2Proof/WellFormed.lean ====
section
/-!
DEFINITION. Sys2Proof/WellFormed.lean: the limits that a field has beyond its width (R18):
register and selector values outside their stated limits make the word no instruction.
-/

namespace Sys2Proof

namespace WellFormed

/-- Width in bits of an element of format code t (R110, R142); 0 where the code has none. -/
def width (t : BitVec 4) : Nat :=
  match t.toNat with
  | 0 => 32 | 1 => 16 | 2 => 16 | 3 => 8 | 4 => 8 | 5 => 4 | 6 => 32 | 7 => 16 | 8 => 8
  | 9 => 32 | 10 => 16 | 11 => 8 | 13 => 8 | 14 => 4
  | _ => 0

/-- Class F of R142: F32, BF16, F16. -/
abbrev classF (t : BitVec 4) : Prop := t.toNat ≤ 2

/-- Class I of R142: the integer formats of 8, 16 and 32 bits. -/
abbrev classI (t : BitVec 4) : Prop := 6 ≤ t.toNat ∧ t.toNat ≤ 11

/-- Class A of R142: classes F and I. -/
abbrev classA (t : BitVec 4) : Prop := classF t ∨ classI t

/-- Class W of R142: every format with a width. -/
abbrev classW (t : BitVec 4) : Prop := t.toNat ≠ 12 ∧ t.toNat ≠ 15

/-- A vector field names a queue with the values 24 to 31 (R15). -/
def isQueue (a : BitVec 5) : Bool := decide (24 ≤ a.toNat)

/-- PK = 1 needs a source field that names a queue (R144). -/
abbrev peekOk (pk queue : Bool) : Prop := pk = true → queue = true

/-- md of the arithmetic forms: rounding mode 0 to 4 for class F, saturation 0 or 1 for class I (R150). -/
abbrev arithModeOk (t m : BitVec 4) : Prop :=
  (classF t ∧ m.toNat % 8 ≤ 4) ∨ (classI t ∧ m.toNat % 8 ≤ 1)

/-- The quantity ratio of the conversions (R157). -/
def ratio (x y : Nat) : Nat := max x y / min x y

/-- The target formats of vbs (R160). -/
abbrev scaleTarget (t : BitVec 4) : Prop :=
  t.toNat = 2 ∨ t.toNat = 3 ∨ t.toNat = 4 ∨ t.toNat = 5 ∨ t.toNat = 7 ∨ t.toNat = 8 ∨ t.toNat = 14

/-- The field kinds of blk.patch and vpatch, with the indices each admits (R25, R179). -/
abbrev patchIndexOk (k i : BitVec 4) : Prop :=
  (k = 0 ∧ i.toNat ≤ 5) ∨ (k = 4 ∧ i.toNat ≤ 11) ∨ (k.toNat ≤ 6 ∧ k ≠ 0 ∧ k ≠ 4 ∧ i = 0)

/-- The system registers of R108. -/
abbrev sysIndexOk (x : BitVec 12) : Prop :=
  x.toNat ≤ 5 ∨ (8 ≤ x.toNat ∧ x.toNat ≤ 10) ∨ (16 ≤ x.toNat ∧ x.toNat ≤ 19) ∨ x.toNat = 32 ∨
    (48 ≤ x.toNat ∧ x.toNat ≤ 54) ∨ x.toNat = 64 ∨ x.toNat = 65

end WellFormed

open WellFormed

/-- An instruction whose fields all lie within their stated limits (R18). Event rows carry
no field that a limit binds. -/
def Instr.wf (i : Instr) : Bool :=
  match i with
  | .add _ _ _ => true
  | .sub _ _ _ => true
  | .and _ _ _ => true
  | .or _ _ _ => true
  | .xor _ _ _ => true
  | .andn _ _ _ => true
  | .sll _ _ _ => true
  | .srl _ _ _ => true
  | .sra _ _ _ => true
  | .mul _ _ _ => true
  | .mulh _ _ _ => true
  | .mulhn _ _ _ => true
  | .div _ _ _ => true
  | .divn _ _ _ => true
  | .rem _ _ _ => true
  | .remn _ _ _ => true
  | .min _ _ _ => true
  | .max _ _ _ => true
  | .minn _ _ _ => true
  | .maxn _ _ _ => true
  | .clz _ _ => true
  | .ctz _ _ => true
  | .pop _ _ => true
  | .add32 _ _ _ => true
  | .sub32 _ _ _ => true
  | .rol _ _ _ => true
  | .ror _ _ _ => true
  | .addi _ _ _ => true
  | .andi _ _ _ => true
  | .ori _ _ _ => true
  | .xori _ _ _ => true
  | .slli _ _ _ => true
  | .srli _ _ _ => true
  | .srai _ _ _ => true
  | .rori _ _ _ => true
  | .li _ _ => true
  | .lik _ _ _ => true
  | .cmp _ _ _ f => decide (f.toNat ≤ 9)
  | .cmpi _ _ _ _ => true
  | .sel _ _ _ _ => true
  | .cand _ _ _ => true
  | .cor _ _ _ => true
  | .cxor _ _ _ => true
  | .candn _ _ _ => true
  | .cnot _ _ => true
  | .cset _ => true
  | .cclr _ => true
  | .btSet _ _ => true
  | .btReg _ _ => true
  | .br _ _ => true
  | .brN _ _ => true
  | .brA _ => true
  | .call _ _ => true
  | .ret _ => true
  | .ld _ _ s _ => decide (s.toNat ≤ 6)
  | .st _ _ _ _ => true
  | .ldo _ _ _ s _ p => decide (s.toNat ≤ 6 ∧ p.toNat ≤ 4)
  | .sto _ _ _ _ _ p => decide (p.toNat ≤ 4)
  | .amoAdd _ _ _ _ _ p => decide (p.toNat ≤ 4)
  | .amoAnd _ _ _ _ _ p => decide (p.toNat ≤ 4)
  | .amoOr _ _ _ _ _ p => decide (p.toNat ≤ 4)
  | .amoXor _ _ _ _ _ p => decide (p.toNat ≤ 4)
  | .amoMin _ _ _ _ _ p => decide (p.toNat ≤ 4)
  | .amoMax _ _ _ _ _ p => decide (p.toNat ≤ 4)
  | .amoMinn _ _ _ _ _ p => decide (p.toNat ≤ 4)
  | .amoMaxn _ _ _ _ _ p => decide (p.toNat ≤ 4)
  | .amoSwap _ _ _ _ _ p => decide (p.toNat ≤ 4)
  | .amoFadd32 _ _ _ _ p => decide (p.toNat ≤ 4)
  | .cas _ _ _ _ _ p => decide (p.toNat ≤ 4)
  | .fence _ p => decide (p.toNat ≤ 4)
  | .qmark => true
  | .semRaise _ _ _ => true
  | .semWait _ _ _ _ => true
  | .semTry _ _ _ _ => true
  | .semSet _ _ _ => true
  | .semRead _ _ => true
  | .semRing _ n _ => decide (n.toNat ≤ 62)
  | .barArrive _ _ => true
  | .barWait _ _ => true
  | .barTest _ _ _ => true
  | .lwArm _ _ => true
  | .lwGet _ _ _ => true
  | .lwTest _ _ _ => true
  | .lwWait _ _ => true
  | .blkGo _ _ => true
  | .blkStop _ => true
  | .blkStatus _ _ => true
  | .blkPatch _ _ k i => decide (patchIndexOk k i)
  | .fmtPush _ => true
  | .winSet _ _ => true
  | .winRel _ => true
  | .winRead _ _ _ => true
  | .fqPop _ => true
  | .txOpen _ => true
  | .txCommit _ _ => true
  | .txAbort _ => true
  | .txStamp _ _ => true
  | .txRelease _ => true
  | .ckptClose => true
  | .ckptMark _ => true
  | .sysRd _ x => decide (sysIndexOk x)
  | .sysWr _ x => decide (sysIndexOk x)
  | .trapEcall => true
  | .trapRaise _ => true
  | .trapEbreak => true
  | .uret => true
  | .waiteSem _ _ _ => true
  | .waiteVote _ _ => true
  | .waiteStream _ _ _ => true
  | .cpGo _ _ _ => true
  | .cpStatus _ _ => true
  | .rtOpen _ _ => true
  | .rtSend _ _ => true
  | .rtRoute _ _ => true
  | .rtStat _ _ => true
  | .rtClose _ _ => true
  | .segCnt _ _ => true
  | .segSig _ _ => true
  | .segLast _ _ => true
  | .nop => true
  | .pause k => decide (1 ≤ k.toNat)
  | .prefetch _ _ => true
  | .vadd _ a b _ t m => decide (arithModeOk t m ∧ peekOk (m.getLsbD 3) (isQueue a || isQueue b))
  | .vsub _ a b _ t m => decide (arithModeOk t m ∧ peekOk (m.getLsbD 3) (isQueue a || isQueue b))
  | .vmul _ a b _ t m => decide (arithModeOk t m ∧ peekOk (m.getLsbD 3) (isQueue a || isQueue b))
  | .vfma d a b _ t m => decide (arithModeOk t m ∧ peekOk (m.getLsbD 3) (isQueue a || isQueue b) ∧ d.toNat ≤ 23)
  | .vfms d a b _ t m => decide (arithModeOk t m ∧ peekOk (m.getLsbD 3) (isQueue a || isQueue b) ∧ d.toNat ≤ 23)
  | .vmin _ a b _ t k => decide (classA t ∧ peekOk (k == 1) (isQueue a || isQueue b))
  | .vmax _ a b _ t k => decide (classA t ∧ peekOk (k == 1) (isQueue a || isQueue b))
  | .vabs _ a _ t k s => decide (classA t ∧ (classF t → s = 0) ∧ peekOk (k == 1) (isQueue a))
  | .vneg _ a _ t k s => decide (classA t ∧ (classF t → s = 0) ∧ peekOk (k == 1) (isQueue a))
  | .vcmp _ a b _ t k c => decide (classA t ∧ c ≠ 7 ∧ (c = 6 → classF t) ∧ peekOk (k == 1) (isQueue a || isQueue b))
  | .vsel _ a b _ t k => decide (classW t ∧ peekOk (k == 1) (isQueue a || isQueue b))
  | .vand _ a b _ t k => decide (classW t ∧ peekOk (k == 1) (isQueue a || isQueue b))
  | .vor _ a b _ t k => decide (classW t ∧ peekOk (k == 1) (isQueue a || isQueue b))
  | .vxor _ a b _ t k => decide (classW t ∧ peekOk (k == 1) (isQueue a || isQueue b))
  | .vandn _ a b _ t k => decide (classW t ∧ peekOk (k == 1) (isQueue a || isQueue b))
  | .vnot _ a _ t k => decide (classW t ∧ peekOk (k == 1) (isQueue a))
  | .vsll _ a b _ t k i => decide (classI t ∧ peekOk (k == 1) (isQueue a || (i == 0 && isQueue b)))
  | .vsrl _ a b _ t k i => decide (classI t ∧ peekOk (k == 1) (isQueue a || (i == 0 && isQueue b)))
  | .vsra _ a b _ t k i => decide (classI t ∧ peekOk (k == 1) (isQueue a || (i == 0 && isQueue b)))
  | .vcvt _ _ s _ p t r => decide (classW t ∧ t ≠ 13 ∧ classW s ∧ s ≠ t ∧ r.toNat ≤ 4 ∧ p.toNat < ratio (width s) (width t))
  | .vq _ _ _ p t _ r => decide (classW t ∧ t ≠ 13 ∧ r.toNat ≤ 4 ∧ p.toNat < 32 / width t)
  | .vdq _ _ _ p t r => decide (classW t ∧ r.toNat ≤ 4 ∧ p.toNat < 32 / width t)
  | .vbs _ _ t k => decide (scaleTarget t ∧ (k = 1 ∨ k = 2))
  | .vbsCode _ _ _ t k => decide (scaleTarget t ∧ (k = 1 ∨ k = 2))
  | .vsfu _ a _ k f => decide (f.toNat ≤ 3 ∧ peekOk (k == 1) (isQueue a))
  | .vred _ a _ t k o => decide (classA t ∧ o.toNat ≤ 2 ∧ peekOk (k == 1) (isQueue a))
  | .vperm _ a b _ t k => decide (classW t ∧ 8 ≤ width t ∧ peekOk (k == 1) (isQueue a || isQueue b))
  | .vzip _ a b _ t k _ => decide (classW t ∧ peekOk (k == 1) (isQueue a || isQueue b))
  | .vunzip _ a b _ t k _ => decide (classW t ∧ peekOk (k == 1) (isQueue a || isQueue b))
  | .vtrH d a => decide (d.toNat ≤ 16 ∧ a.toNat ≤ 16)
  | .vtrW d a => decide (d.toNat ≤ 20 ∧ a.toNat ≤ 20)
  | .vbc _ _ k _ t j => decide (classW t ∧ k.toNat * 16 + j.toNat < 2048 / width t)
  | .vld _ _ _ _ => true
  | .vst _ _ _ _ => true
  | .vldm d _ k _ _ => decide (k.toNat ≤ 2 ∧ d.toNat + 2 ^ (k.toNat + 1) ≤ 24)
  | .vgx _ _ _ _ _ => true
  | .vsx _ _ _ _ _ => true
  | .vacr _ _ b _ _ => decide (b.toNat ≤ 2)
  | .vacw _ _ b _ _ => decide (b.toNat ≤ 2)
  | .vvoteAny _ _ t => decide (classW t)
  | .vvoteAll _ _ t => decide (classW t)
  | .vpatch _ i k => decide (patchIndexOk k i)
  | .vmov _ a _ t k => decide (classW t ∧ peekOk (k == 1) (isQueue a))
  | .vmovVp _ _ => true
  | .vmovPv _ a k => decide (peekOk (k == 1) (isQueue a))
  | .vnop _ => true
  | .vseed _ _ => true
  | .vpop _ _ _ t => decide (classW t)
  | .viota _ a _ t k => decide (classI t ∧ peekOk (k == 1) (isQueue a))
  | .mm k _ _ _ _ _ => decide (k.toNat ≤ 2)
  | .mmp k _ _ _ _ _ => decide (k.toNat ≤ 2)
  | .mmr k _ _ _ => decide (k.toNat ≤ 2)
  | .mmag k _ _ _ _ _ => decide (k.toNat ≤ 2)
  | .acz k => decide (k.toNat ≤ 2)
  | .acl k _ _ => decide (k.toNat ≤ 2)
  | .acs k _ _ => decide (k.toNat ≤ 2)
  | .acf k _ => decide (k.toNat ≤ 2)
  | .cpy _ _ => true
  | .cpyz _ _ => true
  | .gath _ _ _ => true
  | .scat _ _ _ => true
  | .qfill _ _ => true
  | .qdrain _ _ => true
  | .red _ _ o p => decide (o.toNat ≤ 2 ∧ p.toNat ≤ 4)
  | .bcst _ _ => true
  | .plane _ _ _ _ => true
  | .lwr _ _ => true
  | .ovNodeTake _ _ _ => true
  | .ovNodeDone _ _ _ => true
  | .ovTileLoad _ _ _ => true
  | .ovTileSave _ _ _ => true
  | .ovTileGo _ _ => true
  | .ovTileStop _ _ => true
  | .ovTileHalt _ _ _ => true
  | .ovTileStat _ _ => true
  | .ovOpPlan _ _ _ => true
  | .ovOpStep _ _ => true
  | .ovRowRd _ _ _ => true
  | .ovErrPop _ _ => true
  | .ovCkptRoll _ _ => true
  | .tapIdcode => true
  | .tapFrzstat => true
  | .tapScanout _ => true
  | .tapMemrd _ => true
  | .tapBypass => true
  | .cStallResolve _ => true
  | .pauseEnd _ => true
  | .waiteTimeout _ => true
  | .blockAwaitGrant _ _ => true
  | .ringAwaitGrant _ _ => true
  | .ringRaise _ _ => true
  | .exposedResultWrite _ => true
  | .loadDataLand _ => true
  | .qfillDataLand _ => true
  | .blockRetire _ _ => true
  | .kernelBoundary _ => true
  | .tileStopped _ => true
  | .contextDone _ => true
  | .debugBreakTaken _ => true
  | .tileLoadComplete _ => true
  | .tileSaveComplete _ => true
  | .ckptRollComplete _ => true
  | .opStepComplete _ => true
  | .copyStart _ _ => true
  | .landingWordArrival _ _ _ => true
  | .copyComplete _ _ => true
  | .rtHeaderForm _ _ => true
  | .routeHeader _ _ _ _ _ _ => true
  | .summarySend _ _ _ _ => true
  | .summary _ _ _ _ _ _ _ => true
  | .bounce _ _ _ _ _ => true
  | .routeResend _ _ _ => true
  | .reductionContribution _ _ _ _ _ _ _ _ => true
  | .epochAck _ _ _ _ _ => true
  | .reductionTimeout _ => true
  | .readRequest _ _ _ _ => true
  | .writeRequest _ _ _ _ => true
  | .atomicRequest _ _ _ _ _ _ _ => true
  | .readResponse _ _ _ _ => true
  | .writeResponse _ _ _ => true
  | .atomicResponse _ _ _ _ => true
  | .barrierArrival _ _ _ _ _ => true
  | .barrierPhase _ _ _ _ _ => true
  | .time _ _ _ _ => true
  | .management _ _ _ => true
  | .linkReplay _ => true
  | .portTraining _ _ _ _ _ => true
  | .laneRetire _ _ => true
  | .portFail _ => true
  | .syncSend => true
  | .packetAccept => true
  | .dispatchPass => true
  | .classPromotion _ => true
  | .sliceExpiry _ => true
  | .timedReady _ => true
  | .timedStart _ => true
  | .nodeComplete _ => true
  | .xictlGo _ => true
  | .shootdownTlbDone => true
  | .hdispRead => true
  | .hdoneWrite _ => true
  | .qtailWrite _ _ => true
  | .tbinitWrite _ => true
  | .rwcfgWrite _ _ => true
  | .keyLoad _ => true
  | .keyClear _ => true
  | .clrlost _ => true
  | .dbgreqBreak _ _ => true
  | .pttestRun _ _ => true
  | .pttestRet _ _ => true
  | .selfTestComplete _ _ _ => true
  | .registerWrite _ _ _ _ => true
  | .rebase => true
  | .versionStallTimeout _ _ => true
  | .coppicePass => true
  | .ckptIntervalTimer _ => true
  | .ckptIntervalClose _ => true
  | .patrolScrub _ _ => true
  | .rowMovePause _ _ _ => true
  | .capacityShrink _ _ _ => true
  | .tileFail _ _ => true
  | .hbmRepair _ _ _ => true
  | .telemetryUpdate _ _ _ _ _ _ => true
  | .hostWrite _ _ _ => true
  | .hostRead _ _ _ => true
  | .powerOn _ => true
  | .reset _ => true
  | .powerLoss => true
  | .perst => true
  | .functionReady _ _ => true
  | .freeze => true
  | .mctpControl _ => true
  | .getVersion => true
  | .getCapabilities => true
  | .negotiateAlgorithms => true
  | .getDigests => true
  | .getCertificate _ _ => true
  | .challenge _ => true
  | .getMeasurements _ _ => true
  | .vendorRegisterRead _ _ => true
  | .vendorRegisterWrite _ _ _ => true
  | .vendorStatusQuery => true
  | .vendorFreeze => true
  | .illegalWord => true
  | .dieFailure _ => true
  | .poolPartitionChangeDone _ => true
  | .operandByteArrival _ => true
  | .exposedAccessAccept _ => true
  | .idleFlit _ _ => true
  | .configurationRequest _ _ _ => true
  | .supervisorStore _ _ _ _ _ => true

end Sys2Proof
end

