-- ==== Sys2Proof/Decode.lean ====
section
/-!
DEFINITION. Sys2Proof/Decode.lean: from 32-bit words to instructions, one decoder for each
stream (R17, R18), the encoder written from the same layouts, and the reading of a word as
spec/opcode_table.json numbers its bits. A word that is no instruction of its stream is
rejected by name.
-/

namespace Sys2Proof

namespace Decode

/-- Why a word is no instruction of its stream (R18). -/
inductive Reject where
  /-- No row of the stream has the fixed bits of the word. -/
  | unassigned
  /-- The row is assigned, and a field lies outside its stated limits. -/
  | fieldLimit
deriving DecidableEq, Repr

/-- The number in bits [lo + len - 1 : lo] of a word. -/
def fld (w : W32) (lo len : Nat) : Nat := w.toNat / 2 ^ lo % 2 ^ len

/-- The same bits as a bit vector. -/
def fb (w : W32) (lo len : Nat) : BitVec len := BitVec.ofNat len (fld w lo len)

/-- The instruction of a control-stream word (R23 to R25), before the field limits. -/
def rawC (w : W32) : Option Instr :=
  match fld w 26 6 with
  | 0 =>
      if fld w 0 11 = 0 then some (.add (fb w 21 5) (fb w 16 5) (fb w 11 5))
      else if fld w 0 11 = 32 then some (.sub (fb w 21 5) (fb w 16 5) (fb w 11 5))
      else if fld w 0 11 = 64 then some (.and (fb w 21 5) (fb w 16 5) (fb w 11 5))
      else if fld w 0 11 = 96 then some (.or (fb w 21 5) (fb w 16 5) (fb w 11 5))
      else if fld w 0 11 = 128 then some (.xor (fb w 21 5) (fb w 16 5) (fb w 11 5))
      else if fld w 0 11 = 160 then some (.andn (fb w 21 5) (fb w 16 5) (fb w 11 5))
      else if fld w 0 11 = 192 then some (.sll (fb w 21 5) (fb w 16 5) (fb w 11 5))
      else if fld w 0 11 = 224 then some (.srl (fb w 21 5) (fb w 16 5) (fb w 11 5))
      else if fld w 0 11 = 256 then some (.sra (fb w 21 5) (fb w 16 5) (fb w 11 5))
      else if fld w 0 11 = 288 then some (.mul (fb w 21 5) (fb w 16 5) (fb w 11 5))
      else if fld w 0 11 = 320 then some (.mulh (fb w 21 5) (fb w 16 5) (fb w 11 5))
      else if fld w 0 11 = 352 then some (.mulhn (fb w 21 5) (fb w 16 5) (fb w 11 5))
      else if fld w 0 11 = 384 then some (.div (fb w 21 5) (fb w 16 5) (fb w 11 5))
      else if fld w 0 11 = 416 then some (.divn (fb w 21 5) (fb w 16 5) (fb w 11 5))
      else if fld w 0 11 = 448 then some (.rem (fb w 21 5) (fb w 16 5) (fb w 11 5))
      else if fld w 0 11 = 480 then some (.remn (fb w 21 5) (fb w 16 5) (fb w 11 5))
      else if fld w 0 11 = 512 then some (.min (fb w 21 5) (fb w 16 5) (fb w 11 5))
      else if fld w 0 11 = 544 then some (.max (fb w 21 5) (fb w 16 5) (fb w 11 5))
      else if fld w 0 11 = 576 then some (.minn (fb w 21 5) (fb w 16 5) (fb w 11 5))
      else if fld w 0 11 = 608 then some (.maxn (fb w 21 5) (fb w 16 5) (fb w 11 5))
      else if fld w 0 16 = 640 then some (.clz (fb w 21 5) (fb w 16 5))
      else if fld w 0 16 = 672 then some (.ctz (fb w 21 5) (fb w 16 5))
      else if fld w 0 16 = 704 then some (.pop (fb w 21 5) (fb w 16 5))
      else if fld w 0 11 = 736 then some (.add32 (fb w 21 5) (fb w 16 5) (fb w 11 5))
      else if fld w 0 11 = 768 then some (.sub32 (fb w 21 5) (fb w 16 5) (fb w 11 5))
      else if fld w 0 11 = 800 then some (.rol (fb w 21 5) (fb w 16 5) (fb w 11 5))
      else if fld w 0 11 = 832 then some (.ror (fb w 21 5) (fb w 16 5) (fb w 11 5))
      else none
  | 1 =>
      some (.addi (fb w 21 5) (fb w 16 5) (fb w 0 16))
  | 2 =>
      some (.andi (fb w 21 5) (fb w 16 5) (fb w 0 16))
  | 3 =>
      some (.ori (fb w 21 5) (fb w 16 5) (fb w 0 16))
  | 4 =>
      some (.xori (fb w 21 5) (fb w 16 5) (fb w 0 16))
  | 5 =>
      if fld w 6 10 = 0 then some (.slli (fb w 21 5) (fb w 16 5) (fb w 0 6))
      else if fld w 6 10 = 1 then some (.srli (fb w 21 5) (fb w 16 5) (fb w 0 6))
      else if fld w 6 10 = 2 then some (.srai (fb w 21 5) (fb w 16 5) (fb w 0 6))
      else if fld w 6 10 = 3 then some (.rori (fb w 21 5) (fb w 16 5) (fb w 0 6))
      else none
  | 6 =>
      some (.li (fb w 21 5) (fb w 0 21))
  | 7 =>
      if fld w 18 3 = 0 then some (.lik (fb w 21 5) (fb w 16 2) (fb w 0 16))
      else none
  | 8 =>
      if fld w 0 5 = 0 ∧ fld w 24 2 = 0 then some (.cmp (fb w 21 3) (fb w 16 5) (fb w 11 5) (fb w 5 6))
      else none
  | 9 =>
      some (.cmpi (fb w 24 2) (fb w 21 3) (fb w 16 5) (fb w 0 16))
  | 10 =>
      if fld w 3 8 = 0 then some (.sel (fb w 21 5) (fb w 16 5) (fb w 11 5) (fb w 0 3))
      else none
  | 11 =>
      if fld w 0 11 = 0 ∧ fld w 14 2 = 0 ∧ fld w 19 2 = 0 ∧ fld w 24 2 = 0 then some (.cand (fb w 21 3) (fb w 16 3) (fb w 11 3))
      else if fld w 0 11 = 32 ∧ fld w 14 2 = 0 ∧ fld w 19 2 = 0 ∧ fld w 24 2 = 0 then some (.cor (fb w 21 3) (fb w 16 3) (fb w 11 3))
      else if fld w 0 11 = 64 ∧ fld w 14 2 = 0 ∧ fld w 19 2 = 0 ∧ fld w 24 2 = 0 then some (.cxor (fb w 21 3) (fb w 16 3) (fb w 11 3))
      else if fld w 0 11 = 96 ∧ fld w 14 2 = 0 ∧ fld w 19 2 = 0 ∧ fld w 24 2 = 0 then some (.candn (fb w 21 3) (fb w 16 3) (fb w 11 3))
      else if fld w 0 16 = 128 ∧ fld w 19 2 = 0 ∧ fld w 24 2 = 0 then some (.cnot (fb w 21 3) (fb w 16 3))
      else if fld w 0 21 = 160 ∧ fld w 24 2 = 0 then some (.cset (fb w 21 3))
      else if fld w 0 21 = 192 ∧ fld w 24 2 = 0 then some (.cclr (fb w 21 3))
      else none
  | 12 =>
      if fld w 23 3 = 0 then some (.btSet (fb w 21 2) (fb w 0 21))
      else none
  | 13 =>
      if fld w 0 16 = 0 ∧ fld w 23 3 = 0 then some (.btReg (fb w 21 2) (fb w 16 5))
      else none
  | 14 =>
      if fld w 0 21 = 0 then some (.br (fb w 24 2) (fb w 21 3))
      else if fld w 0 21 = 1048576 then some (.brN (fb w 24 2) (fb w 21 3))
      else if fld w 0 24 = 524288 then some (.brA (fb w 24 2))
      else none
  | 15 =>
      if fld w 0 19 = 0 then some (.call (fb w 21 5) (fb w 19 2))
      else none
  | 16 =>
      if fld w 0 16 = 0 ∧ fld w 21 5 = 0 then some (.ret (fb w 16 5))
      else none
  | 17 =>
      if fld w 11 2 = 0 then some (.ld (fb w 21 5) (fb w 16 5) (fb w 13 3) (fb w 0 11))
      else none
  | 18 =>
      if fld w 11 2 = 0 ∧ fld w 15 1 = 0 then some (.st (fb w 21 5) (fb w 16 5) (fb w 13 2) (fb w 0 11))
      else none
  | 19 =>
      if fld w 4 1 = 0 ∧ fld w 8 3 = 0 then some (.ldo (fb w 21 5) (fb w 16 5) (fb w 11 5) (fb w 5 3) (fb w 3 1) (fb w 0 3))
      else none
  | 20 =>
      if fld w 3 1 = 0 ∧ fld w 7 4 = 0 then some (.sto (fb w 21 5) (fb w 16 5) (fb w 11 5) (fb w 5 2) (fb w 4 1) (fb w 0 3))
      else none
  | 21 =>
      if fld w 5 5 = 0 then some (.amoAdd (fb w 21 5) (fb w 16 5) (fb w 11 5) (fb w 10 1) (fb w 3 2) (fb w 0 3))
      else if fld w 5 5 = 1 then some (.amoAnd (fb w 21 5) (fb w 16 5) (fb w 11 5) (fb w 10 1) (fb w 3 2) (fb w 0 3))
      else if fld w 5 5 = 2 then some (.amoOr (fb w 21 5) (fb w 16 5) (fb w 11 5) (fb w 10 1) (fb w 3 2) (fb w 0 3))
      else if fld w 5 5 = 3 then some (.amoXor (fb w 21 5) (fb w 16 5) (fb w 11 5) (fb w 10 1) (fb w 3 2) (fb w 0 3))
      else if fld w 5 5 = 4 then some (.amoMin (fb w 21 5) (fb w 16 5) (fb w 11 5) (fb w 10 1) (fb w 3 2) (fb w 0 3))
      else if fld w 5 5 = 5 then some (.amoMax (fb w 21 5) (fb w 16 5) (fb w 11 5) (fb w 10 1) (fb w 3 2) (fb w 0 3))
      else if fld w 5 5 = 6 then some (.amoMinn (fb w 21 5) (fb w 16 5) (fb w 11 5) (fb w 10 1) (fb w 3 2) (fb w 0 3))
      else if fld w 5 5 = 7 then some (.amoMaxn (fb w 21 5) (fb w 16 5) (fb w 11 5) (fb w 10 1) (fb w 3 2) (fb w 0 3))
      else if fld w 5 5 = 8 then some (.amoSwap (fb w 21 5) (fb w 16 5) (fb w 11 5) (fb w 10 1) (fb w 3 2) (fb w 0 3))
      else if fld w 5 6 = 9 then some (.amoFadd32 (fb w 21 5) (fb w 16 5) (fb w 11 5) (fb w 3 2) (fb w 0 3))
      else none
  | 22 =>
      if fld w 5 5 = 0 then some (.cas (fb w 21 5) (fb w 16 5) (fb w 11 5) (fb w 10 1) (fb w 3 2) (fb w 0 3))
      else none
  | 23 =>
      if fld w 3 2 = 0 ∧ fld w 7 19 = 0 then some (.fence (fb w 5 2) (fb w 0 3))
      else none
  | 24 =>
      if fld w 0 26 = 0 then some (.qmark)
      else none
  | 25 =>
      if fld w 12 4 = 0 ∧ fld w 21 5 = 0 then some (.semRaise (fb w 16 5) (fb w 6 6) (fb w 0 6))
      else if fld w 12 4 = 1 ∧ fld w 24 2 = 0 then some (.semWait (fb w 21 3) (fb w 16 5) (fb w 6 6) (fb w 0 6))
      else if fld w 12 4 = 2 ∧ fld w 24 2 = 0 then some (.semTry (fb w 21 3) (fb w 16 5) (fb w 6 6) (fb w 0 6))
      else if fld w 12 4 = 3 ∧ fld w 21 5 = 0 then some (.semSet (fb w 16 5) (fb w 6 6) (fb w 0 6))
      else if fld w 0 6 = 0 ∧ fld w 12 9 = 4 then some (.semRead (fb w 21 5) (fb w 6 6))
      else if fld w 12 4 = 5 ∧ fld w 21 5 = 0 then some (.semRing (fb w 16 5) (fb w 6 6) (fb w 0 6))
      else none
  | 26 =>
      if fld w 4 17 = 0 then some (.barArrive (fb w 21 5) (fb w 0 4))
      else if fld w 4 12 = 256 ∧ fld w 21 5 = 0 then some (.barWait (fb w 16 5) (fb w 0 4))
      else if fld w 4 12 = 512 ∧ fld w 24 2 = 0 then some (.barTest (fb w 21 3) (fb w 16 5) (fb w 0 4))
      else none
  | 27 =>
      if fld w 0 11 = 0 ∧ fld w 21 5 = 0 then some (.lwArm (fb w 16 5) (fb w 11 5))
      else if fld w 0 11 = 32 then some (.lwGet (fb w 21 5) (fb w 16 5) (fb w 11 5))
      else if fld w 0 11 = 64 ∧ fld w 24 2 = 0 then some (.lwTest (fb w 21 3) (fb w 16 5) (fb w 11 5))
      else if fld w 0 11 = 96 ∧ fld w 21 5 = 0 then some (.lwWait (fb w 16 5) (fb w 11 5))
      else none
  | 28 =>
      if fld w 2 14 = 0 ∧ fld w 21 5 = 0 then some (.blkGo (fb w 16 5) (fb w 0 2))
      else if fld w 2 24 = 1024 then some (.blkStop (fb w 0 2))
      else if fld w 2 19 = 2048 then some (.blkStatus (fb w 21 5) (fb w 0 2))
      else if fld w 4 4 = 0 ∧ fld w 12 4 = 3 then some (.blkPatch (fb w 21 5) (fb w 16 5) (fb w 8 4) (fb w 0 4))
      else none
  | 29 =>
      if fld w 0 16 = 0 ∧ fld w 21 5 = 0 then some (.fmtPush (fb w 16 5))
      else none
  | 30 =>
      if fld w 5 11 = 0 ∧ fld w 21 5 = 0 then some (.winSet (fb w 16 5) (fb w 0 5))
      else if fld w 5 21 = 128 then some (.winRel (fb w 0 5))
      else if fld w 8 13 = 32 then some (.winRead (fb w 21 5) (fb w 5 3) (fb w 0 5))
      else none
  | 31 =>
      if fld w 0 21 = 0 ∧ fld w 24 2 = 0 then some (.fqPop (fb w 21 3))
      else none
  | 32 =>
      if fld w 0 21 = 0 then some (.txOpen (fb w 21 5))
      else if fld w 0 16 = 4096 then some (.txCommit (fb w 21 5) (fb w 16 5))
      else if fld w 0 16 = 8192 ∧ fld w 21 5 = 0 then some (.txAbort (fb w 16 5))
      else if fld w 0 16 = 12288 then some (.txStamp (fb w 21 5) (fb w 16 5))
      else if fld w 0 16 = 16384 ∧ fld w 21 5 = 0 then some (.txRelease (fb w 16 5))
      else none
  | 33 =>
      if fld w 0 26 = 0 then some (.ckptClose)
      else if fld w 0 21 = 4096 then some (.ckptMark (fb w 21 5))
      else none
  | 34 =>
      if fld w 12 9 = 0 then some (.sysRd (fb w 21 5) (fb w 0 12))
      else if fld w 12 4 = 1 ∧ fld w 21 5 = 0 then some (.sysWr (fb w 16 5) (fb w 0 12))
      else none
  | 35 =>
      if fld w 0 26 = 0 then some (.trapEcall)
      else if fld w 7 19 = 33 then some (.trapRaise (fb w 0 7))
      else if fld w 0 26 = 8192 then some (.trapEbreak)
      else none
  | 36 =>
      if fld w 0 26 = 0 then some (.uret)
      else none
  | 37 =>
      if fld w 6 10 = 0 ∧ fld w 24 2 = 0 then some (.waiteSem (fb w 21 3) (fb w 16 5) (fb w 0 6))
      else if fld w 0 16 = 256 ∧ fld w 24 2 = 0 then some (.waiteVote (fb w 21 3) (fb w 16 5))
      else if fld w 2 14 = 128 ∧ fld w 24 2 = 0 then some (.waiteStream (fb w 21 3) (fb w 16 5) (fb w 0 2))
      else none
  | 38 =>
      if fld w 1 15 = 0 then some (.cpGo (fb w 21 5) (fb w 16 5) (fb w 0 1))
      else if fld w 1 20 = 2048 then some (.cpStatus (fb w 21 5) (fb w 0 1))
      else none
  | 39 =>
      if fld w 0 16 = 0 then some (.rtOpen (fb w 21 5) (fb w 16 5))
      else if fld w 0 16 = 4096 then some (.rtSend (fb w 21 5) (fb w 16 5))
      else if fld w 0 16 = 8192 then some (.rtRoute (fb w 21 5) (fb w 16 5))
      else if fld w 0 16 = 12288 then some (.rtStat (fb w 21 5) (fb w 16 5))
      else if fld w 0 16 = 16384 then some (.rtClose (fb w 21 5) (fb w 16 5))
      else none
  | 40 =>
      if fld w 2 19 = 0 then some (.segCnt (fb w 21 5) (fb w 0 2))
      else if fld w 2 19 = 1024 then some (.segSig (fb w 21 5) (fb w 0 2))
      else if fld w 2 19 = 2048 then some (.segLast (fb w 21 5) (fb w 0 2))
      else none
  | 41 =>
      if fld w 0 26 = 0 then some (.nop)
      else if fld w 12 14 = 1 then some (.pause (fb w 0 12))
      else if fld w 4 12 = 512 ∧ fld w 21 5 = 0 then some (.prefetch (fb w 16 5) (fb w 0 4))
      else none
  | _ => none

/-- The instruction of a vector-stream word (R26 to R28), before the field limits. -/
def rawV (w : W32) : Option Instr :=
  match fld w 26 6 with
  | 0 =>
      some (.vadd (fb w 21 5) (fb w 16 5) (fb w 11 5) (fb w 8 3) (fb w 4 4) (fb w 0 4))
  | 1 =>
      some (.vsub (fb w 21 5) (fb w 16 5) (fb w 11 5) (fb w 8 3) (fb w 4 4) (fb w 0 4))
  | 2 =>
      some (.vmul (fb w 21 5) (fb w 16 5) (fb w 11 5) (fb w 8 3) (fb w 4 4) (fb w 0 4))
  | 3 =>
      some (.vfma (fb w 21 5) (fb w 16 5) (fb w 11 5) (fb w 8 3) (fb w 4 4) (fb w 0 4))
  | 4 =>
      some (.vfms (fb w 21 5) (fb w 16 5) (fb w 11 5) (fb w 8 3) (fb w 4 4) (fb w 0 4))
  | 5 =>
      if fld w 0 3 = 0 then some (.vmin (fb w 21 5) (fb w 16 5) (fb w 11 5) (fb w 8 3) (fb w 4 4) (fb w 3 1))
      else none
  | 6 =>
      if fld w 0 3 = 0 then some (.vmax (fb w 21 5) (fb w 16 5) (fb w 11 5) (fb w 8 3) (fb w 4 4) (fb w 3 1))
      else none
  | 7 =>
      if fld w 0 1 = 0 ∧ fld w 2 1 = 0 ∧ fld w 11 5 = 0 then some (.vabs (fb w 21 5) (fb w 16 5) (fb w 8 3) (fb w 4 4) (fb w 3 1) (fb w 1 1))
      else if fld w 0 1 = 1 ∧ fld w 2 1 = 0 ∧ fld w 11 5 = 0 then some (.vneg (fb w 21 5) (fb w 16 5) (fb w 8 3) (fb w 4 4) (fb w 3 1) (fb w 1 1))
      else none
  | 8 =>
      if fld w 24 2 = 0 then some (.vcmp (fb w 21 3) (fb w 16 5) (fb w 11 5) (fb w 8 3) (fb w 4 4) (fb w 3 1) (fb w 0 3))
      else none
  | 9 =>
      if fld w 0 3 = 0 then some (.vsel (fb w 21 5) (fb w 16 5) (fb w 11 5) (fb w 8 3) (fb w 4 4) (fb w 3 1))
      else none
  | 10 =>
      if fld w 0 3 = 0 then some (.vand (fb w 21 5) (fb w 16 5) (fb w 11 5) (fb w 8 3) (fb w 4 4) (fb w 3 1))
      else if fld w 0 3 = 1 then some (.vor (fb w 21 5) (fb w 16 5) (fb w 11 5) (fb w 8 3) (fb w 4 4) (fb w 3 1))
      else if fld w 0 3 = 2 then some (.vxor (fb w 21 5) (fb w 16 5) (fb w 11 5) (fb w 8 3) (fb w 4 4) (fb w 3 1))
      else if fld w 0 3 = 3 then some (.vandn (fb w 21 5) (fb w 16 5) (fb w 11 5) (fb w 8 3) (fb w 4 4) (fb w 3 1))
      else if fld w 0 3 = 4 ∧ fld w 11 5 = 0 then some (.vnot (fb w 21 5) (fb w 16 5) (fb w 8 3) (fb w 4 4) (fb w 3 1))
      else none
  | 11 =>
      if fld w 0 2 = 0 then some (.vsll (fb w 21 5) (fb w 16 5) (fb w 11 5) (fb w 8 3) (fb w 4 4) (fb w 3 1) (fb w 2 1))
      else if fld w 0 2 = 1 then some (.vsrl (fb w 21 5) (fb w 16 5) (fb w 11 5) (fb w 8 3) (fb w 4 4) (fb w 3 1) (fb w 2 1))
      else if fld w 0 2 = 2 then some (.vsra (fb w 21 5) (fb w 16 5) (fb w 11 5) (fb w 8 3) (fb w 4 4) (fb w 3 1) (fb w 2 1))
      else none
  | 12 =>
      if fld w 3 1 = 0 then some (.vcvt (fb w 21 5) (fb w 16 5) (fb w 12 4) (fb w 11 1) (fb w 8 3) (fb w 4 4) (fb w 0 3))
      else none
  | 13 =>
      some (.vq (fb w 21 5) (fb w 16 5) (fb w 11 5) (fb w 8 3) (fb w 4 4) (fb w 3 1) (fb w 0 3))
  | 14 =>
      if fld w 3 1 = 0 then some (.vdq (fb w 21 5) (fb w 16 5) (fb w 11 5) (fb w 8 3) (fb w 4 4) (fb w 0 3))
      else none
  | 15 =>
      if fld w 2 2 = 0 ∧ fld w 8 8 = 0 then some (.vbs (fb w 21 5) (fb w 16 5) (fb w 4 4) (fb w 0 2))
      else if fld w 2 2 = 1 ∧ fld w 11 5 = 0 then some (.vbsCode (fb w 21 5) (fb w 16 5) (fb w 8 3) (fb w 4 4) (fb w 0 2))
      else none
  | 16 =>
      if fld w 4 4 = 0 ∧ fld w 11 5 = 0 then some (.vsfu (fb w 21 5) (fb w 16 5) (fb w 8 3) (fb w 3 1) (fb w 0 3))
      else none
  | 17 =>
      if fld w 2 1 = 0 ∧ fld w 11 5 = 0 then some (.vred (fb w 21 5) (fb w 16 5) (fb w 8 3) (fb w 4 4) (fb w 3 1) (fb w 0 2))
      else none
  | 18 =>
      if fld w 0 3 = 0 then some (.vperm (fb w 21 5) (fb w 16 5) (fb w 11 5) (fb w 8 3) (fb w 4 4) (fb w 3 1))
      else none
  | 19 =>
      if fld w 0 1 = 0 ∧ fld w 2 1 = 0 then some (.vzip (fb w 21 5) (fb w 16 5) (fb w 11 5) (fb w 8 3) (fb w 4 4) (fb w 3 1) (fb w 1 1))
      else if fld w 0 1 = 1 ∧ fld w 2 1 = 0 then some (.vunzip (fb w 21 5) (fb w 16 5) (fb w 11 5) (fb w 8 3) (fb w 4 4) (fb w 3 1) (fb w 1 1))
      else none
  | 20 =>
      if fld w 0 16 = 0 then some (.vtrH (fb w 21 5) (fb w 16 5))
      else if fld w 0 16 = 1 then some (.vtrW (fb w 21 5) (fb w 16 5))
      else none
  | 21 =>
      some (.vbc (fb w 21 5) (fb w 16 5) (fb w 11 5) (fb w 8 3) (fb w 4 4) (fb w 0 4))
  | 22 =>
      some (.vld (fb w 21 5) (fb w 16 5) (fb w 8 8) (fb w 0 8))
  | 23 =>
      some (.vst (fb w 21 5) (fb w 16 5) (fb w 8 8) (fb w 0 8))
  | 24 =>
      some (.vldm (fb w 21 5) (fb w 16 5) (fb w 14 2) (fb w 8 6) (fb w 0 8))
  | 25 =>
      some (.vgx (fb w 21 5) (fb w 16 5) (fb w 11 5) (fb w 8 3) (fb w 0 8))
  | 26 =>
      some (.vsx (fb w 21 5) (fb w 16 5) (fb w 11 5) (fb w 8 3) (fb w 0 8))
  | 27 =>
      some (.vacr (fb w 21 5) (fb w 18 3) (fb w 16 2) (fb w 8 8) (fb w 0 8))
  | 28 =>
      some (.vacw (fb w 21 5) (fb w 18 3) (fb w 16 2) (fb w 8 8) (fb w 0 8))
  | 29 =>
      if fld w 0 4 = 0 ∧ fld w 11 5 = 0 ∧ fld w 19 7 = 0 then some (.vvoteAny (fb w 16 3) (fb w 8 3) (fb w 4 4))
      else if fld w 0 4 = 1 ∧ fld w 11 5 = 0 ∧ fld w 19 7 = 0 then some (.vvoteAll (fb w 16 3) (fb w 8 3) (fb w 4 4))
      else none
  | 30 =>
      if fld w 4 8 = 0 ∧ fld w 21 5 = 0 then some (.vpatch (fb w 16 5) (fb w 12 4) (fb w 0 4))
      else none
  | 31 =>
      if fld w 0 3 = 0 ∧ fld w 11 5 = 0 then some (.vmov (fb w 21 5) (fb w 16 5) (fb w 8 3) (fb w 4 4) (fb w 3 1))
      else if fld w 0 16 = 1 ∧ fld w 19 2 = 0 then some (.vmovVp (fb w 21 5) (fb w 16 3))
      else if fld w 0 3 = 2 ∧ fld w 4 12 = 0 ∧ fld w 24 2 = 0 then some (.vmovPv (fb w 21 3) (fb w 16 5) (fb w 3 1))
      else if fld w 0 11 = 3 ∧ fld w 16 10 = 0 then some (.vnop (fb w 11 5))
      else none
  | 32 =>
      if fld w 0 8 = 144 ∧ fld w 11 5 = 0 ∧ fld w 21 5 = 0 then some (.vseed (fb w 16 5) (fb w 8 3))
      else none
  | 33 =>
      if fld w 0 4 = 0 ∧ fld w 11 5 = 0 ∧ fld w 19 2 = 0 then some (.vpop (fb w 21 5) (fb w 16 3) (fb w 8 3) (fb w 4 4))
      else none
  | 34 =>
      if fld w 0 3 = 0 ∧ fld w 11 5 = 0 then some (.viota (fb w 21 5) (fb w 16 5) (fb w 8 3) (fb w 4 4) (fb w 3 1))
      else none
  | _ => none

/-- The instruction of a matrix-stream word (R29), before the field limits. -/
def rawM (w : W32) : Option Instr :=
  match fld w 26 6 with
  | 0 =>
      some (.mm (fb w 24 2) (fb w 19 5) (fb w 14 5) (fb w 9 5) (fb w 4 5) (fb w 0 4))
  | 1 =>
      some (.mmp (fb w 24 2) (fb w 19 5) (fb w 14 5) (fb w 9 5) (fb w 4 5) (fb w 0 4))
  | 2 =>
      if fld w 4 10 = 0 then some (.mmr (fb w 24 2) (fb w 19 5) (fb w 14 5) (fb w 0 4))
      else none
  | 3 =>
      some (.mmag (fb w 24 2) (fb w 19 5) (fb w 14 5) (fb w 9 5) (fb w 4 5) (fb w 0 4))
  | 4 =>
      if fld w 0 24 = 0 then some (.acz (fb w 24 2))
      else none
  | 5 =>
      if fld w 4 15 = 0 then some (.acl (fb w 24 2) (fb w 19 5) (fb w 0 4))
      else none
  | 6 =>
      if fld w 4 15 = 0 then some (.acs (fb w 24 2) (fb w 19 5) (fb w 0 4))
      else none
  | 7 =>
      if fld w 0 19 = 0 then some (.acf (fb w 24 2) (fb w 19 5))
      else none
  | _ => none

/-- The instruction of a load-stream word (R30), before the field limits. -/
def rawL (w : W32) : Option Instr :=
  match fld w 26 6 with
  | 0 =>
      if fld w 0 16 = 0 then some (.cpy (fb w 21 5) (fb w 16 5))
      else none
  | 1 =>
      if fld w 0 16 = 0 then some (.cpyz (fb w 21 5) (fb w 16 5))
      else none
  | 2 =>
      if fld w 0 11 = 0 then some (.gath (fb w 21 5) (fb w 16 5) (fb w 11 5))
      else none
  | 3 =>
      if fld w 0 11 = 0 then some (.scat (fb w 21 5) (fb w 16 5) (fb w 11 5))
      else none
  | 4 =>
      if fld w 0 16 = 0 ∧ fld w 24 2 = 0 then some (.qfill (fb w 21 3) (fb w 16 5))
      else none
  | 8 =>
      if fld w 4 12 = 0 then some (.plane (fb w 21 5) (fb w 16 5) (fb w 3 1) (fb w 0 3))
      else none
  | _ => none

/-- The instruction of a store-stream word (R30), before the field limits. -/
def rawS (w : W32) : Option Instr :=
  match fld w 26 6 with
  | 0 =>
      if fld w 0 16 = 0 then some (.cpy (fb w 21 5) (fb w 16 5))
      else none
  | 1 =>
      if fld w 0 16 = 0 then some (.cpyz (fb w 21 5) (fb w 16 5))
      else none
  | 2 =>
      if fld w 0 11 = 0 then some (.gath (fb w 21 5) (fb w 16 5) (fb w 11 5))
      else none
  | 3 =>
      if fld w 0 11 = 0 then some (.scat (fb w 21 5) (fb w 16 5) (fb w 11 5))
      else none
  | 5 =>
      if fld w 0 16 = 0 ∧ fld w 19 2 = 0 then some (.qdrain (fb w 21 5) (fb w 16 3))
      else none
  | 6 =>
      if fld w 5 11 = 0 then some (.red (fb w 21 5) (fb w 16 5) (fb w 3 2) (fb w 0 3))
      else none
  | 7 =>
      if fld w 0 16 = 0 then some (.bcst (fb w 21 5) (fb w 16 5))
      else none
  | 9 =>
      if fld w 0 16 = 0 then some (.lwr (fb w 21 5) (fb w 16 5))
      else none
  | _ => none

/-- The instruction of a word of the supervisor extension (R31), before the field limits. -/
def rawOv (w : W32) : Option Instr :=
  match fld w 0 7 with
  | 11 =>
      if fld w 12 3 = 0 ∧ fld w 25 7 = 0 then some (.ovNodeTake (fb w 20 5) (fb w 15 5) (fb w 7 5))
      else if fld w 12 3 = 0 ∧ fld w 25 7 = 1 then some (.ovNodeDone (fb w 20 5) (fb w 15 5) (fb w 7 5))
      else if fld w 12 3 = 0 ∧ fld w 25 7 = 2 then some (.ovTileLoad (fb w 20 5) (fb w 15 5) (fb w 7 5))
      else if fld w 12 3 = 0 ∧ fld w 25 7 = 3 then some (.ovTileSave (fb w 20 5) (fb w 15 5) (fb w 7 5))
      else if fld w 12 3 = 0 ∧ fld w 20 12 = 128 then some (.ovTileGo (fb w 15 5) (fb w 7 5))
      else if fld w 12 3 = 0 ∧ fld w 20 12 = 160 then some (.ovTileStop (fb w 15 5) (fb w 7 5))
      else if fld w 12 3 = 0 ∧ fld w 25 7 = 6 then some (.ovTileHalt (fb w 20 5) (fb w 15 5) (fb w 7 5))
      else if fld w 12 3 = 0 ∧ fld w 20 12 = 224 then some (.ovTileStat (fb w 15 5) (fb w 7 5))
      else none
  | 43 =>
      if fld w 12 3 = 0 ∧ fld w 25 7 = 0 then some (.ovOpPlan (fb w 20 5) (fb w 15 5) (fb w 7 5))
      else if fld w 12 3 = 0 ∧ fld w 20 12 = 32 then some (.ovOpStep (fb w 15 5) (fb w 7 5))
      else if fld w 12 3 = 0 ∧ fld w 25 7 = 2 then some (.ovRowRd (fb w 20 5) (fb w 15 5) (fb w 7 5))
      else if fld w 12 3 = 0 ∧ fld w 20 12 = 96 then some (.ovErrPop (fb w 15 5) (fb w 7 5))
      else if fld w 12 3 = 0 ∧ fld w 20 12 = 128 then some (.ovCkptRoll (fb w 15 5) (fb w 7 5))
      else none
  | _ => none

/-- A row of the opcode map, then the limits of its fields (R18). -/
def checked (o : Option Instr) : Except Reject Instr :=
  match o with
  | none => .error .unassigned
  | some i => if i.wf then .ok i else .error .fieldLimit

/-- The control stream's decoder (R23 to R25). -/
def control (w : W32) : Except Reject Instr := checked (rawC w)

/-- The decoder of each block stream (R27, R29, R30): each decodes by its own map (R17). -/
def block (x : BStream) (w : W32) : Except Reject Instr :=
  match x with
  | .v => checked (rawV w)
  | .m => checked (rawM w)
  | .l => checked (rawL w)
  | .s => checked (rawS w)

/-- The decoder of the supervisor extension (R31). -/
def supervisor (w : W32) : Except Reject Instr := checked (rawOv w)

end Decode

open Decode

/-- The word of an instruction, from the layouts of R20, R26, R29, R30 and R31. An event has no word. -/
def encode (i : Instr) : Option W32 :=
  match i with
  | .add d a b => some (BitVec.ofNat 32 (0 + d.toNat * 2097152 + a.toNat * 65536 + b.toNat * 2048))
  | .sub d a b => some (BitVec.ofNat 32 (32 + d.toNat * 2097152 + a.toNat * 65536 + b.toNat * 2048))
  | .and d a b => some (BitVec.ofNat 32 (64 + d.toNat * 2097152 + a.toNat * 65536 + b.toNat * 2048))
  | .or d a b => some (BitVec.ofNat 32 (96 + d.toNat * 2097152 + a.toNat * 65536 + b.toNat * 2048))
  | .xor d a b => some (BitVec.ofNat 32 (128 + d.toNat * 2097152 + a.toNat * 65536 + b.toNat * 2048))
  | .andn d a b => some (BitVec.ofNat 32 (160 + d.toNat * 2097152 + a.toNat * 65536 + b.toNat * 2048))
  | .sll d a b => some (BitVec.ofNat 32 (192 + d.toNat * 2097152 + a.toNat * 65536 + b.toNat * 2048))
  | .srl d a b => some (BitVec.ofNat 32 (224 + d.toNat * 2097152 + a.toNat * 65536 + b.toNat * 2048))
  | .sra d a b => some (BitVec.ofNat 32 (256 + d.toNat * 2097152 + a.toNat * 65536 + b.toNat * 2048))
  | .mul d a b => some (BitVec.ofNat 32 (288 + d.toNat * 2097152 + a.toNat * 65536 + b.toNat * 2048))
  | .mulh d a b => some (BitVec.ofNat 32 (320 + d.toNat * 2097152 + a.toNat * 65536 + b.toNat * 2048))
  | .mulhn d a b => some (BitVec.ofNat 32 (352 + d.toNat * 2097152 + a.toNat * 65536 + b.toNat * 2048))
  | .div d a b => some (BitVec.ofNat 32 (384 + d.toNat * 2097152 + a.toNat * 65536 + b.toNat * 2048))
  | .divn d a b => some (BitVec.ofNat 32 (416 + d.toNat * 2097152 + a.toNat * 65536 + b.toNat * 2048))
  | .rem d a b => some (BitVec.ofNat 32 (448 + d.toNat * 2097152 + a.toNat * 65536 + b.toNat * 2048))
  | .remn d a b => some (BitVec.ofNat 32 (480 + d.toNat * 2097152 + a.toNat * 65536 + b.toNat * 2048))
  | .min d a b => some (BitVec.ofNat 32 (512 + d.toNat * 2097152 + a.toNat * 65536 + b.toNat * 2048))
  | .max d a b => some (BitVec.ofNat 32 (544 + d.toNat * 2097152 + a.toNat * 65536 + b.toNat * 2048))
  | .minn d a b => some (BitVec.ofNat 32 (576 + d.toNat * 2097152 + a.toNat * 65536 + b.toNat * 2048))
  | .maxn d a b => some (BitVec.ofNat 32 (608 + d.toNat * 2097152 + a.toNat * 65536 + b.toNat * 2048))
  | .clz d a => some (BitVec.ofNat 32 (640 + d.toNat * 2097152 + a.toNat * 65536))
  | .ctz d a => some (BitVec.ofNat 32 (672 + d.toNat * 2097152 + a.toNat * 65536))
  | .pop d a => some (BitVec.ofNat 32 (704 + d.toNat * 2097152 + a.toNat * 65536))
  | .add32 d a b => some (BitVec.ofNat 32 (736 + d.toNat * 2097152 + a.toNat * 65536 + b.toNat * 2048))
  | .sub32 d a b => some (BitVec.ofNat 32 (768 + d.toNat * 2097152 + a.toNat * 65536 + b.toNat * 2048))
  | .rol d a b => some (BitVec.ofNat 32 (800 + d.toNat * 2097152 + a.toNat * 65536 + b.toNat * 2048))
  | .ror d a b => some (BitVec.ofNat 32 (832 + d.toNat * 2097152 + a.toNat * 65536 + b.toNat * 2048))
  | .addi d a i => some (BitVec.ofNat 32 (67108864 + d.toNat * 2097152 + a.toNat * 65536 + i.toNat * 1))
  | .andi d a i => some (BitVec.ofNat 32 (134217728 + d.toNat * 2097152 + a.toNat * 65536 + i.toNat * 1))
  | .ori d a i => some (BitVec.ofNat 32 (201326592 + d.toNat * 2097152 + a.toNat * 65536 + i.toNat * 1))
  | .xori d a i => some (BitVec.ofNat 32 (268435456 + d.toNat * 2097152 + a.toNat * 65536 + i.toNat * 1))
  | .slli d a n => some (BitVec.ofNat 32 (335544320 + d.toNat * 2097152 + a.toNat * 65536 + n.toNat * 1))
  | .srli d a n => some (BitVec.ofNat 32 (335544384 + d.toNat * 2097152 + a.toNat * 65536 + n.toNat * 1))
  | .srai d a n => some (BitVec.ofNat 32 (335544448 + d.toNat * 2097152 + a.toNat * 65536 + n.toNat * 1))
  | .rori d a n => some (BitVec.ofNat 32 (335544512 + d.toNat * 2097152 + a.toNat * 65536 + n.toNat * 1))
  | .li d i => some (BitVec.ofNat 32 (402653184 + d.toNat * 2097152 + i.toNat * 1))
  | .lik d k i => some (BitVec.ofNat 32 (469762048 + d.toNat * 2097152 + k.toNat * 65536 + i.toNat * 1))
  | .cmp c a b f => some (BitVec.ofNat 32 (536870912 + c.toNat * 2097152 + a.toNat * 65536 + b.toNat * 2048 + f.toNat * 32))
  | .cmpi k c a i => some (BitVec.ofNat 32 (603979776 + k.toNat * 16777216 + c.toNat * 2097152 + a.toNat * 65536 + i.toNat * 1))
  | .sel d a b n => some (BitVec.ofNat 32 (671088640 + d.toNat * 2097152 + a.toNat * 65536 + b.toNat * 2048 + n.toNat * 1))
  | .cand d a b => some (BitVec.ofNat 32 (738197504 + d.toNat * 2097152 + a.toNat * 65536 + b.toNat * 2048))
  | .cor d a b => some (BitVec.ofNat 32 (738197536 + d.toNat * 2097152 + a.toNat * 65536 + b.toNat * 2048))
  | .cxor d a b => some (BitVec.ofNat 32 (738197568 + d.toNat * 2097152 + a.toNat * 65536 + b.toNat * 2048))
  | .candn d a b => some (BitVec.ofNat 32 (738197600 + d.toNat * 2097152 + a.toNat * 65536 + b.toNat * 2048))
  | .cnot d a => some (BitVec.ofNat 32 (738197632 + d.toNat * 2097152 + a.toNat * 65536))
  | .cset d => some (BitVec.ofNat 32 (738197664 + d.toNat * 2097152))
  | .cclr d => some (BitVec.ofNat 32 (738197696 + d.toNat * 2097152))
  | .btSet n i => some (BitVec.ofNat 32 (805306368 + n.toNat * 2097152 + i.toNat * 1))
  | .btReg n a => some (BitVec.ofNat 32 (872415232 + n.toNat * 2097152 + a.toNat * 65536))
  | .br n c => some (BitVec.ofNat 32 (939524096 + n.toNat * 16777216 + c.toNat * 2097152))
  | .brN n c => some (BitVec.ofNat 32 (940572672 + n.toNat * 16777216 + c.toNat * 2097152))
  | .brA n => some (BitVec.ofNat 32 (940048384 + n.toNat * 16777216))
  | .call d n => some (BitVec.ofNat 32 (1006632960 + d.toNat * 2097152 + n.toNat * 524288))
  | .ret a => some (BitVec.ofNat 32 (1073741824 + a.toNat * 65536))
  | .ld d a s i => some (BitVec.ofNat 32 (1140850688 + d.toNat * 2097152 + a.toNat * 65536 + s.toNat * 8192 + i.toNat * 1))
  | .st d a s i => some (BitVec.ofNat 32 (1207959552 + d.toNat * 2097152 + a.toNat * 65536 + s.toNat * 8192 + i.toNat * 1))
  | .ldo d a b s o p => some (BitVec.ofNat 32 (1275068416 + d.toNat * 2097152 + a.toNat * 65536 + b.toNat * 2048 + s.toNat * 32 + o.toNat * 8 + p.toNat * 1))
  | .sto d a b s o p => some (BitVec.ofNat 32 (1342177280 + d.toNat * 2097152 + a.toNat * 65536 + b.toNat * 2048 + s.toNat * 32 + o.toNat * 16 + p.toNat * 1))
  | .amoAdd d a b w o p => some (BitVec.ofNat 32 (1409286144 + d.toNat * 2097152 + a.toNat * 65536 + b.toNat * 2048 + w.toNat * 1024 + o.toNat * 8 + p.toNat * 1))
  | .amoAnd d a b w o p => some (BitVec.ofNat 32 (1409286176 + d.toNat * 2097152 + a.toNat * 65536 + b.toNat * 2048 + w.toNat * 1024 + o.toNat * 8 + p.toNat * 1))
  | .amoOr d a b w o p => some (BitVec.ofNat 32 (1409286208 + d.toNat * 2097152 + a.toNat * 65536 + b.toNat * 2048 + w.toNat * 1024 + o.toNat * 8 + p.toNat * 1))
  | .amoXor d a b w o p => some (BitVec.ofNat 32 (1409286240 + d.toNat * 2097152 + a.toNat * 65536 + b.toNat * 2048 + w.toNat * 1024 + o.toNat * 8 + p.toNat * 1))
  | .amoMin d a b w o p => some (BitVec.ofNat 32 (1409286272 + d.toNat * 2097152 + a.toNat * 65536 + b.toNat * 2048 + w.toNat * 1024 + o.toNat * 8 + p.toNat * 1))
  | .amoMax d a b w o p => some (BitVec.ofNat 32 (1409286304 + d.toNat * 2097152 + a.toNat * 65536 + b.toNat * 2048 + w.toNat * 1024 + o.toNat * 8 + p.toNat * 1))
  | .amoMinn d a b w o p => some (BitVec.ofNat 32 (1409286336 + d.toNat * 2097152 + a.toNat * 65536 + b.toNat * 2048 + w.toNat * 1024 + o.toNat * 8 + p.toNat * 1))
  | .amoMaxn d a b w o p => some (BitVec.ofNat 32 (1409286368 + d.toNat * 2097152 + a.toNat * 65536 + b.toNat * 2048 + w.toNat * 1024 + o.toNat * 8 + p.toNat * 1))
  | .amoSwap d a b w o p => some (BitVec.ofNat 32 (1409286400 + d.toNat * 2097152 + a.toNat * 65536 + b.toNat * 2048 + w.toNat * 1024 + o.toNat * 8 + p.toNat * 1))
  | .amoFadd32 d a b o p => some (BitVec.ofNat 32 (1409286432 + d.toNat * 2097152 + a.toNat * 65536 + b.toNat * 2048 + o.toNat * 8 + p.toNat * 1))
  | .cas d a b w o p => some (BitVec.ofNat 32 (1476395008 + d.toNat * 2097152 + a.toNat * 65536 + b.toNat * 2048 + w.toNat * 1024 + o.toNat * 8 + p.toNat * 1))
  | .fence k p => some (BitVec.ofNat 32 (1543503872 + k.toNat * 32 + p.toNat * 1))
  | .qmark => some (BitVec.ofNat 32 (1610612736))
  | .semRaise a n k => some (BitVec.ofNat 32 (1677721600 + a.toNat * 65536 + n.toNat * 64 + k.toNat * 1))
  | .semWait c a n k => some (BitVec.ofNat 32 (1677725696 + c.toNat * 2097152 + a.toNat * 65536 + n.toNat * 64 + k.toNat * 1))
  | .semTry c a n k => some (BitVec.ofNat 32 (1677729792 + c.toNat * 2097152 + a.toNat * 65536 + n.toNat * 64 + k.toNat * 1))
  | .semSet a n k => some (BitVec.ofNat 32 (1677733888 + a.toNat * 65536 + n.toNat * 64 + k.toNat * 1))
  | .semRead d n => some (BitVec.ofNat 32 (1677737984 + d.toNat * 2097152 + n.toNat * 64))
  | .semRing a n k => some (BitVec.ofNat 32 (1677742080 + a.toNat * 65536 + n.toNat * 64 + k.toNat * 1))
  | .barArrive d i => some (BitVec.ofNat 32 (1744830464 + d.toNat * 2097152 + i.toNat * 1))
  | .barWait a i => some (BitVec.ofNat 32 (1744834560 + a.toNat * 65536 + i.toNat * 1))
  | .barTest c a i => some (BitVec.ofNat 32 (1744838656 + c.toNat * 2097152 + a.toNat * 65536 + i.toNat * 1))
  | .lwArm a b => some (BitVec.ofNat 32 (1811939328 + a.toNat * 65536 + b.toNat * 2048))
  | .lwGet d a b => some (BitVec.ofNat 32 (1811939360 + d.toNat * 2097152 + a.toNat * 65536 + b.toNat * 2048))
  | .lwTest c a b => some (BitVec.ofNat 32 (1811939392 + c.toNat * 2097152 + a.toNat * 65536 + b.toNat * 2048))
  | .lwWait a b => some (BitVec.ofNat 32 (1811939424 + a.toNat * 65536 + b.toNat * 2048))
  | .blkGo a t => some (BitVec.ofNat 32 (1879048192 + a.toNat * 65536 + t.toNat * 1))
  | .blkStop t => some (BitVec.ofNat 32 (1879052288 + t.toNat * 1))
  | .blkStatus d t => some (BitVec.ofNat 32 (1879056384 + d.toNat * 2097152 + t.toNat * 1))
  | .blkPatch d a k i => some (BitVec.ofNat 32 (1879060480 + d.toNat * 2097152 + a.toNat * 65536 + k.toNat * 256 + i.toNat * 1))
  | .fmtPush a => some (BitVec.ofNat 32 (1946157056 + a.toNat * 65536))
  | .winSet a n => some (BitVec.ofNat 32 (2013265920 + a.toNat * 65536 + n.toNat * 1))
  | .winRel n => some (BitVec.ofNat 32 (2013270016 + n.toNat * 1))
  | .winRead d j n => some (BitVec.ofNat 32 (2013274112 + d.toNat * 2097152 + j.toNat * 32 + n.toNat * 1))
  | .fqPop c => some (BitVec.ofNat 32 (2080374784 + c.toNat * 2097152))
  | .txOpen d => some (BitVec.ofNat 32 (2147483648 + d.toNat * 2097152))
  | .txCommit d a => some (BitVec.ofNat 32 (2147487744 + d.toNat * 2097152 + a.toNat * 65536))
  | .txAbort a => some (BitVec.ofNat 32 (2147491840 + a.toNat * 65536))
  | .txStamp d a => some (BitVec.ofNat 32 (2147495936 + d.toNat * 2097152 + a.toNat * 65536))
  | .txRelease a => some (BitVec.ofNat 32 (2147500032 + a.toNat * 65536))
  | .ckptClose => some (BitVec.ofNat 32 (2214592512))
  | .ckptMark d => some (BitVec.ofNat 32 (2214596608 + d.toNat * 2097152))
  | .sysRd d x => some (BitVec.ofNat 32 (2281701376 + d.toNat * 2097152 + x.toNat * 1))
  | .sysWr a x => some (BitVec.ofNat 32 (2281705472 + a.toNat * 65536 + x.toNat * 1))
  | .trapEcall => some (BitVec.ofNat 32 (2348810240))
  | .trapRaise c => some (BitVec.ofNat 32 (2348814464 + c.toNat * 1))
  | .trapEbreak => some (BitVec.ofNat 32 (2348818432))
  | .uret => some (BitVec.ofNat 32 (2415919104))
  | .waiteSem c a n => some (BitVec.ofNat 32 (2483027968 + c.toNat * 2097152 + a.toNat * 65536 + n.toNat * 1))
  | .waiteVote c a => some (BitVec.ofNat 32 (2483028224 + c.toNat * 2097152 + a.toNat * 65536))
  | .waiteStream c a t => some (BitVec.ofNat 32 (2483028480 + c.toNat * 2097152 + a.toNat * 65536 + t.toNat * 1))
  | .cpGo d a e => some (BitVec.ofNat 32 (2550136832 + d.toNat * 2097152 + a.toNat * 65536 + e.toNat * 1))
  | .cpStatus d e => some (BitVec.ofNat 32 (2550140928 + d.toNat * 2097152 + e.toNat * 1))
  | .rtOpen d a => some (BitVec.ofNat 32 (2617245696 + d.toNat * 2097152 + a.toNat * 65536))
  | .rtSend d a => some (BitVec.ofNat 32 (2617249792 + d.toNat * 2097152 + a.toNat * 65536))
  | .rtRoute d a => some (BitVec.ofNat 32 (2617253888 + d.toNat * 2097152 + a.toNat * 65536))
  | .rtStat d a => some (BitVec.ofNat 32 (2617257984 + d.toNat * 2097152 + a.toNat * 65536))
  | .rtClose d a => some (BitVec.ofNat 32 (2617262080 + d.toNat * 2097152 + a.toNat * 65536))
  | .segCnt d t => some (BitVec.ofNat 32 (2684354560 + d.toNat * 2097152 + t.toNat * 1))
  | .segSig d t => some (BitVec.ofNat 32 (2684358656 + d.toNat * 2097152 + t.toNat * 1))
  | .segLast d t => some (BitVec.ofNat 32 (2684362752 + d.toNat * 2097152 + t.toNat * 1))
  | .nop => some (BitVec.ofNat 32 (2751463424))
  | .pause k => some (BitVec.ofNat 32 (2751467520 + k.toNat * 1))
  | .prefetch a n => some (BitVec.ofNat 32 (2751471616 + a.toNat * 65536 + n.toNat * 1))
  | .vadd d a b p t m => some (BitVec.ofNat 32 (0 + d.toNat * 2097152 + a.toNat * 65536 + b.toNat * 2048 + p.toNat * 256 + t.toNat * 16 + m.toNat * 1))
  | .vsub d a b p t m => some (BitVec.ofNat 32 (67108864 + d.toNat * 2097152 + a.toNat * 65536 + b.toNat * 2048 + p.toNat * 256 + t.toNat * 16 + m.toNat * 1))
  | .vmul d a b p t m => some (BitVec.ofNat 32 (134217728 + d.toNat * 2097152 + a.toNat * 65536 + b.toNat * 2048 + p.toNat * 256 + t.toNat * 16 + m.toNat * 1))
  | .vfma d a b p t m => some (BitVec.ofNat 32 (201326592 + d.toNat * 2097152 + a.toNat * 65536 + b.toNat * 2048 + p.toNat * 256 + t.toNat * 16 + m.toNat * 1))
  | .vfms d a b p t m => some (BitVec.ofNat 32 (268435456 + d.toNat * 2097152 + a.toNat * 65536 + b.toNat * 2048 + p.toNat * 256 + t.toNat * 16 + m.toNat * 1))
  | .vmin d a b p t k => some (BitVec.ofNat 32 (335544320 + d.toNat * 2097152 + a.toNat * 65536 + b.toNat * 2048 + p.toNat * 256 + t.toNat * 16 + k.toNat * 8))
  | .vmax d a b p t k => some (BitVec.ofNat 32 (402653184 + d.toNat * 2097152 + a.toNat * 65536 + b.toNat * 2048 + p.toNat * 256 + t.toNat * 16 + k.toNat * 8))
  | .vabs d a p t k s => some (BitVec.ofNat 32 (469762048 + d.toNat * 2097152 + a.toNat * 65536 + p.toNat * 256 + t.toNat * 16 + k.toNat * 8 + s.toNat * 2))
  | .vneg d a p t k s => some (BitVec.ofNat 32 (469762049 + d.toNat * 2097152 + a.toNat * 65536 + p.toNat * 256 + t.toNat * 16 + k.toNat * 8 + s.toNat * 2))
  | .vcmp d a b p t k c => some (BitVec.ofNat 32 (536870912 + d.toNat * 2097152 + a.toNat * 65536 + b.toNat * 2048 + p.toNat * 256 + t.toNat * 16 + k.toNat * 8 + c.toNat * 1))
  | .vsel d a b p t k => some (BitVec.ofNat 32 (603979776 + d.toNat * 2097152 + a.toNat * 65536 + b.toNat * 2048 + p.toNat * 256 + t.toNat * 16 + k.toNat * 8))
  | .vand d a b p t k => some (BitVec.ofNat 32 (671088640 + d.toNat * 2097152 + a.toNat * 65536 + b.toNat * 2048 + p.toNat * 256 + t.toNat * 16 + k.toNat * 8))
  | .vor d a b p t k => some (BitVec.ofNat 32 (671088641 + d.toNat * 2097152 + a.toNat * 65536 + b.toNat * 2048 + p.toNat * 256 + t.toNat * 16 + k.toNat * 8))
  | .vxor d a b p t k => some (BitVec.ofNat 32 (671088642 + d.toNat * 2097152 + a.toNat * 65536 + b.toNat * 2048 + p.toNat * 256 + t.toNat * 16 + k.toNat * 8))
  | .vandn d a b p t k => some (BitVec.ofNat 32 (671088643 + d.toNat * 2097152 + a.toNat * 65536 + b.toNat * 2048 + p.toNat * 256 + t.toNat * 16 + k.toNat * 8))
  | .vnot d a p t k => some (BitVec.ofNat 32 (671088644 + d.toNat * 2097152 + a.toNat * 65536 + p.toNat * 256 + t.toNat * 16 + k.toNat * 8))
  | .vsll d a b p t k i => some (BitVec.ofNat 32 (738197504 + d.toNat * 2097152 + a.toNat * 65536 + b.toNat * 2048 + p.toNat * 256 + t.toNat * 16 + k.toNat * 8 + i.toNat * 4))
  | .vsrl d a b p t k i => some (BitVec.ofNat 32 (738197505 + d.toNat * 2097152 + a.toNat * 65536 + b.toNat * 2048 + p.toNat * 256 + t.toNat * 16 + k.toNat * 8 + i.toNat * 4))
  | .vsra d a b p t k i => some (BitVec.ofNat 32 (738197506 + d.toNat * 2097152 + a.toNat * 65536 + b.toNat * 2048 + p.toNat * 256 + t.toNat * 16 + k.toNat * 8 + i.toNat * 4))
  | .vcvt d a s u p t r => some (BitVec.ofNat 32 (805306368 + d.toNat * 2097152 + a.toNat * 65536 + s.toNat * 4096 + u.toNat * 2048 + p.toNat * 256 + t.toNat * 16 + r.toNat * 1))
  | .vq d a b p t u r => some (BitVec.ofNat 32 (872415232 + d.toNat * 2097152 + a.toNat * 65536 + b.toNat * 2048 + p.toNat * 256 + t.toNat * 16 + u.toNat * 8 + r.toNat * 1))
  | .vdq d a b p t r => some (BitVec.ofNat 32 (939524096 + d.toNat * 2097152 + a.toNat * 65536 + b.toNat * 2048 + p.toNat * 256 + t.toNat * 16 + r.toNat * 1))
  | .vbs d a t k => some (BitVec.ofNat 32 (1006632960 + d.toNat * 2097152 + a.toNat * 65536 + t.toNat * 16 + k.toNat * 1))
  | .vbsCode d a p t k => some (BitVec.ofNat 32 (1006632964 + d.toNat * 2097152 + a.toNat * 65536 + p.toNat * 256 + t.toNat * 16 + k.toNat * 1))
  | .vsfu d a p k f => some (BitVec.ofNat 32 (1073741824 + d.toNat * 2097152 + a.toNat * 65536 + p.toNat * 256 + k.toNat * 8 + f.toNat * 1))
  | .vred d a p t k o => some (BitVec.ofNat 32 (1140850688 + d.toNat * 2097152 + a.toNat * 65536 + p.toNat * 256 + t.toNat * 16 + k.toNat * 8 + o.toNat * 1))
  | .vperm d a b p t k => some (BitVec.ofNat 32 (1207959552 + d.toNat * 2097152 + a.toNat * 65536 + b.toNat * 2048 + p.toNat * 256 + t.toNat * 16 + k.toNat * 8))
  | .vzip d a b p t k h => some (BitVec.ofNat 32 (1275068416 + d.toNat * 2097152 + a.toNat * 65536 + b.toNat * 2048 + p.toNat * 256 + t.toNat * 16 + k.toNat * 8 + h.toNat * 2))
  | .vunzip d a b p t k h => some (BitVec.ofNat 32 (1275068417 + d.toNat * 2097152 + a.toNat * 65536 + b.toNat * 2048 + p.toNat * 256 + t.toNat * 16 + k.toNat * 8 + h.toNat * 2))
  | .vtrH d a => some (BitVec.ofNat 32 (1342177280 + d.toNat * 2097152 + a.toNat * 65536))
  | .vtrW d a => some (BitVec.ofNat 32 (1342177281 + d.toNat * 2097152 + a.toNat * 65536))
  | .vbc d a k p t j => some (BitVec.ofNat 32 (1409286144 + d.toNat * 2097152 + a.toNat * 65536 + k.toNat * 2048 + p.toNat * 256 + t.toNat * 16 + j.toNat * 1))
  | .vld d w o r => some (BitVec.ofNat 32 (1476395008 + d.toNat * 2097152 + w.toNat * 65536 + o.toNat * 256 + r.toNat * 1))
  | .vst d w o r => some (BitVec.ofNat 32 (1543503872 + d.toNat * 2097152 + w.toNat * 65536 + o.toNat * 256 + r.toNat * 1))
  | .vldm d w k o r => some (BitVec.ofNat 32 (1610612736 + d.toNat * 2097152 + w.toNat * 65536 + k.toNat * 16384 + o.toNat * 256 + r.toNat * 1))
  | .vgx d w x p r => some (BitVec.ofNat 32 (1677721600 + d.toNat * 2097152 + w.toNat * 65536 + x.toNat * 2048 + p.toNat * 256 + r.toNat * 1))
  | .vsx d w x p r => some (BitVec.ofNat 32 (1744830464 + d.toNat * 2097152 + w.toNat * 65536 + x.toNat * 2048 + p.toNat * 256 + r.toNat * 1))
  | .vacr d s b o r => some (BitVec.ofNat 32 (1811939328 + d.toNat * 2097152 + s.toNat * 262144 + b.toNat * 65536 + o.toNat * 256 + r.toNat * 1))
  | .vacw d s b o r => some (BitVec.ofNat 32 (1879048192 + d.toNat * 2097152 + s.toNat * 262144 + b.toNat * 65536 + o.toNat * 256 + r.toNat * 1))
  | .vvoteAny a p t => some (BitVec.ofNat 32 (1946157056 + a.toNat * 65536 + p.toNat * 256 + t.toNat * 16))
  | .vvoteAll a p t => some (BitVec.ofNat 32 (1946157057 + a.toNat * 65536 + p.toNat * 256 + t.toNat * 16))
  | .vpatch a i k => some (BitVec.ofNat 32 (2013265920 + a.toNat * 65536 + i.toNat * 4096 + k.toNat * 1))
  | .vmov d a p t k => some (BitVec.ofNat 32 (2080374784 + d.toNat * 2097152 + a.toNat * 65536 + p.toNat * 256 + t.toNat * 16 + k.toNat * 8))
  | .vmovVp d a => some (BitVec.ofNat 32 (2080374785 + d.toNat * 2097152 + a.toNat * 65536))
  | .vmovPv d a k => some (BitVec.ofNat 32 (2080374786 + d.toNat * 2097152 + a.toNat * 65536 + k.toNat * 8))
  | .vnop n => some (BitVec.ofNat 32 (2080374787 + n.toNat * 2048))
  | .vseed a p => some (BitVec.ofNat 32 (2147483792 + a.toNat * 65536 + p.toNat * 256))
  | .vpop d a p t => some (BitVec.ofNat 32 (2214592512 + d.toNat * 2097152 + a.toNat * 65536 + p.toNat * 256 + t.toNat * 16))
  | .viota d a p t k => some (BitVec.ofNat 32 (2281701376 + d.toNat * 2097152 + a.toNat * 65536 + p.toNat * 256 + t.toNat * 16 + k.toNat * 8))
  | .mm k a b s t o => some (BitVec.ofNat 32 (0 + k.toNat * 16777216 + a.toNat * 524288 + b.toNat * 16384 + s.toNat * 512 + t.toNat * 16 + o.toNat * 1))
  | .mmp k a b s t o => some (BitVec.ofNat 32 (67108864 + k.toNat * 16777216 + a.toNat * 524288 + b.toNat * 16384 + s.toNat * 512 + t.toNat * 16 + o.toNat * 1))
  | .mmr k a b o => some (BitVec.ofNat 32 (134217728 + k.toNat * 16777216 + a.toNat * 524288 + b.toNat * 16384 + o.toNat * 1))
  | .mmag k a b s t o => some (BitVec.ofNat 32 (201326592 + k.toNat * 16777216 + a.toNat * 524288 + b.toNat * 16384 + s.toNat * 512 + t.toNat * 16 + o.toNat * 1))
  | .acz k => some (BitVec.ofNat 32 (268435456 + k.toNat * 16777216))
  | .acl k a o => some (BitVec.ofNat 32 (335544320 + k.toNat * 16777216 + a.toNat * 524288 + o.toNat * 1))
  | .acs k a o => some (BitVec.ofNat 32 (402653184 + k.toNat * 16777216 + a.toNat * 524288 + o.toNat * 1))
  | .acf k a => some (BitVec.ofNat 32 (469762048 + k.toNat * 16777216 + a.toNat * 524288))
  | .cpy d s => some (BitVec.ofNat 32 (0 + d.toNat * 2097152 + s.toNat * 65536))
  | .cpyz d s => some (BitVec.ofNat 32 (67108864 + d.toNat * 2097152 + s.toNat * 65536))
  | .gath d s x => some (BitVec.ofNat 32 (134217728 + d.toNat * 2097152 + s.toNat * 65536 + x.toNat * 2048))
  | .scat d s x => some (BitVec.ofNat 32 (201326592 + d.toNat * 2097152 + s.toNat * 65536 + x.toNat * 2048))
  | .qfill q s => some (BitVec.ofNat 32 (268435456 + q.toNat * 2097152 + s.toNat * 65536))
  | .qdrain d q => some (BitVec.ofNat 32 (335544320 + d.toNat * 2097152 + q.toNat * 65536))
  | .red d s o p => some (BitVec.ofNat 32 (402653184 + d.toNat * 2097152 + s.toNat * 65536 + o.toNat * 8 + p.toNat * 1))
  | .bcst d s => some (BitVec.ofNat 32 (469762048 + d.toNat * 2097152 + s.toNat * 65536))
  | .plane d s u n => some (BitVec.ofNat 32 (536870912 + d.toNat * 2097152 + s.toNat * 65536 + u.toNat * 8 + n.toNat * 1))
  | .lwr d s => some (BitVec.ofNat 32 (603979776 + d.toNat * 2097152 + s.toNat * 65536))
  | .ovNodeTake s r d => some (BitVec.ofNat 32 (11 + s.toNat * 1048576 + r.toNat * 32768 + d.toNat * 128))
  | .ovNodeDone s r d => some (BitVec.ofNat 32 (33554443 + s.toNat * 1048576 + r.toNat * 32768 + d.toNat * 128))
  | .ovTileLoad s r d => some (BitVec.ofNat 32 (67108875 + s.toNat * 1048576 + r.toNat * 32768 + d.toNat * 128))
  | .ovTileSave s r d => some (BitVec.ofNat 32 (100663307 + s.toNat * 1048576 + r.toNat * 32768 + d.toNat * 128))
  | .ovTileGo r d => some (BitVec.ofNat 32 (134217739 + r.toNat * 32768 + d.toNat * 128))
  | .ovTileStop r d => some (BitVec.ofNat 32 (167772171 + r.toNat * 32768 + d.toNat * 128))
  | .ovTileHalt s r d => some (BitVec.ofNat 32 (201326603 + s.toNat * 1048576 + r.toNat * 32768 + d.toNat * 128))
  | .ovTileStat r d => some (BitVec.ofNat 32 (234881035 + r.toNat * 32768 + d.toNat * 128))
  | .ovOpPlan s r d => some (BitVec.ofNat 32 (43 + s.toNat * 1048576 + r.toNat * 32768 + d.toNat * 128))
  | .ovOpStep r d => some (BitVec.ofNat 32 (33554475 + r.toNat * 32768 + d.toNat * 128))
  | .ovRowRd s r d => some (BitVec.ofNat 32 (67108907 + s.toNat * 1048576 + r.toNat * 32768 + d.toNat * 128))
  | .ovErrPop r d => some (BitVec.ofNat 32 (100663339 + r.toNat * 32768 + d.toNat * 128))
  | .ovCkptRoll r d => some (BitVec.ofNat 32 (134217771 + r.toNat * 32768 + d.toNat * 128))
  | .tapIdcode => none
  | .tapFrzstat => none
  | .tapScanout _ => none
  | .tapMemrd _ => none
  | .tapBypass => none
  | .cStallResolve _ => none
  | .pauseEnd _ => none
  | .waiteTimeout _ => none
  | .blockAwaitGrant _ _ => none
  | .ringAwaitGrant _ _ => none
  | .ringRaise _ _ => none
  | .exposedResultWrite _ => none
  | .loadDataLand _ => none
  | .qfillDataLand _ => none
  | .blockRetire _ _ => none
  | .kernelBoundary _ => none
  | .tileStopped _ => none
  | .contextDone _ => none
  | .debugBreakTaken _ => none
  | .tileLoadComplete _ => none
  | .tileSaveComplete _ => none
  | .ckptRollComplete _ => none
  | .opStepComplete _ => none
  | .copyStart _ _ => none
  | .landingWordArrival _ _ _ => none
  | .copyComplete _ _ => none
  | .rtHeaderForm _ _ => none
  | .routeHeader _ _ _ _ _ _ => none
  | .summarySend _ _ _ _ => none
  | .summary _ _ _ _ _ _ _ => none
  | .bounce _ _ _ _ _ => none
  | .routeResend _ _ _ => none
  | .reductionContribution _ _ _ _ _ _ _ _ => none
  | .epochAck _ _ _ _ _ => none
  | .reductionTimeout _ => none
  | .readRequest _ _ _ _ => none
  | .writeRequest _ _ _ _ => none
  | .atomicRequest _ _ _ _ _ _ _ => none
  | .readResponse _ _ _ _ => none
  | .writeResponse _ _ _ => none
  | .atomicResponse _ _ _ _ => none
  | .barrierArrival _ _ _ _ _ => none
  | .barrierPhase _ _ _ _ _ => none
  | .time _ _ _ _ => none
  | .management _ _ _ => none
  | .linkReplay _ => none
  | .portTraining _ _ _ _ _ => none
  | .laneRetire _ _ => none
  | .portFail _ => none
  | .syncSend => none
  | .packetAccept => none
  | .dispatchPass => none
  | .classPromotion _ => none
  | .sliceExpiry _ => none
  | .timedReady _ => none
  | .timedStart _ => none
  | .nodeComplete _ => none
  | .xictlGo _ => none
  | .shootdownTlbDone => none
  | .hdispRead => none
  | .hdoneWrite _ => none
  | .qtailWrite _ _ => none
  | .tbinitWrite _ => none
  | .rwcfgWrite _ _ => none
  | .keyLoad _ => none
  | .keyClear _ => none
  | .clrlost _ => none
  | .dbgreqBreak _ _ => none
  | .pttestRun _ _ => none
  | .pttestRet _ _ => none
  | .selfTestComplete _ _ _ => none
  | .registerWrite _ _ _ _ => none
  | .rebase => none
  | .versionStallTimeout _ _ => none
  | .coppicePass => none
  | .ckptIntervalTimer _ => none
  | .ckptIntervalClose _ => none
  | .patrolScrub _ _ => none
  | .rowMovePause _ _ _ => none
  | .capacityShrink _ _ _ => none
  | .tileFail _ _ => none
  | .hbmRepair _ _ _ => none
  | .telemetryUpdate _ _ _ _ _ _ => none
  | .hostWrite _ _ _ => none
  | .hostRead _ _ _ => none
  | .powerOn _ => none
  | .reset _ => none
  | .powerLoss => none
  | .perst => none
  | .functionReady _ _ => none
  | .freeze => none
  | .mctpControl _ => none
  | .getVersion => none
  | .getCapabilities => none
  | .negotiateAlgorithms => none
  | .getDigests => none
  | .getCertificate _ _ => none
  | .challenge _ => none
  | .getMeasurements _ _ => none
  | .vendorRegisterRead _ _ => none
  | .vendorRegisterWrite _ _ _ => none
  | .vendorStatusQuery => none
  | .vendorFreeze => none
  | .illegalWord => none
  | .dieFailure _ => none
  | .poolPartitionChangeDone _ => none
  | .operandByteArrival _ => none
  | .exposedAccessAccept _ => none
  | .idleFlit _ _ => none
  | .configurationRequest _ _ _ => none
  | .supervisorStore _ _ _ _ _ => none

/-- The agent whose instruction a word of the table stands for. The streams' encodings overlap
(each decodes by its own map, R17), so a word alone does not name its stream: the table's word is
read by the first decoder that accepts it, in the order supervisor extension, C, V, M, L, S. -/
def tableReader (w : W32) : Option (Agent × Instr) :=
  match Decode.supervisor w with
  | .ok i => some (.supervisor 0, i)
  | .error _ =>
  match Decode.control w with
  | .ok i => some (.control 0, i)
  | .error _ =>
  match Decode.block .v w with
  | .ok i => some (.block 0 .v, i)
  | .error _ =>
  match Decode.block .m w with
  | .ok i => some (.block 0 .m, i)
  | .error _ =>
  match Decode.block .l w with
  | .ok i => some (.block 0 .l, i)
  | .error _ =>
  match Decode.block .s w with
  | .ok i => some (.block 0 .s, i)
  | .error _ => none

/-- The instruction the decoder reads from a word given in the table's bit numbering. Every
instruction of the part is one 32-bit word (R17), so an instruction of another width is none. -/
def decodeTableWord (nbits w : Nat) : Option Instr :=
  if nbits ≤ 32 ∧ 0 < nbits ∧ w < 2 ^ 32 then (tableReader (BitVec.ofNat 32 w)).map Prod.snd else none

end Sys2Proof
end

