-- ==== Sys2Proof/Config.lean ====
section
/-!
DEFINITION. Sys2Proof/Config.lean: what one package fixes for itself, and the values the
spec leaves open. Each is a constant with no body: nothing can be proved about its value,
so a claim that mentions one holds whatever it is.
-/

namespace Sys2Proof.Config

/-- A byte of another package's storage, by its group physical address, that names nothing usable: rows beyond a prefix and
retired units, as this package knows them (R63, R182, R251). -/
opaque farAbsent : Nat → Bool

/-- The DBGEN fuse (R413, R416). -/
opaque dbgen : Bool

/-- The certificate chain of slot 0 (R413). -/
opaque certificate : List Byte

/-- SHA-384, as its standard defines it (R407, R413). -/
opaque sha384 : List Byte → Vector Byte 48

/-- A signature verifies by ECDSA over P-384, as its standard defines it (R407): the public key, the digest and the signature. -/
opaque ecdsaVerifies : List Byte → Vector Byte 48 → List Byte → Bool

/-- An image of the boot flash: its bytes, the public key and the signature that come with it, and its security version (R407). -/
structure FlashImage where
  bytes : List Byte
  key : List Byte
  signature : List Byte
  version : Nat
deriving DecidableEq, Repr

/-- What the n-th reset finds on the boot flash, by image: 0 the first, 1 the management firmware, 2 the supervisor firmware (R407). -/
opaque bootFlashBytes : Nat → Nat → List Byte
opaque bootFlashKey : Nat → Nat → List Byte
opaque bootFlashSignature : Nat → Nat → List Byte
opaque bootFlashVersion : Nat → Nat → Nat
def bootFlash (reset i : Nat) : FlashImage :=
  { bytes := bootFlashBytes reset i, key := bootFlashKey reset i, signature := bootFlashSignature reset i, version := bootFlashVersion reset i }

/-- The fused SHA-384 digest of the Ovrek root public key (R407). -/
opaque rootKeyDigest : Vector Byte 48

/-- The fused counter of security versions, as the n-th reset finds it (R407). -/
opaque fusedVersion : Nat → Nat

/-- The boot ROM (R413). -/
opaque bootRom : List Byte

/-- What is measured of the fuses (R413): the security version and DBGEN. -/
opaque fuseBytes : Nat → Bool → List Byte

/-- The signature the identity key gives for a nonce (R413): the message number and the nonce. -/
opaque signature : Nat → BitVec 256 → Vector Byte 96

/-- What a byte of a sealed line reads as through a mapping without SEAL: the ciphertext of
R255, whose value the spec leaves to AES. Arguments: key material, line stamp, group
physical address. -/
opaque cipherByte : BitVec 768 → Nat → Nat → Byte

/-- What a byte of a line decrypts to when no SEAL write ever gave the line a tag (R255). -/
opaque unsealedByte : BitVec 768 → Nat → Byte

/-- Byte n of the pipeline snapshot section of an image (R301): the spec gives the section's
place and length and not its layout. Arguments: area address, byte offset. -/
opaque snapshotByte : Nat → Nat → Byte

/-- The value a PCIe configuration read returns after the host's writes (R406): the register layout is PCIe's. -/
opaque pcieConfig : Table W32 → BitVec 12 → W32

/-- The answer to an MCTP control message, whose layout the DMTF gives and the spec does not (R412). -/
opaque mctpAnswer : List Byte → List Byte

/-- What a byte of a granule in error shifts out as (R416): the spec gives such bits no value. -/
opaque brokenByte : Nat → Byte

/-- mtval or stval of an illegal-instruction or breakpoint exception of a supervisor at a pc: the RISC-V privileged
architecture lets an implementation give zero, the instruction's bits or its address (R209). -/
opaque illegalValue : W64 → W64

/-- What the cycle counter of a supervisor reads as, by cluster and its count of retired instructions: the model leaves cycles out. -/
opaque cycleCount : BitVec 4 → W64 → W64

/-- The rate a time base takes after its n-th Sync with an offset (R342): below 201, ppm plus 100. -/
opaque timeRate : Nat → W32 → BitVec 8

/-- What fills the last flit of a message after its content (R325), by place. -/
opaque padByte : Nat → Byte

/-- Whether an access that was unfinished when a port failed had a message there whose flits did not all reach the far end (R329), by
the port, the tag of its request and the time. -/
opaque lostInFlight : BitVec 4 → BitVec 23 → W64 → Bool

/-- The package of share 0 of a group-level domain, by domain id (R330). -/
opaque barrierHome : W32 → BitVec 10

/-- A result that the spec states no value for: of scat, the element whose source is out of bounds (R202). Arguments: the rule's number
and the element's place. -/
opaque openResult : Nat → Nat → Nat → W32

end Sys2Proof.Config
end

