-- ==== Sys2Proof/Machine/State.lean ====
section
/-!
DEFINITION. Sys2Proof/Machine/State.lean: everything the spec gives the machine, as plain
data: one package with its tiles, clusters, dies, pool, versions, fabric, host bridge and
management, and State.reset. State ‹model› fields are marked MODEL: they order the agents
and events of the package, and are no state of the spec.
-/

namespace Sys2Proof.Machine

/-! ## How a step can stop -/

/-- Why the machine stops. -/
inductive Fault where
  /-- Raised by `step` when every clock of the package has stopped (R416) or it has no power
  (R406), and no event waits: nothing will ever happen. Safe: the part itself does nothing. -/
  | stopped
deriving DecidableEq, Repr

/-- Why the model gives no next state. -/
inductive Refusal where
  /-- An arm of `exec` that has no meaning yet. Safe. -/
  | notModelled (mnemonic : String)
deriving DecidableEq, Repr

/-! ## Memory, translation, pins -/

/-- Bytes of the local physical map, addresses strictly rising, no entry zero (R249). -/
abbrev Memory := List Host.Cell

/-- A leaf translation: the page's group physical base, its size and attributes (R254, R257). -/
structure Leaf where
  base : Nat
  size : Nat
  r : Bool
  w : Bool
  mt : BitVec 2
  ver : Bool
  ckpt : Bool
  sealed : Bool
  key : Byte
deriving DecidableEq, Repr

/-- A held translation: its table root, its virtual page and the leaf (R256, R257). -/
structure Held where
  root : Nat
  va : Nat
  leaf : Leaf
  stale : Bool
deriving DecidableEq, Repr

/-- The integrity tag of a SEAL line (R255, R374). `good` is false when a write without the key
changed the ciphertext, so that the tag no longer matches. -/
structure SealTag where
  key : BitVec 768
  stamp : BitVec 48
  good : Bool
deriving DecidableEq, Repr

/-! ## The tile (R12) -/

/-- Run state of a block stream (R13), with the codes of R87. -/
inductive RunState where
  | idle | await | run | stopped | faulted | halted
deriving DecidableEq, Repr

/-- Tile states of R214, in the order of their codes. -/
inductive TileStatus where
  | empty | loading | ready | run | stopping | stopped | saving | faulted | done | retired
deriving DecidableEq, Repr

structure Sem where
  count : BitVec 16
  poison : Bool
deriving DecidableEq, Repr

/-- A queue register: its entries, oldest first, the slot of its head and its binding
(0 none, 1 L, 2 S; R12, R304). -/
structure Queue where
  entries : List VReg
  head : BitVec 2
  bound : BitVec 2
deriving DecidableEq, Repr

/-- An accumulator bank: elements by row × 512 + column, unlisted elements zero (R12). `bad` lists the granules, of two elements
each, that hold an uncorrectable error (R212, R396). -/
structure Bank where
  cells : Table W32
  flags : BitVec 6
  poison : Bool
  bad : List Nat
deriving DecidableEq, Repr

/-- A window image: eight words (R181). -/
abbrev Image := Vector W64 8

/-- An installed window: the eight words of its image, ring positions live, and its pins (R89, R181). -/
structure Window where
  image : Image
  pins : List Held
deriving DecidableEq, Repr

/-- What an exposed instruction writes when its latency expires (R146). -/
inductive Late where
  | vreg (r : BitVec 5) (v : VReg)
  | preg (p : BitVec 3) (v : PReg)
  | push (q : BitVec 3) (v : VReg)
  | vote (b : Bool)
  | acc (bank : BitVec 2) (row : Nat) (segment : Nat) (v : VReg)
  | seeds (v : VReg) (mask : BitVec 64)
  | flags (f : BitVec 6)
  | bank (b : BitVec 2)
deriving DecidableEq, Repr

/-- Where the data of a load came from: a window, and for each piece its offset in the register, its virtual
address and its bytes. A load that a REPLAY snapshot keeps reads there again after the resume (R307), which `again` asks for. -/
structure Kept where
  again : Bool := false
  window : BitVec 5
  pieces : List (Nat × Int × Nat)
deriving DecidableEq, Repr

/-- A result in flight: due at the end of tc `due`; `landed` is false while load data has not
reached the tile (R236). `load` marks a landing entry of the V stream; a push of qfill is none. -/
structure Pending where
  due : Nat
  stream : BStream
  landed : Bool
  load : Bool
  what : Late
  kept : Option Kept
deriving DecidableEq, Repr

/-- A block stream's position, segment accumulators and the block in execution (R12, R229 to R243). `w1` is the W1 that the
current await has read (R36); `stopDue` says that the stream stops at its next instruction boundary (R237, R243). `denied` is the time,
in ns, since which a store of it waits for a version record (R366). `ringAt` holds, by window, the body word that ended a holding
period (R242), and `queued` the queue at which the stream's exposed word froze the tile (R237, R238). `redLeft` holds the contributions of a red
that a third open epoch still keeps waiting: address, value and error of each (R338). -/
structure Stream where
  state : RunState
  prior : RunState
  pos : BitVec 23
  idx : Vector (BitVec 24) 6
  body : BitVec 4
  record : List W32
  ring : BitVec 32
  ringDue : BitVec 32
  ringAt : Table (BitVec 4)
  faultIdx : BitVec 4
  faultCause : Byte
  count : W32
  crc : W32
  lastCount : W32
  lastSig : W32
  haltSeen : Bool
  blockCount : W32
  started : Bool
  t0 : Nat
  nextTc : Nat
  endTc : Nat
  stalls : Nat
  consumed : Bool
  denied : Option Nat
  ppoint : Bool
  w1 : Option W32
  queued : Option (BitVec 3)
  stopDue : Bool
  redLeft : Option (List (Int × Nat × Bool))
deriving DecidableEq, Repr

/-- The C stream: pc (one bit wider, for the address past the code store of R19), registers,
shadow stack, delay-slot state (R54, R58) and the stalls of R73, R75 and R92; `since` is the tc from which a pause or the
timeout of waite counts. -/
structure Control where
  pc : BitVec 17
  g : Vector W64 32
  c : BitVec 8
  b : Vector (BitVec 16) 4
  shadow : List (BitVec 16)
  iter : W32
  slot : BitVec 2
  target : BitVec 17
  arrived : Bool
  stalled : Bool
  pause : Nat
  wait : Option Nat
  since : Nat
  denied : Option Nat
  closing : Bool
deriving DecidableEq, Repr

/-- The user-level trap registers (R105, R108). `again` says that the word at UEPC is still the one that trapped, so that its issue
after uret is a repeat (R298). -/
structure UserTrap where
  utvec : BitVec 14
  nren : Bool
  raisen : Bool
  inHandler : Bool
  uepc : BitVec 14
  ucause : Byte
  utval : W64
  tgt : BitVec 16
  slot : BitVec 2
  again : Bool
deriving DecidableEq, Repr

/-- The trap record of R303. -/
structure TrapRecord where
  cause : Byte
  stream : Byte
  idx : Byte
  addr : W32
  val : W64
  tgt : W32
deriving DecidableEq, Repr

/-- One set of dirty marks (R301). -/
structure Dirty where
  v : BitVec 24
  p : BitVec 8
  q : BitVec 8
  acc : BitVec 768
  rows : BitVec 4096
deriving DecidableEq, Repr

/-- A tile's state on one die copy engine (R94, R96); QUEUED is read from the engine's queue. -/
structure CopyState where
  seq : W32
  done : W32
  err : Bool
deriving DecidableEq, Repr

/-- A page pinned by a copy or routing operation of the tile (R94, R97). -/
structure OpPin where
  op : Nat
  pin : Held
deriving DecidableEq, Repr

/-- What ov.tile.load or ov.tile.save is doing (R216). -/
structure Transfer where
  addr : Nat
  pkt : Bool
  full : Bool
  interval : Bool
  trapped : Bool
deriving DecidableEq, Repr

/-- What an agent that the tile clock does not drive brings to the tile's port (R417): a raise of a semaphore, or an arrival
at a landing word of the store, with the completion cause that goes with it (R295) and the MSI-X vector that follows (R349). `source` orders the raises of one tc:
0 and 1 the die copy engines, 2 the routing engine (R16), 3 the other agents. -/
inductive PortItem where
  | raise (source : Nat) (sem : BitVec 6) (n : Nat) (err : Bool) (stream : Nat)
  | arrival (source : Nat) (off n : Nat) (err : Bool)
  | completion (off : Nat) (cause : Byte) (msix : Option Byte)
deriving DecidableEq, Repr

/-- A tile. `port` holds what has reached its port, each with the tc in which it came (R417). `fmtNew` words of the format
queue were pushed in tc `fmtAt` (R16). `trapping` is a trap taken, with its tc, while exposed streams have yet to reach the
boundary at which it stops them (R237, R243). `latched` is the image or record that a stalled win.set or cp.go has read (R76). -/
structure Tile where
  status : TileStatus
  node : W32
  share : Nat
  control : Control
  user : UserTrap
  vflags : BitVec 6
  timef : BitVec 16
  disc : Byte
  discm : Byte
  code : Table Byte
  vregs : Vector VReg 24
  pregs : Vector PReg 8
  seeds : Vector W32 64
  votes : List Bool
  queues : Vector Queue 8
  formats : List W32
  fmtAt : Nat
  fmtNew : Nat
  banks : Vector Bank 3
  sems : Vector Sem 64
  windows : Vector (Option Window) 32
  v : Stream
  m : Stream
  l : Stream
  s : Stream
  tc : Nat
  tcBase : Nat
  pending : List Pending
  operandLate : Bool
  portBusy : Bool
  port : List (Nat × PortItem)
  copies : Vector CopyState 2
  opPins : List OpPin
  tx : Option Byte
  halt : BitVec 5
  event : Bool
  trap : TrapRecord
  trapping : Option (TrapRecord × Nat)
  ending : Bool
  debug : Bool
  boundary : Bool
  latched : Option (Vector W64 8)
  dirtyA : Dirty
  dirtyB : Dirty
  transfer : Transfer
deriving DecidableEq, Repr

/-! ## The cluster -/

/-- A physical tile's place in service (R404, R415): state 0 active, 1 spare, 2 quarantined,
3 retired. `misses` holds the times, in ns, of its compared mismatches, the newest first (R403). -/
structure PhysTile where
  state : BitVec 2
  logical : Byte
  misses : List Nat
  pendingQuar : Bool
  run : Bool
  done : Bool
  pass : Bool
deriving DecidableEq, Repr

/-- Machine-level and supervisor-level trap registers of the RV64GC core (R208 to R212). -/
structure TrapCsr where
  vec : W64
  epc : W64
  cause : W64
  val : W64
  ie : Bool
  pie : Bool
  pp : BitVec 2
deriving DecidableEq, Repr

/-- The other control and status registers of the RV64GC core, which the RISC-V privileged architecture names (R208): the remaining
fields of mstatus, satp, scratch registers, counter enables, FIOM of menvcfg and senvcfg, the bits of mip that software sets, and the
count of retired instructions. -/
structure SupCsr where
  fs : BitVec 2
  mprv : Bool
  sum : Bool
  mxr : Bool
  tvm : Bool
  tw : Bool
  tsr : Bool
  satp : W64
  mscratch : W64
  sscratch : W64
  mcounteren : W32
  scounteren : W32
  mfiom : Bool
  sfiom : Bool
  soft : W64
  instret : W64
deriving DecidableEq, Repr

/-- What a supervisor instruction waits for before it writes rd (R223, R226). -/
inductive SupWait where
  | step (rd : BitVec 5)
  | roll (rd : BitVec 5) (handle : W32)
deriving DecidableEq, Repr

structure Cluster where
  x : Vector W64 32
  f : Vector W64 32
  fcsr : BitVec 8
  pc : W64
  mode : BitVec 2
  mie : W64
  mideleg : W64
  medeleg : W64
  m : TrapCsr
  s : TrapCsr
  csr : SupCsr
  wait : Option SupWait
  tlb : List Held
  cpalloc : Vector W32 4
  phys : Vector PhysTile 5
deriving DecidableEq, Repr

/-! ## The die -/

/-- A queued or running copy (R93 to R95). `tile` is none for a copy node of the pool (R291); `lw` is the group address of its
landing word; `performed` holds its arrivals, each with its bytes, its error and the group address of its destination, and
whether the source was in error; `told` says that they have been delivered. -/
structure CopyOp where
  id : Nat
  tile : Option (BitVec 6)
  node : W32
  record : Vector W64 8
  pins : List Held
  lw : Option Nat
  running : Bool
  denied : Option Nat
  performed : Option (List (Nat × Bool × Nat) × Bool)
  told : Bool
deriving DecidableEq, Repr

structure Route where
  pkg : BitVec 10
  die : BitVec 2
  handle : BitVec 6
  standby : Bool
  spkg : BitVec 10
  sdie : BitVec 2
  shandle : BitVec 6
deriving DecidableEq, Repr

/-- What has become of one token of a send (R335, R336). One in `listing` waits for its entry of the overflow list to be written. -/
inductive TokenState where
  | unformed | sent | acked | bounced | listing | overflow
deriving DecidableEq, Repr

structure Token where
  idx : Nat
  entry : BitVec 128
  state : TokenState
  second : Bool
  seq : W32
  pkg : BitVec 10
  die : BitVec 2
  handle : BitVec 6
deriving DecidableEq, Repr

/-- A send. `listing` holds the overflow copies that are still to be written, in the order in which their tokens were resolved (R332),
`resend` the tokens that a changed route still has to carry again, in ascending SEQ (R336), and `denied` the time, in ns, since which a
write for this send waits for a version record (R366). -/
structure SendHandle where
  id : Nat
  tile : Option (BitVec 6)
  node : W32
  block : Vector W64 8
  pins : List Held
  tokens : List Token
  rerouted : List Nat
  listing : List (Nat × BitVec 128)
  resend : List Nat
  denied : Option Nat
  deliv : Nat
  bounce : Nat
  overs : Nat
  resent : Nat
  raised : Bool
deriving DecidableEq, Repr

/-- What a receive handle keeps for one source die and phase (R334). -/
structure Source where
  phase : BitVec 16
  pkg : BitVec 10
  die : BitVec 2
  base : Nat
  accepted : BitVec 256
  refused : BitVec 256
  since : Nat
deriving DecidableEq, Repr

structure RecvHandle where
  opened : Bool
  id : Nat
  tile : BitVec 6
  node : W32
  buf : W64
  lwa : W64
  expert : BitVec 12
  cap : Nat
  slotu : Nat
  phase : BitVec 16
  pins : List Held
  accept : Nat
  dup : Nat
  refused : Nat
  bytes : Nat
  sources : List Source
deriving DecidableEq, Repr

/-- A sending engine's numbering for one receive buffer and phase (R316, R334, R335). -/
structure Pair where
  phase : BitVec 16
  pkg : BitVec 10
  die : BitVec 2
  handle : BitVec 6
  next : Nat
  base : Nat
deriving DecidableEq, Repr

/-- A port. `stop` is the STOP mask that the peer last sent and `own` the one this port sends (R327), `seq` the SEQ of its next flit and
`kept` the flits kept for replay, the newest last; `good` is the SEQ of the last good flit received, and `want` that from which it has asked
for a replay (R325). `delay` is the path delay that it has measured, in ns, and
`asked` the time of a delay request without its response (R343). -/
structure Port where
  rtt : Byte
  high : Byte
  low : Byte
  peerPkg : BitVec 10
  peerPort : BitVec 4
  replay : Byte
  state : BitVec 3
  bad : BitVec 9
  stop : Byte
  own : Byte
  seq : Byte
  kept : List (List Byte)
  good : Byte
  want : Option Byte
  delay : Nat
  asked : Option W64
deriving DecidableEq, Repr

/-- An error record of R401. -/
structure ErrorRecord where
  time : W64
  cls : Byte
  sev : Byte
  src : Byte
  flags : Byte
  unit : BitVec 16
  sub : BitVec 16
  addr : W64
  row : W32
  prow : W32
  node : W32
  count : W32
  oldOp : Byte
  newOp : Byte
  cause : Byte
  seq : W64
deriving DecidableEq, Repr

/-- A physical row that does not hold data at `point` and deeper (R380, R392): array code of
R222, unit, physical row. -/
structure BadRow where
  array : BitVec 2
  unit : BitVec 6
  row : Nat
  point : BitVec 3
deriving DecidableEq, Repr

/-- A row that has failed at `point` and is still to be handled: after the step in progress (R390), or, where `pend` is set, once its
capacity drop is claimed no more (R392). -/
structure Shrink where
  array : BitVec 2
  unit : BitVec 6
  row : Nat
  point : BitVec 3
  pend : Bool
deriving DecidableEq, Repr

/-- A die. `closing` holds the sends that were closed while entries of their overflow lists were still to be written (R98). -/
structure Die where
  point : BitVec 3
  maxop : BitVec 3
  stepping : Bool
  target : BitVec 3
  bad : List BadRow
  retired : List (BitVec 2 × BitVec 6)
  shrinks : List Shrink
  scratch : Nat
  partition : Option Nat
  engines : Vector (List CopyOp) 2
  routes : Table Route
  sends : Vector (Option SendHandle) 16
  closing : List SendHandle
  recvs : Vector RecvHandle 64
  pairs : List Pair
  log : List ErrorRecord
  lost : W32
  logSeq : W64
  cethr : BitVec 16
  corrected : Table (List Nat)
  ports : Vector Port 4
  paths : Table Byte
  tlmdie : W64
  tlmhbm : W32
  warn : Bool
  twarn : BitVec 16
  failed : Bool
deriving DecidableEq, Repr

/-! ## The ready pool -/

structure Barrier where
  phase : BitVec 31
  arrived : List Nat
deriving DecidableEq, Repr

/-- Where a share of a tile node stands (R216, R219, R289, R376). Beside it, `own` says that its own supervisor
stopped it (R376), `closed` that its save for the close of the open interval is complete (R368). -/
inductive SharePhase where
  | unplaced | placed | handed | loaded | held | withdrawn
deriving DecidableEq, Repr

/-- What an image holds beside the fields whose places the spec gives: the pipeline of a REPLAY save (R307), the last closed
segments of the streams (R103), a transaction handle that the context still holds after its transaction ended (R363), and whether the
next issues of the C stream, and of the word at UEPC, are repeats (R298). -/
structure Pipe where
  tx : Option Byte
  arrived : Bool
  again : Bool
  tc : Nat
  pending : List Pending
  v : Stream
  m : Stream
  l : Stream
  s : Stream
deriving DecidableEq, Repr

structure Share where
  index : Nat
  phase : SharePhase
  tile : BitVec 6
  savedBy : Option (BitVec 6)
  own : Bool
  closed : Bool
  reported : Option Byte
  ended : Bool
  endedIn : W32
  base : Nat
  written : List Nat
  home : Option Nat
  dirtyA : Dirty
  dirtyB : Dirty
deriving DecidableEq, Repr

inductive NodePhase where
  | waiting | ready | running | complete
deriving DecidableEq, Repr

/-- How the open interval of a node is closing (R368). -/
inductive Closing where
  | no | requested | timer
deriving DecidableEq, Repr

/-- A node. `via` is the queue that its packet came from (R349), `turn` its place in the order of dispatch (R219, R290), and `counted`
says that its stop has outlasted PLAT and is counted (R293). -/
structure Node where
  handle : W32
  order : Nat
  via : Byte
  turn : Nat
  counted : Bool
  packet : Vector W64 32
  phase : NodePhase
  cls : BitVec 2
  since : Nat
  start : Nat
  shares : List Share
  preempted : Bool
  stopFor : Option W32
  stopAt : Nat
  cause : Byte
  snapshot : Option Nat
  tx : Option Byte
  did : W32
  barriers : Vector Barrier 16
  interval : W32
  tag : BitVec 24
  opened : Nat
  rerun : Bool
  unrollable : Bool
  closing : Closing
  timedOk : Bool
  hostDone : Bool
  op : Option Nat
deriving DecidableEq, Repr

structure QueueRegs where
  base : BitVec 39
  en : Bool
  ien : Bool
  vec : Byte
  lsize : BitVec 5
  tenant : BitVec 16
  cls : BitVec 2
  weight : Byte
  head : W32
  tail : W32
  ovr : Bool
  blocked : Bool
  late : BitVec 16
  deficit : Int
deriving DecidableEq, Repr

/-- The ready pool. `reserving` lists the nodes for which tiles are kept, the earliest reservation first (R290). MODEL: `pipes` holds the
contents of pipeline snapshot sections, whose layout the spec leaves open, by the number that the section carries (R301, R307). -/
structure Pool where
  nodes : List Node
  accepted : Nat
  turns : Nat
  lastRead : Byte
  rr : Vector Byte 4
  reserving : List W32
  age1 : BitVec 16
  age2 : BitVec 16
  age3 : BitVec 16
  lead : BitVec 16
  slice : BitVec 16
  quantum : BitVec 16
  mirror : Bool
  hdisp : List W32
  queues : Vector QueueRegs 256
  pipes : Table Pipe
deriving DecidableEq, Repr

/-! ## Versioned memory -/

/-- Metadata of a line of the versioned span, by line number (R354). -/
structure LineMeta where
  stamp : BitVec 48
  chain : List Nat
  owner : Byte
  intv : BitVec 24
  tent : Bool
  undo : Bool
deriving DecidableEq, Repr

/-- A record of the version store (R355): its 128 bytes and header fields. For a tentative record, `viaCkpt` and
`viaPlain` say that a store of it used a translation with CKPT = 1, or with CKPT = 0 (R353, R370, R371). While `u` is set,
`intv` is the tag of the interval whose undo value the record holds (R370). -/
structure Record where
  line : Nat
  data : List Byte
  stamp : BitVec 48
  kind : BitVec 2
  u : Bool
  poison : BitVec 2
  tag : Option SealTag
  viaCkpt : Bool
  viaPlain : Bool
  intv : BitVec 24
deriving DecidableEq, Repr

/-- A transaction slot (R361 to R364). `status` is none while PENDING. -/
structure Tx where
  snapshot : Nat
  status : Option Byte
  ended : Bool
  stamp : BitVec 48
  lines : List Nat
  node : W32
  share : Option Nat
deriving DecidableEq, Repr

/-- Versioned memory. `waiting` holds the messages of other packages that wait at this home, each as its event, with the time, in ns,
since which it waits for a version record (R366); one without a time waits behind such a message of its flow (R328), or for storage
(R251). -/
structure Versions where
  clock : BitVec 48
  vsbase : BitVec 17
  gib : BitVec 10
  scount : BitVec 10
  sfirst : BitVec 9
  mbase : BitVec 9
  bound : BitVec 16
  lines : Table LineMeta
  records : Table Record
  txs : Table Tx
  nodeSnaps : List Nat
  pass : W32
  nextTag : BitVec 24
  rebasing : Bool
  waiting : List (Option Nat × Instr)
deriving DecidableEq, Repr

/-! ## Fabric, time, host and management -/

/-- A message of Jaroc Link: its 16-byte header and what follows, the global port and the virtual lane by which it leaves (R326,
R328), and the SEQ of its first flit with the STOP mask its flits carry (R325). `via` is the port and the lane by which a
message that only passes through came in. -/
structure Message where
  header : BitVec 128
  body : List Byte
  port : Nat
  lane : Nat
  seq : Byte
  stop : Byte
  via : Option (Nat × Nat)
deriving DecidableEq, Repr

/-- A contribution or partial that a link unit holds (R338, R339), with the error that marks its epoch (R340) and the attributes of
the contributor's page. -/
structure Part where
  contributor : Nat
  epoch : Nat
  line : Nat
  level : Nat
  values : List W32
  err : Bool
  attr : Nat
deriving DecidableEq, Repr

/-- A reduction window. `progress` is the time, in ns, of its last progress (R341), and `denied` that since which the home's write of
a merged line waits for a version record (R366). -/
structure RedWindow where
  pbase : BitVec 51
  en : Bool
  ncon : BitVec 10
  accm : Bool
  op : BitVec 2
  fmt : BitVec 4
  lines : BitVec 23
  list : BitVec 43
  lwa : BitVec 54
  epoch : W32
  err : Bool
  mism : Bool
  busy : Bool
  parts : List Part
  sent : List Part
  given : Table Nat
  merged : List (Nat × Nat)
  bad : List Nat
  progress : Nat
  denied : Option Nat
deriving DecidableEq, Repr

/-- The package time base (R342 to R344). `hold` is how many ns of the reference clock TIME still holds (R344). MODEL:
`rate` is the rate against the reference clock in ppm, plus 100, and `rest` what is left of the time passed, in millionths of the unit of
TIMEF (R342); `syncs` numbers the Syncs that set the rate. -/
structure TimeBase where
  ns : W64
  frac : BitVec 16
  en : Bool
  gm : BitVec 10
  lock : Bool
  hops : Byte
  offset : W32
  synced : Bool
  hold : W64
  rate : BitVec 8
  rest : Nat
  syncs : Nat
deriving DecidableEq, Repr

/-- `waits` holds the unfinished accesses that use an entry which the shootdown in progress has dropped (R259). -/
structure Shootdown where
  vpn : BitVec 45
  root : BitVec 35
  count : W32
  allroot : Bool
  allva : Bool
  busy : Bool
  tlbdone : Bool
  done : Bool
  lost : Bool
  seq : W32
  curVa : Nat
  curPages : Nat
  curRoot : Nat
  curAllRoot : Bool
  curAllVa : Bool
  waits : List (BitVec 23)
deriving DecidableEq, Repr

structure Keys where
  data : Vector W64 12
  slots : Table (BitVec 768)
deriving DecidableEq, Repr

/-- The readiness map of R408, as the three registers hold it, and the bits that have been 1 since power-up: a bit
becomes 1 at most once. -/
structure Ready where
  mem : W64
  eng : W64
  tile : W64
  onceMem : W64
  onceEng : W64
  onceTile : W64
deriving DecidableEq, Repr

/-- What the bridge sends towards the host (R345, R346). -/
inductive HostOut where
  | data (bytes : List Byte)
  | poisoned
  | unsupported
  | msix (vector : Byte)
  | internalError
  /-- The completion of a configuration read. -/
  | config (value : W32)
  /-- The completion of a configuration write. -/
  | configured
  /-- Advanced error reporting of a poisoned completion (R398). -/
  | aer
deriving DecidableEq, Repr

/-- Where a host access leads (R346, R347). -/
inductive HostPlace where
  | zero
  | unsupported
  | at_ (gpa : Nat)
deriving DecidableEq, Repr

/-- A host access (R346): the BAR, the offset in it, where the mappings of its arrival lead it (R347), and the bytes of a write or the
length of a read. -/
structure HostAccess where
  bar : BitVec 1
  off : Nat
  place : HostPlace
  write : Option (List Byte)
  size : Nat
deriving DecidableEq, Repr

/-- The host bridge. `config` holds what the host has written to PCIe configuration space; `waiting` the host accesses
that come after one at another package, which the bridge performs in their order (R274); `owed` the MSI-X vectors that follow completion
steps at other packages, by the tag of their request (R349). -/
structure Bridge where
  hosten : Bool
  slots : Vector W64 16
  wins : Vector W64 16
  config : Table W32
  waiting : List HostAccess
  owed : List (BitVec 23 × Byte)
  out : List HostOut
deriving DecidableEq, Repr

/-- What the management endpoint sends (R412, R413). -/
inductive MgmtOut where
  /-- An answer to an MCTP control message, whose layout is the DMTF's. -/
  | mctp (bytes : List Byte)
  /-- SPDM VERSION: the one version, as major and minor. -/
  | version (major minor : Nat)
  /-- SPDM CAPABILITIES: CERT, CHAL, and MEAS with signature. -/
  | capabilities (cert chal measSig : Bool)
  /-- SPDM ALGORITHMS: ECDSA over P-384 and SHA-384, for both signature and measurement hashing. -/
  | algorithms
  /-- SPDM DIGESTS: the digest of the chain in a certificate slot. -/
  | digest (slot : Nat) (bytes : List Byte)
  /-- SPDM CERTIFICATE: a portion of the chain of slot 0 and how much remains. -/
  | certificate (bytes : List Byte) (remains : Nat)
  /-- SPDM CHALLENGE_AUTH: the signature for the nonce. -/
  | signature (nonce : BitVec 256) (bytes : List Byte)
  /-- SPDM MEASUREMENTS: indexes with their digests, and the signature for the nonce. -/
  | measurements (list : List (Nat × List Byte)) (nonce : BitVec 256) (bytes : List Byte)
  /-- SPDM ERROR UnsupportedRequest. -/
  | unsupported
  /-- A vendor register read's value. -/
  | value (v : W64)
  /-- A vendor register write or freeze is done. -/
  | done
  /-- The error response of a refused vendor message. -/
  | refused
  /-- The vendor status message: BOOTFAIL and the readiness map. -/
  | status (bootFail : Bool) (ready : List W64)
deriving DecidableEq, Repr

structure Management where
  bootOk : Bool
  resets : Nat
  mgmtOut : List MgmtOut
  mgmtIn : List (List Byte)
  tapIr : BitVec 6
  tapOut : List Bool
  alert : Bool
  thermtrip : Bool
deriving DecidableEq, Repr

/-- Who accesses another package: a stream of a tile (0 C, 1 V, 2 M, 3 L, 4 S), a copy or routing
operation by its number, a reduction home, or the pool with a node's completion. -/
inductive Asker where
  | stream (tile : BitVec 6) (code : Nat)
  | operation (id : Nat)
  | unit
  | pool
deriving DecidableEq, Repr

/-- What an access to another package does. -/
inductive AskKind where
  | read | write | atomic
deriving DecidableEq, Repr

/-- An unfinished access to another package (R326, R329). -/
structure Request where
  tag : BitVec 23
  die : BitVec 2
  who : Asker
  kind : AskKind
  addr : Nat
  size : Nat
deriving DecidableEq, Repr

/-- The answer to a request, until the access that waits for it takes it (R326). `code` is 0 when the access was
performed, 1 for an uncorrectable error (R329), 2 when the home has no storage there and 3 when it refuses the
access (R251). -/
structure Answer where
  who : Asker
  kind : AskKind
  addr : Nat
  size : Nat
  code : BitVec 2
  bytes : List Byte
deriving DecidableEq, Repr

/-- An arrival at a landing word, held until the data writes before it at other packages have been performed (R81, R187). `src` is
its rank at the port of a tile of this package (R16). -/
structure HeldArrival where
  die : BitVec 2
  who : Asker
  src : Nat
  addr : Nat
  body : List Byte
  waits : List (BitVec 23)
deriving DecidableEq, Repr

/-- The package's end of the fabric. `txq` holds messages that wait for their port or their lane, oldest first (R327 to R329), and
`lostDies` the dies of other packages whose failure is known here (R336). `early` holds arrivals at a barrier of a domain that this package, its home, does
not form yet (R330). `flits` holds what has left by a port beside the messages: idle flits, and flits sent again (R325). `drain` lists the
tags of requests whose flow has changed its path since they left (R328). MODEL: `moved` lists path entries just changed, by die, package and
key; die 4 is every one (R341). -/
structure Fabric where
  pkg : BitVec 10
  topo : W64
  outbox : List Message
  txq : List Message
  lostDies : List (Nat × Nat)
  requests : List Request
  answers : List Answer
  held : List HeldArrival
  nextTag : BitVec 23
  windows : Vector RedWindow 64
  early : List (W32 × BitVec 4 × Nat)
  flits : List (Nat × List Byte)
  drain : List (BitVec 23)
  moved : List (Nat × Nat × Nat)
deriving DecidableEq, Repr

/-! ## The order of agents and events (MODEL) -/

/-- One thing that happens next. The spec fixes no order between agents; the agenda is one. -/
inductive Activity where
  /-- The stream of the tile issues its next word. -/
  | issue (agent : Agent)
  /-- An event row of the table happens. -/
  | event (i : Instr)
  /-- Package time passes. -/
  | elapse (ns : Nat)
  /-- The tile clock of a tile runs n tc with no exposed issue. -/
  | clock (tile : BitVec 6) (n : Nat)
  /-- The next load data of an exposed block of the tile comes late (R236). -/
  | late (tile : BitVec 6)
  /-- The next M operand byte of the tile comes late (R198). -/
  | operandLate (tile : BitVec 6)
  /-- The port cannot take the next exposed access of the tile at its issue (R237). -/
  | portBusy (tile : BitVec 6)
  /-- Firmware starts a change of a die's pool partition to n units of 4 MiB of scratch (R249, R251). -/
  | partition (die : BitVec 2) (n : BitVec 4)
  /-- Firmware sets a field that the spec marks fw (R8): a named field, an index and the value. -/
  | firmware (field : Nat) (index : Nat) (v : W64)
  /-- The failure of a die of another package has been logged there, and this package learns of it (R336). -/
  | dieLost (pkg : BitVec 10) (die : BitVec 2)
  /-- A cluster TLB keeps the translation a walk gives (R256). -/
  | tlbFill (cluster : BitVec 4) (root va : Nat)
  /-- The far end of a port asks for a replay from a SEQ on (R325). -/
  | replay (port : BitVec 4) (from_ : Byte)
  /-- An SPDM request arrives whose code the event rows do not name (R413). -/
  | spdm (code : Byte)
  /-- The TAP takes an instruction that the event rows do not name (R416). -/
  | tap (ir : BitVec 6)
  /-- An access meets an error at a place of storage, which the code corrects, or which poisons the granule and fails the row (R392, R395). -/
  | upset (pa : Nat) (bad : Bool)
deriving DecidableEq, Repr

/-- `reservations` holds, by cluster, the bytes that its supervisor has reserved with LR, as address and number (R276). -/
structure State where
  mem : Memory
  poison : List Nat
  seals : Table SealTag
  tiles : Vector Tile 64
  clusters : Vector Cluster 16
  dies : Vector Die 4
  pool : Pool
  versions : Versions
  fabric : Fabric
  time : TimeBase
  shoot : Shootdown
  keys : Keys
  ready : Ready
  qtab : Vector W64 256
  reservations : Table (Nat × Nat)
  bridge : Bridge
  mgmt : Management
  powered : Bool
  frozen : Bool
  nextOp : Nat
  cur : Agent
  agenda : List Activity
  focus : Agent
  lateNext : Option (BitVec 6)
deriving DecidableEq, Repr

/-! ## Reset -/

def Stream.reset : Stream :=
  { state := .idle, prior := .idle, pos := 0, idx := Vector.replicate 6 0, body := 0, record := [],
    ring := 0, ringDue := 0, ringAt := [], faultIdx := 0, faultCause := 0, count := 0,
    crc := 0xFFFFFFFF, lastCount := 0, lastSig := 0, haltSeen := false, blockCount := 0,
    started := false, t0 := 0, nextTc := 0, endTc := 0, stalls := 0, consumed := false, denied := none, ppoint := false,
    w1 := none, queued := none, stopDue := false, redLeft := none }

def Control.reset : Control :=
  { pc := 0, g := Vector.replicate 32 0, c := 0, b := Vector.replicate 4 0, shadow := [], iter := 0,
    slot := 0, target := 0, arrived := false, stalled := false, pause := 0, wait := none, since := 0,
    denied := none, closing := false }

def UserTrap.reset : UserTrap :=
  { utvec := 0, nren := false, raisen := false, inHandler := false, uepc := 0, ucause := 0,
    utval := 0, tgt := 0, slot := 0, again := false }

def TrapRecord.none : TrapRecord := { cause := 0, stream := 0, idx := 0, addr := 0, val := 0, tgt := 0 }

def Dirty.none : Dirty := { v := 0, p := 0, q := 0, acc := 0, rows := 0 }

def Dirty.all : Dirty :=
  { v := BitVec.allOnes 24, p := BitVec.allOnes 8, q := BitVec.allOnes 8,
    acc := BitVec.allOnes 768, rows := BitVec.allOnes 4096 }

def Tile.reset : Tile :=
  { status := .empty, node := 0, share := 0, control := Control.reset, user := UserTrap.reset,
    vflags := 0, timef := 0, disc := 0, discm := 0, code := [], vregs := Vector.replicate 24 0,
    pregs := Vector.replicate 8 0, seeds := Vector.ofFn fun i => BitVec.ofNat 32 (i.val + 1),
    votes := [], queues := Vector.replicate 8 { entries := [], head := 0, bound := 0 },
    formats := [], fmtAt := 0, fmtNew := 0, banks := Vector.replicate 3 { cells := [], flags := 0, poison := false, bad := [] },
    sems := Vector.replicate 64 { count := 0, poison := false }, windows := Vector.replicate 32 none,
    v := Stream.reset, m := Stream.reset, l := Stream.reset, s := Stream.reset,
    tc := 0, tcBase := 0, pending := [], operandLate := false, portBusy := false, port := [],
    copies := Vector.replicate 2 { seq := 0, done := 0, err := false }, opPins := [], tx := none,
    halt := 0, event := false, trap := TrapRecord.none, trapping := none, ending := false, debug := false,
    boundary := false, latched := none, dirtyA := Dirty.none, dirtyB := Dirty.none,
    transfer := { addr := 0, pkt := false, full := false, interval := false, trapped := false } }

def TrapCsr.reset : TrapCsr := { vec := 0, epc := 0, cause := 0, val := 0, ie := false, pie := false, pp := 0 }

def SupCsr.reset : SupCsr :=
  { fs := 0, mprv := false, sum := false, mxr := false, tvm := false, tw := false, tsr := false, satp := 0, mscratch := 0, sscratch := 0, mcounteren := 0,
    scounteren := 0, mfiom := false, sfiom := false, soft := 0, instret := 0 }

/-- The cluster's four active tiles are its physical tiles 0 to 3, its spare is physical tile 4. -/
def Cluster.reset (c : Nat) : Cluster :=
  { x := Vector.replicate 32 0, f := Vector.replicate 32 0, fcsr := 0, pc := 0, mode := 3, mie := 0, mideleg := 0,
    medeleg := 0, m := TrapCsr.reset, s := TrapCsr.reset, csr := SupCsr.reset, wait := none, tlb := [],
    cpalloc := Vector.replicate 4 0,
    phys := Vector.ofFn fun p =>
      { state := if p.val < 4 then 0 else 1,
        logical := if p.val < 4 then BitVec.ofNat 8 (4 * c + p.val) else 0xFF,
        misses := [], pendingQuar := false, run := false, done := false, pass := false } }

def RecvHandle.reset : RecvHandle :=
  { opened := false, id := 0, tile := 0, node := 0, buf := 0, lwa := 0, expert := 0, cap := 0, slotu := 0,
    phase := 0, pins := [], accept := 0, dup := 0, refused := 0, bytes := 0, sources := [] }

def Port.reset : Port :=
  { rtt := 0, high := 0, low := 0, peerPkg := 0, peerPort := 0, replay := 0, state := 0, bad := 0, stop := 0, own := 0, seq := 0, kept := [], good := 0xFF, want := none, delay := 0, asked := none }

def Die.reset : Die :=
  { point := 0, maxop := 5, stepping := false, target := 0, bad := [], retired := [], shrinks := [],
    scratch := 16384, partition := none, engines := Vector.replicate 2 [], routes := [],
    sends := Vector.replicate 16 none, closing := [], recvs := Vector.replicate 64 RecvHandle.reset, pairs := [],
    log := [], lost := 0, logSeq := 0, cethr := 8, corrected := [], ports := Vector.replicate 4 Port.reset,
    paths := [], tlmdie := 0, tlmhbm := 0, warn := false, twarn := 0x05A0, failed := false }

def QueueRegs.reset : QueueRegs :=
  { base := 0, en := false, ien := false, vec := 0, lsize := 0, tenant := 0, cls := 0, weight := 1,
    head := 0, tail := 0, ovr := false, blocked := false, late := 0, deficit := 0 }

def Pool.reset : Pool :=
  { nodes := [], accepted := 0, turns := 0, lastRead := 255, rr := Vector.replicate 4 255, reserving := [], age1 := 0,
    age2 := 0, age3 := 0, lead := 0x00C8, slice := 0x07D0, quantum := 0x01F4, mirror := false,
    hdisp := [], queues := Vector.replicate 256 QueueRegs.reset, pipes := [] }

def Versions.reset : Versions :=
  { clock := 1, vsbase := 0, gib := 64, scount := 8, sfirst := 0, mbase := 0, bound := 0x0064,
    lines := [], records := [], txs := [], nodeSnaps := [], pass := 0, nextTag := 0, rebasing := false, waiting := [] }

def RedWindow.reset : RedWindow :=
  { pbase := 0, en := false, ncon := 0, accm := false, op := 0, fmt := 0, lines := 0, list := 0, lwa := 0,
    epoch := 0, err := false, mism := false, busy := false, parts := [], sent := [], given := [],
    merged := [], bad := [], progress := 0, denied := none }

/-- The machine right after package reset (R406): every ready bit 0, every register at the Reset
value of its table. Values the spec does not state are those of the assumption log. -/
def State.reset : State :=
  { mem := [], poison := [], seals := [], tiles := Vector.replicate 64 Tile.reset,
    clusters := Vector.ofFn fun c => Cluster.reset c.val, dies := Vector.replicate 4 Die.reset,
    pool := Pool.reset, versions := Versions.reset,
    fabric := { pkg := 0, topo := 0, outbox := [], txq := [], lostDies := [], requests := [], answers := [], held := [], nextTag := 0,
                windows := Vector.replicate 64 RedWindow.reset, early := [], flits := [], drain := [], moved := [] },
    time := { ns := 0, frac := 0, en := false, gm := 0, lock := false, hops := 0, offset := 0,
              synced := false, hold := 0, rate := 100, rest := 0, syncs := 0 },
    shoot := { vpn := 0, root := 0, count := 0, allroot := false, allva := false, busy := false,
               tlbdone := false, done := false, lost := false, seq := 0, curVa := 0, curPages := 0,
               curRoot := 0, curAllRoot := false, curAllVa := false, waits := [] },
    keys := { data := Vector.replicate 12 0, slots := [] },
    ready := { mem := 0, eng := 0, tile := 0, onceMem := 0, onceEng := 0, onceTile := 0 }, qtab := Vector.replicate 256 0, reservations := [],
    bridge := { hosten := false, slots := Vector.replicate 16 0, wins := Vector.replicate 16 0,
                config := [], waiting := [], owed := [], out := [] },
    mgmt := { bootOk := true, resets := 0, mgmtOut := [], mgmtIn := [], tapIr := 0x3F, tapOut := [], alert := false,
              thermtrip := false },
    powered := true, frozen := false, nextOp := 0, cur := .control 0, agenda := [],
    focus := .control 0, lateNext := none }

end Sys2Proof.Machine
end

