-- ==== Sys2Proof/Machine/Bits.lean ====
section
/-!
DEFINITION. Sys2Proof/Machine/Bits.lean: bit fields, sign extension, byte order and finite
maps: the arithmetic every other file of the machine is written over.
-/

namespace Sys2Proof.Machine

/-- x[hi:lo] as a number (R7). -/
def bits (x : Nat) (hi lo : Nat) : Nat := x / 2 ^ lo % 2 ^ (hi + 1 - lo)

/-- x with x[hi:lo] replaced (R7). -/
def putBits (x : Nat) (hi lo : Nat) (v : Nat) : Nat :=
  x - bits x hi lo * 2 ^ lo + v % 2 ^ (hi + 1 - lo) * 2 ^ lo

/-- A field of a 64-bit word. -/
def wbits (x : W64) (hi lo : Nat) : Nat := bits x.toNat hi lo

/-- One bit of a 64-bit word. -/
def wbit (x : W64) (i : Nat) : Bool := x.getLsbD i

/-- 0 or 1. -/
def b2n (b : Bool) : Nat := if b then 1 else 0

/-- The value of an n-bit pattern as two's complement. -/
def toSigned (w : Nat) (x : Nat) : Int :=
  if x % 2 ^ w < 2 ^ (w - 1) then (x % 2 ^ w : Nat) else (x % 2 ^ w : Nat) - (2 ^ w : Nat)

/-- The w-bit pattern of an integer, wrapped modulo 2^w. -/
def ofSigned (w : Nat) (x : Int) : Nat := (x % (2 ^ w : Nat)).toNat

/-- Sign extension of the low w bits of x to 64 bits (R61). -/
def sext64 (w : Nat) (x : Nat) : W64 := BitVec.ofInt 64 (toSigned w x)

/-- The least n with n * b at or above a. -/
def ceilDiv (a b : Nat) : Nat := (a + b - 1) / b

/-- Bytes to the number they hold, least significant first (R7). -/
def leNat : List Byte → Nat
  | [] => 0
  | b :: r => b.toNat + 256 * leNat r

/-- The n bytes of a number, least significant first (R7). -/
def leBytes : Nat → Nat → List Byte
  | 0, _ => []
  | n + 1, x => BitVec.ofNat 8 x :: leBytes n (x / 256)

/-- The value a finite map holds for a key. -/
def tget {α : Type} : Table α → Nat → Option α
  | [], _ => none
  | (k, v) :: r, a => if a = k then some v else tget r a

/-- The map with one key set, keys kept in rising order. -/
def tput {α : Type} : Table α → Nat → α → Table α
  | [], a, x => [(a, x)]
  | (k, v) :: r, a, x =>
    if a < k then (a, x) :: (k, v) :: r
    else if a = k then (a, x) :: r
    else (k, v) :: tput r a x

/-- The map without a key. -/
def tdrop {α : Type} (t : Table α) (a : Nat) : Table α := t.filter fun e => e.1 != a

/-- The map with a key set, where `d` is what an unlisted key reads as: no entry holds it. -/
def tset {α : Type} [DecidableEq α] (d : α) (t : Table α) (a : Nat) (x : α) : Table α :=
  if x = d then tdrop t a else tput t a x

/-- The map's value at a key, `d` where unlisted. -/
def tval {α : Type} (d : α) (t : Table α) (a : Nat) : α := (tget t a).getD d

/-- Keys strictly rising and no entry the default. -/
def twf {α : Type} [DecidableEq α] (d : α) : Table α → Bool
  | [] => true
  | [(_, v)] => decide (v ≠ d)
  | (k, v) :: (k', v') :: r => decide (v ≠ d) && decide (k < k') && twf d ((k', v') :: r)

/-- Update of one element of a list of known length; outside it, nothing. -/
def lset {α : Type} (l : List α) (i : Nat) (x : α) : List α := l.set i x

/-- A number placed in an ascending list. -/
def insertNat : List Nat → Nat → List Nat
  | [], x => [x]
  | y :: r, x => if x ≤ y then x :: y :: r else y :: insertNat r x

/-- Elementwise numbers below n. -/
def upto (n : Nat) : List Nat := List.range n

end Sys2Proof.Machine
end

