-- ==== Sys2Proof/Machine/Ops.lean ====
section
/-!
DEFINITION. Sys2Proof/Machine/Ops.lean: the named operations over the state: registers,
parts of the package, the physical map, bytes of memory with their poison marks, the error
log, and the taking of a trap with the return from one (R105, R106, R243, R310).
-/

namespace Sys2Proof.Machine

/-! ## Parts of the package -/

def State.tile (s : State) (t : BitVec 6) : Tile := s.tiles[t.toNat]
def State.setTile (s : State) (t : BitVec 6) (x : Tile) : State := { s with tiles := s.tiles.set t.toNat x }
def State.onTile (s : State) (t : BitVec 6) (f : Tile → Tile) : State := s.setTile t (f (s.tile t))
def State.cluster (s : State) (c : BitVec 4) : Cluster := s.clusters[c.toNat]
def State.setCluster (s : State) (c : BitVec 4) (x : Cluster) : State := { s with clusters := s.clusters.set c.toNat x }
def State.onCluster (s : State) (c : BitVec 4) (f : Cluster → Cluster) : State := s.setCluster c (f (s.cluster c))
def State.die (s : State) (d : BitVec 2) : Die := s.dies[d.toNat]
def State.setDie (s : State) (d : BitVec 2) (x : Die) : State := { s with dies := s.dies.set d.toNat x }
def State.onDie (s : State) (d : BitVec 2) (f : Die → Die) : State := s.setDie d (f (s.die d))

/-- The die and the global cluster of a logical tile (R3). -/
def tileDie (t : BitVec 6) : BitVec 2 := BitVec.ofNat 2 (t.toNat / 16)
def tileCluster (t : BitVec 6) : BitVec 4 := BitVec.ofNat 4 (t.toNat / 4)
def clusterDie (c : BitVec 4) : BitVec 2 := BitVec.ofNat 2 (c.toNat / 4)
/-- Tile t of cluster c (R3). -/
def clusterTile (c : BitVec 4) (t : BitVec 2) : BitVec 6 := BitVec.ofNat 6 (c.toNat * 4 + t.toNat)

/-- The tile whose stream is executing. -/
def State.curTile (s : State) : BitVec 6 :=
  match s.cur with
  | .control t => t
  | .block t _ => t
  | .supervisor _ => 0

/-- The cluster whose supervisor is executing. -/
def State.curCluster (s : State) : BitVec 4 :=
  match s.cur with
  | .supervisor c => c
  | .control t => tileCluster t
  | .block t _ => tileCluster t

def State.ctl (s : State) : Control := (s.tile s.curTile).control
def State.onCur (s : State) (f : Tile → Tile) : State := s.onTile s.curTile f
def State.onCtl (s : State) (f : Control → Control) : State := s.onCur fun t => { t with control := f t.control }

def Tile.stream (t : Tile) : BStream → Stream
  | .v => t.v
  | .m => t.m
  | .l => t.l
  | .s => t.s

def Tile.setStream (t : Tile) (x : BStream) (y : Stream) : Tile :=
  match x with
  | .v => { t with v := y }
  | .m => { t with m := y }
  | .l => { t with l := y }
  | .s => { t with s := y }

def Tile.onStream (t : Tile) (x : BStream) (f : Stream → Stream) : Tile := t.setStream x (f (t.stream x))

/-- Every block stream of the tile. -/
def Tile.onStreams (t : Tile) (f : BStream → Stream → Stream) : Tile :=
  { t with v := f .v t.v, m := f .m t.m, l := f .l t.l, s := f .s t.s }

/-- The stream of a two-bit stream field (R25: 0 v, 1 m, 2 l, 3 s). -/
def streamOf (x : BitVec 2) : BStream :=
  match x.toNat with
  | 0 => .v
  | 1 => .m
  | 2 => .l
  | _ => .s

def streamCode : BStream → Nat
  | .v => 0
  | .m => 1
  | .l => 2
  | .s => 3

/-! ## Registers -/

/-- A g register; g0 reads as zero (R12). -/
def Control.reg (k : Control) (r : BitVec 5) : W64 := if r = 0 then 0 else k.g[r.toNat]
/-- A write of a g register; g0 discards it (R12). -/
def Control.setReg (k : Control) (r : BitVec 5) (x : W64) : Control :=
  if r = 0 then k else { k with g := k.g.set r.toNat x }

def Control.cond (k : Control) (r : BitVec 3) : Bool := k.c.getLsbD r.toNat
def Control.setCond (k : Control) (r : BitVec 3) (x : Bool) : Control :=
  { k with c := BitVec.ofNat 8 (putBits k.c.toNat r.toNat r.toNat (b2n x)) }
def Control.bt (k : Control) (r : BitVec 2) : BitVec 16 := k.b[r.toNat]
def Control.setBt (k : Control) (r : BitVec 2) (x : BitVec 16) : Control := { k with b := k.b.set r.toNat x }

def State.g (s : State) (r : BitVec 5) : W64 := s.ctl.reg r
def State.setG (s : State) (r : BitVec 5) (x : W64) : State := s.onCtl fun k => k.setReg r x
def State.c (s : State) (r : BitVec 3) : Bool := s.ctl.cond r
def State.setC (s : State) (r : BitVec 3) (x : Bool) : State := s.onCtl fun k => k.setCond r x

/-- A predicate register; p0 reads all ones (R12). -/
def Tile.preg (t : Tile) (p : BitVec 3) : PReg := if p = 0 then BitVec.allOnes 512 else t.pregs[p.toNat]
/-- A write of a predicate register; p0 discards it. Marks the register dirty (R301). -/
def Tile.setPreg (t : Tile) (p : BitVec 3) (x : PReg) : Tile :=
  if p = 0 then t else
    { t with pregs := t.pregs.set p.toNat x,
             dirtyA := { t.dirtyA with p := t.dirtyA.p ||| BitVec.twoPow 8 p.toNat },
             dirtyB := { t.dirtyB with p := t.dirtyB.p ||| BitVec.twoPow 8 p.toNat } }

def Tile.sem (t : Tile) (n : BitVec 6) : Sem := t.sems[n.toNat]
def Tile.setSem (t : Tile) (n : BitVec 6) (x : Sem) : Tile := { t with sems := t.sems.set n.toNat x }
def Tile.window (t : Tile) (n : BitVec 5) : Option Window := t.windows[n.toNat]
def Tile.setWindow (t : Tile) (n : BitVec 5) (x : Option Window) : Tile := { t with windows := t.windows.set n.toNat x }
def Tile.queue (t : Tile) (q : BitVec 3) : Queue := t.queues[q.toNat]
/-- A change of a queue's state marks it dirty (R301). -/
def Tile.setQueue (t : Tile) (q : BitVec 3) (x : Queue) : Tile :=
  { t with queues := t.queues.set q.toNat x,
           dirtyA := { t.dirtyA with q := t.dirtyA.q ||| BitVec.twoPow 8 q.toNat },
           dirtyB := { t.dirtyB with q := t.dirtyB.q ||| BitVec.twoPow 8 q.toNat } }
/-- v0 to v23. The numbers 24 to 31 name queues and no register (R15). -/
def Tile.vreg (t : Tile) (r : BitVec 5) : VReg := if h : r.toNat < 24 then t.vregs[r.toNat] else 0
def Tile.setVreg (t : Tile) (r : BitVec 5) (x : VReg) : Tile :=
  if h : r.toNat < 24 then
    { t with vregs := t.vregs.set r.toNat x,
             dirtyA := { t.dirtyA with v := t.dirtyA.v ||| BitVec.twoPow 24 r.toNat },
             dirtyB := { t.dirtyB with v := t.dirtyB.v ||| BitVec.twoPow 24 r.toNat } }
  else t
/-- Banks a0 to a2. -/
def Tile.bank (t : Tile) (b : BitVec 2) : Bank := if h : b.toNat < 3 then t.banks[b.toNat] else { cells := [], flags := 0, poison := false, bad := [] }
def Tile.setBank (t : Tile) (b : BitVec 2) (x : Bank) : Tile := if h : b.toNat < 3 then { t with banks := t.banks.set b.toNat x } else t
/-- An element lies in a granule that holds an uncorrectable error (R395, R396). -/
def Bank.badAt (b : Bank) (row col : Nat) : Bool := b.bad.contains ((row * 512 + col) / 2)
/-- Element (row, column) of a bank (R12); poisoned bytes read as zero (R197). -/
def Bank.get (b : Bank) (row col : Nat) : W32 := if b.badAt row col then 0 else tval 0 b.cells (row * 512 + col)
/-- Rows [lo, lo + n) with an error in their first `width` elements. -/
def Bank.badRows (b : Bank) (lo n width : Nat) : List Nat :=
  if b.bad.isEmpty then []
  else ((upto n).map (lo + ·)).filter fun r => b.bad.any fun g => decide (r * 512 ≤ 2 * g) && decide (2 * g < r * 512 + width)
/-- A write of n elements from (row, col) clears the poison of every granule it covers whole (R396). -/
def Bank.clean (b : Bank) (row col n : Nat) : Bank :=
  { b with bad := b.bad.filter fun g => !(decide (row * 512 + col ≤ 2 * g) && decide (2 * g + 2 ≤ row * 512 + col + n)) }
def Bank.put (b : Bank) (row col : Nat) (x : W32) : Bank := { b with cells := tset 0 b.cells (row * 512 + col) x }
/-- A write of a bank row marks it dirty in both sets (R301). -/
def Tile.markAcc (t : Tile) (b : BitVec 2) (row : Nat) : Tile :=
  { t with dirtyA := { t.dirtyA with acc := t.dirtyA.acc ||| BitVec.twoPow 768 (b.toNat * 256 + row) },
           dirtyB := { t.dirtyB with acc := t.dirtyB.acc ||| BitVec.twoPow 768 (b.toNat * 256 + row) } }

/-- A supervisor register; x0 reads zero and discards writes (R211). -/
def Cluster.reg (k : Cluster) (r : BitVec 5) : W64 := if r = 0 then 0 else k.x[r.toNat]
def Cluster.setReg (k : Cluster) (r : BitVec 5) (v : W64) : Cluster := if r = 0 then k else { k with x := k.x.set r.toNat v }

/-! ## The physical map (R249, R251) -/

/-- What a local physical address names. -/
inductive Place where
  | hbm
  | tileStore (t : BitVec 6) (off : Nat)
  | clusterPool (c : BitVec 4) (off : Nat)
  | scratch (d : BitVec 2) (off : Nat)
  | register (off : Nat)
  | hole
deriving DecidableEq, Repr

def hbmEnd : Nat := 0x8000000000
def tileBase : Nat := 0x400000000000
def poolBase : Nat := 0x400200000000
def scratchBase : Nat := 0x400300000000
def regBase : Nat := 0x500000000000

/-- The map of R249. -/
def place (pa : Nat) : Place :=
  if pa < hbmEnd then .hbm
  else if tileBase ≤ pa ∧ pa < tileBase + 64 * 0x400000 then
    .tileStore (BitVec.ofNat 6 ((pa - tileBase) / 0x400000)) ((pa - tileBase) % 0x400000)
  else if poolBase ≤ pa ∧ pa < poolBase + 16 * 0x800000 then
    .clusterPool (BitVec.ofNat 4 ((pa - poolBase) / 0x800000)) ((pa - poolBase) % 0x800000)
  else if scratchBase ≤ pa ∧ pa < scratchBase + 4 * 0x4000000 then
    .scratch (BitVec.ofNat 2 ((pa - scratchBase) / 0x4000000)) ((pa - scratchBase) % 0x4000000)
  else if regBase ≤ pa ∧ pa < regBase + 0x5000000 then .register (pa - regBase)
  else if regBase + 0x10000000 ≤ pa ∧ pa < regBase + 0x11000000 then .register (pa - regBase)
  else .hole

/-- A byte of the register blocks of R252. -/
def registerAt (pa : Nat) : Bool := match place pa with | .register _ => true | _ => false

/-- Offsets of the key registers in the package control block (R414). -/
def isKeyReg (off : Nat) : Bool := decide (0x200 ≤ off) && decide (off < 0x2A0)
/-- A byte of a key register, which only a supervisor in machine mode may reach (R414). -/
def keyRegAt (pa : Nat) : Bool := registerAt pa && isKeyReg (pa - regBase)

/-- A property of the map holds on [pa, pa + n): its first byte in each 256 decides, since stacks interleave by 256 bytes and
rows, frames and carve-outs are larger (R248, R249). -/
def spanAll (pa n : Nat) (f : Nat → Bool) : Bool :=
  (upto (n / 256 + 2)).all fun i => f (min (max pa (pa / 256 * 256 + 256 * i)) (pa + n - 1))

def storeAddr (t : BitVec 6) (off : Nat) : Nat := tileBase + t.toNat * 0x400000 + off

/-- The home controller of a local HBM address (R248). -/
def homeStack (pa : Nat) : Nat := bits pa 10 8 ^^^ bits pa 20 18 ^^^ bits pa 30 28

/-- Regular and spare physical rows of an array (R380); arrays have the codes of R222. -/
def regularRows (array : BitVec 2) : Nat :=
  match array.toNat with
  | 0 => 4096
  | 1 => 768
  | 2 => 8192
  | _ => 49152
def spareRows (array : BitVec 2) : Nat :=
  match array.toNat with
  | 0 => 64
  | 1 => 16
  | 2 => 512
  | _ => 2048

/-- The die of an array's unit: logical tile, global cluster or die (R222). -/
def unitDie (array : BitVec 2) (unit : Nat) : BitVec 2 :=
  match array.toNat with
  | 0 | 1 => BitVec.ofNat 2 (unit / 16)
  | 2 => BitVec.ofNat 2 (unit / 4)
  | _ => BitVec.ofNat 2 unit

/-- A physical row passes at a point when nothing makes it fail there (R380). -/
def Die.passes (d : Die) (array : BitVec 2) (unit : Nat) (row p : Nat) : Bool :=
  !(d.bad.any fun b => b.array == array && b.unit.toNat == unit && b.row == row && decide (b.point.toNat ≤ p))

/-- The physical rows of a unit that fail at a point. -/
def Die.failing (d : Die) (array : BitVec 2) (unit p : Nat) : List Nat :=
  ((d.bad.filter fun b => b.array == array && b.unit.toNat == unit && decide (b.point.toNat ≤ p)).map (·.row)).eraseDups

/-- U(p) of R381: the usable prefix of a unit; 0 for a retired unit. -/
def Die.usable (d : Die) (array : BitVec 2) (unit p : Nat) : Nat :=
  if d.retired.contains (array, BitVec.ofNat 6 unit) then 0
  else (upto (p + 1)).foldl (fun u q => min u (regularRows array + spareRows array - (d.failing array unit q).length)) (regularRows array)

/-- The physical row of a logical row, by a table of the rows that are not at their own number. -/
def physOf (m : Table Nat) (l : Nat) : Nat := (tget m l).getD l

/-- A physical row is held by a logical row below u. -/
def heldRow (m : Table Nat) (u r : Nat) : Bool :=
  m.any (fun e => decide (e.1 < u) && e.2 == r) || (decide (r < u) && (tget m r).isNone)

/-- One point of R381: the prefix and the table of the point before, and the rows that fail at this one. -/
def clearStep (array : BitVec 2) (fails : List Nat) (u : Nat) (m : Table Nat) : Nat × Table Nat :=
  let total := regularRows array + spareRows array
  let u' := min u (total - fails.length)
  let kept := m.filter fun e => decide (e.1 < u')
  let moves := (fails.flatMap fun f =>
    (kept.filter fun e => e.2 == f).map (·.1) ++ (if f < u' ∧ (tget kept f).isNone then [f] else [])).foldl insertNat []
  (u', moves.foldl (init := kept) fun acc l =>
    let free (r : Nat) : Bool := !fails.contains r && !heldRow kept u' r && !(acc.any fun e => e.2 == r)
    let spare := ((upto (spareRows array)).map (regularRows array + ·)).find? free
    match spare with
    | some r => tput acc l r
    | none => match (upto (regularRows array)).find? free with
      | some r => tput acc l r
      | none => acc)

/-- The Clearing table of a unit at a point (R381): its prefix, and the rows not at their own number. -/
def Die.clearing (d : Die) (array : BitVec 2) (unit p : Nat) : Nat × Table Nat :=
  if d.retired.contains (array, BitVec.ofNat 6 unit) then (0, [])
  else (upto (p + 1)).foldl (fun a q => clearStep array (d.failing array unit q) a.1 a.2) (regularRows array, [])

/-- phys(L, p) (R381); none outside the prefix. -/
def Die.phys (d : Die) (array : BitVec 2) (unit p l : Nat) : Option Nat :=
  let c := d.clearing array unit p
  if l < c.1 then some (physOf c.2 l) else none

/-- Usable rows of a unit at its die's current point. -/
def State.rows (s : State) (array : BitVec 2) (unit : Nat) : Nat :=
  let d := s.die (unitDie array unit)
  d.usable array unit d.point.toNat

/-- Usable rows of one accumulator bank: a0 and a1 keep 256, a2 has the rest (R381). -/
def State.bankRows (s : State) (t : BitVec 6) (b : BitVec 2) : Nat :=
  let u := s.rows 1 t.toNat
  if b.toNat < 2 then min 256 u else u - 512

/-- A logical tile in service: some physical tile of its cluster holds the number (R4, R404). -/
def State.tileUsable (s : State) (t : BitVec 6) : Bool :=
  decide ((s.tile t).status ≠ .retired) &&
  (upto 5).any fun p => match (s.cluster (tileCluster t)).phys[p]? with
    | some x => x.state == 0 && x.logical.toNat == t.toNat
    | none => false

/-- The carve-outs of the version store and its metadata (R251, R356), once versioning is in use. -/
def State.carveOut (s : State) (pa : Nat) : Bool :=
  wbit s.ready.eng 36 &&
  (let vs := s.versions.vsbase.toNat * 2 ^ 30
   let vm := s.versions.mbase.toNat * 2 ^ 30
   (decide (vs ≤ pa) && decide (pa < vs + s.versions.gib.toNat * 2 ^ 30)) ||
   (decide (vm ≤ pa) && decide (pa < vm + s.versions.scount.toNat / 8 * 2 ^ 30)))

/-- A bit of RDYENG is set (R408). -/
def State.engReady (s : State) (i : Nat) : Bool := wbit s.ready.eng i

/-- An AES key slot holds a key, and the key slots are ready (R255, R409, R414). -/
def State.keyHeld (s : State) (slot : Byte) : Bool := s.engReady 37 && (tget s.keys.slots slot.toNat).isSome

/-- A byte names storage at the current points (R249, R251), with its function ready (R409). -/
def State.storage (s : State) (pa : Nat) : Bool :=
  match place pa with
  | .hbm => wbit s.ready.mem (homeStack pa)
  | .tileStore t off => s.tileUsable t && wbit s.ready.tile t.toNat && decide (off / 1024 < s.rows 0 t.toNat)
  | .clusterPool c off => wbit s.ready.mem (12 + c.toNat) && decide (off / 1024 < s.rows 2 c.toNat)
  | .scratch d off => wbit s.ready.mem (8 + d.toNat) && decide (off / 1024 < (s.die d).scratch) &&
      decide (off / 1024 < s.rows 3 d.toNat)
  | .register _ => false
  | .hole => false

/-- A frame in the quarantine table (R400). -/
def State.quarantined (s : State) (pa : Nat) : Bool :=
  s.qtab.toList.any fun q => wbit q 63 && wbits q 46 12 == pa / 4096

/-! ## Bytes and their poison -/

/-- The byte a memory holds; an unlisted address reads zero. -/
def Memory.byte (m : Memory) (a : Nat) : Byte := tval 0 m a
def Memory.setByte (m : Memory) (a : Nat) (x : Byte) : Memory := tset 0 m a x
/-- The canonical form: addresses strictly rising, no byte zero. -/
def Memory.wf (m : Memory) : Bool := twf 0 m

def State.byte (s : State) (a : Nat) : Byte := s.mem.byte a

def Memory.bytes (m : Memory) (a : Nat) : Nat → List Byte
  | 0 => []
  | n + 1 => m.byte a :: Memory.bytes m (a + 1) n

def Memory.setBytes (m : Memory) (a : Nat) : List Byte → Memory
  | [] => m
  | b :: r => Memory.setBytes (m.setByte a b) (a + 1) r

/-- The granule that an uncorrectable error poisons: a half-line of HBM, a 64-bit word of SRAM (R396). -/
def granuleSize (pa : Nat) : Nat := if pa < hbmEnd then 64 else 8
def granuleOf (pa : Nat) : Nat := pa / granuleSize pa * granuleSize pa
def State.poisoned (s : State) (pa : Nat) : Bool := s.poison.contains (granuleOf pa)
def State.anyPoison (s : State) (pa n : Nat) : Bool :=
  !s.poison.isEmpty && (s.poison.any fun g => decide (g < pa + n) && decide (pa < g + granuleSize g))
/-- The first granule in error that [pa, pa+n) touches, else pa. -/
def State.firstBad (s : State) (pa n : Nat) : Nat :=
  match s.poison.filter fun g => decide (g < pa + n) && decide (pa < g + granuleSize g) with
  | [] => pa
  | g :: r => r.foldl min g
def State.addPoison (s : State) (pa : Nat) : State :=
  if s.poisoned pa then s else { s with poison := granuleOf pa :: s.poison }
/-- A write clears the poison of every granule it covers whole (R396). -/
def State.clearPoison (s : State) (pa n : Nat) : State :=
  { s with poison := s.poison.filter fun g => !(decide (pa ≤ g) && decide (g + granuleSize g ≤ pa + n)) }

/-- A write to a tile store marks the written rows dirty in both sets of the tile's share (R301). -/
def rowMask (off n : Nat) : BitVec 4096 :=
  if n = 0 then 0 else
    BitVec.ofNat 4096 ((2 ^ ((off + n - 1) / 1024 - off / 1024 + 1) - 1) * 2 ^ (off / 1024))
def State.markRows (s : State) (pa n : Nat) : State :=
  match place pa with
  | .tileStore t off => s.onTile t fun x =>
      { x with dirtyA := { x.dirtyA with rows := x.dirtyA.rows ||| rowMask off n },
               dirtyB := { x.dirtyB with rows := x.dirtyB.rows ||| rowMask off n } }
  | _ => s

/-- A write ends the reservations of the bytes that it reaches (R276). -/
def State.unreserve (s : State) (pa n : Nat) : State :=
  { s with reservations := s.reservations.filter fun e => !(decide (pa < e.2.1 + e.2.2) && decide (e.2.1 < pa + n)) }

/-- Bytes stored at their home, with the poison and dirty marks of the store (R247, R396, R301). -/
def State.put (s : State) (pa : Nat) (bs : List Byte) : State :=
  ((({ s with mem := s.mem.setBytes pa bs }).unreserve pa bs.length).clearPoison pa bs.length).markRows pa bs.length

/-! ## The error log (R401) -/

def ErrorRecord.blank : ErrorRecord :=
  { time := 0, cls := 0, sev := 0, src := 0, flags := 0, unit := 0, sub := 0, addr := 0,
    row := 0xFFFFFFFF, prow := 0xFFFFFFFF, node := 0xFFFFFFFF, count := 0, oldOp := 0, newOp := 0,
    cause := 0, seq := 0 }

/-- Write a record to a die's log; a full log drops it and counts it lost (R401). -/
def State.log (s : State) (d : BitVec 2) (r : ErrorRecord) : State :=
  s.onDie d fun x =>
    if x.log.length < 1024 then
      { x with log := x.log ++ [{ r with time := s.time.ns, seq := x.logSeq }], logSeq := x.logSeq + 1 }
    else { x with lost := if x.lost = 0xFFFFFFFF then x.lost else x.lost + 1 }

/-- The die that logs events of the pool, the commit clock and the quarantine table (R401). -/
def State.poolDie (s : State) : BitVec 2 := if s.pool.mirror then 1 else 0

/-- SRC of R401 and the die for an address. -/
def errorPlace (pa : Nat) : BitVec 2 × Byte × Nat :=
  match place pa with
  | .tileStore t _ => (tileDie t, 0, t.toNat)
  | .clusterPool c _ => (clusterDie c, 2, c.toNat)
  | .scratch d _ => (d, 3, d.toNat)
  | _ => (BitVec.ofNat 2 (homeStack pa / 2), 4, homeStack pa)

/-- ROW and PROW of R401 for an address: none in HBM. -/
def State.errorRow (s : State) (pa : Nat) : W32 × W32 :=
  let rows (array : BitVec 2) (unit off : Nat) : W32 × W32 :=
    let d := s.die (unitDie array unit)
    (BitVec.ofNat 32 (off / 1024), match d.phys array unit d.point.toNat (off / 1024) with
      | some r => BitVec.ofNat 32 r
      | none => 0xFFFFFFFF)
  match place pa with
  | .tileStore t off => rows 0 t.toNat off
  | .clusterPool c off => rows 2 c.toNat off
  | .scratch d off => rows 3 d.toNat off
  | _ => (0xFFFFFFFF, 0xFFFFFFFF)

/-! ## Power (R406) -/

/-- Power is gone, or RESET# is low: every operation ends without completing and all state is lost. What happens next
is no state of the part. -/
def State.lostPower (s : State) : State := { State.reset with powered := false, agenda := s.agenda }

/-! ## Nodes -/

def State.node? (s : State) (h : W32) : Option Node := s.pool.nodes.find? fun n => n.handle == h && decide (n.phase ≠ .complete)
def State.onNode (s : State) (h : W32) (f : Node → Node) : State :=
  { s with pool := { s.pool with nodes := s.pool.nodes.map fun n => if n.handle = h then f n else n } }
def Node.onShare (n : Node) (i : Nat) (f : Share → Share) : Node :=
  { n with shares := n.shares.map fun x => if x.index = i then f x else x }
def Node.share? (n : Node) (i : Nat) : Option Share := n.shares.find? fun x => x.index == i

/-- Word j (64 bits) of a launch packet (R282). -/
def Node.word (n : Node) (j : Nat) : Nat := (n.packet[j]?.getD 0).toNat
def Node.number (n : Node) : Nat := bits (n.word 0) 31 0
def Node.tileCount (n : Node) : Nat := bits (n.word 0) 38 32
def Node.tclass (n : Node) : Nat := bits (n.word 0) 40 39
def Node.class0 (n : Node) : Nat := bits (n.word 0) 42 41
def Node.queue (n : Node) : Nat := bits (n.word 0) 50 43
/-- 0 plain, 1 snapshot, 2 transaction, 3 checkpointed. -/
def Node.mode (n : Node) : Nat := bits (n.word 0) 52 51
/-- 0 DRAIN, 1 REPLAY. -/
def Node.cmode (n : Node) : Nat := bits (n.word 0) 53 53
def Node.timed (n : Node) : Bool := bits (n.word 0) 54 54 == 1
def Node.dlev (n : Node) : Nat := bits (n.word 0) 57 55
def Node.affc (n : Node) : Nat := bits (n.word 1) 15 0
def Node.affd (n : Node) : Nat := bits (n.word 1) 19 16
def Node.tenant (n : Node) : Nat := bits (n.word 1) 47 32
def Node.plat (n : Node) : Nat := bits (n.word 1) 63 48
def Node.tstamp (n : Node) : Nat := n.word 2
def Node.root (n : Node) : Nat := n.word 3
def Node.cimg (n : Node) : Nat := n.word 4
def Node.clen (n : Node) : Nat := bits (n.word 5) 16 0
def Node.dlen (n : Node) : Nat := bits (n.word 5) 39 17
def Node.dimg (n : Node) : Nat := n.word 6
def Node.pro (n : Node) : Nat := bits (n.word 7) 15 0
def Node.ker (n : Node) : Nat := bits (n.word 7) 31 16
def Node.epi (n : Node) : Nat := bits (n.word 7) 47 32
def Node.trip (n : Node) : Nat := bits (n.word 8) 31 0
def Node.cki (n : Node) : Nat := if bits (n.word 8) 63 32 = 0 then 2000 else bits (n.word 8) 63 32
def Node.nrows (n : Node) : Nat := bits (n.word 9) 12 0
def Node.nacc (n : Node) : Nat := bits (n.word 9) 22 13
def Node.npool (n : Node) : Nat := bits (n.word 9) 47 24
def Node.dmemb (n : Node) : Nat := bits (n.word 10) 51 32
def Node.lwa (n : Node) : Nat := n.word 11
def Node.pred (n : Node) (i : Nat) : Nat := bits (n.word (12 + i / 2)) (32 * (i % 2) + 31) (32 * (i % 2))
def Node.fbase (n : Node) (i : Nat) : Nat := n.word (16 + 2 * i)
def Node.flen (n : Node) (i : Nat) : Nat := bits (n.word (17 + 2 * i)) 47 0
/-- RD, WR, PF, DISC of footprint i are bits 0 to 3 of this number (R282). -/
def Node.fflags (n : Node) (i : Nat) : Nat := bits (n.word (17 + 2 * i)) 51 48
/-- In checkpoint mode (R282). -/
def Node.ckpt (n : Node) : Bool := n.mode == 3

/-- The node whose context a tile holds (R214). -/
def State.tileNode (s : State) (t : BitVec 6) : Option Node :=
  let x := s.tile t
  if x.status = .empty ∨ x.status = .retired then none
  else s.pool.nodes.find? fun n => n.handle == x.node

/-- The table root of the current context (R253); 0 when the tile holds no node's context. -/
def State.root (s : State) (t : BitVec 6) : Nat := match s.tileNode t with | some n => n.root | none => 0

/-! ## Taking a trap, and returning from one -/

/-- Cause codes of R309. -/
def causeIllegal : Byte := 0x01
def causeXlate : Byte := 0x02
def causePerm : Byte := 0x03
def causeAlign : Byte := 0x04
def causeCtlint : Byte := 0x05
def causeSegchk : Byte := 0x06
def causeQovf : Byte := 0x07
def causeQunf : Byte := 0x08
def causeFmtunf : Byte := 0x09
def causeSemovf : Byte := 0x0A
def causePoison : Byte := 0x0B
def causeNotready : Byte := 0x0C
def causeCapfault : Byte := 0x0D
def causeBfault : Byte := 0x0E
def causeIntegrity : Byte := 0x0F
def causeEcall : Byte := 0x10
def causeEbreak : Byte := 0x11
def causeDebug : Byte := 0x12
def causePinlim : Byte := 0x13
def causeVerfull : Byte := 0x14
def causeBadpkt : Byte := 0x15
def causeTlate : Byte := 0x16

/-- The causes from which ov.tile.go resumes (R215, R309). -/
def resumable (cause : Byte) : Bool :=
  cause == causeEcall || cause == causeEbreak || cause == causeDebug || decide (0x80 ≤ cause.toNat)

/-! ## Results in flight (R146, R236) -/

def putRow (b : Bank) (row col : Nat) (v : VReg) : Bank :=
  (upto 64).foldl (fun b j => b.put row (col + j) (BitVec.extractLsb' (32 * j) 32 v)) (b.clean row col 64)

/-- What a result does when it is written. -/
def Tile.applyLate (t : Tile) (x : Late) : Tile :=
  match x with
  | .vreg r v => t.setVreg r v
  | .preg p v => t.setPreg p v
  | .push q v => t.setQueue q { t.queue q with entries := (t.queue q).entries ++ [v] }
  | .vote b => { t with votes := t.votes ++ [b] }
  | .acc b row seg v => (t.setBank b (putRow (t.bank b) row (64 * seg) v)).markAcc b row
  | .seeds v mask => { t with seeds := Vector.ofFn fun i => if mask.getLsbD i.val then BitVec.extractLsb' (32 * i.val) 32 v else t.seeds[i] }
  | .flags f => { t with vflags := t.vflags ||| f }
  | .bank _ => t

/-- Results in flight stand in the order in which they are written, of equal tc the later issued last. -/
def insertPending : List Pending → Pending → List Pending
  | [], x => [x]
  | y :: r, x => if x.due < y.due then x :: y :: r else y :: insertPending r x

/-- The queue that a result enters. -/
def Late.queue? : Late → Option (BitVec 3)
  | .push q _ => some q
  | _ => none

/-- A result in flight. A push enters its queue no earlier than the pushes of the queue that issued before it, since entries
leave in the order in which their pushes issued (R145). -/
def Tile.addPending (t : Tile) (x : Pending) : Tile :=
  let due := match x.what.queue? with
    | some q => (t.pending.filter fun p => p.stream == x.stream && p.what.queue? == some q).foldl (fun d p => max d p.due) x.due
    | none => x.due
  { t with pending := insertPending t.pending { x with due := due } }

/-- Write some of the results in flight. -/
def Tile.write (t : Tile) (f : Pending → Bool) : Tile :=
  (t.pending.filter f).foldl (fun t p => t.applyLate p.what) { t with pending := t.pending.filter fun p => !f p }

/-- Every result written by the start of tc now. -/
def Tile.settle (t : Tile) (now : Nat) : Tile := t.write fun p => decide (p.due < now) && p.landed

/-- The tile clock goes on to tc now; results due before it are written. -/
def Tile.toTc (t : Tile) (now : Nat) : Tile := { t.settle now with tc := max t.tc now }

/-- Pushes to a queue that are not yet written. -/
def Tile.pushesDue (t : Tile) (q : BitVec 3) : Nat :=
  t.pending.countP fun p => match p.what with | .push k _ => k == q | _ => false

/-- What froze the tile at a queue still holds (R237, R238): the binding stands, and the queue is still empty for the one that pops, or
full for the one that pushes. -/
def Tile.queueHolds (t : Tile) (x : BStream) (q : BitVec 3) : Bool :=
  let k := t.queue q
  let full := decide (4 ≤ k.entries.length + t.pushesDue q)
  match x with
  | .v => if k.bound = 1 then k.entries.isEmpty else k.bound == 2 && full
  | .l => k.bound == 1 && full
  | .s => k.bound == 2 && k.entries.isEmpty
  | .m => false

/-- Word j of a record (R32). -/
def recWord (r : List W32) (j : Nat) : Nat := (r[j]?.getD 0).toNat
def recLen (r : List W32) : Nat := bits (recWord r 0) 27 24
def recInterlocked (r : List W32) : Bool := bits (recWord r 0) 20 20 == 1

/-- Every iteration of the fetched block has issued. -/
def Stream.nestDone (y : Stream) : Bool := decide (recLen y.record ≤ y.body.toNat)
def Stream.exposed (y : Stream) : Bool := !recInterlocked y.record
/-- In an exposed block and in RUN. -/
def Stream.exposedRun (y : Stream) : Bool := decide (y.state = .run) && y.exposed
def Tile.exposedBusy (t : Tile) : Bool := [BStream.v, .m, .l, .s].any fun x => (t.stream x).exposedRun

/-- A stream's exposed word has frozen the tile at a queue, and what did so still holds (R237, R238). -/
def Tile.queueFreeze (t : Tile) (x : BStream) : Bool :=
  (t.stream x).exposedRun && match (t.stream x).queued with | some q => t.queueHolds x q | none => false

/-- A freeze at tc now (R237): late landing data, a late operand byte, a busy port, a queue. -/
def Tile.frozenAt (t : Tile) (now : Nat) : Bool :=
  t.operandLate || t.portBusy || (t.pending.any fun p => p.load && decide (p.due < now) && !p.landed) ||
    [BStream.v, .l, .s].any t.queueFreeze

/-- When a stream in RUN acts next, in tc: its next word, its earliest result, or its retirement; none while it waits for read
data that freezes nothing (R203, R238). -/
def Tile.nextTime (t : Tile) (x : BStream) : Option Nat :=
  let y := t.stream x
  if !y.nestDone then some y.nextTc
  else match t.pending.find? fun p => p.stream == x && (p.landed || p.load) with
    | some p => some (p.due + 1)
    | none => if t.pending.any fun p => p.stream == x then none else some (max y.nextTc y.endTc)

/-- The tc to which the tile clock goes on when nothing freezes it: that in which the first exposed block acts. -/
def Tile.horizon (t : Tile) : Nat :=
  match ([BStream.v, .m, .l, .s].filter fun x => (t.stream x).exposedRun).filterMap t.nextTime with
  | [] => t.tc
  | n :: r => max t.tc (r.foldl min n)

/-- The exposed work of the tile is frozen (R237): it cannot reach the tc in which it acts next. -/
def Tile.frozen (t : Tile) : Bool := t.exposedBusy && t.frozenAt t.horizon

/-- A freeze at a queue that only a stopped or faulted stream could end; while the tile takes a trap it holds no stream back, since it would
last for ever (R238, R243). -/
def Tile.deadFreeze (t : Tile) (x : BStream) : Bool :=
  let dead (z : BStream) : Bool := decide ((t.stream z).state ≠ .run ∧ (t.stream z).state ≠ .await ∧ (t.stream z).state ≠ .halted)
  t.trapping.isSome && t.queueFreeze x && match x, (t.stream x).queued with
    | .v, some q => if (t.queue q).bound = 1 then dead .l else dead .s
    | _, _ => dead .v

/-- blk.stop on one stream: a stream in AWAIT or RUN moves to STOPPED, position, indices and
accumulators kept; on a stream in any other state it has no effect (R86). -/
def Stream.stop (x : Stream) : Stream :=
  match x.state with
  | .await | .run => { x with state := .stopped }
  | _ => x

/-- The bindings a stream holds end when it is stopped (R238): 1 L, 2 S. -/
def Tile.unbind (t : Tile) (x : BStream) : Tile :=
  let code : BitVec 2 := match x with | .l => 1 | .s => 2 | _ => 0
  if code = 0 then t
  else { t with queues := t.queues.map fun q => if q.bound = code then { q with bound := 0 } else q }

/-- Stop a stream as by blk.stop (R86, R238): what it has issued completes. -/
def Tile.stopStream (t : Tile) (x : BStream) : Tile :=
  let y := t.stream x
  if y.state = .await ∨ y.state = .run then ((t.setStream x y.stop).unbind x).write fun p => p.stream == x else t

def Tile.stopAll (t : Tile) : Tile := (((t.stopStream .v).stopStream .m).stopStream .l).stopStream .s

/-- A stream that is to stop has not reached the boundary at which it does: its exposed block is frozen before its next word (R237), or its
word of the tc in which another stream faulted has still to issue (R243). A word that froze the tile at a queue does not issue any more
when the stream that held the queue has stopped. -/
def Tile.heldOff (t : Tile) (x : BStream) : Bool :=
  let y := t.stream x
  y.exposedRun && !([BStream.v, .l, .s].any t.deadFreeze) && (t.frozenAt (max t.horizon y.nextTc) || (match t.trapping with
    | some (_, now) => decide (y.nextTc ≤ now) && !y.nestDone && y.queued.isNone
    | none => false))

/-- Enter a state of R214, with the tile event of R210 for the states that signal one. -/
def Tile.enter (t : Tile) (x : TileStatus) : Tile :=
  let signals := match x with
    | .empty | .ready | .stopped | .faulted | .done | .retired => true
    | _ => false
  { t with status := x, event := t.event || signals }

/-- The trap record of a C-stream trap: the word's address, the delay slot and pending target (R58, R303). -/
def Control.trapRecord (k : Control) (cause : Byte) (val : W64) : TrapRecord :=
  { cause := cause, stream := 0, idx := BitVec.ofNat 8 k.slot.toNat, addr := BitVec.ofNat 32 k.pc.toNat,
    val := val, tgt := if k.slot = 0 then 0 else BitVec.ofNat 32 k.target.toNat }

/-- Streams in AWAIT or RUN, of those chosen, are to stop at their next boundary (R86, R237, R243). -/
def Tile.mustStop (t : Tile) (f : BStream → Bool) : Tile :=
  t.onStreams fun x y =>
    { y with stopDue := y.stopDue || (f x && (decide (y.state = RunState.await) || decide (y.state = RunState.run))) }

/-- A stream that is to stop does so when nothing holds it off. -/
def Tile.stopIfDue (t : Tile) (x : BStream) : Tile :=
  if (t.stream x).stopDue && !t.heldOff x then (t.onStream x fun y => { y with stopDue := false }).stopStream x else t

/-- Some stream has yet to stop. -/
def Tile.stopsDue (t : Tile) : Bool := [BStream.v, .m, .l, .s].any fun x => (t.stream x).stopDue

/-- Streams that are to stop do so as they reach their boundaries. When the last has, a trap that was taken moves the tile to
FAULTED with its record and signals the supervisor (R210, R243, R310). -/
def Tile.applyStops (t : Tile) : Tile :=
  let u := (((t.stopIfDue .v).stopIfDue .m).stopIfDue .l).stopIfDue .s
  match u.trapping with
  | some (r, _) => if u.stopsDue then u else ({ u with trap := r, trapping := none }).enter .faulted
  | none => u

/-- Streams are asked to stop, and stop as soon as they can. -/
def Tile.requestStop (t : Tile) (f : BStream → Bool) : Tile := (t.mustStop f).applyStops

/-- A trap taken by the supervisor (R310): the streams stop (R243), the record is captured, the tile
becomes FAULTED with the cause and signals its supervisor (R210). Of traps in one tc the first stream in the order C, V, M,
L, S is reported; a later trap changes nothing (R243). -/
def Tile.takeTrap (t : Tile) (r : TrapRecord) : Tile :=
  if t.status = .run ∨ t.status = .stopping then
    (match t.trapping with
     | none =>
       { t.mustStop fun _ => true with
         trapping := some (r, t.tc), control := { t.control with stalled := false, pause := 0, wait := none } }
     | some (r0, now) => if t.tc = now ∧ r.stream < r0.stream then { t with trapping := some (r, now) } else t).applyStops
  else t

/-- A trap of the C stream at its current word, taken by the supervisor (R310). The word has no
effect (R10); a repeat of it is no second kernel arrival (R298). DEBUG comes before the word, which may still have to arrive
(R311). -/
def Tile.controlTrap (t : Tile) (cause : Byte) (val : W64) : Tile :=
  let t' := t.takeTrap (t.control.trapRecord cause val)
  { t' with control := { t'.control with arrived := t'.control.arrived || cause != causeDebug } }

/-- A user-level trap of the C stream (R105). DESIGN CHOICE (log 88): UDS.TGT keeps the low 16 bits of the pending target, so a word in a
delay slot whose pending x + 12 is 0x1_0000 resumes to 0x0000. -/
def Tile.userTrap (t : Tile) (cause : Byte) (val : W64) : Tile :=
  let k := t.control
  { t with
    user := { t.user with
      uepc := BitVec.ofNat 14 (k.pc.toNat / 4), ucause := cause, utval := val,
      tgt := if k.slot = 0 then 0 else BitVec.ofNat 16 k.target.toNat, slot := k.slot, inHandler := true, again := true }
    control := { k with pc := BitVec.ofNat 17 (t.user.utvec.toNat * 4), slot := 0, target := 0, stalled := false, wait := none, arrived := false } }

/-- The pc after the word at pc has been executed: the pending target after delay slot 2, else the
next word (R54). -/
def Control.advance (k : Control) : Control :=
  if k.slot = 2 then { k with pc := k.target, slot := 0, target := 0 }
  else if k.slot = 1 then { k with pc := k.pc + 4, slot := 2 }
  else { k with pc := k.pc + 4 }

/-- The word has been executed: the stall and the repeat marks end, and the pc advances. -/
def Control.finish (k : Control) : Control :=
  { k.advance with stalled := false, wait := none, arrived := false, denied := none }

/-- Return from a user handler (R106): at the trapping word for NOTREADY, whose issue is a repeat unless the handler moved UEPC (R298),
after it for a program cause; the remaining delay slots and the pending transfer follow. -/
def Tile.userReturn (t : Tile) : Tile :=
  let u := t.user
  let back : Control := { t.control with pc := BitVec.ofNat 17 (u.uepc.toNat * 4), slot := u.slot,
                                          target := BitVec.ofNat 17 u.tgt.toNat, arrived := u.again }
  { t with user := { u with inHandler := false },
           control := if u.ucause = causeNotready then back else { back.advance with arrived := false } }

/-- ov.tile.go on a resumable FAULTED tile (R215, R58): DEBUG continues at the recorded word, the
other causes after it. -/
def Tile.trapReturn (t : Tile) : Tile :=
  let r := t.trap
  let back : Control := { t.control with pc := BitVec.ofNat 17 r.addr.toNat, slot := BitVec.ofNat 2 r.idx.toNat,
                                          target := BitVec.ofNat 17 r.tgt.toNat }
  { t with control := if r.cause = causeDebug then back else { back.advance with arrived := false } }

/-- A trap of a supervisor, as the RISC-V privileged architecture enters it: saved pc, cause, value and status, the mode
and the handler's address (R208, R209, R212). It goes to supervisor mode when it is delegated and the mode is not machine
mode. An interrupt enters a vectored handler at its own slot. -/
def Cluster.takeTrap (k : Cluster) (interrupt : Bool) (cause : Nat) (val : W64) : Cluster :=
  let deleg := if interrupt then k.mideleg else k.medeleg
  let toS := decide (k.mode ≠ 3) && deleg.getLsbD cause
  let csr := if toS then k.s else k.m
  let csr' : TrapCsr :=
    { csr with
      epc := k.pc, cause := BitVec.ofNat 64 ((if interrupt then 2 ^ 63 else 0) + cause), val := val, pie := csr.ie, ie := false, pp := k.mode }
  let base := csr.vec.toNat / 4 * 4
  let pc : W64 := BitVec.ofNat 64 (if interrupt ∧ csr.vec.toNat % 4 = 1 then base + 4 * cause else base)
  if toS then { k with pc := pc, mode := 1, s := csr', wait := none } else { k with pc := pc, mode := 3, m := csr', wait := none }

/-- An instruction of a supervisor retires: the pc goes past its bytes. -/
def Cluster.retire (k : Cluster) (len : Nat) : Cluster :=
  { k with pc := k.pc + BitVec.ofNat 64 len, csr := { k.csr with instret := k.csr.instret + 1 } }

/-- RISC-V exception codes that this spec names (R209, R212), and that of a fetch from what holds no storage (R384). -/
def excIllegal : Nat := 2
def excFetchAccess : Nat := 1
def excLoadAccess : Nat := 5
def excStoreMisaligned : Nat := 6
def excStoreAccess : Nat := 7

/-- A block-stream fault (R242, R243): the stream records its fault and enters FAULTED, the other
block streams stop, and the tile becomes FAULTED for its supervisor. -/
def Tile.blockFault (t : Tile) (x : BStream) (cause : Byte) (idx : BitVec 4) : Tile :=
  let y := t.stream x
  let t' := (t.write fun p => p.stream == x).setStream x { y with state := .faulted, faultIdx := idx, faultCause := cause }
  t'.takeTrap { cause := cause, stream := BitVec.ofNat 8 (streamCode x + 1), idx := BitVec.ofNat 8 idx.toNat,
                addr := BitVec.ofNat 32 y.pos.toNat, val := 0, tgt := 0 }

end Sys2Proof.Machine
end

