-- ==== Sys2Proof/Machine/Operands.lean ====
section
/-!
DEFINITION. Sys2Proof/Machine/Operands.lean: how an instruction reaches its operands: the page
walk and the cluster TLB, the checks on an access, the versions of a line, sealed lines, and the
reading and writing of bytes by the agents of the part (R253 to R257, R353 to R374, R395 to R400).
-/

namespace Sys2Proof.Machine

/-- What keeps an access or an instruction from its effect. -/
inductive Bad where
  /-- A fault of the given cause (R10), with the value the trap record keeps. -/
  | trap (cause : Byte) (val : W64)
  /-- An uncorrectable error is consumed at the address (R396). -/
  | consumed (pa : Nat)
  /-- An uncorrectable error is consumed in a row of a tile's accumulator banks (R396). -/
  | acc (t : BitVec 6) (row : Nat)
  /-- An access to another package completes as a consumed uncorrectable error on the consumer's die (R329). -/
  | lost (d : BitVec 2) (gpa : Nat)
  /-- The integrity tag of the line fails (R399). -/
  | integrity (pa : Nat)
  /-- A version record is denied (R366): the writer waits, at most for the bound. -/
  | denied (pa : Nat)
  /-- The instruction waits and has had no effect (R75). -/
  | stall
  /-- An exposed word freezes the tile at a queue (R237, R238). -/
  | queue (q : BitVec 3)
  /-- Bytes of another package are needed first: their group address, their number and the
  attributes of the page (R326). -/
  | away (gpa n attr : Nat)
deriving DecidableEq, Repr

abbrev Res (α : Type) := Except Bad α

def need (b : Bool) (cause : Byte) (val : W64 := 0) : Res Unit := if b then .ok () else .error (.trap cause val)

/-! ## Translation -/

/-- ea[63:57] is a copy of ea[56] (R59). -/
def canonical (ea : W64) : Bool := wbits ea 63 56 == 0 || wbits ea 63 56 == 255

/-- The 57-bit virtual address of a 64-bit one. -/
def vaddr (ea : W64) : Nat := ea.toNat % 2 ^ 57

/-- The line's stack and span: a page that may be versioned or logged lies in the versioned span (R353). -/
def State.inSpan (s : State) (pa : Nat) : Bool :=
  decide (s.versions.sfirst.toNat * 2 ^ 30 ≤ pa) &&
  decide (pa < (s.versions.sfirst.toNat + s.versions.scount.toNat) * 2 ^ 30)

def State.ownPkg (s : State) (gpa : Nat) : Bool := gpa / 2 ^ 48 == s.fabric.pkg.toNat
def localOf (gpa : Nat) : Nat := gpa % 2 ^ 48
def State.group (s : State) (pa : Nat) : Nat := s.fabric.pkg.toNat * 2 ^ 48 + pa

/-- A package is reachable under TOPO and the path tables (R328). -/
def State.reachable (s : State) (d : BitVec 2) (pkg : Nat) : Bool :=
  if wbit s.fabric.topo 63 then
    decide (pkg < (wbits s.fabric.topo 9 0 + 1) * (wbits s.fabric.topo 19 10 + 1) * (wbits s.fabric.topo 29 20 + 1))
  else (upto 64).any fun k => ((tval 0 (s.die d).paths (64 * pkg + k) : Byte).getLsbD 7)

/-- Accesses to a die's scratch stall while firmware changes the die's pool partition (R251). -/
def State.scratchBusy (s : State) (pa : Nat) : Bool :=
  match place pa with
  | .scratch d _ => (s.die d).partition.isSome
  | _ => false

/-- One page-table entry (R253): an 8-byte read of storage of the own package; a quarantined frame refuses it (R400). -/
def State.pte (s : State) (a : Nat) : Res Nat :=
  if !s.storage a then .error (.trap causeXlate 0)
  else if s.quarantined a then .error (.trap causePerm 0)
  else if s.scratchBusy a then .error .stall
  else if s.anyPoison a 8 then .error (.consumed a)
  else .ok (leNat (s.mem.bytes a 8))

/-- The leaf an entry gives at a level, under R253 and R255. -/
def State.leafOf (s : State) (e lv : Nat) : Option Leaf :=
  let size := if lv = 2 then 2 ^ 30 else if lv = 1 then 2 ^ 21 else 2 ^ 12
  let ppn := bits e 45 11
  let pa := ppn * 4096
  let leaf : Leaf :=
    { base := bits e 55 46 * 2 ^ 48 + pa, size := size, r := bits e 1 1 == 1, w := bits e 2 2 == 1,
      mt := BitVec.ofNat 2 (bits e 8 7), ver := bits e 4 4 == 1, ckpt := bits e 5 5 == 1,
      sealed := bits e 6 6 == 1, key := BitVec.ofNat 8 (bits e 63 56) }
  if lv > 2 then none
  else if !leaf.r && leaf.w then none
  else if leaf.mt = 3 ∨ bits e 10 9 ≠ 0 then none
  else if !leaf.sealed && leaf.key ≠ 0 then none
  else if bits e 3 3 = 1 ∧ lv ≠ 0 then none
  else if pa % size ≠ 0 then none
  else if (leaf.ver || leaf.ckpt || leaf.sealed) && !decide (pa < hbmEnd) then none
  else if s.ownPkg leaf.base && (leaf.ver || leaf.ckpt) && !s.inSpan pa then none
  else if s.ownPkg leaf.base && decide (place pa = .hole) then none
  else some leaf

/-- The sixteen entries of a 64 KiB group agree in all but PPN[3:0], and PPN[3:0] of entry j is j (R253). -/
def State.group64 (s : State) (a : Nat) : Res Bool :=
  (upto 16).foldlM (init := true) fun ok j => do
    let e0 ← s.pte a
    let e ← s.pte (a + 8 * j)
    return ok && bits e 14 11 == j && bits e 10 0 == bits e0 10 0 && bits e 63 15 == bits e0 63 15

/-- The walk of R253 from a level downwards: the page's virtual base and its leaf. -/
def State.walkFrom (s : State) (va : Nat) : Nat → Nat → Res (Nat × Leaf)
  | 0, _ => .error (.trap causeXlate 0)
  | lv + 1, table => do
    let a := table + 8 * bits va (9 * lv + 20) (9 * lv + 12)
    let e ← s.pte a
    if bits e 0 0 = 0 then .error (.trap causeXlate 0)
    else if bits e 2 1 = 0 then
      if lv = 0 ∨ bits e 10 3 ≠ 0 ∨ bits e 63 56 ≠ 0 ∨ bits e 55 46 ≠ s.fabric.pkg.toNat then .error (.trap causeXlate 0)
      else s.walkFrom va lv (bits e 45 11 * 4096)
    else if bits e 3 3 = 1 ∧ lv = 0 then
      let ok ← s.group64 (a / 128 * 128)
      let e0 ← s.pte (a / 128 * 128)
      match s.leafOf e0 0 with
      | some leaf => if ok then .ok (va / 2 ^ 16 * 2 ^ 16, { leaf with size := 2 ^ 16 }) else .error (.trap causeXlate 0)
      | none => .error (.trap causeXlate 0)
    else match s.leafOf e lv with
      | some leaf => .ok (va / leaf.size * leaf.size, leaf)
      | none => .error (.trap causeXlate 0)

def State.walk (s : State) (root va : Nat) : Res (Nat × Leaf) := s.walkFrom va 5 root

/-- A held translation covers a virtual address of a root. -/
def Held.covers (h : Held) (root va : Nat) : Bool :=
  h.root == root && decide (h.va ≤ va) && decide (va < h.va + h.leaf.size)

/-- Translation of a C-stream access: the entry its cluster TLB holds, else a walk (R256). -/
def State.translate (s : State) (t : BitVec 6) (root : Nat) (ea : W64) : Res (Nat × Leaf) :=
  if !canonical ea then .error (.trap causeXlate ea)
  else
    let va := vaddr ea
    match (s.cluster (tileCluster t)).tlb.find? fun h => h.covers root va with
    | some h => .ok (h.va, h.leaf)
    | none => match s.walk root va with
      | .error (.trap c _) => .error (.trap c ea)
      | r => r

/-- The group physical address under a page's leaf. -/
def leafPa (va : Nat) (page : Nat × Leaf) : Nat := page.2.base + (va - page.1)

/-! ## Checks on an access (R45, R63, R251, R255) -/

inductive AccessKind where
  | read | write | atomic
deriving DecidableEq, Repr

/-- XLATE, then PERM, of n bytes at a group physical address under a leaf. What another package's storage holds is known to
the requester as Config.farAbsent says. -/
def State.checkAccess (s : State) (d : BitVec 2) (k : AccessKind) (leaf : Leaf) (gpa n : Nat) (ea : W64) : Res Unit := do
  let pa := localOf gpa
  let own := s.ownPkg gpa
  let named (q : Nat) : Bool :=
    registerAt q || (if own then s.storage q else place q != .hole && !Config.farAbsent (gpa / 2 ^ 48 * 2 ^ 48 + q))
  need ((own || s.reachable d (gpa / 2 ^ 48)) && spanAll pa n named) causeXlate ea
  need (k = .write || leaf.r) causePerm ea
  need (k = .read || leaf.w) causePerm ea
  need (!leaf.sealed || s.keyHeld leaf.key) causePerm ea
  need (!own || spanAll pa n fun q => !(s.carveOut q || s.quarantined q)) causePerm ea
  need ((spanAll pa n fun q => !registerAt q) || (k != .atomic && (n == 4 || n == 8) && pa % n == 0 && !keyRegAt pa)) causePerm ea

/-! ## The commit clock (R357) -/

/-- The clock at which the package rebases. -/
def rebaseClock : Nat := 0x800000000000

/-- CLOCK := CLOCK + 1; at the rebase value, stamps wait from here on. -/
def State.tick (s : State) : State :=
  let c := s.versions.clock + 1
  { s with versions := { s.versions with clock := c, rebasing := s.versions.rebasing || decide (rebaseClock ≤ c.toNat) } }

/-! ## Versions of a line (R353 to R372) -/

def LineMeta.blank : LineMeta := { stamp := 0, chain := [], owner := 0, intv := 0, tent := false, undo := false }
def State.line (s : State) (l : Nat) : LineMeta := tval LineMeta.blank s.versions.lines l
def State.setLine (s : State) (l : Nat) (m : LineMeta) : State :=
  { s with versions := { s.versions with lines := tset LineMeta.blank s.versions.lines l m } }
def State.record? (s : State) (i : Nat) : Option Record := tget s.versions.records i
def State.records (s : State) (l : Nat) : List (Nat × Record) :=
  (s.line l).chain.filterMap fun i => (s.record? i).map fun r => (i, r)

/-- An interval tag belongs to an open interval of a live checkpoint-mode node (R354, R368). -/
def State.openTag (s : State) (tag : BitVec 24) : Bool :=
  s.pool.nodes.any fun n => n.ckpt && decide (n.phase = .running) && n.tag == tag
/-- UNDO counts as 1 only while INTV is the tag of an open interval (R354). -/
def State.undoOf (s : State) (l : Nat) : Bool := (s.line l).undo && s.openTag (s.line l).intv

/-- The live snapshots: of open transactions and of nodes (R360). -/
def State.liveSnaps (s : State) : List Nat :=
  (s.versions.txs.filterMap fun e => if e.2.ended then none else some e.2.snapshot) ++ s.versions.nodeSnaps

/-- The low-water mark (R367). -/
def State.lwm (s : State) : Nat := s.liveSnaps.foldl min s.versions.clock.toNat

/-- NREC of R355 and the free records of VSTAT. -/
def State.nrec (s : State) : Nat := s.versions.gib.toNat * 2 ^ 30 / 144
def State.freeRecords (s : State) : Nat := s.nrec - s.versions.records.length

/-- A record is reclaimable (R367): committed, unmarked, with a newer committed version at or below LWM;
or undo only with its interval closed. -/
def State.reclaimable (s : State) (l i : Nat) : Bool :=
  match s.record? i with
  | none => false
  | some r =>
    let uOpen := r.u && s.openTag r.intv
    let newer := (s.records l).takeWhile fun e => e.1 != i
    (r.kind == 0 && !uOpen &&
      (decide ((s.line l).stamp.toNat ≤ s.lwm) || newer.any fun e => e.2.kind == 0 && decide (e.2.stamp.toNat ≤ s.lwm))) ||
    (r.kind == 2 && !uOpen)

/-- Unlink a record and free it. -/
def State.freeRecord (s : State) (l i : Nat) : State :=
  let s' := s.setLine l { s.line l with chain := (s.line l).chain.filter (· != i) }
  { s' with versions := { s'.versions with records := tdrop s'.versions.records i } }

/-- Reclaim what the line allows (R366). -/
def State.reclaimLine (s : State) (l : Nat) : State :=
  ((s.line l).chain.filter (s.reclaimable l)).foldl (fun s i => s.freeRecord l i) s

/-- The lowest index no record has. -/
def freeIndex {α : Type} : Table α → Nat → Nat
  | [], i => i
  | (k, _) :: r, i => if k = i then freeIndex r (i + 1) else i

def lineAddr (l : Nat) : Nat := l * 128
/-- Bytes of the in-place value and its poison by half-line. -/
def State.lineData (s : State) (l : Nat) : List Byte := s.mem.bytes (lineAddr l) 128
def State.linePoison (s : State) (l : Nat) : BitVec 2 :=
  BitVec.ofNat 2 (b2n (s.poisoned (lineAddr l)) + 2 * b2n (s.poisoned (lineAddr l + 64)))

/-- A new record of a line as its newest (R366), when one can be had. -/
def State.pushRecord (s : State) (l : Nat) (r : Record) : Res State :=
  let s' := s.reclaimLine l
  if (s'.line l).chain.length ≥ 7 ∨ s'.freeRecords = 0 then .error (.denied (lineAddr l))
  else
    let i := freeIndex s'.versions.records 0
    let s'' := { s' with versions := { s'.versions with records := tput s'.versions.records i r } }
    .ok (s''.setLine l { s''.line l with chain := i :: (s''.line l).chain })

/-- Who writes: the handle of the writer's node, if any (R370, R371). -/
structure Writer where
  node : Option W32
  tile : Option (BitVec 6)
deriving DecidableEq, Repr

def State.writerNode (s : State) (w : Writer) : Option Node := w.node.bind s.node?

/-- The place of a write that keeps a checkpoint interval rollable: a CKPT page of HBM, or the tile
store of a share of the node (R371). -/
def State.rollablePlace (s : State) (n : Node) (leaf : Leaf) (gpa : Nat) : Bool :=
  s.ownPkg gpa &&
  (match place (localOf gpa) with
   | .hbm => leaf.ckpt
   | .tileStore t _ => n.shares.any fun x => x.tile == t && decide (x.phase = .loaded)
   | _ => false)

/-- A write outside what its node's interval keeps: the interval is unrollable from now on (R371). -/
def State.spoil (s : State) (w : Writer) : State :=
  match s.writerNode w with
  | some n => if n.ckpt then s.onNode n.handle fun n => { n with unrollable := true } else s
  | none => s

/-- A write makes intervals unrollable under the two cases of R371. -/
def State.markUnrollable (s : State) (w : Writer) (leaf : Leaf) (gpa : Nat) : State :=
  let s1 := match s.writerNode w with
    | some n => if n.ckpt && !s.rollablePlace n leaf gpa then s.onNode n.handle fun n => { n with unrollable := true } else s
    | none => s
  let l := localOf gpa / 128
  if s1.ownPkg gpa && s1.undoOf l then
    let g := (s1.line l).intv
    let nodes := s1.pool.nodes.map fun n =>
      if n.ckpt ∧ n.tag = g ∧ some n.handle ≠ w.node then { n with unrollable := true } else n
    { s1 with pool := { s1.pool with nodes := nodes } }
  else s1

/-- What a write with carried stamp c does to a line before its bytes change (R358, R370): the old
value is kept where a live snapshot or the undo log needs it. -/
def State.beforeWrite (s : State) (w : Writer) (leaf : Leaf) (l : Nat) (c : Nat) : Res State := do
  let m := s.line l
  let n := s.writerNode w
  let tag : BitVec 24 := match n with | some n => n.tag | none => 0
  let logs := leaf.ckpt && (match n with | some n => n.ckpt | none => false) && !(s.undoOf l && m.intv == tag)
  let keep := leaf.ver && decide (m.stamp.toNat ≠ c) &&
    s.liveSnaps.any fun x => decide (m.stamp.toNat ≤ x) && decide (x < c)
  let s1 ← if keep || logs then
      s.pushRecord l { line := l, data := s.lineData l, stamp := m.stamp, kind := if keep then 0 else 2,
                       u := logs, poison := s.linePoison l, tag := tget s.seals l, viaCkpt := false, viaPlain := false,
                       intv := if logs then tag else 0 }
    else .ok s
  let m1 := s1.line l
  let m2 := if logs then { m1 with intv := tag, undo := true } else m1
  return s1.setLine l (if leaf.ver then { m2 with stamp := BitVec.ofNat 48 c } else m2)

/-- A write that has waited since a time for a version record has waited for BOUND µs (R366). -/
def State.overdue (s : State) (since : Option Nat) : Bool :=
  decide (s.versions.bound = 0) ||
  (match since with
   | some n => decide (n + 1000 * s.versions.bound.toNat ≤ s.time.ns.toNat)
   | none => false)

/-- The time since which it waits. -/
def State.waits (s : State) (since : Option Nat) : Option Nat := some (since.getD s.time.ns.toNat)

/-- The newest committed version of a line at or below a stamp (R359). -/
def State.versionAt (s : State) (l stamp : Nat) : List Byte × BitVec 2 × Option SealTag :=
  if (s.line l).stamp.toNat ≤ stamp then (s.lineData l, s.linePoison l, tget s.seals l)
  else match (s.records l).find? fun e => e.2.kind == 0 && decide (e.2.stamp.toNat ≤ stamp) with
    | some e => (e.2.data, e.2.poison, e.2.tag)
    | none => (s.lineData l, s.linePoison l, tget s.seals l)

/-- The tentative record of a transaction on a line (R362). -/
def State.tentative (s : State) (l : Nat) (slot : Byte) : Option (Nat × Record) :=
  if (s.line l).tent && (s.line l).owner == slot then (s.records l).find? fun e => e.2.kind == 1 else none

/-! ## Sealed lines (R255, R374, R399) -/

/-- The key material of a slot. -/
def State.key (s : State) (slot : Byte) : BitVec 768 := (tget s.keys.slots slot.toNat).getD 0

/-- Check a version's tag under a SEAL leaf (R399, step 2). -/
def State.tagOk (s : State) (leaf : Leaf) (tag : Option SealTag) : Bool :=
  !leaf.sealed || (match tag with | none => true | some g => g.good && g.key == s.key leaf.key)

/-- How a byte of a version reads under a leaf: plaintext through the key, ciphertext without SEAL. -/
def State.sealView (s : State) (leaf : Leaf) (tag : Option SealTag) (gpa : Nat) (b : Byte) : Byte :=
  match tag, leaf.sealed with
  | none, true => Config.unsealedByte (s.key leaf.key) gpa
  | some g, false => if g.good then Config.cipherByte g.key g.stamp.toNat gpa else b
  | _, _ => b

/-- What a write of bytes [o, o+n) of a line through a leaf does to the line's tag, and to the bytes it
leaves alone when the line changes between sealed and plain. -/
def State.sealLine (s : State) (leaf : Leaf) (l : Nat) (stamp : BitVec 48) (tag : Option SealTag) (data : List Byte)
    (o n : Nat) : List Byte × Option SealTag :=
  let whole := o = 0 ∧ 128 ≤ n
  let each (f : Nat → Byte) : List Byte := (upto 128).map fun i => f (s.group (lineAddr l + i))
  let fresh : SealTag := { key := s.key leaf.key, stamp := stamp, good := true }
  match leaf.sealed, tag with
  | false, none => (data, none)
  | false, some g =>
    if whole then (data, none)
    else if g.good then (each fun a => Config.cipherByte g.key g.stamp.toNat a, some { g with good := false })
    else (data, some g)
  | true, none => if whole then (data, some fresh) else (each fun a => Config.unsealedByte (s.key leaf.key) a, some fresh)
  | true, some g =>
    if whole ∨ (g.good ∧ g.key = s.key leaf.key) then (data, some fresh) else (data, some { g with good := false })

def State.setSeal (s : State) (l : Nat) (tag : Option SealTag) : State :=
  match tag with
  | some g => { s with seals := tput s.seals l g }
  | none => { s with seals := tdrop s.seals l }

/-- The same for the in-place value of line l, before bytes [pa, pa+n) are stored. -/
def State.sealWrite (s : State) (leaf : Leaf) (l pa n : Nat) : State :=
  let tag := tget s.seals l
  if !leaf.sealed && tag.isNone then s
  else
    let r := s.sealLine leaf l (s.line l).stamp tag (s.lineData l) (pa - lineAddr l) n
    ({ s with mem := s.mem.setBytes (lineAddr l) r.1 }).setSeal l r.2

/-! ## Reading and writing bytes -/

/-- Which version a read returns (R359). -/
inductive View where
  | newest
  | snapshot (stamp : Nat)
  | tx (slot : Byte) (stamp : Nat)
deriving DecidableEq, Repr

/-- The version of a line that a view returns under a leaf; none for the bytes in place (R359, R362). -/
def State.versionOf (s : State) (leaf : Leaf) (view : View) (l : Nat) : Option (List Byte × BitVec 2 × Option SealTag) :=
  if !leaf.ver ∨ hbmEnd ≤ lineAddr l then none else match view with
    | .newest => none
    | .snapshot st => some (s.versionAt l st)
    | .tx slot st => some (match s.tentative l slot with
      | some (_, r) => (r.data, r.poison, r.tag)
      | none => s.versionAt l st)

/-- The first granule with an uncorrectable error that a read of [pa, pa+n) of one line meets (R396): among those of the bytes read, or
under a SEAL leaf among both halves of the line (R399). -/
def State.badPart (s : State) (leaf : Leaf) (view : View) (pa n : Nat) : Option Nat :=
  let l := pa / 128
  let o := if leaf.sealed && decide (pa < hbmEnd) then lineAddr l else pa
  let k := if leaf.sealed && decide (pa < hbmEnd) then 128 else n
  match s.versionOf leaf view l with
  | none => if s.anyPoison o k then some (s.firstBad o k) else none
  | some v => [0, 1].findSome? fun (h : Nat) =>
      let g := lineAddr l + 64 * h
      if v.2.1.getLsbD h && decide (o < g + 64) && decide (g < o + k) then some g else none

/-- Bytes [pa, pa+n) of one line or one SRAM place, with whether they carry poison. -/
def State.readPart (s : State) (leaf : Leaf) (view : View) (pa n : Nat) : Res (List Byte × Bool) :=
  let l := pa / 128
  let got : List Byte × Option SealTag := match s.versionOf leaf view l with
    | none => (s.mem.bytes pa n, if pa < hbmEnd then tget s.seals l else none)
    | some v => ((v.1.drop (pa - lineAddr l)).take n, v.2.2)
  if s.scratchBusy pa then .error .stall
  else if (s.badPart leaf view pa n).isSome then .ok (List.replicate n 0, true)
  else if !s.tagOk leaf got.2 then .error (.integrity pa)
  else .ok ((got.1.zipIdx).map fun e => s.sealView leaf got.2 (s.group (pa + e.2)) e.1, false)

/-- The pieces of [pa, pa+n) that lie in one line each; `fuel` bounds their number. -/
def pieces : Nat → Nat → Nat → List (Nat × Nat)
  | 0, _, _ => []
  | fuel + 1, pa, n =>
    if n = 0 then []
    else
      let k := min n (128 - pa % 128)
      (pa, k) :: pieces fuel (pa + k) (n - k)

/-- Bytes of the own package under a leaf; the flag says that an uncorrectable error is among them. -/
def State.readLocal (s : State) (leaf : Leaf) (view : View) (pa n : Nat) : Res (List Byte × Bool) :=
  (pieces (n / 128 + 2) pa n).foldlM (init := ([], false)) fun acc e => do
    let r ← s.readPart leaf view e.1 e.2
    return (acc.1 ++ r.1, acc.2 || r.2)

/-- The granule in which bytes [pa, pa+n) read with an error have it. -/
def State.granuleInError (s : State) (leaf : Leaf) (view : View) (pa n : Nat) : Nat :=
  ((pieces (n / 128 + 2) pa n).findSome? fun e => s.badPart leaf view e.1 e.2).getD pa

/-- Read that consumes errors: an uncorrectable error ends it (R396). -/
def State.readChecked (s : State) (leaf : Leaf) (view : View) (pa n : Nat) : Res (List Byte) := do
  let r ← s.readLocal leaf view pa n
  if r.2 then .error (.consumed (s.granuleInError leaf view pa n)) else return r.1

/-- Bytes of one line or one SRAM place written with a carried stamp. Plain writes to versioned lines stall while the package
rebases its stamps; a write from another package takes a stamp and is none of them (R357). -/
def State.writePart (s : State) (w : Writer) (leaf : Leaf) (pa : Nat) (bs : List Byte) (stamp : Nat) (plain : Bool := true) :
    Res State := do
  let l := pa / 128
  let s1 := s.markUnrollable w leaf (s.group pa)
  if pa < hbmEnd then
    if plain && leaf.ver && s.versions.rebasing then .error .stall
    else
      let s2 ← if leaf.ver || leaf.ckpt then s1.beforeWrite w leaf l stamp else .ok s1
      return (s2.sealWrite leaf l pa bs.length).put pa bs
  else if s.scratchBusy pa then .error .stall
  else return s1.put pa bs

/-- A write of bytes of the own package, line by line, carrying the commit clock's value (R357, R358). -/
def State.writeLocal (s : State) (w : Writer) (leaf : Leaf) (pa : Nat) (bs : List Byte) (plain : Bool := true) : Res State :=
  (pieces (bs.length / 128 + 2) pa bs.length).foldlM (init := s) fun s e =>
    s.writePart w leaf e.1 ((bs.drop (e.1 - pa)).take e.2) s.versions.clock.toNat plain

/-- A leaf with every right and no attribute: what an agent that is not translated uses. -/
def openLeaf : Leaf :=
  { base := 0, size := 2 ^ 48, r := true, w := true, mt := 0, ver := false, ckpt := false, sealed := false, key := 0 }

/-- NODE of an error record: the node number of a handle, or none (R401). -/
def State.recordNode (s : State) (node : Option W32) : W32 :=
  match node.bind s.node? with
  | some n => BitVec.ofNat 32 n.number
  | none => 0xFFFFFFFF

/-- FLAGS of an error that ends or rolls back a node: ROLL, or UNROLL for an unrollable interval (R371, R398,
R401). -/
def State.rollFlags (s : State) (node : Option W32) (cause : Byte) : Byte :=
  match node.bind s.node? with
  | some n => if n.ckpt && (cause == causePoison || cause == causeSegchk) then (if n.unrollable then 0x10 else 0x04) else 0
  | none => 0

/-- SEV of an error: contained, or 2 when it gives the node a cause (R401). -/
def severity (cause : Byte) : Byte := if cause = 0 then 1 else 2

/-- An uncorrectable error consumed while a close of its node's interval is in progress abandons the close (R368). -/
def State.abandonClose (s : State) (node : Option W32) : State :=
  match node.bind s.node? with
  | some n =>
    if n.ckpt && (decide (n.closing ≠ .no) || n.shares.any Share.closed) then
      s.onNode n.handle fun n => { n with closing := .no, shares := n.shares.map fun y => { y with closed := false } }
    else s
  | none => s

/-- Log the consumption of an uncorrectable error, or a failed tag with its quarantine (R398 to R400). -/
def State.logError (s : State) (node : Option W32) (cause : Byte) : Bad → State
  | .consumed pa =>
    let p := errorPlace pa
    (s.abandonClose node).log p.1
      { ErrorRecord.blank with
        cls := 0x02, sev := severity cause, src := p.2.1, unit := BitVec.ofNat 16 p.2.2,
        flags := 0x02 ||| s.rollFlags node cause ||| (if (tget s.seals (pa / 128)).isSome && decide (pa < hbmEnd) then 0x01 else 0),
        row := (s.errorRow pa).1, prow := (s.errorRow pa).2,
        addr := BitVec.ofNat 64 (s.group (granuleOf pa)), cause := cause, node := s.recordNode node }
  | .acc t row =>
    let d := s.die (tileDie t)
    (s.abandonClose node).log (tileDie t)
      { ErrorRecord.blank with
        cls := 0x02, sev := severity cause, src := 1, unit := BitVec.ofNat 16 t.toNat, sub := BitVec.ofNat 16 (row / 256),
        flags := 0x02 ||| s.rollFlags node cause, row := BitVec.ofNat 32 (row % 256),
        prow := (match d.phys 1 t.toNat d.point.toNat row with | some r => BitVec.ofNat 32 r | none => 0xFFFFFFFF),
        cause := cause, node := s.recordNode node }
  | .lost d gpa =>
    (s.abandonClose node).log d
      { ErrorRecord.blank with
        cls := 0x02, sev := severity cause, src := 5, flags := s.rollFlags node cause, addr := BitVec.ofNat 64 gpa, cause := cause, node := s.recordNode node }
  | .integrity pa =>
    let p := errorPlace pa
    let free := (upto 256).find? fun j => !wbit (s.qtab[j]?.getD 0) 63
    let s' := match free with
      | some j => { s with qtab := s.qtab.set! j (BitVec.ofNat 64 (2 ^ 63 + pa / 4096 * 4096)) }
      | none => s
    let count : W32 := match free with | some j => BitVec.ofNat 32 j | none => 0xFFFFFFFF
    s'.log s'.poolDie
      { ErrorRecord.blank with
        cls := 0x03, sev := 2, src := p.2.1, flags := if free.isNone then 0x08 else 0,
        unit := BitVec.ofNat 16 p.2.2, addr := BitVec.ofNat 64 (s.group (pa / 128 * 128)),
        cause := cause, count := count, node := s.recordNode node }
  | .denied pa =>
    s.log s.poolDie
      { ErrorRecord.blank with
        cls := 0x0C, sev := severity cause, src := 4, addr := BitVec.ofNat 64 (s.group pa),
        count := BitVec.ofNat 32 s.freeRecords, cause := cause }
  | _ => s

end Sys2Proof.Machine
end

