-- ==== Sys2Proof/Machine/Flags.lean ====
section
/-!
DEFINITION. Sys2Proof/Machine/Flags.lean: the relations that set condition registers, the six
sticky flags in the order of R138, and where the flags of an instruction go (R139, R140).
-/

namespace Sys2Proof.Machine

/-- The relation cc of cmp on the values of two g registers (R24, R50). -/
def relation (cc : Nat) (a b : W64) : Bool :=
  match cc with
  | 0 => a == b
  | 1 => a != b
  | 2 => a.slt b
  | 3 => a.sle b
  | 4 => b.slt a
  | 5 => b.sle a
  | 6 => a.ult b
  | 7 => a.ule b
  | 8 => b.ult a
  | _ => b.ule a

/-- The relations cmpi offers, by its two-bit code (R23): eq, ne, lt with a signed immediate, ltn with
a natural one. -/
def relationImm (cc : BitVec 2) (a : W64) (imm : BitVec 16) : Bool :=
  match cc.toNat with
  | 0 => relation 0 a (imm.signExtend 64)
  | 1 => relation 1 a (imm.signExtend 64)
  | 2 => relation 2 a (imm.signExtend 64)
  | _ => relation 6 a (imm.setWidth 64)

/-- A set of sticky flags, NV DZ OF UF NX ST from bit 0 (R138). -/
abbrev Flags := BitVec 6
def flagNV : Flags := 1
def flagDZ : Flags := 2
def flagOF : Flags := 4
def flagUF : Flags := 8
def flagNX : Flags := 16
def flagST : Flags := 32

def flagIf (b : Bool) (f : Flags) : Flags := if b then f else 0

/-- Flags accumulate and never clear by arithmetic (R139). -/
def Tile.raiseFlags (t : Tile) (f : Flags) : Tile := { t with vflags := t.vflags ||| f }
def Bank.raiseFlags (b : Bank) (f : Flags) : Bank := { b with flags := b.flags ||| f }

end Sys2Proof.Machine
end

