-- ==== Sys2Proof/Machine/Formats.lean ====
section
/-!
DEFINITION. Sys2Proof/Machine/Formats.lean: the element formats and their values (R109 to R120), the
single rounding (R121 to R123), conversions (R127 to R129), quantisation (R131), subnormal handling
(R132) and the exact functions of R161. Values are exact rationals; every result is rounded once.
-/

namespace Sys2Proof.Machine

/-! ## Formats and values -/

/-- A floating-point element format (R112): width, exponent and mantissa widths, bias, and what its
all-ones exponent means. -/
structure FloatFormat where
  width : Nat
  exp : Nat
  man : Nat
  bias : Nat
  hasInf : Bool
  hasNan : Bool
  canonical : Nat
  largest : Nat
deriving DecidableEq, Repr

def f32 : FloatFormat := ⟨32, 8, 23, 127, true, true, 0x7FC00000, 0x7F7FFFFF⟩
def bf16 : FloatFormat := ⟨16, 8, 7, 127, true, true, 0x7FC0, 0x7F7F⟩
def f16 : FloatFormat := ⟨16, 5, 10, 15, true, true, 0x7E00, 0x7BFF⟩
def e4m3 : FloatFormat := ⟨8, 4, 3, 7, false, true, 0x7F, 0x7E⟩
def e5m2 : FloatFormat := ⟨8, 5, 2, 15, true, true, 0x7E, 0x7B⟩
def e2m1 : FloatFormat := ⟨4, 2, 1, 1, false, false, 0, 0x7⟩

/-- What an element is: a float, an integer of a width and signedness, SPOT8, or no value format (R109). -/
inductive Elem where
  | float (f : FloatFormat)
  | int (signed : Bool) (w : Nat)
  | spot
  | none
deriving DecidableEq, Repr

/-- The format of a code (R109). -/
def elemOf (t : Nat) : Elem :=
  match t with
  | 0 => .float f32
  | 1 => .float bf16
  | 2 => .float f16
  | 3 => .float e4m3
  | 4 => .float e5m2
  | 5 => .float e2m1
  | 6 => .int true 32
  | 7 => .int true 16
  | 8 => .int true 8
  | 9 => .int false 32
  | 10 => .int false 16
  | 11 => .int false 8
  | 13 => .spot
  | 14 => .int true 4
  | _ => .none

/-- The formats whose subnormals R132 flushes in exposed mode. -/
def FloatFormat.flushes (f : FloatFormat) : Bool := f == f32 || f == bf16 || f == f16

/-- A value: a NaN, an infinity, or the exact rational num / den with its sign (zeros are signed). -/
inductive Val where
  | nan (signalling : Bool)
  | inf (neg : Bool)
  | fin (neg : Bool) (num den : Nat)
deriving DecidableEq, Repr

def Val.neg : Val → Bool
  | .nan _ => false
  | .inf n => n
  | .fin n _ _ => n
def Val.isZero : Val → Bool
  | .fin _ n _ => n == 0
  | _ => false
def Val.isNan : Val → Bool
  | .nan _ => true
  | _ => false
def Val.signals : Val → Bool
  | .nan b => b
  | _ => false
def Val.isInf : Val → Bool
  | .inf _ => true
  | _ => false
def Val.flip : Val → Val
  | .nan b => .nan b
  | .inf n => .inf (!n)
  | .fin n a b => .fin (!n) a b
/-- The exact value as a fraction with a signed numerator. -/
def Val.frac : Val → Int × Nat
  | .fin n a b => (if n then -(a : Int) else a, b)
  | _ => (0, 1)

/-- m × 2^e as a value. -/
def dyadic (neg : Bool) (m : Nat) (e : Int) : Val :=
  if 0 ≤ e then .fin neg (m * 2 ^ e.toNat) 1 else .fin neg m (2 ^ (-e).toNat)

/-- The value of an encoding (R112 to R114); `flush` makes subnormal inputs zeros of their sign (R132). -/
def FloatFormat.value (f : FloatFormat) (flush : Bool) (x : Nat) : Val :=
  let neg := bits x (f.width - 1) (f.width - 1) == 1
  let e := bits x (f.width - 2) f.man
  let m := bits x (f.man - 1) 0
  let ones := 2 ^ f.exp - 1
  if f.hasInf ∧ e = ones then
    if m = 0 then .inf neg else .nan (f.width != 8 && bits m (f.man - 1) (f.man - 1) == 0)
  else if f.hasNan ∧ !f.hasInf ∧ e = ones ∧ m = 2 ^ f.man - 1 then .nan false
  else if e = 0 then
    if flush ∧ f.flushes then .fin neg 0 1 else dyadic neg m (1 - (f.bias : Int) - f.man)
  else dyadic neg (2 ^ f.man + m) ((e : Int) - f.bias - f.man)

/-- The value of a SPOT8 element (R116). -/
def spotValue (x : Nat) : Val :=
  let term (sg sh : Nat) : Int := if sh = 7 then 0 else (if sg = 1 then -1 else 1) * (2 ^ (6 - sh) : Nat)
  let t := term (bits x 7 7) (bits x 6 4) + term (bits x 3 3) (bits x 2 0)
  .fin (decide (t < 0)) t.natAbs 64

def intValue (signed : Bool) (w x : Nat) : Int := if signed then toSigned w x else (x % 2 ^ w : Nat)

/-- The value of an element of any value format. -/
def Elem.value (k : Elem) (flush : Bool) (x : Nat) : Val :=
  match k with
  | .float f => f.value flush x
  | .int sg w => let v := intValue sg w x; .fin (decide (v < 0)) v.natAbs 1
  | .spot => spotValue x
  | .none => .fin false 0 1

/-! ## Rounding (R121 to R123) -/

/-- floor(log2 (num / den)) for num > 0. -/
def floorLog2 (num den : Nat) : Int :=
  let g : Int := (Nat.log2 num : Int) - Nat.log2 den
  let below : Bool := if 0 ≤ g then decide (num < den * 2 ^ g.toNat) else decide (num * 2 ^ (-g).toNat < den)
  if below then g - 1 else g

/-- A magnitude rounded at spacing 2^x: the count of spacings, whether it is inexact, whether it went up. -/
def roundCount (mode : Nat) (neg : Bool) (num den : Nat) (x : Int) (draw : Nat) : Nat × Bool × Bool :=
  let n := if 0 ≤ x then num else num * 2 ^ (-x).toNat
  let d := if 0 ≤ x then den * 2 ^ x.toNat else den
  let k := n / d
  let r := n % d
  let up := match mode with
    | 0 => decide (d < 2 * r) || (decide (2 * r = d) && k % 2 == 1)
    | 1 => false
    | 2 => decide (65536 ≤ r * 65536 / d + draw)
    | 3 => neg && decide (r ≠ 0)
    | _ => !neg && decide (r ≠ 0)
  (if up then k + 1 else k, decide (r ≠ 0), up)

/-- A rounded magnitude k × 2^x, what became of it, and whether it is tiny (R122). -/
structure Rounded where
  count : Nat
  exp : Int
  inexact : Bool
  up : Bool
  tiny : Bool
deriving DecidableEq, Repr

/-- Step 1 of R122 for a non-zero magnitude, with an exponent range unbounded above. -/
def FloatFormat.round (f : FloatFormat) (mode : Nat) (neg : Bool) (num den draw : Nat) : Rounded :=
  let emin : Int := 1 - f.bias
  let x : Int := max (floorLog2 num den - f.man) (emin - f.man)
  let r := roundCount mode neg num den x draw
  { count := r.1, exp := x, inexact := r.2.1, up := r.2.2, tiny := decide (x = emin - f.man) && decide (r.1 < 2 ^ f.man) }

def signBit (f : FloatFormat) (neg : Bool) : Nat := if neg then 2 ^ (f.width - 1) else 0

/-- The encoding of a rounded magnitude that is no larger than the largest finite value. -/
def FloatFormat.pack (f : FloatFormat) (neg : Bool) (k : Nat) (x : Int) : Nat :=
  let y : Nat × Int := if 2 ^ (f.man + 1) ≤ k then (k / 2, x + 1) else (k, x)
  if y.1 < 2 ^ f.man then signBit f neg + y.1
  else signBit f neg + (y.2 + f.man + f.bias).toNat * 2 ^ f.man + (y.1 - 2 ^ f.man)

/-- Whether k × 2^x exceeds the largest finite value. -/
def FloatFormat.exceeds (f : FloatFormat) (k : Nat) (x : Int) : Bool :=
  match f.value false f.largest with
  | .fin _ n d => if 0 ≤ x then decide (n < k * 2 ^ x.toNat * d) else decide (n * 2 ^ (-x).toNat < k * d)
  | _ => false

/-- The encoding of an infinity: the canonical NaN in E4M3, the largest finite value in E2M1 (R127). -/
def FloatFormat.infinity (f : FloatFormat) (neg : Bool) : Nat :=
  if f.hasInf then signBit f neg + (2 ^ f.exp - 1) * 2 ^ f.man
  else if f.hasNan then f.canonical else signBit f neg + f.largest

/-- Round and encode a value (R122, R127, R132): the encoding and its flags. -/
def FloatFormat.convert (f : FloatFormat) (mode : Nat) (sat flush : Bool) (draw : Nat) (v : Val) : Nat × Flags :=
  match v with
  | .nan sig => if f.hasNan then (f.canonical, flagIf sig flagNV) else (0, flagNV)
  | .inf neg =>
    if f = e2m1 then (signBit f neg + f.largest, flagNV)
    else if sat then (signBit f neg + f.largest, flagST)
    else if f.hasInf then (f.infinity neg, 0) else (f.canonical, flagNV)
  | .fin neg num den =>
    if num = 0 then (signBit f neg, 0)
    else
      let r := f.round mode neg num den draw
      if f.exceeds r.count r.exp then
        if f = e2m1 ∨ sat then (signBit f neg + f.largest, flagOF ||| flagNX ||| flagST)
        else
          let toInf := match mode with
            | 0 => true
            | 2 => r.up
            | 3 => neg
            | 4 => !neg
            | _ => false
          (if toInf then f.infinity neg else signBit f neg + f.largest, flagOF ||| flagNX)
      else if r.tiny ∧ flush ∧ f.flushes then (signBit f neg, flagUF ||| flagNX)
      else (f.pack neg r.count r.exp, flagIf r.inexact flagNX ||| flagIf (r.tiny && r.inexact) flagUF)

/-- Conversion of a value to an integer format (R128): rounded at last place 1, clamped with NV. -/
def floatToInt (signed : Bool) (w : Nat) (mode draw : Nat) (v : Val) : Nat × Flags :=
  let lo : Int := if signed then -(2 ^ (w - 1) : Nat) else 0
  let hi : Int := if signed then (2 ^ (w - 1) : Nat) - 1 else (2 ^ w : Nat) - 1
  match v with
  | .nan _ => (0, flagNV)
  | .inf neg => (ofSigned w (if neg then lo else hi), flagNV)
  | .fin neg num den =>
    let r := roundCount mode neg num den 0 draw
    let x : Int := if neg then -(r.1 : Int) else r.1
    if x < lo then (ofSigned w lo, flagNV)
    else if hi < x then (ofSigned w hi, flagNV)
    else (ofSigned w x, flagIf r.2.1 flagNX)

/-- Conversion between integer formats (R129). -/
def intToInt (sg : Bool) (w : Nat) (sat : Bool) (x : Int) : Nat × Flags :=
  let lo : Int := if sg then -(2 ^ (w - 1) : Nat) else 0
  let hi : Int := if sg then (2 ^ (w - 1) : Nat) - 1 else (2 ^ w : Nat) - 1
  if sat then
    if x < lo then (ofSigned w lo, flagST) else if hi < x then (ofSigned w hi, flagST) else (ofSigned w x, 0)
  else (ofSigned w x, 0)

/-- The conversion cvt of R157: from an element of one format to the encoding of another (R127 to R129). -/
def convertElem (src dst : Elem) (mode : Nat) (sat flush : Bool) (draw x : Nat) : Nat × Flags :=
  match dst with
  | .float f => f.convert mode sat flush draw (src.value flush x)
  | .int sg w =>
    match src with
    | .int sg' w' => intToInt sg w sat (intValue sg' w' x)
    | _ => floatToInt sg w mode draw (src.value flush x)
  | _ => (0, 0)

/-! ## Exact operations -/

/-- Exact sum (IEEE 754 signs of zero: R122 step 5), with the flags of special values. -/
def addVal (mode : Nat) (a b : Val) : Val × Flags :=
  match a, b with
  | .nan x, .nan y => (.nan false, flagIf (x || y) flagNV)
  | .nan x, _ => (.nan false, flagIf x flagNV)
  | _, .nan y => (.nan false, flagIf y flagNV)
  | .inf x, .inf y => if x = y then (.inf x, 0) else (.nan false, flagNV)
  | .inf x, _ => (.inf x, 0)
  | _, .inf y => (.inf y, 0)
  | .fin x n d, .fin y n' d' =>
    let t : Int := (if x then -(n : Int) else n) * d' + (if y then -(n' : Int) else n') * d
    if t = 0 then (.fin (if n = 0 ∧ n' = 0 ∧ x = y then x else mode == 3) 0 1, 0)
    else (.fin (decide (t < 0)) t.natAbs (d * d'), 0)

/-- Exact product, with the flags of special values. -/
def mulVal (a b : Val) : Val × Flags :=
  match a, b with
  | .nan x, .nan y => (.nan false, flagIf (x || y) flagNV)
  | .nan x, _ => (.nan false, flagIf x flagNV)
  | _, .nan y => (.nan false, flagIf y flagNV)
  | .inf x, .inf y => (.inf (x ^^ y), 0)
  | .inf x, .fin y n _ => if n = 0 then (.nan false, flagNV) else (.inf (x ^^ y), 0)
  | .fin x n _, .inf y => if n = 0 then (.nan false, flagNV) else (.inf (x ^^ y), 0)
  | .fin x n d, .fin y n' d' => (.fin (x ^^ y) (n * n') (d * d'), 0)

/-- A × B + C with ∞ × 0 invalid even when C is a quiet NaN (R150). -/
def fmaVal (mode : Nat) (a b c : Val) : Val × Flags :=
  let p := mulVal a b
  let q := addVal mode p.1 c
  (q.1, p.2 ||| q.2)

/-- The exact quotient of R131. -/
def divVal (a b : Val) : Val × Flags :=
  match a, b with
  | .nan x, .nan y => (.nan false, flagIf (x || y) flagNV)
  | .nan x, _ => (.nan false, flagIf x flagNV)
  | _, .nan y => (.nan false, flagIf y flagNV)
  | .inf _, .inf _ => (.nan false, flagNV)
  | .inf x, .fin y _ _ => (.inf (x ^^ y), 0)
  | .fin x _ _, .inf y => (.fin (x ^^ y) 0 1, 0)
  | .fin x n d, .fin y n' d' =>
    if n' = 0 then (if n = 0 then (.nan false, flagNV) else (.inf (x ^^ y), flagDZ))
    else (.fin (x ^^ y) (n * d') (d * n'), 0)

/-- a < b for values that are no NaN; −0 equals +0. -/
def ltVal (a b : Val) : Bool :=
  match a, b with
  | .inf x, .inf y => x && !y
  | .inf x, _ => x
  | _, .inf y => !y
  | .fin x n d, .fin y n' d' =>
    decide ((if x then -(n : Int) else n) * d' < (if y then -(n' : Int) else n') * d)
  | _, _ => false

/-- The lesser or greater of two float elements (R151): −0 below +0, a number before a NaN. -/
def minMax (isMax : Bool) (a b : Val) (xa xb canonical : Nat) : Nat × Flags :=
  let fl := flagIf (a.signals || b.signals) flagNV
  match a, b with
  | .nan _, .nan _ => (canonical, fl)
  | .nan _, _ => (xb, fl)
  | _, .nan _ => (xa, fl)
  | _, _ =>
    let aLess := ltVal a b || (!ltVal b a && a.neg && !b.neg)
    (if aLess = isMax then xb else xa, fl)

/-! ## The functions of R161 -/

/-- floor(sqrt n), one bit at a time. -/
def isqrtGo (n : Nat) : Nat → Nat → Nat
  | 0, r => r
  | k + 1, r => let c := r + 2 ^ k; isqrtGo n k (if c * c ≤ n then c else r)
def isqrt (n : Nat) : Nat := isqrtGo n (Nat.log2 n / 2 + 1) 0

/-- A real strictly between z / 2^s and (z + 1) / 2^s, as the fraction in the middle: it rounds as the
real does, since no rounding boundary of a format lies inside. -/
def between (neg : Bool) (z s : Nat) : Val := .fin neg (2 * z + 1) (2 ^ (s + 1))

/-- 1 / sqrt(num / den). -/
def rsqrtVal (num den : Nat) : Val :=
  let s := 96 + (Nat.log2 num + 1) / 2
  let z := isqrt (den * 4 ^ s / num)
  if z * z * num = den * 4 ^ s then .fin false z (2 ^ s) else between false z s

/-- 2^f for the fraction f = num / 2^128, in units of 2^-128: the product of the roots 2^(2^-i) of the
set bits, each root the square root of the one before. -/
def exp2Go (num : Nat) : Nat → Nat → Nat → Nat
  | 0, _, acc => acc
  | k + 1, root, acc =>
    let root' := isqrt (root * 2 ^ 192)
    exp2Go num k root' (if num / 2 ^ k % 2 = 1 then acc * root' / 2 ^ 192 else acc)

/-- 2^v for a finite non-integer v, and for an integer v exactly. -/
def exp2Val (neg : Bool) (num den : Nat) : Val :=
  let t : Int := if neg then -(num : Int) else num
  let i : Int := t / (den : Int)
  let r : Nat := (t % (den : Int)).toNat
  if i > 300 then dyadic false 1 300
  else if i < -300 then dyadic false 1 (-300)
  else if r = 0 then dyadic false 1 i
  else
    let m := exp2Go (r * 2 ^ 128 / den) 128 (2 ^ 193) (2 ^ 192)
    dyadic false (2 * m + 1) (i - 193)

/-- The first n binary digits of log2 m for 1 ≤ m < 2, m in units of 2^-256: squaring shifts the
logarithm left by one digit. -/
def log2Go : Nat → Nat → Nat → Nat
  | 0, _, acc => acc
  | k + 1, m, acc =>
    let q := m * m / 2 ^ 256
    if 2 ^ 257 ≤ q then log2Go k (q / 2) (2 * acc + 1) else log2Go k q (2 * acc)

/-- log2 of a positive finite value. -/
def log2Val (num den : Nat) : Val :=
  let e := floorLog2 num den
  let m := if 0 ≤ e then num * 2 ^ 256 / (den * 2 ^ e.toNat) else num * 2 ^ (-e).toNat * 2 ^ 256 / den
  if m = 2 ^ 256 then .fin (decide (e < 0)) e.natAbs 1
  else
    let t : Int := (e * (2 ^ 100 : Nat) + (log2Go 100 m 0 : Nat)) * 2 + 1
    .fin (decide (t < 0)) t.natAbs (2 ^ 101)

/-- The exact function value before its rounding, with the special cases of R161. -/
def sfuVal (fn : Nat) (v : Val) : Val × Flags :=
  match fn, v with
  | _, .nan b => (.nan false, flagIf b flagNV)
  | 0, .inf n => (.fin n 0 1, 0)
  | 0, .fin n a b => if a = 0 then (.inf n, flagDZ) else (.fin n b a, 0)
  | 1, .inf n => if n then (.nan false, flagNV) else (.fin false 0 1, 0)
  | 1, .fin n a b => if a = 0 then (.inf n, flagDZ) else if n then (.nan false, flagNV) else (rsqrtVal a b, 0)
  | 2, .inf n => if n then (.fin false 0 1, 0) else (.inf false, 0)
  | 2, .fin n a b => if a = 0 then (.fin false 1 1, 0) else (exp2Val n a b, 0)
  | _, .inf n => if n then (.nan false, flagNV) else (.inf false, 0)
  | _, .fin n a b => if a = 0 then (.inf true, flagDZ) else if n then (.nan false, flagNV) else (log2Val a b, 0)

/-! ## Draws (R123, R124) -/

/-- One draw: the new seed, which is also the value drawn. -/
def drawSeed (s : W32) : W32 :=
  let a : W32 := if s = 0 then 0x6D2B79F5 else s
  let b := a ^^^ (a <<< 13)
  let c := b ^^^ (b >>> 17)
  c ^^^ (c <<< 5)

/-- A draw of a lane: the seeds after it and x[31:16]. -/
def drawLane (seeds : Vector W32 64) (lane : Nat) : Vector W32 64 × Nat :=
  if h : lane < 64 then
    let x := drawSeed seeds[lane]
    (seeds.set lane x, x.toNat / 65536)
  else (seeds, 0)

/-- fadd32 of R66: the exact sum rounded once, no flag. -/
def fadd32 (a b : W32) : W32 :=
  BitVec.ofNat 32 (f32.convert 0 false false 0 (addVal 0 (f32.value false a.toNat) (f32.value false b.toNat)).1).1

/-- The same sum in BF16 (R204). -/
def addBf16 (a b : Nat) : Nat := (bf16.convert 0 false false 0 (addVal 0 (bf16.value false a) (bf16.value false b)).1).1

/-- comb of R204: add, max or min of two elements of F32, BF16, I32 or N32; no flag. -/
def combine (fmt op a b : Nat) : Nat :=
  match elemOf fmt with
  | .float f =>
    if op = 0 then (if f = bf16 then addBf16 a b else (fadd32 (BitVec.ofNat 32 a) (BitVec.ofNat 32 b)).toNat)
    else (minMax (op == 1) (f.value false a) (f.value false b) a b f.canonical).1
  | .int sg w =>
    if op = 0 then (a + b) % 2 ^ w
    else if decide (intValue sg w a < intValue sg w b) = (op == 1) then b else a
  | _ => a

end Sys2Proof.Machine
end

