-- ==== Sys2Proof/Machine/Remote.lean ====
section
/-!
DEFINITION. Sys2Proof/Machine/Remote.lean: messages of Jaroc Link and accesses to memory of other
packages (R250, R326, R328, R329), and the reading and writing of bytes wherever they are homed.
-/

namespace Sys2Proof.Machine

/-! ## Messages -/

/-- Traffic class of a KIND (R326). -/
def messageClass (kind : Nat) : Option Nat :=
  match kind with
  | 0x01 | 0x03 | 0x05 => some 0
  | 0x02 | 0x04 | 0x06 => some 1
  | 0x10 | 0x11 | 0x12 | 0x18 | 0x19 => some 2
  | 0x20 | 0x21 | 0x28 | 0x30 => some 3
  | _ => none

/-- A message header (R326); flits carry 60 content bytes each (R325). -/
def messageHeader (arg tag kind sdie spkg dpkg size : Nat) : BitVec 128 :=
  BitVec.ofNat 128 (arg * 2 ^ 64 + tag % 2 ^ 23 * 2 ^ 41 + ceilDiv (16 + size) 60 % 2 ^ 9 * 2 ^ 32 + kind % 64 * 2 ^ 24 +
    ((messageClass kind).getD 0) * 2 ^ 22 + sdie % 4 * 2 ^ 20 + spkg % 1024 * 2 ^ 10 + dpkg % 1024)

def headerArg (m : BitVec 128) : Nat := bits m.toNat 127 64
def headerTag (m : BitVec 128) : Nat := bits m.toNat 63 41
def headerKind (m : BitVec 128) : Nat := bits m.toNat 29 24
def headerSdie (m : BitVec 128) : Nat := bits m.toNat 21 20
def headerSpkg (m : BitVec 128) : Nat := bits m.toNat 19 10
def headerDpkg (m : BitVec 128) : Nat := bits m.toNat 9 0

/-- A header that the first receiver keeps: an assigned KIND, its TC, no reserved bit, its kind (R326). -/
def headerOk (m : BitVec 128) (kind : Nat) : Bool :=
  headerKind m == kind && messageClass kind == some (bits m.toNat 23 22) && bits m.toNat 31 30 == 0

/-- Flow key of a message (R328). -/
def flowKey (kind arg : Nat) : Nat :=
  match kind with
  | 0x01 | 0x02 | 0x03 | 0x04 | 0x05 | 0x06 => bits arg 20 12
  | 0x10 | 0x11 | 0x12 => arg / 4
  | 0x18 | 0x19 => arg
  | _ => 0

/-- A message's flow: source die and package, destination package, class and key (R328). -/
def Message.flow (m : Message) : Nat × Nat × Nat × Nat × Nat :=
  (headerSdie m.header, headerSpkg m.header, headerDpkg m.header, bits m.header.toNat 23 22, flowKey (headerKind m.header) (headerArg m.header))

/-! ## Paths and lanes (R328) -/

/-- The direction of the shorter way round a ring of n from a to b: 0 stay, 1 positive, 2 negative; positive on a tie. -/
def ringWay (n a b : Nat) : Nat :=
  let d := (b + n - a % n) % n
  if d = 0 then 0 else if 2 * d ≤ n then 1 else 2

/-- The three coordinates of a package in the torus, each with the size of its dimension. -/
def State.coordinates (s : State) (pkg : Nat) : List (Nat × Nat) :=
  let topo := s.fabric.topo
  let nx := wbits topo 9 0 + 1
  let ny := wbits topo 19 10 + 1
  [(nx, pkg % nx), (ny, pkg / nx % ny), (wbits topo 29 20 + 1, pkg / (nx * ny))]

/-- The next hop of the torus from a package for a message between two packages, along X, then Y, then Z: its direction, 2 × the
dimension with 1 added for the negative one, and whether it crosses or has crossed the wrap link of its dimension. -/
def State.torusHop (s : State) (at_ src dst : Nat) : Option (Nat × Bool) :=
  let here := s.coordinates at_
  let hops := (upto 3).filterMap fun i =>
    let (n, a) := here[i]?.getD (1, 0)
    let from_ := ((s.coordinates src)[i]?.getD (1, 0)).2
    let way := ringWay n a ((s.coordinates dst)[i]?.getD (1, 0)).2
    if way = 0 then none
    else some (2 * i + (way - 1), if way = 1 then decide (a = n - 1 ∨ a < from_) else decide (a = 0 ∨ from_ < a))
  hops.head?

/-- The port of the torus towards a package, from DIRP. -/
def State.torusPort (s : State) (pkg : Nat) : Option Nat :=
  (s.torusHop s.fabric.pkg.toNat s.fabric.pkg.toNat pkg).map fun h => wbits s.fabric.topo (39 + 4 * h.1) (36 + 4 * h.1)

def State.pathEntry (s : State) (d : BitVec 2) (pkg k : Nat) : Byte := tval 0 (s.die d).paths (64 * pkg + k % 64)

/-- The own direct entry by which a package forwards a detour: the entry of the flow key, or where that names a detour itself the first
direct one (DEDUCED, log 76). -/
def State.directEntry (s : State) (d : BitVec 2) (pkg key : Nat) : Byte :=
  let e := s.pathEntry d pkg key
  let direct (e : Byte) : Bool := e.getLsbD 7 && !e.getLsbD 6
  if direct e then e else (((upto 64).map (s.pathEntry d pkg)).find? direct).getD 0

/-- The global port and the virtual lane by which a message of a header leaves a die. -/
def State.wayOut (s : State) (d : BitVec 2) (hdr : BitVec 128) : Option (Nat × Nat) :=
  let pkg := headerDpkg hdr
  let key := flowKey (headerKind hdr) (headerArg hdr)
  let lane := 2 * bits hdr.toNat 23 22
  if wbit s.fabric.topo 63 then
    (s.torusHop s.fabric.pkg.toNat (headerSpkg hdr) pkg).map fun h => (wbits s.fabric.topo (39 + 4 * h.1) (36 + 4 * h.1), lane + b2n h.2)
  else
    let through := headerSpkg hdr != s.fabric.pkg.toNat
    let e := if through then s.directEntry d pkg key else s.pathEntry d pkg key
    if e.getLsbD 7 then some (4 * d.toNat + e.toNat % 4, lane + b2n through) else none

/-- The global port a flow of a die leaves by. -/
def State.flowPort (s : State) (d : BitVec 2) (pkg key : Nat) : Option Nat :=
  if wbit s.fabric.topo 63 then s.torusPort pkg
  else
    let e := s.pathEntry d pkg key
    if e.getLsbD 7 then some (4 * d.toNat + e.toNat % 4) else none

/-! ## Ports (R325, R327, R329) -/

/-- A port is UP8, UP8 on the spare, or UP4. -/
def Port.up (x : Port) : Bool := x.state == 2 || x.state == 3 || x.state == 4

def State.port (s : State) (p : BitVec 4) : Port :=
  (s.die (BitVec.ofNat 2 (p.toNat / 4))).ports[p.toNat % 4]?.getD Port.reset
def State.onPort (s : State) (p : BitVec 4) (f : Port → Port) : State :=
  s.onDie (BitVec.ofNat 2 (p.toNat / 4)) fun y => { y with ports := y.ports.set! (p.toNat % 4) (f (s.port p)) }

/-- The path entry a flow key selects is valid, or the torus routes the message (R328), and its port has not failed (R329). -/
def State.pathOpen (s : State) (d : BitVec 2) (pkg key : Nat) : Bool :=
  match s.flowPort d pkg key with
  | some p => (s.port (BitVec.ofNat 4 p)).state != 5
  | none => false

/-- LINKMSG: a message of a KIND is discarded or lost at a global port (R326, R329, R402). -/
def State.linkLost (s : State) (port kind : Nat) : State :=
  s.log (BitVec.ofNat 2 (port / 4))
    { ErrorRecord.blank with
      cls := 0x0B, sev := 1, src := 5, unit := BitVec.ofNat 16 port, count := BitVec.ofNat 32 kind }

/-- CRC-16 with polynomial 0x8BB7 and initial value 0, the most significant bit of each byte first (PRESUMED, log 76). -/
def crc16 (bs : List Byte) : BitVec 16 :=
  bs.foldl (init := (0 : BitVec 16)) fun (c : BitVec 16) (b : Byte) =>
    let y : BitVec 16 := BitVec.setWidth 16 b
    (upto 8).foldl (init := c ^^^ (y <<< (8 : Nat))) fun (c : BitVec 16) _ => if c.getLsbD 15 then (c <<< (1 : Nat)) ^^^ 0x8BB7 else c <<< (1 : Nat)

/-- A flit: 60 bytes of content, the STOP mask, SEQ and the CRC over them (R325). -/
def flit (content : List Byte) (stop seq : Byte) : List Byte :=
  let bs := content ++ (upto (60 - content.length)).map Config.padByte ++ [stop, seq]
  bs ++ leBytes 2 (crc16 bs).toNat

/-- How many flits a message takes (R326). -/
def Message.flitCount (m : Message) : Nat := ceilDiv (16 + m.body.length) 60

/-- The flits of a message. -/
def Message.flits (m : Message) : List (List Byte) :=
  let content := leBytes 16 m.header.toNat ++ m.body
  (upto m.flitCount).map fun i => flit ((content.drop (60 * i)).take 60) m.stop (m.seq + BitVec.ofNat 8 i)

/-- The flow of a request (R328). -/
def State.requestFlow (s : State) (r : Request) : Nat × Nat × Nat × Nat × Nat :=
  (r.die.toNat, s.fabric.pkg.toNat, r.addr / 2 ^ 48, 0, bits r.addr 20 12)

/-- A request that left by the old path of a message's flow is not answered yet (R328). -/
def State.drains (s : State) (m : Message) : Bool :=
  !s.fabric.drain.isEmpty && s.fabric.requests.any fun r => s.fabric.drain.contains r.tag && s.requestFlow r == m.flow

/-- A message leaves by its port now: the port is up and its lane is not stopped (R327), no message of its lane there, or of its flow
anywhere, waits before it, and none of its flow is on its way by an earlier path (R328). -/
def State.mayLeave (s : State) (before : List Message) (m : Message) : Bool :=
  let x := s.port (BitVec.ofNat 4 m.port)
  x.up && !x.stop.getLsbD m.lane && !s.drains m &&
  before.all fun k => !((k.port == m.port && k.lane == m.lane) || k.flow == m.flow)

/-- The flits of a message go out; a sender keeps its last 256 (R325). -/
def State.transmit (s : State) (m : Message) : State :=
  let p := BitVec.ofNat 4 m.port
  let x := s.port p
  let m' := { m with seq := x.seq, stop := x.own }
  let kept := x.kept ++ m'.flits
  let s1 := s.onPort p fun x => { x with seq := x.seq + BitVec.ofNat 8 m.flitCount, kept := kept.drop (kept.length - 256) }
  { s1 with fabric := { s1.fabric with outbox := s1.fabric.outbox ++ [m'] } }

/-- Flits of a message, by its NFLIT (R326). -/
def headerFlits (m : BitVec 128) : Nat := bits m.toNat 40 32

/-- The lane by which a message came in at a port (R328). -/
def State.laneIn (s : State) (p : BitVec 4) (m : BitVec 128) : Nat :=
  let peer := (s.port p).peerPkg.toNat
  let crossed :=
    if wbit s.fabric.topo 63 then ((s.torusHop peer (headerSpkg m) (headerDpkg m)).map (·.2)).getD false else headerSpkg m != peer
  2 * bits m.toNat 23 22 + b2n crossed

/-- The port and the header of a message that can wait here. -/
def messageIn (i : Instr) : Option (BitVec 4 × BitVec 128) :=
  match i with
  | .readRequest p m _ _ => some (p, m)
  | .writeRequest p m _ _ => some (p, m)
  | .atomicRequest p m _ _ _ _ _ => some (p, m)
  | .routeHeader p m _ _ _ _ => some (p, m)
  | .reductionContribution p m _ _ _ _ _ _ => some (p, m)
  | _ => none

/-- Flits in the buffer of a receiving lane: of messages that wait here, and of those that have not gone on (R327). -/
def State.occupancy (s : State) (g lane : Nat) : Nat :=
  (s.versions.waiting.map fun w => match messageIn w.2 with
    | some (p, m) => if p.toNat = g ∧ s.laneIn p m = lane then headerFlits m else 0
    | none => 0).sum +
  (s.fabric.txq.map fun (m : Message) => if m.via = some (g, lane) then m.flitCount else 0).sum

/-- The STOP mask of a port: a bit is set when its lane reaches HIGH and cleared when it falls to LOW (R327). -/
def State.stopMask (s : State) (g : Nat) (x : Port) : Byte :=
  BitVec.ofNat 8 ((upto 8).map fun l =>
    let n := s.occupancy g l
    b2n (x.up && (decide (x.high.toNat ≤ n) || (x.own.getLsbD l && decide (x.low.toNat < n)))) * 2 ^ l).sum
/-- A flit that carries no message leaves by a port: an idle one, or one sent again, with the port's STOP mask (R325). -/
def State.sendFlit (s : State) (p : BitVec 4) (content : List Byte) (seq : Byte) : State :=
  { s with fabric := { s.fabric with flits := s.fabric.flits ++ [(p.toNat, flit content (s.port p).own seq)] } }
/-- An idle flit carries the STOP mask of a port to the far end (R325, R327). -/
def State.sendIdle (s : State) (p : BitVec 4) : State :=
  let x := s.port p
  let kept := x.kept ++ [flit [] x.own x.seq]
  (s.sendFlit p [] x.seq).onPort p fun x => { x with seq := x.seq + 1, kept := kept.drop (kept.length - 256) }
/-- The far end asks for a replay from a SEQ on: the flits kept since then leave once more, in their order (R325). -/
def State.replayFrom (s : State) (p : BitVec 4) (q : Byte) : State :=
  (((s.port p).kept.dropWhile fun f => f.getD 61 0 != q).foldl (init := s) fun s f => s.sendFlit p (f.take 60) (f.getD 61 0))
/-- Flits of the far end have arrived good: they follow the last good one, and end a replay that was asked for (R325). -/
def State.received (s : State) (p : BitVec 4) (n : Nat) : State :=
  s.onPort p fun x => { x with good := x.good + BitVec.ofNat 8 n, want := none }
def State.setStops (s : State) : State :=
  (upto 16).foldl (init := s) fun (t : State) g =>
    let p := BitVec.ofNat 4 g
    let x := t.port p
    let mask := s.stopMask g x
    if mask = x.own then t
    else
      let u := t.onPort p fun x => { x with own := mask }
      if x.up then u.sendIdle p else u

/-- Waiting messages leave, oldest first, as far as they may. -/
def State.pump (s : State) : State :=
  let r := s.fabric.txq.foldl (init := (([] : List Message), s)) fun (a : List Message × State) m =>
    if a.2.mayLeave a.1 m then (a.1, a.2.transmit m) else (a.1 ++ [m], a.2)
  let s1 : State := { r.2 with fabric := { r.2.fabric with txq := r.1 } }
  if s.fabric.txq.any fun m => m.via.isSome then s1.setStops else s1

/-- A message takes its place behind those that leave by a port and a lane, or is lost with a port that has failed (R329). -/
def State.enqueue (s : State) (p lane : Nat) (hdr : BitVec 128) (body : List Byte) (via : Option (Nat × Nat)) : State :=
  if (s.port (BitVec.ofNat 4 p)).state = 5 then s.linkLost p (headerKind hdr)
  else
    let m : Message := { header := hdr, body := body, port := p, lane := lane, seq := 0, stop := 0, via := via }
    { s with fabric := { s.fabric with txq := s.fabric.txq ++ [m] } }.pump

/-- A message is to leave; one that no path takes is lost (R328, R329). -/
def State.depart (s : State) (d : BitVec 2) (hdr : BitVec 128) (body : List Byte) (via : Option (Nat × Nat) := none) : State :=
  match s.wayOut d hdr with
  | none =>
    s.linkLost (4 * d.toNat + (s.pathEntry d (headerDpkg hdr) (flowKey (headerKind hdr) (headerArg hdr))).toNat % 4) (headerKind hdr)
  | some (p, lane) => s.enqueue p lane hdr body via

/-- Send a message of this package. -/
def State.send (s : State) (d : BitVec 2) (pkg kind arg tag : Nat) (body : List Byte) : State :=
  s.depart d (messageHeader arg tag kind d.toNat s.fabric.pkg.toNat pkg body.length) body

/-- A message of a kind arrives at a global port: one that R326 forbids is discarded and logged, one for another
package goes on (R328), one for this package has its effect. -/
def State.arriving (s0 : State) (p : BitVec 4) (m : BitVec 128) (kind : Nat) (body : List Byte) (f : State → State) : State :=
  let s := if s0.versions.waiting.any fun w => messageIn w.2 == some (p, m) then s0 else s0.received p (headerFlits m)
  if !headerOk m kind then s.linkLost p.toNat (headerKind m)
  else if headerDpkg m ≠ s.fabric.pkg.toNat then
    s.depart (BitVec.ofNat 2 (p.toNat / 4)) m body (some (p.toNat, s.laneIn p m))
  else f s

/-! ## Messages that wait at their home (R251, R328, R366) -/

/-- The flow of a message that can wait here: source die and package, class and key. -/
def headerFlow (m : BitVec 128) : Nat × Nat × Nat × Nat :=
  (headerSdie m, headerSpkg m, bits m.toNat 23 22, flowKey (headerKind m) (headerArg m))

/-- A message waits, with the time since which it lacks a version record, if it does. -/
def State.setWaiting (s : State) (i : Instr) (t : Option Nat) : State :=
  let l := if s.versions.waiting.any fun w => w.2 == i then s.versions.waiting.map fun w => if w.2 == i then (w.1.or t, i) else w
    else s.versions.waiting ++ [(t, i)]
  { s with versions := { s.versions with waiting := l } }.setStops
/-- It waits for a version record, from now on. -/
def State.await (s : State) (i : Instr) : State := s.setWaiting i (some s.time.ns.toNat)
/-- It waits for storage, or behind a message of its flow. -/
def State.hold (s : State) (i : Instr) : State := s.setWaiting i none
/-- What waits for no record, to be tried again. -/
def heldEvents (l : List (Option Nat × Instr)) : List Activity :=
  (l.filter fun (w : Option Nat × Instr) => w.1.isNone).map fun (w : Option Nat × Instr) => Activity.event w.2
/-- It waits no longer, and those that waited for no record are tried again. -/
def State.unawait (s : State) (i : Instr) : State :=
  if s.versions.waiting.any fun w => w.2 == i then
    let l := s.versions.waiting.filter fun w => w.2 != i
    { s with versions := { s.versions with waiting := l }, agenda := heldEvents l ++ s.agenda }.setStops
  else s
/-- It has waited for BOUND µs. -/
def State.late (s : State) (i : Instr) : Bool := s.overdue ((s.versions.waiting.find? fun w => w.2 == i).bind (·.1))
/-- An earlier message of its flow waits. -/
def State.behind (s : State) (i : Instr) (m : BitVec 128) : Bool :=
  (s.versions.waiting.takeWhile fun w => w.2 != i).any fun w => match messageIn w.2 with
    | some (_, k) => headerFlow k == headerFlow m
    | none => false
/-- Every message that waits for storage is tried again. -/
def State.retryHeld (s : State) : State :=
  { s with agenda := heldEvents s.versions.waiting ++ s.agenda }

def askCode : AskKind → Nat
  | .read => 0x01
  | .write => 0x03
  | .atomic => 0x05

def Request.same (r : Request) (who : Asker) (kind : AskKind) (addr size : Nat) : Bool :=
  r.who == who && r.kind == kind && r.addr == addr && r.size == size

/-- The attributes of a page that its home judges an access by: VER, SEAL and KEY (R353, R255). -/
def Leaf.attr (l : Leaf) : Nat := l.key.toNat + b2n l.ver * 256 + b2n l.sealed * 512

/-- The leaf a request's attributes stand for: KEY, VER and SEAL of the requester's page. -/
def attrLeaf (k : BitVec 16) : Leaf :=
  { openLeaf with ver := k.getLsbD 8, sealed := k.getLsbD 9, key := BitVec.ofNat 8 k.toNat }

/-- What else a write says of itself in its attribute bytes: that its data is poisoned (R95), that it writes the low or the
high nibble of its byte (R200), that it is an arrival (R81) or a node's completion at a landing word (R295). -/
def markPoison : Nat := 2 ^ 10
def markNibble (high : Bool) : Nat := if high then 2 ^ 12 else 2 ^ 11
def markArrival : Nat := 2 ^ 13
def markCompletion : Nat := 2 ^ 14
/-- A read says that it is the host's (R399). -/
def markHost : Nat := 2 ^ 15

/-- The access did not take place at its home. -/
def Answer.err (a : Answer) : Bool := a.code != 0

def Asker.isStream : Asker → Bool
  | .stream _ _ => true
  | _ => false

/-- The C stream of a tile. -/
def Asker.isControl : Asker → Bool
  | .stream _ c => c == 0
  | _ => false

/-- The home found a failed integrity tag, and logged it (R399). -/
def Answer.failedTag (a : Answer) : Bool := a.code == 1 && a.bytes.headD 0 != 0

/-- What an answer that is an error does to the agent that waits: PERM as its home finds it, XLATE for the C stream alone
(R63, R207, R251), INTEGRITY for a failed tag (R399), else a consumed uncorrectable error (R329). -/
def Answer.bad (a : Answer) (d : BitVec 2) (gpa : Nat) (ea : W64 := 0) : Bad :=
  if a.code = 2 ∧ a.who.isControl then .trap causeXlate ea
  else if a.code = 3 then .trap causePerm ea
  else if a.failedTag then .trap causeIntegrity ea
  else .lost d gpa

/-- An agent that no longer waits for what it sent: the pool. -/
def Asker.forgets : Asker → Bool
  | .pool => true
  | _ => false

/-- A request is answered: the access that waits can go on. -/
def State.settle (s : State) (r : Request) (code : BitVec 2) (bytes : List Byte) : State :=
  let a : Answer := { who := r.who, kind := r.kind, addr := r.addr, size := r.size, code := code, bytes := bytes }
  { s with fabric := { s.fabric with
    requests := s.fabric.requests.filter fun q => q.tag != r.tag,
    answers := if r.who.forgets then s.fabric.answers else s.fabric.answers ++ [a] } }

/-- A request to another package; the attributes of the page go before the rest of its body. One that no path takes
completes at once as a consumed uncorrectable error (R329). -/
def State.request (s : State) (d : BitVec 2) (who : Asker) (kind : AskKind) (gpa size attr : Nat) (body : List Byte) : State :=
  let tag := s.fabric.nextTag
  let r : Request := { tag := tag, die := d, who := who, kind := kind, addr := gpa, size := size }
  let s1 := { s with fabric := { s.fabric with nextTag := tag + 1, requests := s.fabric.requests ++ [r] } }
  let s2 := s1.send d (gpa / 2 ^ 48) (askCode kind) gpa tag.toNat (leBytes 2 attr ++ body)
  if s.pathOpen d (gpa / 2 ^ 48) (bits gpa 20 12) then s2 else s2.settle r 1 []

/-- Ask once for what an access waits for. -/
def State.ask (s : State) (d : BitVec 2) (who : Asker) (kind : AskKind) (gpa size attr : Nat) (body : List Byte) : State :=
  if s.fabric.requests.any fun r => r.same who kind gpa size then s else s.request d who kind gpa size attr body

def State.answer? (s : State) (who : Asker) (kind : AskKind) (gpa size : Nat) : Option Answer :=
  s.fabric.answers.find? fun a => a.who == who && a.kind == kind && a.addr == gpa && a.size == size

/-- The access that waited has taken its answers. -/
def State.dropAnswers (s : State) (who : Asker) : State :=
  { s with fabric := { s.fabric with answers := s.fabric.answers.filter fun a => a.who != who } }

/-- The reads of an access have been taken; errors of its writes and reductions stay. -/
def State.dropReads (s : State) (who : Asker) : State :=
  { s with fabric := { s.fabric with answers := s.fabric.answers.filter fun a => a.who != who || (a.kind != .read && a.err) } }

/-- An agent has unfinished accesses at other packages. -/
def State.asking (s : State) (who : Asker) : Bool :=
  (s.fabric.requests.any fun r => r.who == who) || s.fabric.held.any fun h => h.who == who

/-! ## Bytes wherever they are homed -/

/-- The die of a stream that asks. -/
def Asker.die : Asker → BitVec 2
  | .stream t _ => tileDie t
  | _ => 0

/-- Bytes at a group physical address: of the own package, or as other packages have answered (R250). -/
def State.readAny (s : State) (who : Asker) (leaf : Leaf) (view : View) (gpa n : Nat) (ea : W64 := 0) :
    Res (List Byte × Bool) :=
  if s.ownPkg gpa then s.readLocal leaf view (localOf gpa) n
  else (pieces (n / 128 + 2) gpa n).foldlM (init := ([], false)) fun acc e =>
    match s.answer? who .read e.1 e.2 with
    | some a =>
      if a.failedTag || (who.isStream && (a.code == 3 || (a.code == 2 && who.isControl))) then .error (a.bad who.die e.1 ea)
      else if a.err then .ok (acc.1 ++ List.replicate e.2 0, true)
      else .ok (acc.1 ++ a.bytes, acc.2)
    | none => .error (.away e.1 e.2 leaf.attr)

/-- A read that consumes an uncorrectable error fails (R63, R329). -/
def State.readWhole (s : State) (who : Asker) (leaf : Leaf) (view : View) (gpa n : Nat) (ea : W64 := 0) :
    Res (List Byte) := do
  let r ← s.readAny who leaf view gpa n ea
  if r.2 then .error (if s.ownPkg gpa then .consumed (s.granuleInError leaf view (localOf gpa) n) else .lost who.die gpa) else return r.1

/-- The byte that a write leaves, as its marks say: whole, or one nibble (R200). -/
def markedByte (mark : Nat) (old new : Byte) : Byte :=
  if mark.testBit 11 then old &&& 0xF0 ||| new &&& 0x0F else if mark.testBit 12 then new &&& 0xF0 ||| old &&& 0x0F else new

/-- Bytes that an agent writes at another package show in the answers that it holds: what it reads there next, in the same instruction,
is read after the write (R200, R201). -/
def State.forward (s : State) (who : Asker) (gpa : Nat) (bs : List Byte) (mark : Nat := 0) : State :=
  let patch (a : Answer) : Answer :=
    if a.who == who && a.kind == .read && !a.err && decide (a.addr < gpa + bs.length) && decide (gpa < a.addr + a.size) then
      if mark.testBit 10 then { a with code := 1, bytes := [] }
      else { a with bytes := a.bytes.zipIdx.map fun e =>
        if a.addr + e.2 < gpa then e.1 else match bs[a.addr + e.2 - gpa]? with
          | some b => markedByte mark e.1 b
          | none => e.1 }
    else a
  { s with fabric := { s.fabric with answers := s.fabric.answers.map patch } }

/-- Bytes written at a group physical address; those of another package leave as requests, with what `mark` says of them
(R250, R371). -/
def State.writeAny (s : State) (w : Writer) (d : BitVec 2) (who : Asker) (leaf : Leaf) (gpa : Nat) (bs : List Byte) (mark : Nat := 0) :
    Res State :=
  if s.ownPkg gpa then s.writeLocal w leaf (localOf gpa) bs
  else .ok (((pieces (bs.length / 128 + 2) gpa bs.length).foldl (fun s e =>
    s.request d who .write e.1 e.2 (leaf.attr + mark) ((bs.drop (e.1 - gpa)).take e.2)) (s.markUnrollable w leaf gpa)).forward who gpa bs mark)

/-- Bytes of another package as the answers that an agent holds have them. -/
def State.heldBytes (s : State) (who : Asker) (gpa n : Nat) : Option (List Byte) :=
  (upto n).mapM fun i => s.fabric.answers.findSome? fun a =>
    if a.who == who && a.kind == .read && !a.err && decide (a.addr ≤ gpa + i) then a.bytes[gpa + i - a.addr]? else none

/-! ## Atomic operations (R65 to R67) -/

/-- The combination of amo, by the function codes of R24; w is the width in bytes. -/
def amoCombine (op w old b : Nat) : Nat :=
  let k := 8 * w
  match op with
  | 0 => (old + b) % 2 ^ k
  | 1 => old &&& b
  | 2 => old ||| b
  | 3 => old ^^^ b
  | 4 => if toSigned k b < toSigned k old then b else old
  | 5 => if toSigned k old < toSigned k b then b else old
  | 6 => min old b
  | 7 => max old b
  | _ => b

end Sys2Proof.Machine
end

