-- ==== Sys2Proof/Machine/Control.lean ====
section
/-!
DEFINITION. Sys2Proof/Machine/Control.lean: how a C-stream instruction ends (R43 to R45, R75, R76),
the integer forms (R46 to R52), transfers (R53 to R58), markers and hints (R69 to R74).
-/

namespace Sys2Proof.Machine

abbrev Out := Host.Outcome State Fault Refusal

/-! ## How a C-stream instruction ends -/

/-- The C stream's instruction is done: its effect stands and the pc advances. -/
def State.cDone (s : State) : State := s.onCtl Control.finish

/-- The C stream stalls at its instruction, which has had no effect (R75). -/
def State.cStall (s : State) : State := s.onCtl fun k => { k with stalled := true }

/-- A cause goes to the user handler (R105), else to the supervisor. -/
def Tile.userLevel (t : Tile) (cause : Byte) : Bool :=
  !t.user.inHandler &&
  ((cause == causeNotready && t.user.nren) || (decide (0x80 ≤ cause.toNat) && t.user.raisen))

def State.cTrap (s : State) (cause : Byte) (val : W64) : State :=
  s.onCur fun t => if t.userLevel cause then t.userTrap cause val else t.controlTrap cause val

/-- The node of the current tile, as the record of an error names it. -/
def State.curNode (s : State) : Option W32 := (s.tileNode s.curTile).map (·.handle)

/-- The writer that the current tile's streams are (R370). -/
def State.curWriter (s : State) : Writer := { node := s.curNode, tile := some s.curTile }

/-- Fix the status of a transaction that is still PENDING, and free its tentative records (R362). -/
def State.doom (s : State) (slot : Byte) (status : Byte) : State :=
  match tget s.versions.txs slot.toNat with
  | some t =>
    if t.status.isSome then s
    else
      let s1 := t.lines.foldl (fun s l => match s.tentative l slot with
        | some (i, _) => let s' := s.freeRecord l i
                         s'.setLine l { s'.line l with tent := false }
        | none => s) s
      { s1 with versions := { s1.versions with txs := tput s1.versions.txs slot.toNat { t with status := some status, lines := [] } } }
  | none => s

/-- The slot whose transaction is open for a tile's C stream: its own, or its node's (R365). -/
def State.openSlot (s : State) (t : BitVec 6) : Option Byte :=
  let slot := match s.tileNode t with
    | some n => if n.mode = 2 then n.tx else (s.tile t).tx
    | none => (s.tile t).tx
  slot.bind fun k => match tget s.versions.txs k.toNat with
    | some x => if x.ended then none else some k
    | none => none

/-- A consumed uncorrectable error of the C stream: logged, an open transaction fails with ERROR (R364),
and the cause is POISON. -/
def State.cConsumed (s : State) (ea : W64) (e : Bad) : State :=
  let s1 := (s.dropAnswers (.stream s.curTile 0)).logError s.curNode causePoison e
  let s2 := match s1.openSlot s1.curTile with | some k => s1.doom k 5 | none => s1
  s2.cTrap causePoison ea

/-- An effect of a C-stream instruction, or what kept it from one; VAL of a memory fault is its effective
address (R303). A version record denied at its bound is VERFULL (R63, R366); a consumed error is POISON and
a failed tag INTEGRITY, both logged (R309, R398). -/
def State.cRunAt (s : State) (ea : W64) : Res State → State
  | .ok s' => (s'.dropAnswers (.stream s.curTile 0)).cDone
  | .error .stall => s.cStall
  | .error (.queue _) => s.cStall
  | .error (.away gpa n k) => (s.ask (tileDie s.curTile) (.stream s.curTile 0) .read gpa n k [BitVec.ofNat 8 n]).cStall
  | .error (.trap cause val) => s.cTrap cause val
  | .error (.denied pa) =>
    if s.overdue s.ctl.denied then
      ((s.logError s.curNode causeVerfull (.denied pa)).onCtl fun k => { k with denied := none }).cTrap causeVerfull ea
    else (s.onCtl fun k => { k with denied := s.waits k.denied }).cStall
  | .error (.consumed pa) => s.cConsumed ea (.consumed pa)
  | .error (.lost d gpa) => s.cConsumed ea (.lost d gpa)
  | .error (.acc t row) => s.cConsumed ea (.acc t row)
  | .error (.integrity pa) => (s.logError s.curNode causeIntegrity (.integrity pa)).cTrap causeIntegrity ea

def State.cRun (s : State) (r : Res State) : State := s.cRunAt 0 r

/-- A result in gd and nothing else (R44, R46). -/
def State.result (s : State) (d : BitVec 5) (x : W64) : State := (s.setG d x).cDone

/-- A result in cd and nothing else. -/
def State.resultC (s : State) (d : BitVec 3) (x : Bool) : State := (s.setC d x).cDone

/-! ## Integer arithmetic (R46 to R49) -/

def mulHigh (a b : BitVec 64) : W64 := (a.signExtend 128 * b.signExtend 128).extractLsb' 64 64
def mulHighN (a b : BitVec 64) : W64 := (a.setWidth 128 * b.setWidth 128).extractLsb' 64 64
/-- Quotient and remainder of R47; a zero divisor traps in no form. -/
def divS (a b : W64) : W64 := if b = 0 then BitVec.allOnes 64 else a.sdiv b
def divN (a b : W64) : W64 := if b = 0 then BitVec.allOnes 64 else a / b
def remS (a b : W64) : W64 := if b = 0 then a else a.srem b
def remN (a b : W64) : W64 := if b = 0 then a else a % b
def minS (a b : W64) : W64 := if a.slt b then a else b
def maxS (a b : W64) : W64 := if a.slt b then b else a
def minN (a b : W64) : W64 := if a.ult b then a else b
def maxN (a b : W64) : W64 := if a.ult b then b else a
def leadingZeros (a : W64) : Nat := ((upto 64).find? fun i => a.getLsbD (63 - i)).getD 64
def trailingZeros (a : W64) : Nat := ((upto 64).find? fun i => a.getLsbD i).getD 64
def oneBits (a : W64) : Nat := (upto 64).countP fun i => a.getLsbD i
/-- sh of R46: the low six bits of the second operand. -/
def shiftOf (b : W64) : Nat := b.toNat % 64
/-- A 32-bit sum or difference, sign-extended (R46). -/
def low32 (x : W64) : W64 := (x.setWidth 32).signExtend 64

def execAdd (d a b : BitVec 5) (s : State) : Out := .next (s.result d (s.g a + s.g b))
def execSub (d a b : BitVec 5) (s : State) : Out := .next (s.result d (s.g a - s.g b))
def execAnd (d a b : BitVec 5) (s : State) : Out := .next (s.result d (s.g a &&& s.g b))
def execOr (d a b : BitVec 5) (s : State) : Out := .next (s.result d (s.g a ||| s.g b))
def execXor (d a b : BitVec 5) (s : State) : Out := .next (s.result d (s.g a ^^^ s.g b))
def execAndn (d a b : BitVec 5) (s : State) : Out := .next (s.result d (s.g a &&& ~~~ s.g b))
def execSll (d a b : BitVec 5) (s : State) : Out := .next (s.result d (s.g a <<< shiftOf (s.g b)))
def execSrl (d a b : BitVec 5) (s : State) : Out := .next (s.result d (s.g a >>> shiftOf (s.g b)))
def execSra (d a b : BitVec 5) (s : State) : Out := .next (s.result d ((s.g a).sshiftRight (shiftOf (s.g b))))
def execMul (d a b : BitVec 5) (s : State) : Out := .next (s.result d (s.g a * s.g b))
def execMulh (d a b : BitVec 5) (s : State) : Out := .next (s.result d (mulHigh (s.g a) (s.g b)))
def execMulhn (d a b : BitVec 5) (s : State) : Out := .next (s.result d (mulHighN (s.g a) (s.g b)))
def execDiv (d a b : BitVec 5) (s : State) : Out := .next (s.result d (divS (s.g a) (s.g b)))
def execDivn (d a b : BitVec 5) (s : State) : Out := .next (s.result d (divN (s.g a) (s.g b)))
def execRem (d a b : BitVec 5) (s : State) : Out := .next (s.result d (remS (s.g a) (s.g b)))
def execRemn (d a b : BitVec 5) (s : State) : Out := .next (s.result d (remN (s.g a) (s.g b)))
def execMin (d a b : BitVec 5) (s : State) : Out := .next (s.result d (minS (s.g a) (s.g b)))
def execMax (d a b : BitVec 5) (s : State) : Out := .next (s.result d (maxS (s.g a) (s.g b)))
def execMinn (d a b : BitVec 5) (s : State) : Out := .next (s.result d (minN (s.g a) (s.g b)))
def execMaxn (d a b : BitVec 5) (s : State) : Out := .next (s.result d (maxN (s.g a) (s.g b)))
def execClz (d a : BitVec 5) (s : State) : Out := .next (s.result d (BitVec.ofNat 64 (leadingZeros (s.g a))))
def execCtz (d a : BitVec 5) (s : State) : Out := .next (s.result d (BitVec.ofNat 64 (trailingZeros (s.g a))))
def execPop (d a : BitVec 5) (s : State) : Out := .next (s.result d (BitVec.ofNat 64 (oneBits (s.g a))))
def execAdd32 (d a b : BitVec 5) (s : State) : Out := .next (s.result d (low32 (s.g a + s.g b)))
def execSub32 (d a b : BitVec 5) (s : State) : Out := .next (s.result d (low32 (s.g a - s.g b)))
def execRol (d a b : BitVec 5) (s : State) : Out := .next (s.result d ((s.g a).rotateLeft (shiftOf (s.g b))))
def execRor (d a b : BitVec 5) (s : State) : Out := .next (s.result d ((s.g a).rotateRight (shiftOf (s.g b))))

def execAddi (d a : BitVec 5) (i : BitVec 16) (s : State) : Out := .next (s.result d (s.g a + i.signExtend 64))
def execAndi (d a : BitVec 5) (i : BitVec 16) (s : State) : Out := .next (s.result d (s.g a &&& i.setWidth 64))
def execOri (d a : BitVec 5) (i : BitVec 16) (s : State) : Out := .next (s.result d (s.g a ||| i.setWidth 64))
def execXori (d a : BitVec 5) (i : BitVec 16) (s : State) : Out := .next (s.result d (s.g a ^^^ i.setWidth 64))
def execSlli (d a : BitVec 5) (n : BitVec 6) (s : State) : Out := .next (s.result d (s.g a <<< n.toNat))
def execSrli (d a : BitVec 5) (n : BitVec 6) (s : State) : Out := .next (s.result d (s.g a >>> n.toNat))
def execSrai (d a : BitVec 5) (n : BitVec 6) (s : State) : Out := .next (s.result d ((s.g a).sshiftRight n.toNat))
def execRori (d a : BitVec 5) (n : BitVec 6) (s : State) : Out := .next (s.result d ((s.g a).rotateRight n.toNat))

/-- li (R49). -/
def execLi (d : BitVec 5) (i : BitVec 21) (s : State) : Out := .next (s.result d (i.signExtend 64))

/-- Chunk k of a 64-bit value replaced (R49). -/
def setChunk (x : W64) (k : BitVec 2) (i : BitVec 16) : W64 :=
  BitVec.ofNat 64 (putBits x.toNat (16 * k.toNat + 15) (16 * k.toNat) i.toNat)

def execLik (d : BitVec 5) (k : BitVec 2) (i : BitVec 16) (s : State) : Out :=
  .next (s.result d (setChunk (s.g d) k i))

/-! ## Conditions and selection (R50 to R52) -/

def execCmp (c : BitVec 3) (a b : BitVec 5) (f : BitVec 6) (s : State) : Out :=
  .next (s.resultC c (relation f.toNat (s.g a) (s.g b)))
def execCmpi (k : BitVec 2) (c : BitVec 3) (a : BitVec 5) (i : BitVec 16) (s : State) : Out :=
  .next (s.resultC c (relationImm k (s.g a) i))
def execSel (d a b : BitVec 5) (n : BitVec 3) (s : State) : Out :=
  .next (s.result d (if s.c n then s.g a else s.g b))
def execCand (d a b : BitVec 3) (s : State) : Out := .next (s.resultC d (s.c a && s.c b))
def execCor (d a b : BitVec 3) (s : State) : Out := .next (s.resultC d (s.c a || s.c b))
def execCxor (d a b : BitVec 3) (s : State) : Out := .next (s.resultC d (s.c a ^^ s.c b))
def execCandn (d a b : BitVec 3) (s : State) : Out := .next (s.resultC d (s.c a && !s.c b))
def execCnot (d a : BitVec 3) (s : State) : Out := .next (s.resultC d (!s.c a))
def execCset (d : BitVec 3) (s : State) : Out := .next (s.resultC d true)
def execCclr (d : BitVec 3) (s : State) : Out := .next (s.resultC d false)

/-! ## Transfers and delay slots (R53 to R58) -/

/-- A target lies in 0x0000 to 0xFFFC and is a multiple of 4 (R53). -/
def targetOk (t : Int) : Bool := decide (0 ≤ t) && decide (t ≤ 0xFFFC) && decide (t % 4 = 0)

def State.setTarget (s : State) (n : BitVec 2) (t : Int) : Res State :=
  if targetOk t then .ok (s.onCtl fun k => k.setBt n (BitVec.ofNat 16 t.toNat)) else .error (.trap causeCtlint 0)

def execBtSet (n : BitVec 2) (i : BitVec 21) (s : State) : Out :=
  .next (s.cRun (s.setTarget n (s.ctl.pc.toNat + i.toInt * 4)))
def execBtReg (n : BitVec 2) (a : BitVec 5) (s : State) : Out :=
  .next (s.cRun (s.setTarget n (s.g a).toNat))

/-- A transfer issues: its delay slots follow, then the target (R54). The target is x + 12 when the
transfer is not taken. -/
def Control.transfer (k : Control) (target : BitVec 17) : Control :=
  { k with pc := k.pc + 4, slot := 1, target := target, stalled := false, arrived := false, wait := none }

/-- A transfer in a delay slot is CTLINT (R58); otherwise it takes its effect. -/
def State.transfer (s : State) (target : BitVec 17) (f : Control → Control) : State :=
  if s.ctl.slot ≠ 0 then s.cTrap causeCtlint 0 else s.onCtl fun k => (f k).transfer target

/-- br, br.n and br.a (R55). -/
def State.branch (s : State) (n : BitVec 2) (take : Bool) : State :=
  s.transfer (if take then (s.ctl.bt n).setWidth 17 else s.ctl.pc + 12) id

def execBr (n : BitVec 2) (c : BitVec 3) (s : State) : Out := .next (s.branch n (s.c c))
def execBrN (n : BitVec 2) (c : BitVec 3) (s : State) : Out := .next (s.branch n (!s.c c))
def execBrA (n : BitVec 2) (s : State) : Out := .next (s.branch n true)

/-- call (R56): the link register and the shadow stack are written as it issues. -/
def execCall (d : BitVec 5) (n : BitVec 2) (s : State) : Out :=
  .next (if s.ctl.slot = 0 ∧ s.ctl.shadow.length ≥ 64 then s.cTrap causeCtlint 0
    else s.transfer ((s.ctl.bt n).setWidth 17) fun k =>
      { k.setReg d (BitVec.ofNat 64 (k.pc.toNat + 12)) with shadow := BitVec.ofNat 16 (k.pc.toNat + 12) :: k.shadow })

/-- ret (R57): the shadow stack's top must be the return address. -/
def execRet (a : BitVec 5) (s : State) : Out :=
  .next (match s.ctl.shadow with
    | [] => s.cTrap causeCtlint 0
    | top :: rest =>
      if (s.g a).toNat = top.toNat ∧ top.toNat % 4 = 0 then
        s.transfer (top.setWidth 17) fun k => { k with shadow := rest }
      else s.cTrap causeCtlint 0)

/-! ## Markers and hints (R69 to R74) -/

/-- A fence orders accesses (R69). Every access of this model is performed when its instruction ends, an
access to another package included, so a fence finds all earlier ones performed. -/
def execFence (_k : BitVec 2) (_p : BitVec 3) (s : State) : Out := .next s.cDone

/-- qmark (R71): queue order with respect to the C stream's own accesses holds already. -/
def execQmark (s : State) : Out := .next s.cDone

def execNop (s : State) : Out := .next s.cDone

/-- pause k (R73): the pc has passed the word; issue resumes when the count has expired. -/
def execPause (k : BitVec 12) (s : State) : Out :=
  .next (s.cDone.onCtl fun c => { c with pause := k.toNat, since := (s.tile s.curTile).tc })

/-- prefetch (R74): no program-visible state changes and nothing faults. -/
def execPrefetch (_a : BitVec 5) (_n : BitVec 4) (s : State) : Out := .next s.cDone

/-- A word that is no instruction of the C stream (R18): ILLEGAL, precise at the word. -/
def execIllegalWord (s : State) : Out := .next (s.cTrap causeIllegal 0)

end Sys2Proof.Machine
end

