-- ==== Sys2Proof/Machine/Register.lean ====
section
/-!
DEFINITION. Sys2Proof/Machine/Register.lean: the memory-mapped registers (R252): what each reads as,
what a write does under the access codes of R8, and the registers whose writes act: shootdown (R258,
R259), keys (R414), reduction windows (R337, R341), time base (R344), host nodes (R292), queues (R348),
debug and test (R415), capacity allocation (R387).
-/

namespace Sys2Proof.Machine

/-- Who accesses a register (R414, R415): a C stream, the supervisor of a cluster, the host or another package, the management plane. -/
inductive RegAgent where
  | tile
  | supervisor (cluster : BitVec 4)
  | host
  | management
deriving DecidableEq, Repr

/-- A supervisor in machine mode, which alone reaches the key registers (R414). -/
def State.reachesKeys (s : State) : RegAgent → Bool
  | .supervisor c => (s.cluster c).mode == 3
  | _ => false
/-- Who may write the debug and test registers of a cluster: its supervisor and the management plane (R415). -/
def RegAgent.tests (who : RegAgent) (c : BitVec 4) : Bool := who == .supervisor c || who == .management

/-- A write of a register: the 64-bit value and which halves are written (R252). -/
structure RegWrite where
  v : Nat
  lo : Bool
  hi : Bool
deriving DecidableEq, Repr

/-- What RW fields become: the written halves of v, the rest of the old value. -/
def RegWrite.rw (x : RegWrite) (old : Nat) : Nat :=
  (if x.hi then bits x.v 63 32 else bits old 63 32) * 2 ^ 32 + (if x.lo then bits x.v 31 0 else bits old 31 0)
/-- What W1C, W1S and WO fields see: zero in a half that is not written. -/
def RegWrite.act (x : RegWrite) : Nat :=
  (if x.hi then bits x.v 63 32 else 0) * 2 ^ 32 + (if x.lo then bits x.v 31 0 else 0)

/-! ## Shootdown (R256 to R260) -/

/-- A held translation lies in the covered pages of the shootdown in progress (R259). -/
def Shootdown.covers (x : Shootdown) (h : Held) : Bool :=
  (x.curAllRoot || h.root == x.curRoot) &&
  (x.curAllVa || (decide (h.va < x.curVa + x.curPages * 4096) && decide (x.curVa < h.va + h.leaf.size)))

def Held.mark (x : Shootdown) (h : Held) : Held := if x.covers h then { h with stale := true } else h

/-- Every pin whose captured translation lies in the covered pages is stale (R259, step 3). -/
def Tile.markStale (x : Shootdown) (t : Tile) : Tile :=
  { t with windows := t.windows.map fun w => w.map fun w => { w with pins := w.pins.map (Held.mark x) },
           opPins := t.opPins.map fun p => { p with pin := p.pin.mark x } }

def State.markStale (s : State) : State := { s with tiles := s.tiles.map (Tile.markStale s.shoot) }

/-- The pages a tile holds pinned, one entry per page (R89, R94). -/
def Tile.pins (t : Tile) : List Held :=
  (t.windows.toList.flatMap fun w => match w with | some w => w.pins | none => []) ++ t.opPins.map (·.pin)

/-- Distinct pinned pages: pages are told apart by their base and size. -/
def pageKeys (l : List Held) : List (Nat × Nat) := (l.map fun h => (h.leaf.base, h.leaf.size)).eraseDups
def Tile.pinCount (t : Tile) : Nat := (pageKeys t.pins).length
def Tile.staleCount (t : Tile) : Nat := (pageKeys (t.pins.filter (·.stale))).length
def State.staleCount (s : State) : Nat := (s.tiles.toList.map Tile.staleCount).sum

/-- SHOOTDOWN_DONE (R259, step 4): DONE once the TLB phase is complete and no stale pin remains. -/
def State.shootCheck (s : State) : State :=
  if s.shoot.busy ∧ s.shoot.tlbdone ∧ s.staleCount = 0 then
    { s with shoot := { s.shoot with done := true, busy := false, seq := s.shoot.seq + 1 } }
  else s

/-- A write of GO = 1 (R259): starts a shootdown, or sets LOST while one is in progress. The accesses that it waits for are the unfinished
ones of the C streams, which alone translate at each access (DEDUCED, log 83). -/
def State.shootGo (s : State) : State :=
  if s.shoot.busy then { s with shoot := { s.shoot with lost := true } }
  else
    let x := { s.shoot with
      busy := true, tlbdone := false, done := false, curVa := s.shoot.vpn.toNat * 4096,
      curPages := s.shoot.count.toNat + 1, curRoot := s.shoot.root.toNat * 4096,
      curAllRoot := s.shoot.allroot, curAllVa := s.shoot.allva }
    let drop (k : Cluster) : Cluster := { k with tlb := k.tlb.filter fun h => !x.covers h }
    let waits := (s.fabric.requests.filter fun r => r.who.isControl).map (·.tag)
    ({ s with shoot := { x with waits := waits }, clusters := s.clusters.map drop }).markStale

/-- A write of XICTL: its fields, then GO (R258); with GO = 1 during a shootdown it changes nothing but LOST (R259). -/
def State.writeXictl (s : State) (x : RegWrite) : State :=
  if bits x.act 0 0 = 1 ∧ s.shoot.busy then s.shootGo
  else
  let old := s.shoot.count.toNat * 2 ^ 32 + b2n s.shoot.allroot * 4 + b2n s.shoot.allva * 2
  let v := x.rw old
  let s1 := { s with shoot := { s.shoot with
    count := BitVec.ofNat 32 (bits v 63 32), allroot := bits v 2 2 == 1, allva := bits v 1 1 == 1 } }
  if bits x.act 0 0 = 1 then s1.shootGo else s1

/-! ## Keys (R414) -/

def State.keyMaterial (s : State) : BitVec 768 :=
  BitVec.ofNat 768 ((upto 12).foldl (fun a i => a + (s.keys.data[i]?.getD 0).toNat * 2 ^ (64 * i)) 0)

/-- A load or clear replaces the slot in one step and zeroes KEYDATA. -/
def State.keyLoad (s : State) (slot : Byte) : State :=
  { s with keys := { data := Vector.replicate 12 0, slots := tput s.keys.slots slot.toNat s.keyMaterial } }
def State.keyClear (s : State) (slot : Byte) : State :=
  { s with keys := { data := Vector.replicate 12 0, slots := tdrop s.keys.slots slot.toNat } }

/-! ## Time base (R343, R344) -/

def State.writeTbinit (s : State) (v : W64) : State :=
  if s.time.en ∨ v ≤ s.time.ns then s else { s with time := { s.time with ns := v, frac := 0 } }

/-! ## Pool registers (R292, R293) -/

def Pool.live (p : Pool) : List Node := p.nodes.filter fun n => decide (n.phase ≠ .complete)

/-- Tiles in a node's affinity (R283, R289). -/
def Node.allowsTile (n : Node) (t : Nat) : Bool :=
  bits n.affc (t / 4) (t / 4) == 1 && bits n.affd (t / 16) (t / 16) == 1

/-- BOUND of R293 for the head of queue q. -/
def State.bound (s : State) (q : Nat) : Nat :=
  let live := s.pool.live
  match live.find? fun n => n.queue == q && decide (n.phase = .ready) with
  | none => 0xFFFFFFFF
  | some n =>
    let c := n.cls
    let others := live.filter fun m => decide (m.phase = .ready ∨ m.phase = .running) && m.cls == c && m.queue != q
    let queues := (others.map Node.queue).eraseDups
    let sum := (queues.map fun q2 =>
      let x := ((others.filter fun m => m.queue == q2).map Node.tileCount).foldl max 0
      s.pool.quantum.toNat * (s.pool.queues[q2]?.getD QueueRegs.reset).weight.toNat + s.pool.slice.toNat * x).sum
    let heldHigher (t : Nat) : Bool := live.any fun m => decide (m.phase = .running) && decide (m.cls.toNat < c.toNat) &&
      m.shares.any fun x => x.tile.toNat == t && decide (x.phase = .placed ∨ x.phase = .handed ∨ x.phase = .loaded)
    let tiles := ((upto 64).filter fun t => n.allowsTile t && s.tileUsable (BitVec.ofNat 6 t) && !heldHigher t).length
    let runs (x : Share) : Bool := decide (x.phase = .placed ∨ x.phase = .handed ∨ x.phase = .loaded) && x.reported.isNone && n.allowsTile x.tile.toNat
    let plat := (live.filter fun m => decide (m.phase = .running) && !m.timed && m.shares.any runs).map Node.plat |>.foldl max 0
    let higher := live.any fun m => decide (m.phase = .ready) && decide (m.cls.toNat < c.toNat) &&
      (upto 64).any fun t => m.allowsTile t && n.allowsTile t
    if tiles < n.tileCount ∨ tiles = 0 ∨ higher then 0xFFFFFFFF
    else min (ceilDiv sum tiles + plat) 0xFFFFFFFF

/-- HDISP as it reads (R292). -/
def State.hdisp (s : State) : Nat :=
  match s.pool.hdisp with
  | [] => 0
  | n :: _ => 2 ^ 63 + n.toNat

/-- A read of HDISP's VALID removes the entry (R292). -/
def State.hdispTake (s : State) : State := { s with pool := { s.pool with hdisp := s.pool.hdisp.tail } }

/-- A write of HDONE completes the host node it names (R291, R292). -/
def State.writeHdone (s : State) (v : Nat) : State :=
  let cause : Byte := BitVec.ofNat 8 (bits v 39 32)
  let nodes := s.pool.nodes.map fun n =>
    if n.tclass = 3 ∧ n.phase = .running ∧ n.number = bits v 31 0 ∧ !n.hostDone then { n with hostDone := true, cause := cause } else n
  { s with pool := { s.pool with nodes := nodes } }

/-! ## Submission queues (R348, R349) -/

def State.queue (s : State) (q : Byte) : QueueRegs := s.pool.queues[q.toNat]
def State.setQueue (s : State) (q : Byte) (x : QueueRegs) : State :=
  { s with pool := { s.pool with queues := s.pool.queues.set q.toNat x } }

def QueueRegs.cfg (x : QueueRegs) : Nat :=
  b2n x.en * 2 ^ 63 + b2n x.ien * 2 ^ 49 + x.vec.toNat * 2 ^ 41 + x.lsize.toNat * 2 ^ 32 + x.tenant.toNat * 2 ^ 16 +
  x.cls.toNat * 2 ^ 8 + x.weight.toNat

/-- A write of QCFG: CLASS, TENANT and LSIZE hold while EN = 1; EN needs LSIZE 1 to 16; WEIGHT 0 is ignored. -/
def QueueRegs.writeCfg (x : QueueRegs) (w : RegWrite) : QueueRegs :=
  let v := w.rw x.cfg
  let weight : Byte := BitVec.ofNat 8 (bits v 7 0)
  let y := { x with
    ien := bits v 49 49 == 1, vec := BitVec.ofNat 8 (bits v 48 41), weight := if weight = 0 then x.weight else weight }
  let z := if x.en then y else
    { y with lsize := BitVec.ofNat 5 (bits v 36 32), tenant := BitVec.ofNat 16 (bits v 31 16), cls := BitVec.ofNat 2 (bits v 9 8) }
  { z with en := bits v 63 63 == 1 && decide (1 ≤ z.lsize.toNat) && decide (z.lsize.toNat ≤ 16) }

/-- A write of TAIL lets the pool read again after an overrun (R349). -/
def State.writeTail (s : State) (q : Byte) (tail : W32) : State :=
  s.setQueue q { s.queue q with tail := tail, blocked := false }

/-! ## Reduction windows (R337, R341) -/

def State.redWindow (s : State) (w : BitVec 6) : RedWindow := s.fabric.windows[w.toNat]
def State.setRedWindow (s : State) (w : BitVec 6) (x : RedWindow) : State :=
  { s with fabric := { s.fabric with windows := s.fabric.windows.set w.toNat x } }

def RedWindow.cfg (x : RedWindow) : Nat :=
  b2n x.en * 2 ^ 63 + x.ncon.toNat * 2 ^ 40 + b2n x.accm * 2 ^ 39 + x.op.toNat * 2 ^ 36 + x.fmt.toNat * 2 ^ 32 + x.lines.toNat

def redFormat (fmt : Nat) : Bool := fmt == 0 || fmt == 1 || fmt == 6 || fmt == 9

/-- A write of RWCFG (R337): while EN = 1 only the clearing of EN acts; clearing EN while BUSY = 1
discards the open epochs and sets ERR (R341); OP 3 and other formats prevent EN from being set. -/
def RedWindow.writeCfg (x : RedWindow) (w : RegWrite) : RedWindow :=
  let v := w.rw x.cfg
  let en := bits v 63 63 == 1
  if x.en then
    if en then x
    else { x with en := false, err := x.err || x.busy, busy := false, parts := [], sent := [], given := [], merged := [], bad := [], denied := none }
  else
    let y := { x with
      ncon := BitVec.ofNat 10 (bits v 49 40), accm := bits v 39 39 == 1, op := BitVec.ofNat 2 (bits v 37 36),
      fmt := BitVec.ofNat 4 (bits v 35 32), lines := BitVec.ofNat 23 (bits v 22 0) }
    if en ∧ bits v 37 36 ≠ 3 ∧ redFormat (bits v 35 32) then
      { y with en := true, epoch := 0, parts := [], sent := [], given := [], merged := [], bad := [], busy := false, progress := 0, denied := none }
    else y

/-! ## Debug and test (R404, R415) -/

/-- BREAK = 1 requests DEBUG of a tile in RUN or STOPPING (R415). -/
def State.dbgreq (s : State) (t : BitVec 6) : State :=
  s.onTile t fun x => if x.status = .run ∨ x.status = .stopping then { x with debug := true } else x

def Cluster.onPhys (k : Cluster) (p : Nat) (f : PhysTile → PhysTile) : Cluster :=
  { k with phys := if h : p < 5 then k.phys.set p (f k.phys[p]) else k.phys }

/-- RUN = 1 starts the self-test of a QUARANTINED or SPARE tile. -/
def PhysTile.test (x : PhysTile) : PhysTile :=
  if x.state = 1 ∨ x.state = 2 then { x with run := true, done := false, pass := false } else x
/-- RET = 1 with PASS = 1 returns a QUARANTINED tile to SPARE. -/
def PhysTile.ret (x : PhysTile) : PhysTile :=
  if x.state = 2 ∧ x.pass then { x with state := 1 } else x

/-- A self-test completes (R415). -/
def PhysTile.testDone (x : PhysTile) (pass : Bool) : PhysTile :=
  if x.run then { x with run := false, done := true, pass := pass } else x

/-! ## What registers read as -/

def ErrorRecord.held (d : Die) : Nat := d.log.length

/-- An n16 of the capacity map of R386. -/
def State.capacityHalf (s : State) (d : BitVec 2) (off : Nat) : Nat :=
  let x := s.die d
  let p := off / 128
  let i := off % 128 / 2
  if p > 5 ∨ p > x.maxop.toNat then 0
  else if i < 16 then x.usable 0 (16 * d.toNat + i) p
  else if i < 32 then x.usable 1 (16 * d.toNat + (i - 16)) p - 512
  else if i < 36 then x.usable 2 (4 * d.toNat + (i - 32)) p
  else if i = 36 then x.usable 3 d.toNat p
  else 0

def Port.stat (p : Port) : Nat :=
  p.rtt.toNat * 2 ^ 56 + p.high.toNat * 2 ^ 48 + p.low.toNat * 2 ^ 40 + p.peerPkg.toNat * 2 ^ 30 + p.peerPort.toNat * 2 ^ 26 +
  p.replay.toNat * 2 ^ 16 + p.state.toNat * 2 ^ 9 + p.bad.toNat

/-- Status registers of a function that is not ready read 0 (R409): key slots, ready pool with the queues' HEAD and OVR, time base,
versions. -/
def State.statusHidden (s : State) (off : Nat) : Bool :=
  (decide (0x280 ≤ off) && decide (off < 0x2A0) && !s.engReady 37) ||
  ((off == 0x1010 || off == 0x1018 || (decide (0x1800 ≤ off) && decide (off < 0x2000)) ||
    (decide (0x100000 ≤ off) && decide (off < 0x104000) && (off % 64 == 16 || off % 64 == 32))) &&
    !s.engReady (if s.pool.mirror then 34 else 33)) ||
  (off == 0x3008 && !s.engReady 35) ||
  ((off == 0x3800 || off == 0x3828 || off == 0x3830 || off == 0x3838) && !s.engReady 36)

def State.packageWord (s : State) (off : Nat) : Nat :=
  let v := s.versions
  if off = 0x100 then s.ready.mem.toNat
  else if off = 0x108 then s.ready.eng.toNat
  else if off = 0x110 then s.ready.tile.toNat
  else if s.statusHidden off then 0
  else if 0x280 ≤ off ∧ off < 0x2A0 then
    (upto 64).foldl (fun a i => a + b2n (tget s.keys.slots ((off - 0x280) / 8 * 64 + i)).isSome * 2 ^ i) 0
  else if off = 0x1000 then s.pool.age3.toNat * 2 ^ 32 + s.pool.age2.toNat * 2 ^ 16 + s.pool.age1.toNat
  else if off = 0x1008 then s.pool.lead.toNat * 2 ^ 32 + s.pool.slice.toNat * 2 ^ 16 + s.pool.quantum.toNat
  else if off = 0x1010 then
    b2n s.pool.mirror * 2 ^ 31 + ((s.pool.live.filter fun n => decide (n.phase = .ready)).length) * 2 ^ 16 + s.pool.live.length
  else if off = 0x1018 then s.hdisp
  else if 0x1800 ≤ off ∧ off < 0x2000 then
    (s.pool.queues[(off - 0x1800) / 8]?.getD QueueRegs.reset).late.toNat * 2 ^ 32 + s.bound ((off - 0x1800) / 8)
  else if off = 0x2000 then s.shoot.vpn.toNat * 4096
  else if off = 0x2008 then s.shoot.root.toNat * 4096
  else if off = 0x2010 then s.shoot.count.toNat * 2 ^ 32 + b2n s.shoot.allroot * 4 + b2n s.shoot.allva * 2
  else if off = 0x2018 then
    b2n s.shoot.busy * 2 ^ 63 + b2n s.shoot.tlbdone * 2 ^ 62 + b2n s.shoot.done * 2 ^ 61 + b2n s.shoot.lost * 2 ^ 60 +
    (if s.shoot.busy then s.staleCount else 0) * 2 ^ 32 + s.shoot.seq.toNat
  else if off = 0x2020 then
    (upto 64).foldl (fun a i => a + b2n (s.shoot.busy && decide (0 < (s.tile (BitVec.ofNat 6 i)).staleCount)) * 2 ^ i) 0
  else if off = 0x2800 then s.fabric.topo.toNat
  else if off = 0x3000 then b2n s.time.en * 2 ^ 16 + s.time.gm.toNat
  else if off = 0x3008 then b2n s.time.lock * 2 ^ 63 + s.time.hops.toNat * 2 ^ 40 + s.time.offset.toNat
  else if off = 0x3800 then v.clock.toNat
  else if off = 0x3808 then v.vsbase.toNat * 2 ^ 30
  else if off = 0x3810 then v.gib.toNat
  else if off = 0x3818 then v.scount.toNat * 2 ^ 22 + v.sfirst.toNat * 2 ^ 9 + v.mbase.toNat
  else if off = 0x3820 then v.bound.toNat
  else if off = 0x3828 then s.freeRecords % 2 ^ 32 * 2 ^ 32 + s.liveSnaps.length * 2 ^ 16 + v.txs.length
  else if off = 0x3830 then s.lwm
  else if off = 0x3838 then v.pass.toNat
  else if 0x4000 ≤ off ∧ off < 0x5000 then
    let w := s.redWindow (BitVec.ofNat 6 ((off - 0x4000) / 64))
    match off % 64 with
    | 0 => w.pbase.toNat * 128
    | 8 => w.cfg
    | 16 => w.list.toNat * 16
    | 24 => w.lwa.toNat * 16
    | 32 => w.epoch.toNat * 2 ^ 32 + b2n w.err * 4 + b2n w.mism * 2 + b2n w.busy
    | _ => 0
  else if 0x5000 ≤ off ∧ off < 0x5800 then (s.qtab[(off - 0x5000) / 8]?.getD 0).toNat
  else if 0x100000 ≤ off ∧ off < 0x104000 then
    let q := s.queue (BitVec.ofNat 8 ((off - 0x100000) / 64))
    match off % 64 with
    | 0 => q.base.toNat * 256
    | 8 => q.cfg
    | 16 => q.head.toNat
    | 24 => q.tail.toNat
    | 32 => b2n q.ovr
    | _ => 0
  else 0

/-- LKSTAT of a port reads 0 until its LINK bit is 1 (R409). -/
def State.linkStat (s : State) (d : BitVec 2) (i : Nat) : Nat :=
  if s.engReady (16 + 4 * d.toNat + i) then ((s.die d).ports[i]?.getD Port.reset).stat else 0

def State.dieWord (s : State) (d : BitVec 2) (off : Nat) : Nat :=
  let x := s.die d
  if 0x2000 ≤ off ∧ off < 0x2100 ∧ off % 64 = 0 then s.linkStat d ((off - 0x2000) / 64)
  else if off = 0x2800 then x.lost.toNat * 2 ^ 32 + x.log.length
  else if off = 0x2808 then x.cethr.toNat
  else if 0x3000 ≤ off ∧ off < 0x3300 then
    (upto 4).foldl (fun a i => a + s.capacityHalf d (off - 0x3000 + 2 * i) * 2 ^ (16 * i)) 0
  else if off = 0x3300 then x.maxop.toNat * 16 + b2n x.stepping * 8 + x.point.toNat
  else if off = 0x3400 then x.tlmdie.toNat
  else if off = 0x3408 then x.tlmhbm.toNat
  else if off = 0x3410 then b2n x.warn * 2 ^ 32 + 0x06E0 * 2 ^ 16 + x.twarn.toNat
  else if d = 0 ∧ 0x4000 ≤ off ∧ off < 0x4080 then (s.bridge.slots[(off - 0x4000) / 8]?.getD 0).toNat
  else if d = 0 ∧ 0x4080 ≤ off ∧ off < 0x4100 then (s.bridge.wins[(off - 0x4080) / 8]?.getD 0).toNat
  else if 0x100000 ≤ off ∧ off < 0x110000 then
    (upto 8).foldl (fun a i => a + (tval 0 x.paths (off - 0x100000 + i) : Byte).toNat * 2 ^ (8 * i)) 0
  else 0

def State.clusterWord (s : State) (c : BitVec 4) (off : Nat) : Nat :=
  let k := s.cluster c
  if 0x100 ≤ off ∧ off < 0x120 then (k.cpalloc[(off - 0x100) / 8]?.getD 0).toNat
  else if 0x200 ≤ off ∧ off < 0x228 then
    match k.phys[(off - 0x200) / 8]? with
    | some p => p.misses.headD 0 / 10 ^ 6 % 2 ^ 32 * 2 ^ 32 + p.logical.toNat * 256 + p.state.toNat
    | none => 0
  else if 0x280 ≤ off ∧ off < 0x2A8 then
    match k.phys[(off - 0x280) / 8]? with
    | some p => b2n p.pass * 4 + b2n p.done * 2 + b2n p.run
    | none => 0
  else 0

/-- The 64-bit word at an 8-byte aligned offset of the register range (R252). -/
def State.regWord (s : State) (off : Nat) : Nat :=
  if off < 0x1000000 then s.packageWord off
  else if off < 0x5000000 then s.dieWord (BitVec.ofNat 2 (off / 0x1000000 - 1)) (off % 0x1000000)
  else if 0x10000000 ≤ off ∧ off < 0x11000000 then
    s.clusterWord (BitVec.ofNat 4 ((off - 0x10000000) / 0x100000)) (off % 0x100000)
  else 0

/-- A read of 4 or 8 bytes, with its side effect (R252): the value and the state after it. -/
def State.regRead (s : State) (off n : Nat) : State × Nat :=
  let v := s.regWord (off / 8 * 8)
  if n = 8 then (if off = 0x1018 ∧ bits v 63 63 = 1 then s.hdispTake else s, v)
  else if off % 8 = 4 then (if off / 8 * 8 = 0x1018 ∧ bits v 63 63 = 1 then s.hdispTake else s, bits v 63 32)
  else (s, bits v 31 0)

/-! ## What a write of a register does -/

def State.writePackage (s : State) (who : RegAgent) (off : Nat) (x : RegWrite) : State :=
  let old := s.packageWord off
  let v := x.rw old
  let a := x.act
  if 0x200 ≤ off ∧ off < 0x260 then
    if s.reachesKeys who then
      { s with keys := { s.keys with data := s.keys.data.set! ((off - 0x200) / 8) (BitVec.ofNat 64 (x.rw (s.keys.data[(off - 0x200) / 8]?.getD 0).toNat)) } }
    else s
  else if off = 0x260 then
    if s.reachesKeys who then
      match bits a 9 8 with
      | 1 => s.keyLoad (BitVec.ofNat 8 a)
      | 2 => s.keyClear (BitVec.ofNat 8 a)
      | _ => s
    else s
  else if off = 0x1000 then
    { s with pool := { s.pool with age3 := BitVec.ofNat 16 (bits v 47 32), age2 := BitVec.ofNat 16 (bits v 31 16), age1 := BitVec.ofNat 16 (bits v 15 0) } }
  else if off = 0x1008 then
    let q : BitVec 16 := BitVec.ofNat 16 (bits v 15 0)
    { s with pool := { s.pool with lead := BitVec.ofNat 16 (bits v 47 32), slice := BitVec.ofNat 16 (bits v 31 16), quantum := if q = 0 then s.pool.quantum else q } }
  else if off = 0x1020 then (if x.lo then s.writeHdone a else s)
  else if off = 0x2000 then { s with shoot := { s.shoot with vpn := BitVec.ofNat 45 (bits v 56 12) } }
  else if off = 0x2008 then { s with shoot := { s.shoot with root := BitVec.ofNat 35 (bits v 46 12) } }
  else if off = 0x2010 then s.writeXictl x
  else if off = 0x2018 then (if bits a 60 60 = 1 then { s with shoot := { s.shoot with lost := false } } else s)
  else if off = 0x2800 then
    let topo : W64 := BitVec.ofNat 64 (bits v 63 63 * 2 ^ 63 + bits v 59 36 * 2 ^ 36 + bits v 29 0)
    { s with fabric := { s.fabric with topo := topo, moved := if topo = s.fabric.topo then s.fabric.moved else (4, 0, 0) :: s.fabric.moved } }
  else if off = 0x3000 then
    { s with time := { s.time with en := bits v 16 16 == 1, gm := BitVec.ofNat 10 (bits v 9 0), synced := s.time.synced && bits v 16 16 == 1, lock := s.time.lock && bits v 16 16 == 1, hold := if bits v 16 16 = 1 then s.time.hold else 0, rate := if bits v 16 16 = 1 then s.time.rate else 100 } }
  else if off = 0x3010 then s.writeTbinit (BitVec.ofNat 64 a)
  else if off = 0x3820 then { s with versions := { s.versions with bound := BitVec.ofNat 16 (bits v 15 0) } }
  else if 0x4000 ≤ off ∧ off < 0x5000 then
    let i : BitVec 6 := BitVec.ofNat 6 ((off - 0x4000) / 64)
    let w := s.redWindow i
    match off % 64 with
    | 0 => if w.en then s else s.setRedWindow i { w with pbase := BitVec.ofNat 51 (bits v 57 7) }
    | 8 => let s1 := s.setRedWindow i (w.writeCfg x); if s1.versions.waiting.isEmpty then s1 else s1.retryHeld
    | 16 => if w.en then s else s.setRedWindow i { w with list := BitVec.ofNat 43 (bits v 46 4) }
    | 24 => if w.en then s else s.setRedWindow i { w with lwa := BitVec.ofNat 54 (bits v 57 4) }
    | 32 => s.setRedWindow i { w with err := w.err && bits a 2 2 == 0, mism := w.mism && bits a 1 1 == 0 }
    | _ => s
  else if 0x5000 ≤ off ∧ off < 0x5800 then
    { s with qtab := s.qtab.set! ((off - 0x5000) / 8) (BitVec.ofNat 64 (bits v 63 63 * 2 ^ 63 + bits v 46 12 * 4096)) }
  else if 0x100000 ≤ off ∧ off < 0x104000 then
    let q : Byte := BitVec.ofNat 8 ((off - 0x100000) / 64)
    let r := s.queue q
    match off % 64 with
    | 0 => if r.en then s else s.setQueue q { r with base := BitVec.ofNat 39 (bits v 46 8) }
    | 8 => s.setQueue q (r.writeCfg x)
    | 24 => if x.lo then s.writeTail q (BitVec.ofNat 32 (bits v 31 0)) else s
    | 32 => s.setQueue q { r with ovr := r.ovr && bits a 0 0 == 0 }
    | _ => s
  else s

def State.writeDie (s : State) (d : BitVec 2) (off : Nat) (x : RegWrite) : State :=
  let old := s.dieWord d off
  let v := x.rw old
  let a := x.act
  if 0x2000 ≤ off ∧ off < 0x2100 ∧ off % 64 = 0 then
    s.onDie d fun y =>
      let i := (off - 0x2000) / 64
      let p := y.ports[i]?.getD Port.reset
      { y with ports := y.ports.set! i { p with replay := p.replay &&& ~~~ BitVec.ofNat 8 (bits a 23 16) } }
  else if off = 0x2808 then
    s.onDie d fun y => { y with cethr := BitVec.ofNat 16 (bits v 15 0), lost := if bits a 16 16 = 1 then 0 else y.lost }
  else if off = 0x3410 then
    let s1 := s.onDie d fun y => { y with twarn := BitVec.ofNat 16 (bits v 15 0), warn := y.warn && bits a 32 32 == 0 }
    { s1 with mgmt := { s1.mgmt with alert := s1.dies.toList.any (·.warn) } }
  else if d = 0 ∧ 0x4000 ≤ off ∧ off < 0x4080 then
    { s with bridge := { s.bridge with slots := s.bridge.slots.set! ((off - 0x4000) / 8) (BitVec.ofNat 64 (bits v 63 63 * 2 ^ 63 + bits v 9 0)) } }
  else if d = 0 ∧ 0x4080 ≤ off ∧ off < 0x4100 then
    { s with bridge := { s.bridge with wins := s.bridge.wins.set! ((off - 0x4080) / 8) (BitVec.ofNat 64 (bits v 63 63 * 2 ^ 63 + bits v 57 32 * 2 ^ 32)) } }
  else if 0x100000 ≤ off ∧ off < 0x110000 then
    let entry (i : Nat) : Byte := BitVec.ofNat 8 (bits v (8 * i + 7) (8 * i)) &&& 0xC3
    let at_ := off - 0x100000
    let changed := (upto 8).filter fun i => (tval 0 (s.die d).paths (at_ + i) : Byte) != entry i
    let s1 := s.onDie d fun y => { y with paths := (upto 8).foldl (fun t i => tset 0 t (at_ + i) (entry i)) y.paths }
    { s1 with fabric := { s1.fabric with moved := changed.map (fun i => (d.toNat, (at_ + i) / 64, (at_ + i) % 64)) ++ s1.fabric.moved } }
  else s

def State.writeCluster (s : State) (who : RegAgent) (c : BitVec 4) (off : Nat) (x : RegWrite) : State :=
  let v := x.rw (s.clusterWord c off)
  let a := x.act
  if 0x100 ≤ off ∧ off < 0x120 then
    let t := (off - 0x100) / 8
    if (s.tile (clusterTile c (BitVec.ofNat 2 t))).status = .empty then
      s.onCluster c fun k => { k with cpalloc := k.cpalloc.set! t (BitVec.ofNat 32 (bits v 31 0)) }
    else s
  else if 0x280 ≤ off ∧ off < 0x2A8 then
    if who.tests c then
      s.onCluster c fun k => k.onPhys ((off - 0x280) / 8) fun p =>
        let p1 := if bits a 3 3 = 1 then p.ret else p
        if bits a 0 0 = 1 then p1.test else p1
    else s
  else if 0x300 ≤ off ∧ off < 0x320 then
    if who.tests c ∧ bits a 0 0 = 1 then s.dbgreq (clusterTile c (BitVec.ofNat 2 ((off - 0x300) / 8))) else s
  else s

/-- A write of n bytes (4 or 8) at an offset of the register range (R252). -/
def State.regWrite (s : State) (who : RegAgent) (off n v : Nat) : State :=
  let x : RegWrite :=
    if n = 8 then { v := v, lo := true, hi := true }
    else if off % 8 = 4 then { v := v % 2 ^ 32 * 2 ^ 32, lo := false, hi := true }
    else { v := v % 2 ^ 32, lo := true, hi := false }
  let o := off / 8 * 8
  if o < 0x1000000 then s.writePackage who o x
  else if o < 0x5000000 then s.writeDie (BitVec.ofNat 2 (o / 0x1000000 - 1)) (o % 0x1000000) x
  else if 0x10000000 ≤ o ∧ o < 0x11000000 then
    s.writeCluster who (BitVec.ofNat 4 ((o - 0x10000000) / 0x100000)) (o % 0x100000) x
  else s

/-! ## The rows of the table that are register accesses -/

def execXictlGo (v : W64) (s : State) : Out :=
  .next (s.writeXictl { v := v.toNat / 8 * 8 + v.toNat % 8 / 2 * 2 + 1, lo := true, hi := true })

/-- TLBDONE, once all accesses using dropped entries are performed (R259, step 2). -/
def execShootdownTlbDone (s : State) : Out :=
  .next (if s.shoot.busy ∧ !s.shoot.tlbdone ∧ s.fabric.requests.all fun r => !s.shoot.waits.contains r.tag then ({ s with shoot := { s.shoot with tlbdone := true } }).markStale.shootCheck else s)

def execTbinitWrite (v : W64) (s : State) : Out := .next (s.writeTbinit v)
def execRwcfgWrite (w : BitVec 6) (v : W64) (s : State) : Out :=
  .next (s.setRedWindow w ((s.redWindow w).writeCfg { v := v.toNat, lo := true, hi := true }))
/-- A supervisor writes KEYCMD: the running one, in machine mode (R414). -/
def execKeyLoad (k : Byte) (s : State) : Out := .next (if s.reachesKeys (.supervisor s.curCluster) then s.keyLoad k else s)
def execKeyClear (k : Byte) (s : State) : Out := .next (if s.reachesKeys (.supervisor s.curCluster) then s.keyClear k else s)
def execClrlost (d : BitVec 2) (s : State) : Out := .next (s.onDie d fun y => { y with lost := 0 })
def execDbgreqBreak (c : BitVec 4) (t : BitVec 2) (s : State) : Out := .next (s.dbgreq (clusterTile c t))
def execPttestRun (c : BitVec 4) (p : BitVec 3) (s : State) : Out :=
  .next (s.onCluster c fun k => k.onPhys p.toNat PhysTile.test)
def execPttestRet (c : BitVec 4) (p : BitVec 3) (s : State) : Out :=
  .next (s.onCluster c fun k => k.onPhys p.toNat PhysTile.ret)
def execSelfTestComplete (c : BitVec 4) (p : BitVec 3) (k : Bool) (s : State) : Out :=
  .next (s.onCluster c fun x => x.onPhys p.toNat fun y => y.testDone k)

end Sys2Proof.Machine
end

