-- ==== Sys2Proof/Machine/ControlMem.lean ====
section
/-!
DEFINITION. Sys2Proof/Machine/ControlMem.lean: the memory instructions of the C stream (R59 to R68): loads,
stores, ordered forms, amo and cas, with the reads and tentative stores of an open transaction (R100,
R362).
-/

namespace Sys2Proof.Machine

/-- Asker of the current tile's C stream. -/
def State.cAsker (s : State) : Asker := .stream s.curTile 0

/-- ALIGN, XLATE and PERM of a C-stream access (R45, R60, R63): its leaf and group physical address. -/
def State.cReach (s : State) (k : AccessKind) (ea : W64) (n : Nat) : Res (Leaf × Nat) := do
  need (ea.toNat % n = 0) causeAlign ea
  let page ← s.translate s.curTile (s.root s.curTile) ea
  let gpa := leafPa (vaddr ea) page
  s.checkAccess (tileDie s.curTile) k page.2 gpa n ea
  return (page.2, gpa)

/-- The view of a C-stream read: at the snapshot while a transaction is open (R100, R359). -/
def State.cView (s : State) : View :=
  match s.openSlot s.curTile with
  | some slot => match tget s.versions.txs slot.toNat with
    | some x => .tx slot x.snapshot
    | none => .newest
  | none => .newest

/-- The register offset an address of the own package names. -/
def State.regOffset (s : State) (gpa : Nat) : Option Nat :=
  if s.ownPkg gpa then match place (localOf gpa) with | .register off => some off | _ => none else none

/-- A load: the state after it and the n bytes as a number (R61). -/
def State.cRead (s : State) (ea : W64) (n : Nat) : Res (State × Nat) := do
  let r ← s.cReach .read ea n
  match s.regOffset r.2 with
  | some off => return s.regRead off n
  | none =>
    let bs ← s.readWhole s.cAsker r.1 s.cView r.2 n ea
    return (s, leNat bs)

/-- The transaction's data of a line before a first tentative store: its version at s (R362). -/
def State.firstTentative (s : State) (slot : Byte) (x : Tx) (l : Nat) : Res State :=
  let v := s.versionAt l x.snapshot
  match s.pushRecord l { line := l, data := v.1, stamp := 0, kind := 1, u := false, poison := v.2.1, tag := v.2.2, viaCkpt := false, viaPlain := false, intv := 0 } with
  | .error e => .error e
  | .ok s1 =>
    let s2 := s1.setLine l { s1.line l with tent := true, owner := slot }
    .ok { s2 with versions := { s2.versions with
      txs := tput s2.versions.txs slot.toNat { x with lines := x.lines ++ [l] } } }

/-- Bytes written into a tentative record (R362, R374). -/
def State.writeTentative (s : State) (leaf : Leaf) (slot : Byte) (pa : Nat) (bs : List Byte) : State :=
  let l := pa / 128
  match s.tentative l slot with
  | none => s
  | some (i, r) =>
    let o := pa - lineAddr l
    let g := s.sealLine leaf l 0 r.tag r.data o bs.length
    let data := g.1.take o ++ bs ++ g.1.drop (o + bs.length)
    let r' : Record := { r with data := data, tag := g.2, viaCkpt := r.viaCkpt || leaf.ckpt, viaPlain := r.viaPlain || !leaf.ckpt }
    { s with versions := { s.versions with records := tput s.versions.records i r' } }

/-- tstore of R362, for bytes of one line of the own package. -/
def State.tstore (s : State) (leaf : Leaf) (slot : Byte) (pa : Nat) (bs : List Byte) : Res State :=
  let l := pa / 128
  let m := s.line l
  match tget s.versions.txs slot.toNat with
  | none => .ok s
  | some x =>
    if x.status.isSome then .ok s
    else if m.tent && m.owner != slot then .ok (s.doom slot 1)
    else if m.tent then .ok (s.writeTentative leaf slot pa bs)
    else if x.lines.length ≥ 65536 then .ok (s.doom slot 2)
    else match s.firstTentative slot x l with
      | .ok s' => .ok (s'.writeTentative leaf slot pa bs)
      | .error (.denied pa) =>
        if s.overdue s.ctl.denied then .ok ((s.logError s.curNode 0 (.denied pa)).doom slot 3)
        else .error (.denied pa)
      | .error e => .error e

/-- A store to another package: asked once, complete with its response (R329). -/
def State.cWriteAway (s : State) (ea : W64) (leaf : Leaf) (gpa : Nat) (bs : List Byte) : State :=
  match s.answer? s.cAsker .write gpa bs.length with
  | some a => s.cRunAt ea (if a.err then .error (a.bad (tileDie s.curTile) gpa ea) else .ok (s.markUnrollable s.curWriter leaf gpa))
  | none => (s.ask (tileDie s.curTile) s.cAsker .write gpa bs.length leaf.attr bs).cStall

/-- Bytes stored by the C stream at a checked address of the own package. -/
def State.cStoreAt (s : State) (leaf : Leaf) (gpa : Nat) (bs : List Byte) : Res State :=
  match s.regOffset gpa with
  | some off => .ok ((s.markUnrollable s.curWriter leaf gpa).regWrite .tile off bs.length (leNat bs))
  | none => match s.openSlot s.curTile, leaf.ver with
    | some slot, true => s.tstore leaf slot (localOf gpa) bs
    | _, _ => s.writeLocal s.curWriter leaf (localOf gpa) bs

/-- A store of n bytes at ea (R62). -/
def State.cWrite (s : State) (ea : W64) (n : Nat) (v : Nat) : State :=
  match s.cReach .write ea n with
  | .error e => s.cRunAt ea (.error e)
  | .ok r => if s.ownPkg r.2 then s.cRunAt ea (s.cStoreAt r.1 r.2 (leBytes n v)) else s.cWriteAway ea r.1 r.2 (leBytes n v)

/-! ## ld, st, ldo, sto -/

/-- Bytes of a load or store size code (R61, R62). -/
def accessSize (z : Nat) : Nat := 2 ^ (z % 4)
/-- gd of a load: sign-extended for the i forms, zero-extended for the n forms (R61). -/
def loadValue (z : Nat) (x : Nat) : W64 :=
  if z < 4 then sext64 (8 * accessSize z) x else BitVec.ofNat 64 (x % 2 ^ (8 * accessSize z))

def State.cLoad (s : State) (d : BitVec 5) (ea : W64) (z : Nat) : State :=
  s.cRunAt ea ((s.cRead ea (accessSize z)).map fun r => r.1.setG d (loadValue z r.2))

def execLd (d a : BitVec 5) (z : BitVec 3) (i : BitVec 11) (s : State) : Out :=
  .next (s.cLoad d (s.g a + i.signExtend 64) z.toNat)
def execSt (d a : BitVec 5) (z : BitVec 2) (i : BitVec 11) (s : State) : Out :=
  .next (s.cWrite (s.g a + i.signExtend 64) (accessSize z.toNat) (s.g d).toNat)
/-- ldo (R64): every access of this model is performed when its instruction ends, so its order holds. -/
def execLdo (d a b : BitVec 5) (z : BitVec 3) (_o : BitVec 1) (_p : BitVec 3) (s : State) : Out :=
  .next (s.cLoad d (s.g a + s.g b) z.toNat)
def execSto (d a b : BitVec 5) (z : BitVec 2) (_o : BitVec 1) (_p : BitVec 3) (s : State) : Out :=
  .next (s.cWrite (s.g a + s.g b) (accessSize z.toNat) (s.g d).toNat)

/-! ## amo and cas -/

/-- Width in bytes of an atomic from fn[5]: 8 without .w, 4 with it (R25, R65). -/
def atomicWidth (w : BitVec 1) : Nat := if w = 1 then 8 else 4

/-- What an atomic leaves in memory: code 9 is fadd32 and code 10 the cas whose comparison value is c. -/
def atomicNew (op w old v c : Nat) : Option Nat :=
  if op = 10 then (if old = c % 2 ^ (8 * w) then some (v % 2 ^ (8 * w)) else none)
  else if op = 9 then some (fadd32 (BitVec.ofNat 32 old) (BitVec.ofNat 32 v)).toNat
  else some (amoCombine op w old (v % 2 ^ (8 * w)))

/-- One indivisible access at the home port of the own package (R68). -/
def State.atomicAt (s : State) (wr : Writer) (leaf : Leaf) (pa op w v c : Nat) : Res (State × Nat) := do
  let bs ← s.readChecked leaf .newest pa w
  match atomicNew op w (leNat bs) v c with
  | some x => let s' ← s.writeLocal wr leaf pa (leBytes w x); return (s', leNat bs)
  | none => return (s, leNat bs)

/-- gd of an atomic: the old value, sign-extended when 4 bytes wide but for fadd32 (R65). -/
def atomicResult (op w old : Nat) : W64 := if w = 8 ∨ op = 9 then BitVec.ofNat 64 old else sext64 32 old

/-- An atomic of another package: asked once, complete with its response. -/
def State.cAtomicAway (s : State) (ea : W64) (leaf : Leaf) (d : BitVec 5) (gpa op w v c : Nat) : State :=
  match s.answer? s.cAsker .atomic gpa w with
  | some a => s.cRunAt ea (if a.err then .error (a.bad (tileDie s.curTile) gpa ea)
      else .ok ((s.markUnrollable s.curWriter leaf gpa).setG d (atomicResult op w (leNat a.bytes))))
  | none => (s.ask (tileDie s.curTile) s.cAsker .atomic gpa w leaf.attr
      ([BitVec.ofNat 8 op, BitVec.ofNat 8 (b2n (w == 4))] ++ leBytes 8 v ++ leBytes 8 c)).cStall

/-- amo and cas (R65 to R68): ALIGN, XLATE, PERM; PERM on a VER page while a transaction is open (R100). -/
def State.cAtomic (s : State) (d : BitVec 5) (ea : W64) (op w v c : Nat) : State :=
  match s.cReach .atomic ea w with
  | .error e => s.cRunAt ea (.error e)
  | .ok r =>
    if r.1.ver && (s.openSlot s.curTile).isSome then s.cTrap causePerm ea
    else if s.ownPkg r.2 then
      s.cRunAt ea ((s.atomicAt s.curWriter r.1 (localOf r.2) op w v c).map fun x => x.1.setG d (atomicResult op w x.2))
    else s.cAtomicAway ea r.1 d r.2 op w v c

def State.amo (s : State) (op : Nat) (d a b : BitVec 5) (w : BitVec 1) : State :=
  s.cAtomic d (s.g a) op (atomicWidth w) (s.g b).toNat 0

def execAmoAdd (d a b : BitVec 5) (w : BitVec 1) (_o : BitVec 2) (_p : BitVec 3) (s : State) : Out := .next (s.amo 0 d a b w)
def execAmoAnd (d a b : BitVec 5) (w : BitVec 1) (_o : BitVec 2) (_p : BitVec 3) (s : State) : Out := .next (s.amo 1 d a b w)
def execAmoOr (d a b : BitVec 5) (w : BitVec 1) (_o : BitVec 2) (_p : BitVec 3) (s : State) : Out := .next (s.amo 2 d a b w)
def execAmoXor (d a b : BitVec 5) (w : BitVec 1) (_o : BitVec 2) (_p : BitVec 3) (s : State) : Out := .next (s.amo 3 d a b w)
def execAmoMin (d a b : BitVec 5) (w : BitVec 1) (_o : BitVec 2) (_p : BitVec 3) (s : State) : Out := .next (s.amo 4 d a b w)
def execAmoMax (d a b : BitVec 5) (w : BitVec 1) (_o : BitVec 2) (_p : BitVec 3) (s : State) : Out := .next (s.amo 5 d a b w)
def execAmoMinn (d a b : BitVec 5) (w : BitVec 1) (_o : BitVec 2) (_p : BitVec 3) (s : State) : Out := .next (s.amo 6 d a b w)
def execAmoMaxn (d a b : BitVec 5) (w : BitVec 1) (_o : BitVec 2) (_p : BitVec 3) (s : State) : Out := .next (s.amo 7 d a b w)
def execAmoSwap (d a b : BitVec 5) (w : BitVec 1) (_o : BitVec 2) (_p : BitVec 3) (s : State) : Out := .next (s.amo 8 d a b w)
/-- fadd32 is 4 bytes wide (R65, R66). -/
def execAmoFadd32 (d a b : BitVec 5) (_o : BitVec 2) (_p : BitVec 3) (s : State) : Out := .next (s.amo 9 d a b 0)
/-- cas (R67): gd holds the value compared with. -/
def execCas (d a b : BitVec 5) (w : BitVec 1) (_o : BitVec 2) (_p : BitVec 3) (s : State) : Out :=
  .next (s.cAtomic d (s.g a) 10 (atomicWidth w) (s.g b).toNat (s.g d).toNat)

end Sys2Proof.Machine
end

