-- ==== Sys2Proof/Machine/Sync.lean ====
section
/-!
DEFINITION. Sys2Proof/Machine/Sync.lean: semaphores (R78, R79), landing words (R80 to R82), domain barriers
(R83, R84, R297, R330), the format and vote queues (R91) and waite (R92).
-/

namespace Sys2Proof.Machine

/-! ## Semaphores -/

/-- The operand n of the sem forms (R78). -/
def State.semOperand (s : State) (a : BitVec 5) (k : BitVec 6) : Nat := (s.g a + k.setWidth 64).toNat

/-- An operand above 65,535 is SEMOVF (R78). -/
def State.withSemOperand (s : State) (a : BitVec 5) (k : BitVec 6) (f : Nat → State) : State :=
  let n := s.semOperand a k
  if n > 65535 then s.cTrap causeSemovf 0 else f n

/-- A raise of n; none when it would take the count past 65,535 (R78). -/
def Sem.raise (x : Sem) (n : Nat) : Option Sem :=
  if x.count.toNat + n > 65535 then none else some { x with count := BitVec.ofNat 16 (x.count.toNat + n) }

/-- A raise that carries an error sets poison, whether or not its count fits (R78). -/
def Sem.raiseError (x : Sem) (n : Nat) : Sem := { ((x.raise n).getD x) with poison := true }

/-- A completion raise taken by semaphore k of a tile (R16, R78, R95): a raise that would overflow is not applied and the tile
takes SEMOVF. -/
def State.takeRaise (s : State) (t : BitVec 6) (k : BitVec 6) (n : Nat) (err : Bool) (stream : Nat) : State :=
  let x := (s.tile t).sem k
  let y := if err then some (x.raiseError n) else x.raise n
  let s1 := match y with | some y => s.onTile t fun u => u.setSem k y | none => s
  if (x.raise n).isSome then s1
  else s1.onTile t fun u => u.takeTrap { TrapRecord.none with cause := causeSemovf, stream := BitVec.ofNat 8 stream, addr := BitVec.ofNat 32 u.control.pc.toNat }

def execSemRaise (a : BitVec 5) (n k : BitVec 6) (s : State) : Out :=
  .next (s.withSemOperand a k fun v =>
    match ((s.tile s.curTile).sem n).raise v with
    | none => s.cTrap causeSemovf 0
    | some y => (s.onCur fun t => t.setSem n y).cDone)

/-- sem.wait (R78): a poisoned semaphore ends the wait with cd = 1 and grants nothing. -/
def execSemWait (c : BitVec 3) (a : BitVec 5) (n k : BitVec 6) (s : State) : Out :=
  .next (s.withSemOperand a k fun v =>
    let x := (s.tile s.curTile).sem n
    if x.poison then (s.setC c true).cDone
    else if v ≤ x.count.toNat then
      ((s.onCur fun t => t.setSem n { x with count := BitVec.ofNat 16 (x.count.toNat - v) }).setC c false).cDone
    else s.cStall)

def execSemTry (c : BitVec 3) (a : BitVec 5) (n k : BitVec 6) (s : State) : Out :=
  .next (s.withSemOperand a k fun v =>
    let x := (s.tile s.curTile).sem n
    if !x.poison && decide (v ≤ x.count.toNat) then
      ((s.onCur fun t => t.setSem n { x with count := BitVec.ofNat 16 (x.count.toNat - v) }).setC c true).cDone
    else (s.setC c false).cDone)

def execSemSet (a : BitVec 5) (n k : BitVec 6) (s : State) : Out :=
  .next (s.withSemOperand a k fun v =>
    (s.onCur fun t => t.setSem n { count := BitVec.ofNat 16 v, poison := false }).cDone)

def execSemRead (d : BitVec 5) (n : BitVec 6) (s : State) : Out :=
  .next (let x := (s.tile s.curTile).sem n
    s.result d (BitVec.ofNat 64 (b2n x.poison * 2 ^ 16 + x.count.toNat)))

/-- sem.ring (R78): sN empty, s(N+1) holds n. -/
def execSemRing (a : BitVec 5) (n k : BitVec 6) (s : State) : Out :=
  .next (s.withSemOperand a k fun v =>
    (s.onCur fun t => (t.setSem n { count := 0, poison := false }).setSem (n + 1) { count := BitVec.ofNat 16 v, poison := false }).cDone)

/-! ## Landing words (R80 to R82) -/

/-- TARGET, COUNT, GEN and the flags of a landing word. -/
structure Landing where
  target : Nat
  count : Nat
  gen : Nat
  err : Bool
  ovr : Bool
  armed : Bool
  rest : Nat
deriving DecidableEq, Repr

def Landing.ofBytes (bs : List Byte) : Landing :=
  let x := leNat bs
  { target := bits x 31 0, count := bits x 63 32, gen := bits x 95 64, err := bits x 96 96 == 1,
    ovr := bits x 97 97 == 1, armed := bits x 98 98 == 1, rest := bits x 127 99 }

def Landing.toNat (l : Landing) : Nat :=
  l.rest * 2 ^ 99 + b2n l.armed * 2 ^ 98 + b2n l.ovr * 2 ^ 97 + b2n l.err * 2 ^ 96 + l.gen % 2 ^ 32 * 2 ^ 64 +
    l.count % 2 ^ 32 * 2 ^ 32 + l.target % 2 ^ 32

/-- An arrival of b bytes with error indication e (R81). -/
def Landing.arrive (l : Landing) (b : Nat) (e : Bool) : Landing :=
  let l := { l with err := l.err || e }
  if !l.armed || l.target == 0 then { l with ovr := true }
  else
    let full := l.count + b > 0xFFFFFFFF
    let c := if full then 0xFFFFFFFF else l.count + b
    { l with ovr := l.ovr || full, gen := (l.gen + c / l.target) % 2 ^ 32, count := c % l.target }

/-- The landing word at a local physical address. -/
def State.landing (s : State) (pa : Nat) : Landing := Landing.ofBytes (s.mem.bytes pa 16)
/-- The fields of a landing word written; the ignored bits above stay as they are. -/
def State.setLanding (s : State) (pa : Nat) (l : Landing) : State :=
  let bs := leBytes 16 l.toNat
  (s.put pa (bs.take 12)).put (pa + 12) ((bs.drop 12).take 1)

/-- An arrival taken at a landing word of the own package; a word that no longer names storage counts nothing. -/
def State.takeLanding (s : State) (pa b : Nat) (e : Bool) : State :=
  if s.storage pa then s.setLanding pa ((s.landing pa).arrive b e) else s

/-- The pool's step at a landing word (R295): the cause in bits 127 to 120, and an arrival of TARGET bytes. -/
def State.takeCompletion (s : State) (pa : Nat) (cause : Byte) : State :=
  if s.storage pa then (s.put (pa + 15) [cause]).takeLanding pa (s.landing pa).target (decide (cause ≠ 0)) else s

/-! ## The port of a tile (R16, R417) -/

/-- Where a raise or an arrival stands among those of its tc (R16). -/
def PortItem.rank : PortItem → Nat
  | .raise src _ _ _ _ => src
  | .arrival src _ _ _ => src
  | .completion _ _ _ => 3

/-- The MSI-X message of a completion leaves behind its completion step (R349). -/
def State.sendMsix (s : State) (v : Option Byte) : State :=
  match v with
  | some x => { s with bridge := { s.bridge with out := s.bridge.out ++ [.msix x] } }
  | none => s

def State.takeItem (s : State) (t : BitVec 6) : PortItem → State
  | .raise _ k n err stream => s.takeRaise t k n err stream
  | .arrival _ off n err => s.takeLanding (storeAddr t off) n err
  | .completion off cause v => (s.takeCompletion (storeAddr t off) cause).sendMsix v

/-- What the port holds, in the order in which it is taken: by tc, and in one tc by R16. -/
def insertPort : List (Nat × PortItem) → Nat × PortItem → List (Nat × PortItem)
  | [], x => [x]
  | y :: r, x => if x.1 < y.1 ∨ (x.1 = y.1 ∧ x.2.rank < y.2.rank) then x :: y :: r else y :: insertPort r x

/-- Everything that reached the port before tc now is taken (R417). -/
def State.takePort (s : State) (t : BitVec 6) (now : Nat) : State :=
  let due := (s.tile t).port.filter fun e => decide (e.1 < now)
  due.foldl (fun (s : State) (e : Nat × PortItem) => s.takeItem t e.2)
    (s.onTile t fun u => { u with port := u.port.filter fun e => !decide (e.1 < now) })

/-- The tc before which things have reached the port for an event of now: in a freeze time goes on without a tc (R237, R417). -/
def Tile.portNow (t : Tile) : Nat := if t.frozen then t.tc + 1 else t.tc

/-- Something reaches the port of a tile. A tile whose context does not run takes it at once. -/
def State.atPort (s : State) (t : BitVec 6) (i : PortItem) : State :=
  if (s.tile t).status = .run ∨ (s.tile t).status = .stopping then
    s.onTile t fun u => { u with port := insertPort u.port (u.tc, i) }
  else s.takeItem t i

/-- Everything at the port is taken. -/
def State.flushPort (s : State) (t : BitVec 6) : State := s.takePort t ((s.tile t).tc + 1)

/-- A completion raise on semaphore k of a tile, by an engine or the fabric (R95, R417). -/
def State.raiseSem (s : State) (src : Nat) (t : BitVec 6) (k : BitVec 6) (n : Nat) (err : Bool) : State :=
  if n = 0 then s else s.atPort t (.raise src k n err 0)

/-- An arrival at a landing word of the own package, from an agent that the word's tile clock does not drive (R417). -/
def State.arrive (s : State) (src pa b : Nat) (e : Bool) : State :=
  match place pa with
  | .tileStore t off => s.atPort t (.arrival src off b e)
  | _ => s

/-- A node's completion at a landing word of the own package (R295), with the vector that follows it (R349). -/
def State.arriveCompletion (s : State) (pa : Nat) (cause : Byte) (v : Option Byte) : State :=
  match place pa with
  | .tileStore t off => s.atPort t (.completion off cause v)
  | _ => s.sendMsix v

/-- ALIGN, XLATE and PERM of the lw forms (R82): the local physical address of the landing word. -/
def State.lwReach (s : State) (write : Bool) (ea : W64) : Res (Leaf × Nat) := do
  let r ← s.cReach (if write then .write else .read) ea 16
  let inStore := match place (localOf r.2) with
    | .tileStore t _ => s.ownPkg r.2 && t == s.curTile
    | _ => false
  need inStore causePerm ea
  return (r.1, localOf r.2)

/-- The landing word, read; a consumed error ends the read (R396). -/
def State.lwRead (s : State) (ea : W64) : Res Landing := do
  let r ← s.lwReach false ea
  let bs ← s.readChecked r.1 .newest r.2 16
  return Landing.ofBytes bs

/-- Reached: armed, and GEN at or past the generation (R82). -/
def Landing.reached (l : Landing) (v : Nat) : Bool := l.armed && decide (v ≤ l.gen)

/-- lw.arm (R82). -/
def execLwArm (a b : BitVec 5) (s : State) : Out :=
  .next (s.cRunAt (s.g a) do
    let r ← s.lwReach true (s.g a)
    let v := (s.g b).toNat % 2 ^ 32
    let l := s.landing r.2
    let s1 := s.markUnrollable s.curWriter r.1 (s.group r.2)
    if v = 0 then return s1.setLanding r.2 { l with armed := false }
    else return s1.setLanding r.2 { l with target := v, count := 0, gen := 0, err := false, ovr := false, armed := true })

/-- lw.get (R82): NOTREADY when a user handler can take it, else a stall. -/
def execLwGet (d a b : BitVec 5) (s : State) : Out :=
  .next (s.cRunAt (s.g a) do
    let l ← s.lwRead (s.g a)
    if l.reached ((s.g b).toNat % 2 ^ 32) then
      return s.setG d (BitVec.ofNat 64 (b2n l.armed * 2 ^ 34 + b2n l.ovr * 2 ^ 33 + b2n l.err * 2 ^ 32 + l.gen))
    else if (s.tile s.curTile).user.nren && !(s.tile s.curTile).user.inHandler then .error (.trap causeNotready (s.g a))
    else .error .stall)

def execLwTest (c : BitVec 3) (a b : BitVec 5) (s : State) : Out :=
  .next (s.cRunAt (s.g a) do
    let l ← s.lwRead (s.g a)
    return s.setC c (l.reached ((s.g b).toNat % 2 ^ 32)))

def execLwWait (a b : BitVec 5) (s : State) : Out :=
  .next (s.cRunAt (s.g a) do
    let l ← s.lwRead (s.g a)
    if l.reached ((s.g b).toNat % 2 ^ 32) then return s else .error .stall)

/-! ## Domain barriers (R83, R84, R297, R330) -/

/-- M: TILES, or DMEMB at group level (R297). -/
def Node.members (n : Node) : Nat := if n.dlev = 4 then n.dmemb else n.tileCount

def Node.barrier (n : Node) (i : BitVec 4) : Barrier := n.barriers[i.toNat]
def Node.setBarrier (n : Node) (i : BitVec 4) (b : Barrier) : Node := { n with barriers := n.barriers.set i.toNat b }

/-- An arrival recorded: the M-th ends the phase (R84). -/
def Barrier.record (b : Barrier) (who members : Nat) : Barrier :=
  if b.arrived.length + 1 ≥ members then { phase := b.phase + 1, arrived := [] }
  else { b with arrived := who :: b.arrived }

/-- An arrival that the home of a group-level domain has received: its package and member index (R330). -/
def homeEntry (pkg member : Nat) : Nat := 2 ^ 40 + pkg * 2 ^ 20 + member

/-- The home's barrier unit takes an arrival; on the M-th it sends the phase to every member package (R330). -/
def State.homeArrival (s : State) (h : W32) (i : BitVec 4) (pkg member : Nat) : State :=
  match s.node? h with
  | none => s
  | some n =>
    let b := n.barrier i
    let entry := homeEntry pkg member
    let homes := b.arrived.filter fun x => decide (2 ^ 40 ≤ x)
    if homes.contains entry then s
    else if homes.length + 1 ≥ n.members then
      let phase := b.phase + 1
      let pkgs := ((entry :: homes).map fun x => (x - 2 ^ 40) / 2 ^ 20).eraseDups
      let body := leBytes 4 n.did.toNat ++ [i.setWidth 8] ++ leBytes 4 phase.toNat
      let s1 := s.onNode h fun n => n.setBarrier i { phase := phase, arrived := [] }
      (pkgs.filter fun p => p != s.fabric.pkg.toNat).foldl (fun s p => s.send 0 p 0x21 0 0 body) s1
    else s.onNode h fun n => n.setBarrier i { b with arrived := entry :: b.arrived }

/-- An arrival from another package: taken by the domain's node here, or held until this package forms the domain. -/
def State.takeArrival (s : State) (did : W32) (i : BitVec 4) (pkg member : Nat) : State :=
  match s.pool.nodes.find? fun n => n.did == did && n.dlev == 4 && decide (n.phase ≠ .complete) with
  | some n => s.homeArrival n.handle i pkg member
  | none => { s with fabric := { s.fabric with early := s.fabric.early ++ [(did, i, homeEntry pkg member)] } }

/-- Held arrivals of domains that have been formed are taken. -/
def State.takeEarly (s : State) : State :=
  let held := s.fabric.early
  held.foldl (init := { s with fabric := { s.fabric with early := [] } }) fun (s : State) (e : W32 × BitVec 4 × Nat) =>
    s.takeArrival e.1 e.2.1 ((e.2.2 - 2 ^ 40) / 2 ^ 20) (e.2.2 % 2 ^ 20)

/-- The share of the current context arrives (R84). -/
def State.barArrive (s : State) (n : Node) (i : BitVec 4) : State :=
  let share := (s.tile s.curTile).share
  let b := n.barrier i
  if n.dlev = 4 then
    let s1 := s.onNode n.handle fun n => n.setBarrier i { b with arrived := share :: b.arrived }
    let home := Config.barrierHome n.did
    if home = s.fabric.pkg then s1.homeArrival n.handle i s.fabric.pkg.toNat share
    else s1.send (tileDie s.curTile) home.toNat 0x20 0 0 (leBytes 4 n.did.toNat ++ [i.setWidth 8] ++ leBytes 3 share)
  else s.onNode n.handle fun n => n.setBarrier i (b.record share n.members)

/-- The barrier unit of the tile's die is ready; bar forms stall until then (R409). -/
def State.barrierReady (s : State) : Bool := s.engReady (12 + (tileDie s.curTile).toNat)

def execBarArrive (d : BitVec 5) (i : BitVec 4) (s : State) : Out :=
  .next (match s.tileNode s.curTile with
    | none => s.cStall
    | some n =>
      let b := n.barrier i
      if !s.barrierReady || b.arrived.contains (s.tile s.curTile).share then s.cStall
      else ((s.barArrive n i).setG d (BitVec.ofNat 64 b.phase.toNat)).cDone)

/-- P ≠ a[30:0] (R84). -/
def State.barPassed (s : State) (a : BitVec 5) (i : BitVec 4) : Bool :=
  match s.tileNode s.curTile with
  | none => false
  | some n => decide ((n.barrier i).phase.toNat ≠ (s.g a).toNat % 2 ^ 31)

def execBarWait (a : BitVec 5) (i : BitVec 4) (s : State) : Out :=
  .next (if s.barrierReady && s.barPassed a i then s.cDone else s.cStall)
def execBarTest (c : BitVec 3) (a : BitVec 5) (i : BitVec 4) (s : State) : Out :=
  .next (if s.barrierReady then s.resultC c (s.barPassed a i) else s.cStall)

/-! ## Queues towards and from the block streams (R91) -/

/-- The format queue holds 16 words, the vote queue 16 flags (R12). -/
def formatQueueDepth : Nat := 16
def voteQueueDepth : Nat := 16

/-- A word pushed on the format queue: M may pop it from the next tc on (R16). -/
def Tile.pushFormat (t : Tile) (w : W32) : Tile :=
  { t with formats := t.formats ++ [w], fmtAt := t.tc, fmtNew := if t.fmtAt = t.tc then t.fmtNew + 1 else 1 }

/-- The words that an M command issued at tc now finds (R16). -/
def Tile.formatsAt (t : Tile) (now : Nat) : List W32 :=
  if now ≤ t.fmtAt then t.formats.take (t.formats.length - t.fmtNew) else t.formats

def execFmtPush (a : BitVec 5) (s : State) : Out :=
  .next (if (s.tile s.curTile).formats.length < formatQueueDepth then
      (s.onCur fun t => t.pushFormat ((s.g a).setWidth 32)).cDone
    else s.cStall)

def execFqPop (c : BitVec 3) (s : State) : Out :=
  .next (match (s.tile s.curTile).votes with
    | [] => s.cStall
    | v :: r => ((s.onCur fun t => { t with votes := r }).setC c v).cDone)

/-! ## waite (R92) -/

/-- waite ends with cd = 1 when its event is true, else waits; the timeout event ends it with cd = 0. -/
def State.waite (s : State) (c : BitVec 3) (a : BitVec 5) (ev : Bool) : State :=
  if ev then (s.setC c true).cDone
  else (s.onCtl fun k =>
    { k with wait := some (k.wait.getD (s.g a).toNat), since := if k.wait.isSome then k.since else (s.tile s.curTile).tc }).cStall

/-- A stream in IDLE, STOPPED or FAULTED. -/
def Stream.ended (x : Stream) : Bool := decide (x.state = .idle ∨ x.state = .stopped ∨ x.state = .faulted)

/-- The event that a waite waits for, and the condition register that it writes. -/
def Tile.waiteEvent (t : Tile) : Instr → Option (BitVec 3 × Bool)
  | .waiteSem c _ n => some (c, (t.sem n).poison || decide (0 < (t.sem n).count.toNat))
  | .waiteVote c _ => some (c, !t.votes.isEmpty)
  | .waiteStream c _ x => some (c, (t.stream (streamOf x)).ended)
  | _ => none

def execWaiteSem (c : BitVec 3) (a : BitVec 5) (n : BitVec 6) (s : State) : Out :=
  .next (let x := (s.tile s.curTile).sem n
    s.waite c a (x.poison || decide (0 < x.count.toNat)))
def execWaiteVote (c : BitVec 3) (a : BitVec 5) (s : State) : Out :=
  .next (s.waite c a (!(s.tile s.curTile).votes.isEmpty))

def execWaiteStream (c : BitVec 3) (a : BitVec 5) (t : BitVec 2) (s : State) : Out :=
  .next (s.waite c a ((s.tile s.curTile).stream (streamOf t)).ended)

end Sys2Proof.Machine
end

