-- ==== Sys2Proof/Machine/Window.lean ====
section
/-!
DEFINITION. Sys2Proof/Machine/Window.lean: window images and their reach (R181 to R185), win.set, win.rel and
win.read (R89, R90), pins (R257), and the reading and writing of elements and bytes through a window (R183,
R184, R187, R188).
-/

namespace Sys2Proof.Machine

/-! ## The image (R181) -/

def Image.word (w : Image) (j : Nat) : Nat := (w[j]?.getD 0).toNat
def Image.base (w : Image) : Nat := w.word 0
def Image.extent (w : Image) (d : Nat) : Nat := bits (w.word 1) (16 * d + 31) (16 * d + 16)
def Image.ring (w : Image) : Bool := bits (w.word 1) 7 7 == 1
def Image.lwt (w : Image) : Bool := bits (w.word 1) 6 6 == 1
def Image.snap (w : Image) : Bool := bits (w.word 1) 4 4 == 1
def Image.fmt (w : Image) : Nat := bits (w.word 1) 3 0
def Image.p1 (w : Image) : Nat := bits (w.word 2) 31 0
def Image.p2 (w : Image) : Nat := bits (w.word 2) 63 32
def Image.bound (w : Image) (d : Nat) : Nat := bits (w.word 3) (20 * d + 19) (20 * d)
def Image.rpos (w : Image) : Nat := bits (w.word 4) 55 52
def Image.wpos (w : Image) : Nat := bits (w.word 4) 51 48
def Image.lwtag (w : Image) : Nat := bits (w.word 4) 47 30
def Image.rl (w : Image) : Nat := bits (w.word 4) 29 27
def Image.rs (w : Image) : Nat := bits (w.word 4) 26 21
def Image.ns (w : Image) : Nat := bits (w.word 4) 20 17
def Image.slotu (w : Image) : Nat := bits (w.word 4) 16 0
def Image.stride (w : Image) (l : Nat) : Nat := bits (w.word (5 + l / 2)) (32 * (l % 2) + 31) (32 * (l % 2))
def Image.dim (w : Image) (l : Nat) : Nat := bits (w.stride l) 31 30
def Image.step (w : Image) (l : Nat) : Int := toSigned 30 (bits (w.stride l) 29 0)

def Image.setPos (w : Image) (writer : Bool) (p : Nat) : Image :=
  w.set 4 (BitVec.ofNat 64 (if writer then putBits (w.word 4) 51 48 p else putBits (w.word 4) 55 52 p))

/-- Element width in bits; INTN has none of its own. -/
def fmtWidth (fmt : Nat) : Nat :=
  match elemOf fmt with
  | .float f => f.width
  | .int _ w => w
  | .spot => 8
  | .none => 0
def isIntn (fmt : Nat) : Bool := fmt == 12

/-- The field checks of R182 that need no reach. -/
def Image.fieldsOk (w : Image) (snapshot : Bool) : Bool :=
  let wd := fmtWidth w.fmt
  w.fmt != 15 &&
  (upto 3).all (fun d => w.extent d != 0 && w.bound d != 0) &&
  bits (w.word 1) 15 8 == 0 && bits (w.word 3) 63 60 == 0 && bits (w.word 4) 63 56 == 0 &&
  w.wpos == 0 && w.rpos == 0 && (upto 6).all (fun l => w.dim l != 3) &&
  canonical (BitVec.ofNat 64 w.base) &&
  (decide (wd < 8) || (w.base % (wd / 8) == 0 && w.p1 % (wd / 8) == 0 && w.p2 % (wd / 8) == 0)) &&
  (!isIntn w.fmt || w.bound 0 % 8 == 0) &&
  (if w.ring then w.ns != 0 && decide (w.rs ≤ 62) && w.slotu != 0
   else w.ns == 0 && w.rs == 0 && w.rl == 0 && w.slotu == 0) &&
  (w.lwt || w.lwtag == 0) && (!w.snap || snapshot)

/-- Bytes of one row of in-bounds elements (R185). -/
def Image.rowBytes (w : Image) : Nat :=
  if isIntn w.fmt then w.bound 0 else (w.bound 0 * fmtWidth w.fmt + 7) / 8

/-- The byte ranges of the reach (R185). -/
def Image.reach (w : Image) : List (Nat × Nat) :=
  (upto (if w.ring then w.ns + 1 else 1)).flatMap fun slot =>
    (upto (w.bound 2)).flatMap fun k2 =>
      (upto (w.bound 1)).map fun k1 =>
        ((w.base + slot * w.slotu * 128 + k1 * w.p1 + k2 * w.p2) % 2 ^ 64, w.rowBytes)

/-! ## Pinning (R89, R257) -/

/-- A pin captured while a shootdown has not set TLBDONE is stale (R259). -/
def State.pinStale (s : State) : Bool := s.shoot.busy && !s.shoot.tlbdone

/-- Bytes of a row that a step in progress dooms: a reach that touches one stalls until the pause ends (R390). -/
def State.doomedBytes (s : State) (pa n : Nat) : Bool :=
  let rows (array : BitVec 2) (unit off : Nat) : Bool :=
    let d := s.die (unitDie array unit)
    d.stepping && decide (d.point < d.target) && decide (d.usable array unit d.target.toNat ≤ off / 1024)
  !spanAll pa n fun q => !(match place q with
    | .tileStore t off => rows 0 t.toNat off
    | .clusterPool c off => rows 2 c.toNat off
    | .scratch d off => rows 3 d.toNat off
    | _ => false)

/-- Translate and check the bytes of one range, page by page, adding the pins it needs. Registers are PERM for
windows and copies (R252). -/
def State.pinRange (s : State) (t : BitVec 6) (root : Nat) (k : AccessKind) : Nat → Nat → Nat → List Held → Res (List Held)
  | 0, _, _, acc => .ok acc
  | fuel + 1, a, n, acc =>
    if n = 0 then .ok acc
    else do
      let ea : W64 := BitVec.ofNat 64 a
      let page ← s.translate t root ea
      let va := vaddr ea
      let m := min n (page.1 + page.2.size - va)
      let gpa := leafPa va page
      s.checkAccess (tileDie t) k page.2 gpa m ea
      need (spanAll (localOf gpa) m fun q => !registerAt q) causePerm ea
      if s.ownPkg gpa && s.doomedBytes (localOf gpa) m then .error .stall
      let h : Held := { root := root, va := page.1, leaf := page.2, stale := s.pinStale }
      let acc := if acc.any fun x => x.covers root va then acc else acc ++ [h]
      s.pinRange t root k fuel (a + m) (n - m) acc

def State.pinRanges (s : State) (t : BitVec 6) (root : Nat) (k : AccessKind) (ranges : List (Nat × Nat)) (acc : List Held) : Res (List Held) :=
  ranges.foldlM (init := acc) fun acc r => s.pinRange t root k (r.2 / 4096 + 2) r.1 r.2 acc

/-- The page a pin list gives for a virtual address. -/
def pinned (pins : List Held) (va : Nat) : Option Held :=
  pins.find? fun h => decide (h.va ≤ va) && decide (va < h.va + h.leaf.size)

/-- The group physical address of a pinned virtual address. -/
def pinPa (pins : List Held) (va : Nat) : Option (Leaf × Nat) :=
  (pinned pins va).map fun h => (h.leaf, h.leaf.base + (va - h.va))

/-- PINLIM (R89): more than 512 distinct pages pinned by the tile. -/
def pinLimit : Nat := 512

/-! ## win.set, win.rel, win.read -/

/-- A window named by a fetched block that has not retired (R16). -/
def Stream.holdsRecord (x : Stream) : Bool :=
  (decide (x.state = .run) || (decide (x.state = .halted) && decide (x.prior = .run))) && !x.record.isEmpty

/-- Physical fragments of a range under pins. -/
def fragments (pins : List Held) : Nat → Nat → Nat → List (Nat × Nat)
  | 0, _, _ => []
  | fuel + 1, va, n =>
    if n = 0 then []
    else match pinned pins (va % 2 ^ 57) with
      | none => []
      | some h =>
        let k := min n (h.va + h.leaf.size - va % 2 ^ 57)
        (h.leaf.base + (va % 2 ^ 57 - h.va), k) :: fragments pins fuel (va + k) (n - k)

/-- The store that n contiguous bytes at a group physical address lie in wholly: package and tile number. -/
def storeOf (f : Nat × Nat) : Option (Nat × BitVec 6) :=
  match place (localOf f.1), place (localOf (f.1 + f.2 - 1)) with
  | .tileStore a _, .tileStore b _ => if a = b then some (f.1 / 2 ^ 48, a) else none
  | _, _ => none

/-- The store that a reach lies in wholly, every page of every row of it, when it does. -/
def reachStore (pins : List Held) (ranges : List (Nat × Nat)) : Option (Nat × BitVec 6) :=
  let parts (r : Nat × Nat) : List (Nat × Nat) := fragments pins (r.2 / 4096 + 2) r.1 r.2
  match (ranges.flatMap parts).head?.bind storeOf with
  | none => none
  | some x => if ranges.all fun r => ((parts r).map (·.2)).sum == r.2 && (parts r).all fun f => storeOf f == some x then some x else none

/-- The BFAULT checks of an image that need its reach (R182). -/
def State.reachOk (s : State) (w : Image) (pins : List Held) : Bool :=
  (!w.lwt || (match reachStore pins w.reach with
    | some (pkg, t) =>
      if pkg = s.fabric.pkg.toNat then decide (w.lwtag * 16 + 16 ≤ s.rows 0 t.toNat * 1024)
      else !Config.farAbsent (pkg * 2 ^ 48 + storeAddr t (w.lwtag * 16))
    | none => false)) &&
  (!w.snap || pins.all fun h => !(h.leaf.ver && !s.ownPkg h.leaf.base))

/-- The image at ea, read as one 64-byte load of the C stream (R77, R89). -/
def State.readRecord (s : State) (ea : W64) : Res (Vector W64 8) := do
  let r ← s.cReach .read ea 64
  let bs ← s.readWhole s.cAsker r.1 .newest r.2 64 ea
  return Vector.ofFn fun j => BitVec.ofNat 64 (leNat ((bs.drop (8 * j.val)).take 8))

/-- The stamp of the snapshot that a tile's node holds: a snapshot-mode node's own, and that of the transaction of a transaction-mode node
(R182, R360). -/
def State.nodeSnapshot (s : State) (t : BitVec 6) : Option Nat :=
  match s.tileNode t with
  | none => none
  | some n => match n.snapshot with
    | some st => some st
    | none => if n.mode = 2 then (n.tx.bind fun k => tget s.versions.txs k.toNat).map (·.snapshot) else none
def State.holdsSnapshot (s : State) (t : BitVec 6) : Bool := (s.nodeSnapshot t).isSome

/-- An instruction whose operand names a record of eight words: what it reads and checks before a stall stands for its whole stall, and only
`act` is tried again (R76). -/
def State.withRecord (s : State) (ea : W64) (ok : Vector W64 8 → Bool) (act : Vector W64 8 → Res State) : State :=
  let first : Res (Vector W64 8) := do
    let r ← s.readRecord ea
    need (ok r) causeBfault
    return r
  match (if s.ctl.stalled then (s.tile s.curTile).latched else none) with
  | some r => s.cRunAt ea (act r)
  | none => match first with
    | .error e => (s.onCur fun t => { t with latched := none }).cRunAt ea (.error e)
    | .ok r => match act r with
      | .error .stall => (s.onCur fun t => { t with latched := some r }).cStall
      | x => s.cRunAt ea x

/-- Pin a window image's reach through a root: the checks of R76 steps 4 and 5. -/
def State.pinImage (s : State) (t : BitVec 6) (w : Image) : Res (List Held) := do
  let pins ← s.pinRanges t (s.root t) .read w.reach []
  need (s.reachOk w pins) causeBfault
  return pins

/-- Pages pinned by a tile apart from window n. -/
def Tile.pinsWithout (t : Tile) (n : BitVec 5) : List Held := (t.setWindow n none).pins

/-- The windows a body word names, each with true for a destination (R27, R29, R30, R186). -/
def windowUses : Instr → List (BitVec 5 × Bool)
  | .vld _ w _ _ => [(w, false)]
  | .vldm _ w _ _ _ => [(w, false)]
  | .vst _ w _ _ => [(w, true)]
  | .vgx _ w _ _ _ => [(w, false)]
  | .vsx _ w _ _ _ => [(w, true)]
  | .mm _ a b c d _ => [(a, false), (b, false), (c, false), (d, false)]
  | .mmp _ a b c d _ => [(a, false), (b, false), (c, false), (d, false)]
  | .mmag _ a b c d _ => [(a, false), (b, false), (c, false), (d, false)]
  | .mmr _ a b _ => [(a, false), (b, false)]
  | .acl _ a _ => [(a, false)]
  | .acs _ a _ => [(a, true)]
  | .acf _ a => [(a, true)]
  | .cpy d x => [(x, false), (d, true)]
  | .cpyz d x => [(x, false), (d, true)]
  | .gath d x i => [(x, false), (i, false), (d, true)]
  | .scat d x i => [(x, false), (i, false), (d, true)]
  | .qfill _ x => [(x, false)]
  | .qdrain d _ => [(d, true)]
  | .red d x _ _ => [(x, false), (d, true)]
  | .bcst d x => [(x, false), (d, true)]
  | .plane d x _ _ => [(x, false), (d, true)]
  | .lwr d x => [(x, false), (d, true)]
  | _ => []

/-- The decoded body of a fetched record. -/
def Stream.bodyWords (x : Stream) : List W32 :=
  let w0 := (x.record[0]?.getD 0).toNat
  (x.record.drop (6 + bits w0 23 21)).take (bits w0 27 24)

def bodyUses (code : BStream) (ws : List W32) : List (BitVec 5 × Bool) :=
  ws.flatMap fun w => match Decode.block code w with | .ok i => windowUses i | .error _ => []

/-- Window n is named by a fetched block that has yet to retire (R16). -/
def Tile.windowBusy (t : Tile) (n : BitVec 5) : Bool :=
  [BStream.v, .m, .l, .s].any fun x =>
    let y := t.stream x
    y.holdsRecord && (bodyUses x y.bodyWords).any fun u => u.1 == n

/-- win.set (R76, R89, R182). -/
def execWinSet (a n : BitVec 5) (s : State) : Out :=
  .next (s.withRecord (s.g a) (fun image => Image.fieldsOk image (s.holdsSnapshot s.curTile)) fun image => do
    let pins ← s.pinImage s.curTile image
    if (s.tile s.curTile).windowBusy n then .error .stall
    else do
      need (decide ((pageKeys ((s.tile s.curTile).pinsWithout n ++ pins)).length ≤ pinLimit)) causePinlim
      return (s.onCur fun t => t.setWindow n (some { image := image, pins := pins })).shootCheck)

/-- win.rel (R90). -/
def execWinRel (n : BitVec 5) (s : State) : Out :=
  .next (s.cRun (if (s.tile s.curTile).windowBusy n then .error .stall
    else .ok (s.onCur fun t => t.setWindow n none).shootCheck))

/-- win.read (R90). -/
def execWinRead (d : BitVec 5) (j : BitVec 3) (n : BitVec 5) (s : State) : Out :=
  .next (s.result d (match (s.tile s.curTile).window n with
    | some w => w.image[j.toNat]
    | none => 0))

/-! ## A use of a window by a block-stream instruction (R183, R184, R188) -/

/-- A window in use: the installed copy, its cursor and its ring offset. -/
structure Use where
  image : Image
  pins : List Held
  cur : Int × Int × Int
  ringoff : Nat
deriving DecidableEq, Repr

def Use.c (u : Use) (d : Nat) : Int :=
  match d with
  | 0 => u.cur.1
  | 1 => u.cur.2.1
  | _ => u.cur.2.2

/-- The cursor of R183 from the loop indices of the iteration. -/
def Image.cursor (w : Image) (idx : Nat → Nat) : Int × Int × Int :=
  let coord (d : Nat) : Int := ((upto 6).map fun l => if w.dim l = d then (idx l : Int) * w.step l else 0).sum
  (coord 0, coord 1, coord 2)

/-- ringoff of R186: WPOS for a destination, RPOS for a source. -/
def Image.ringOffset (w : Image) (writer : Bool) : Nat :=
  if w.ring then (if writer then w.wpos else w.rpos) * w.slotu * 128 else 0

/-- Resolve a window field at issue (R188): an uninstalled window is BFAULT. -/
def Tile.useWindow (t : Tile) (n : BitVec 5) (idx : Nat → Nat) (writer : Bool) : Res Use :=
  match t.window n with
  | none => .error (.trap causeBfault 0)
  | some w => .ok { image := w.image, pins := w.pins, cur := w.image.cursor idx, ringoff := w.image.ringOffset writer }

/-- In bounds (R184). -/
def Image.inBounds (w : Image) (k0 k1 k2 : Int) : Bool :=
  decide (0 ≤ k0) && decide (k0 < w.bound 0) && decide (0 ≤ k1) && decide (k1 < w.bound 1) &&
  decide (0 ≤ k2) && decide (k2 < w.bound 2)

/-- The row start of coordinates (k1, k2), without the k0 term. -/
def Use.rowAddr (u : Use) (k1 k2 : Int) : Int :=
  (u.image.base + u.ringoff : Nat) + k1 * u.image.p1 + k2 * u.image.p2

/-- The 57-bit virtual address of a byte position. -/
def vaOf (a : Int) : Nat := ofSigned 57 a

/-- Byte address of element (k0, k1, k2) (R183); 4-bit elements by their byte. -/
def Use.addr (u : Use) (k0 k1 k2 : Int) : Int :=
  u.rowAddr k1 k2 + k0 * fmtWidth u.image.fmt / 8

/-- A stream's view of a window's lines: the node's snapshot through SNAP (R187, R359, R360). -/
def State.winView (s : State) (t : BitVec 6) (w : Image) : View :=
  if w.snap then (match s.nodeSnapshot t with | some st => .snapshot st | none => .newest) else .newest

def streamAsker (t : BitVec 6) (x : BStream) : Asker := .stream t (streamCode x + 1)

/-- Access to a quarantined frame is PERM, through pins as well (R400). -/
def State.refused (s : State) (gpa : Nat) : Bool := s.ownPkg gpa && s.quarantined (localOf gpa)

/-- Bytes read through a window; an uncorrectable error reads as zeros with the flag set. -/
def State.winRead (s : State) (t : BitVec 6) (x : BStream) (u : Use) (a : Int) (n : Nat) : Res (List Byte × Bool) :=
  match pinPa u.pins (vaOf a) with
  | none => .error (.trap causeXlate 0)
  | some (leaf, gpa) => do
    need (!s.refused gpa) causePerm
    s.readAny (streamAsker t x) leaf (s.winView t u.image) gpa n

/-- The writer that a block stream of a tile is. -/
def State.tileWriter (s : State) (t : BitVec 6) : Writer := { node := (s.tileNode t).map (·.handle), tile := some t }

/-- A window that may be written (R187): not a SNAP window. -/
def Use.writable (u : Use) : Res Unit := need (!u.image.snap) causePerm

def overlap (a b : Nat × Nat) : Bool := decide (a.1 < b.1 + b.2) && decide (b.1 < a.1 + a.2)

/-- The places that a load in flight reads. -/
def Tile.keptPlaces (t : Tile) (k : Kept) : List (Nat × Nat) :=
  match t.window k.window with
  | none => []
  | some w => k.pieces.flatMap fun e => fragments w.pins (e.2.2 / 4096 + 2) (vaOf e.2.1) e.2.2

/-- The loads of a stream whose data has not come have been performed: a snapshot keeps none of them as a request (R307). -/
def Tile.performAll (t : Tile) (x : BStream) : Tile :=
  { t with pending := t.pending.map fun p => if p.stream = x ∧ p.landed = false then { p with kept := none } else p }

/-- A load of the stream whose data has not come reads some of these bytes. -/
def Tile.keptReads (t : Tile) (x : BStream) (gpa n : Nat) : Bool :=
  t.pending.any fun p => decide (p.stream = x) && !p.landed && match p.kept with
    | some k => (t.keptPlaces k).any fun f => overlap f (gpa, n)
    | none => false

/-- A write of a stream comes after the reads of its earlier loads of the same bytes, and loads are performed in program order (R264,
R265): then all its loads in flight have been performed. -/
def State.performKept (s : State) (t : BitVec 6) (x : BStream) (gpa n : Nat) : State :=
  if (s.tile t).keptReads x gpa n then s.onTile t fun u => u.performAll x else s

/-- Bytes written through a window; `bad` says that they come from data in error, which another package has to know (R396). -/
def State.winWrite (s : State) (t : BitVec 6) (x : BStream) (u : Use) (a : Int) (bs : List Byte) (bad : Bool := false) : Res State :=
  match pinPa u.pins (vaOf a) with
  | none => .error (.trap causeXlate 0)
  | some (leaf, gpa) => do
    u.writable
    need (leaf.w && !s.refused gpa) causePerm
    (s.performKept t x gpa bs.length).writeAny (s.tileWriter t) (tileDie t) (streamAsker t x) leaf gpa bs (if bad then markPoison else 0)

/-- A 4-bit element written: one read-modify-write of its byte at the byte's home (R200). -/
def State.winNibble (s : State) (t : BitVec 6) (x : BStream) (u : Use) (a : Int) (high : Bool) (v : Nat) (bad : Bool) :
    Res State :=
  match pinPa u.pins (vaOf a) with
  | none => .error (.trap causeXlate 0)
  | some (leaf, gpa) => do
    u.writable
    need (leaf.w && !s.refused gpa) causePerm
    if s.ownPkg gpa then
      let r ← s.readAny (streamAsker t x) leaf (s.winView t u.image) gpa 1
      let old := leNat r.1
      s.winWrite t x u a [BitVec.ofNat 8 (if high then v % 16 * 16 + old % 16 else old / 16 * 16 + v % 16)]
    else
      s.writeAny (s.tileWriter t) (tileDie t) (streamAsker t x) leaf gpa [BitVec.ofNat 8 (if high then v % 16 * 16 else v % 16)]
        (markNibble high + if bad then markPoison else 0)

/-- One element of a window of width 8 or more, or 4, as raw bits; none when out of bounds. -/
def State.readElem (s : State) (t : BitVec 6) (x : BStream) (u : Use) (k0 k1 k2 : Int) : Res (Option (Nat × Bool)) :=
  if !u.image.inBounds k0 k1 k2 then .ok none
  else do
    let w := fmtWidth u.image.fmt
    let r ← s.winRead t x u (u.addr k0 k1 k2) ((w + 7) / 8)
    let v := leNat r.1
    return some (if w = 4 then (if k0 % 2 = 0 then v % 16 else v / 16) else v, r.2)

/-- One element written; an out-of-bounds element is dropped. A 4-bit write is one read-modify-write of its
byte (R200). Answers the bytes written. -/
def State.writeElem (s : State) (t : BitVec 6) (x : BStream) (u : Use) (k0 k1 k2 : Int) (v : Nat) (bad : Bool := false) :
    Res (State × Nat) :=
  if !u.image.inBounds k0 k1 k2 then .ok (s, 0)
  else
    let w := fmtWidth u.image.fmt
    let a := u.addr k0 k1 k2
    if w = 4 then do
      let s' ← s.winNibble t x u a (decide (k0 % 2 ≠ 0)) v bad
      return (s', 1)
    else do
      let s' ← s.winWrite t x u a (leBytes (w / 8) v) bad
      return (s', w / 8)

/-- Box positions in linear order (R183): x0 fastest. -/
def Image.positions (w : Image) : List (Nat × Nat × Nat) :=
  (upto (w.extent 2)).flatMap fun x2 => (upto (w.extent 1)).flatMap fun x1 => (upto (w.extent 0)).map fun x0 => (x0, x1, x2)
def Image.boxCount (w : Image) : Nat := w.extent 0 * w.extent 1 * w.extent 2

/-- Element at a box position. -/
def State.readBox (s : State) (t : BitVec 6) (x : BStream) (u : Use) (p : Nat × Nat × Nat) : Res (Option (Nat × Bool)) :=
  s.readElem t x u (u.c 0 + p.1) (u.c 1 + p.2.1) (u.c 2 + p.2.2)
def State.writeBox (s : State) (t : BitVec 6) (x : BStream) (u : Use) (p : Nat × Nat × Nat) (v : Nat) (bad : Bool := false) :
    Res (State × Nat) :=
  s.writeElem t x u (u.c 0 + p.1) (u.c 1 + p.2.1) (u.c 2 + p.2.2) v bad

/-- The granules of the own package whose every byte lies in pieces of n bytes are poisoned no longer (R396): what one
instruction writes counts as one write. -/
def State.clearPieces (s : State) (n : Nat) (places : List Nat) : State :=
  { s with poison := s.poison.filter fun g =>
      !((upto (granuleSize g)).all fun i => places.any fun p => decide (p ≤ g + i) && decide (g + i < p + n)) }

/-- Where addresses of a window lie in the own package. -/
def State.ownPlaces (s : State) (u : Use) (l : List Int) : List Nat :=
  l.filterMap fun a => (pinPa u.pins (vaOf a)).bind fun e => if s.ownPkg e.2 then some (localOf e.2) else none

/-- Bytes that one access to an element writes: a nibble is not a whole byte. -/
def Image.pieceBytes (w : Image) : Nat := if isIntn w.fmt then 1 else fmtWidth w.fmt / 8

/-- Byte address of the landing word that a tagged window names, in the tile store of its reach (R187). -/
def Use.landing (u : Use) : Option (Nat × BitVec 6) :=
  if !u.image.lwt then none
  else match reachStore u.pins [(u.image.base, 1)] with
    | some (pkg, t) => some (pkg * 2 ^ 48 + storeAddr t (u.image.lwtag * 16), t)
    | none => none

end Sys2Proof.Machine
end

