-- ==== Sys2Proof/Machine/Blocks.lean ====
section
/-!
DEFINITION. Sys2Proof/Machine/Blocks.lean: the block streams (R229 to R243): records and their checks (R32 to
R36), loop nests and qualifiers (R231), ring windows (R186, R233), the timing of exposed blocks (R146, R198,
R206, R235 to R237), segments and signatures (R239 to R241), and the C-stream forms that drive chains (R85 to
R88, R103).
-/

namespace Sys2Proof.Machine

/-! ## Records (R32 to R35) -/

def recDepth (r : List W32) : Nat := bits (recWord r 0) 23 21
def recSegend (r : List W32) : Bool := bits (recWord r 0) 19 19 == 1
def recPpoint (r : List W32) : Bool := bits (recWord r 0) 18 18 == 1
def recNext (r : List W32) : Nat := bits (recWord r 0) 15 0
def recAws (r : List W32) : BitVec 6 := BitVec.ofNat 6 (bits (recWord r 1) 31 26)
def recAwn (r : List W32) : Nat := bits (recWord r 1) 25 16
def recRss (r : List W32) : BitVec 6 := BitVec.ofNat 6 (bits (recWord r 1) 15 10)
def recRsn (r : List W32) : Nat := bits (recWord r 1) 9 0
def recQual (r : List W32) (i : Nat) : Nat := bits (recWord r 5 * 2 ^ 32 + recWord r 4) (5 * i + 4) (5 * i)
def recTrip (r : List W32) (j : Nat) : Nat := bits (recWord r (6 + j)) 23 0
def recBody (r : List W32) (i : Nat) : W32 := r[6 + recDepth r + i]?.getD 0

/-- W0 keeps R32. -/
def w0Ok (w : Nat) : Bool :=
  bits w 31 28 == 11 && decide (1 ≤ bits w 27 24) && decide (bits w 27 24 ≤ 12) && decide (bits w 23 21 ≤ 6) && bits w 17 16 == 0

/-- A well-formed record (R32 to R35), all of whose words have been read. -/
def recordOk (r : List W32) : Bool :=
  let d := recDepth r
  let len := recLen r
  w0Ok (recWord r 0) &&
  (recSegend r || (recWord r 2 == 0 && recWord r 3 == 0)) &&
  bits (recWord r 5) 31 28 == 0 &&
  (upto 12).all (fun i =>
    let q := recQual r i
    if i < len then (if q / 8 = 0 then q == 0 else decide (q % 8 < d)) else q == 0) &&
  (upto d).all (fun j => bits (recWord r (6 + j)) 31 24 == 0) &&
  (recNext r == 0 || decide (6 + d + len ≤ recNext r))

/-! ## Iterations (R231) -/

/-- Iterations of the levels below j: TRIP0 × … × TRIP(j−1). -/
def recPeriod (r : List W32) (j : Nat) : Nat := ((upto (min j (recDepth r))).map (recTrip r)).foldl (· * ·) 1
def recTotal (r : List W32) : Nat := recPeriod r (recDepth r)

/-- The qualifier holds in iteration n, level 0 fastest. -/
def qualHolds (r : List W32) (q n : Nat) : Bool :=
  let p := recPeriod r (q % 8 + 1)
  match q / 8 with
  | 0 => true
  | 1 => n % p == 0
  | 2 => n % p == p - 1
  | _ => n % p == 0 || n % p == p - 1

/-- The first iteration at or after n in which the qualifier holds; it may lie past the nest. -/
def qualNext (r : List W32) (q n : Nat) : Nat :=
  let p := recPeriod r (q % 8 + 1)
  let last := n - n % p + (p - 1)
  match q / 8 with
  | 0 => n
  | 1 => if n % p = 0 then n else n - n % p + p
  | 2 => last
  | _ => if n % p = 0 then n else last

/-- The next issue at or after word i of iteration n: iteration and word. -/
def nextIssue (r : List W32) (n i : Nat) : Option (Nat × Nat) :=
  match (upto (recLen r)).find? fun j => decide (i ≤ j) && qualHolds r (recQual r j) n with
  | some j => if n < recTotal r then some (n, j) else none
  | none =>
    let best := (upto (recLen r)).foldl (init := (none : Option (Nat × Nat))) fun b j =>
      let m := qualNext r (recQual r j) (n + 1)
      match b with
      | some (bn, bj) => if m < bn then some (m, j) else some (bn, bj)
      | none => some (m, j)
    match best with
    | some (m, j) => if m < recTotal r then some (m, j) else none
    | none => none

/-- Loop index of level l in iteration n. -/
def idxOf (r : List W32) (n l : Nat) : Nat := if l < recDepth r then n / recPeriod r l % recTrip r l else 0

/-- The iteration that the stream's indices name. -/
def Stream.iter (y : Stream) : Nat :=
  ((upto (recDepth y.record)).map fun l => (y.idx[l]?.getD 0).toNat * recPeriod y.record l).sum

def Stream.idxAt (y : Stream) (l : Nat) : Nat := (y.idx[l]?.getD 0).toNat

/-- Move to the next issue; at the end of the nest the body index passes the body. -/
def Stream.moveTo (y : Stream) (p : Option (Nat × Nat)) : Stream :=
  match p with
  | some (n, i) => { y with idx := Vector.ofFn fun l => BitVec.ofNat 24 (idxOf y.record n l.val), body := BitVec.ofNat 4 i }
  | none => { y with body := BitVec.ofNat 4 (recLen y.record) }

/-! ## The signature (R240) -/

def crcBit (c : W32) : W32 := if c.getLsbD 0 then (c >>> 1) ^^^ 0x82F63B78 else c >>> 1
def crcFeed (c : W32) (b : Nat) : W32 := (upto 8).foldl (fun c _ => crcBit c) (c ^^^ BitVec.ofNat 32 (b % 256))
/-- The six bytes of one issue: the active-cycle index, then the word. -/
def crcIssue (c : W32) (a : Nat) (w : W32) : W32 :=
  [a, a / 256, w.toNat, w.toNat / 2 ^ 8, w.toNat / 2 ^ 16, w.toNat / 2 ^ 24].foldl crcFeed c

/-! ## Running state -/

/-- Time passes on the tile clock; while an exposed block issues, its own issues count the tc. -/
def Tile.elapse (t : Tile) (n : Nat) : Tile := if t.exposedBusy then t else t.toTc (t.tc + n)

/-- One tc of the tile clock passes, unless exposed work counts the tc or has frozen the clock (R237). -/
def Tile.tick (t : Tile) : Tile := if t.frozenAt t.tc then t else t.elapse 1

/-- The word of the code store at a pc below its end (R17, R19). -/
def Tile.codeWord (t : Tile) (pc : Nat) : W32 :=
  BitVec.ofNat 32 (leNat ((upto 4).map fun i => (tval 0 t.code (pc + i) : Byte)))

/-- A context may make progress: RUN or STOPPING, and not past its boundary (R299). -/
def Tile.live (t : Tile) : Bool := decide (t.status = .run ∨ t.status = .stopping) && !t.boundary

/-- The C stream may execute: its tile is in RUN or STOPPING and has not taken its boundary, ended, been halted or taken a
trap, and it waits for no close of its interval (R214, R243, R299, R310, R312, R368). -/
def Tile.controlLive (t : Tile) : Bool :=
  t.live && !t.ending && !t.halt.getLsbD 0 && !t.control.closing && t.trapping.isNone

/-- Some stream of the tile is HALTED (R221, R241, R312). -/
def Tile.anyHalted (t : Tile) : Bool :=
  (decide (t.status = .run ∨ t.status = .stopping) && t.halt.getLsbD 0) || [BStream.v, .m, .l, .s].any fun x => decide ((t.stream x).state = .halted)

/-- Newly halted block streams enter HALTED at their next instruction boundary (R221), which an exposed one reaches after a
freeze (R237); the segments that are open have then a HALTED stream (R241). `nextTc` of a HALTED stream is the tc in which it became so. -/
def Tile.applyHalts (t : Tile) : Tile :=
  let u := t.onStreams fun b y =>
    if t.halt.getLsbD (streamCode b + 1) && (decide (y.state = .await) || (decide (y.state = .run) && !(y.exposed && t.frozenAt (max t.horizon y.nextTc))))
    then { y with state := .halted, prior := y.state, nextTc := if y.exposed then max y.nextTc t.tc else y.nextTc } else y
  if u.anyHalted then u.onStreams fun _ y => { y with haltSeen := true } else u

def State.prefixEnd (s : State) (t : BitVec 6) : Nat := s.rows 0 t.toNat * 1024

/-- A fault of a block stream at a stage or body word (R242), logged when its error is (R398). -/
def State.blockFail (s : State) (t : BitVec 6) (x : BStream) (cause : Byte) (idx : BitVec 4) (e : Bad) : State :=
  ((s.dropAnswers (streamAsker t x)).logError (s.tileWriter t).node cause e).onTile t fun u => u.blockFault x cause idx

/-- What becomes of a block stream's step that could not take its effect. -/
def State.blockBad (s : State) (t : BitVec 6) (x : BStream) (idx : BitVec 4) (e : Bad) : State :=
  match e with
  | .stall => s
  | .queue q => s.onTile t fun u => u.onStream x fun y => { y with queued := some q }
  | .away gpa n k => s.ask (tileDie t) (streamAsker t x) .read gpa n k [BitVec.ofNat 8 n]
  | .trap cause _ => s.blockFail t x cause idx .stall
  | .consumed pa => s.blockFail t x causePoison idx (.consumed pa)
  | .lost d gpa => s.blockFail t x causePoison idx (.lost d gpa)
  | .acc u row => s.blockFail t x causePoison idx (.acc u row)
  | .integrity pa => s.blockFail t x causeIntegrity idx (.integrity pa)
  | .denied pa =>
    if s.overdue ((s.tile t).stream x).denied then s.blockFail t x causeVerfull idx (.denied pa)
    else s.onTile t fun u => u.onStream x fun y => { y with denied := s.waits y.denied }

def State.block? (s : State) : Option (BitVec 6 × BStream) := match s.cur with | .block t x => some (t, x) | _ => none

/-! ## Rings (R186, R233) -/

/-- The ring binding of a window named by a block. -/
def Tile.ringOf (t : Tile) (n : BitVec 5) : Option Image :=
  match t.window n with
  | some w => if w.image.ring then some w.image else none
  | none => none

/-- The block writes the window: some body word has it as its destination. -/
def blockWrites (x : BStream) (y : Stream) (n : BitVec 5) : Bool :=
  (bodyUses x y.bodyWords).any fun u => u.1 == n && u.2

def namesAt (x : BStream) (r : List W32) (i : Nat) (n : BitVec 5) : Bool :=
  match Decode.block x (recBody r i) with
  | .ok w => (windowUses w).any fun u => u.1 == n
  | .error _ => false

/-- Ring windows that the next word names and whose slot is not held. -/
def Tile.ringNeeds (t : Tile) (x : BStream) (y : Stream) : List (BitVec 5) :=
  match Decode.block x (recBody y.record y.body.toNat) with
  | .ok w => ((windowUses w).map (·.1)).filter fun n => (t.ringOf n).isSome && !y.ring.getLsbD n.toNat
  | .error _ => []

/-- Another word naming the window issues later in the same holding period. -/
def namedLater (x : BStream) (r : List W32) (image : Image) (n : BitVec 5) (iter i : Nat) : Bool :=
  let p := if image.rl ≥ recDepth r then recTotal r else recPeriod r image.rl
  let stop := (iter / p + 1) * p
  (upto (recLen r)).any fun j =>
    namesAt x r j n &&
    ((decide (i < j) && qualHolds r (recQual r j) iter) || decide (qualNext r (recQual r j) (iter + 1) < stop))

/-- Held ring windows whose holding period ends with the word just issued. -/
def Tile.ringEnds (t : Tile) (x : BStream) (y : Stream) : List (BitVec 5) :=
  (upto 32).filterMap fun k =>
    let n : BitVec 5 := BitVec.ofNat 5 k
    match t.ringOf n with
    | some im =>
      if y.ring.getLsbD k && namesAt x y.record y.body.toNat n && !namedLater x y.record im n y.iter y.body.toNat then some n else none
    | none => none

def bit32 (n : BitVec 5) : W32 := BitVec.twoPow 32 n.toNat

/-! ## Issue (R146, R147, R239) -/


/-- The tc at which the stream's next word issues, and the state of the tile there. -/
def Tile.atIssue (t : Tile) (x : BStream) : Tile :=
  let y := t.stream x
  if y.exposed then t.toTc y.nextTc else t

/-- The word at the stream's position has issued with cost c and latency l: active cycles, signature, ring
ends, and the next position. In an exposed block the fields t0, endTc and stalls keep R239's terms. -/
def Tile.issued (t : Tile) (x : BStream) (c l : Nat) : Tile :=
  let y := t.stream x
  let word := recBody y.record y.body.toNat
  let now := y.nextTc
  let t0 := if y.started then y.t0 else now
  let stalls := if y.started then y.stalls else 0
  let engine := x == .v || x == .m
  let a := if y.exposed then y.blockCount.toNat + (now - t0 - stalls) else y.count.toNat
  let ends := t.ringEnds x y
  let y1 : Stream :=
    { y with
      started := true
      crc := crcIssue y.crc a word
      count := BitVec.ofNat 32 (a + c)
      t0 := t0
      stalls := stalls
      nextTc := if y.exposed then now + c else y.nextTc
      endTc := if y.exposed then (if engine then max y.endTc (max (now + c) (now + l)) else now + c) else y.endTc
      denied := none
      queued := none
      ringDue := ends.foldl (fun m n => m ||| bit32 n) y.ringDue
      ringAt := ends.foldl (fun m n => tput m n.toNat y.body) y.ringAt }
  t.setStream x (y1.moveTo (nextIssue y.record y.iter (y.body.toNat + 1)))

/-- A stall that the rules name delays the issue of an exposed block by a tc that is no active cycle (R146). -/
def Tile.namedStall (t : Tile) (x : BStream) : Tile :=
  t.onStream x fun y => if y.exposed then { y with nextTc := y.nextTc + 1, stalls := if y.started then y.stalls + 1 else 0 } else y

/-- Issue of the current block stream's word with its effect f (R10, R149, R199, R207). A frozen tile issues
nothing. -/
def State.blockIssue (s : State) (c l : Nat) (f : BitVec 6 → BStream → State → Res State) : State :=
  match s.block? with
  | none => s
  | some (t, x) =>
    let y := (s.tile t).stream x
    if y.exposed && (s.tile t).frozenAt y.nextTc then s
    else
      let s1 := s.onTile t fun u => u.atIssue x
      match f t x s1 with
      | .ok s2 => (s2.dropReads (streamAsker t x)).onTile t fun u => u.issued x c l
      | .error e => s1.blockBad t x y.body e

/-! ## Await and fetch (R36, R229) -/

/-- A 32-bit word of the own store, read as the sequencer reads it. -/
def State.storeWord (s : State) (t : BitVec 6) (off : Nat) : Res W32 :=
  let pa := storeAddr t off
  if s.anyPoison pa 4 then .error (.consumed pa) else .ok (BitVec.ofNat 32 (leNat (s.mem.bytes pa 4)))

/-- The whole record at a position (R35): BFAULT when malformed. -/
def State.readBlock (s : State) (t : BitVec 6) (pos : Nat) : Res (List W32) := do
  let bad : Bad := .trap causeBfault 0
  let stop := s.prefixEnd t
  if pos + 24 > stop then .error bad
  else do
    let w0 ← s.storeWord t pos
    if !w0Ok w0.toNat then .error bad
    else
      let n := 6 + bits w0.toNat 23 21 + bits w0.toNat 27 24
      if pos + 4 * n > stop then .error bad
      else do
        let r ← (upto n).mapM fun j => s.storeWord t (pos + 4 * j)
        if recordOk r then return r else .error bad

/-- arr keeps its limit in an exposed block (R146, R171). -/
def arrOk (i : Instr) : Bool :=
  match i with
  | .vld _ _ _ r => decide (1 ≤ r.toNat)
  | .vldm _ _ k _ r => decide (2 ^ (k.toNat + 1) ≤ r.toNat)
  | .vgx _ _ _ _ r => decide (4 ≤ r.toNat)
  | _ => true

/-- The lowest body index that holds no instruction of the stream (R18). -/
def badWord (x : BStream) (r : List W32) : Option Nat :=
  (upto (recLen r)).find? fun i => match Decode.block x (recBody r i) with
    | .ok w => !(recInterlocked r || arrOk w)
    | .error _ => true

/-- Queues that the body binds (R203). -/
def bodyBinds (x : BStream) (r : List W32) : List (BitVec 3) :=
  (upto (recLen r)).filterMap fun i => match x, Decode.block x (recBody r i) with
    | .l, .ok (.qfill q _) => some q
    | .s, .ok (.qdrain _ q) => some q
    | _, _ => none

/-- One ring window both source and destination (R186), or a queue bound by the other stream (R203). -/
def Tile.fetchClash (t : Tile) (x : BStream) (r : List W32) : Bool :=
  let uses := bodyUses x ((upto (recLen r)).map (recBody r))
  let both := uses.any fun u => (t.ringOf u.1).isSome && u.2 && uses.any fun v => v.1 == u.1 && !v.2
  let other : BitVec 2 := if x = .l then 2 else 1
  both || (bodyBinds x r).any fun q => (t.queue q).bound == other

def Tile.bind (t : Tile) (x : BStream) (r : List W32) : Tile :=
  (bodyBinds x r).foldl (fun t q => t.setQueue q { t.queue q with bound := if x = .l then 1 else 2 }) t

/-! ## Retirement (R230, R241) -/

/-- The stream moves past the block: to AWAIT at the next record, or to IDLE. -/
def Stream.leave (y : Stream) (stopping : Bool) : Stream :=
  let r := y.record
  { y with
    state := if recNext r = 0 then .idle else .await
    pos := if recNext r = 0 then y.pos else y.pos + BitVec.ofNat 23 (4 * recNext r)
    idx := Vector.replicate 6 0, body := 0, record := [], ring := 0, ringDue := 0, ringAt := []
    started := false, consumed := false, denied := none, queued := none
    ppoint := stopping && recPpoint r, w1 := none }

/-- Active cycles of the block that retires added to its segment (R239). -/
def Stream.closeCount (y : Stream) : Stream :=
  if y.exposed && y.started then { y with count := BitVec.ofNat 32 (y.blockCount.toNat + (y.endTc - y.t0 - y.stalls)) } else y

/-- The physical tile of its cluster that holds a logical number (R4). -/
def State.physOfTile (s : State) (t : BitVec 6) : Option Nat :=
  (upto 5).find? fun p => match (s.cluster (tileCluster t)).phys[p]? with
    | some x => x.state == 0 && x.logical.toNat == t.toNat
    | none => false

def dayNs : Nat := 24 * 3600 * 10 ^ 9

/-- A compared mismatch counts against the physical tile that ran the segment; a second within 24 hours marks it for
quarantine (R403). -/
def State.segMismatch (s : State) (t : BitVec 6) : State :=
  match s.physOfTile t with
  | none => s
  | some p =>
    let c := tileCluster t
    let now := s.time.ns.toNat
    let recent : List Nat := match (s.cluster c).phys[p]? with
      | some y => y.misses.filter fun z => decide (now ≤ z + dayNs)
      | none => []
    let s1 := s.onCluster c fun k => k.onPhys p fun y =>
      { y with misses := now :: recent, pendingQuar := y.pendingQuar || !recent.isEmpty }
    let node := (s.tileNode t).map (·.handle)
    s1.log (tileDie t)
      { ErrorRecord.blank with
        cls := 0x08, sev := 2, src := 8, flags := s.rollFlags node causeSegchk, unit := BitVec.ofNat 16 t.toNat,
        sub := BitVec.ofNat 16 p, node := s.recordNode node, count := BitVec.ofNat 32 (recent.length + 1), cause := causeSegchk }

/-- Steps 2 to 4 of R230 for the fetched record. -/
def State.retire (s : State) (t : BitVec 6) (x : BStream) : State :=
  let y0 := ((s.tile t).stream x).closeCount
  let r := y0.record
  let a := y0.count
  let sig := y0.crc ^^^ 0xFFFFFFFF
  let skip := (recWord r 2 == 0 && recWord r 3 == 0) || y0.haltSeen
  let bad := recSegend r && !skip && !(a.toNat == recWord r 2 && sig.toNat == recWord r 3)
  let y1 := if recSegend r then { y0 with lastCount := a, lastSig := sig } else y0
  let s1 := s.onTile t fun u => u.setStream x y1
  if bad then (s1.segMismatch t).onTile t fun u => u.blockFault x causeSegchk 15
  else
    let y2 := if recSegend r then { y1 with count := 0, crc := 0xFFFFFFFF, haltSeen := (s.tile t).anyHalted } else y1
    let s2 := s.onTile t fun u => u.setStream x y2
    let stopping := decide ((s.tile t).status = .stopping)
    let done := fun (u : Tile) => (u.onStream x fun y => y.leave stopping).unbind x
    if recRsn r = 0 then
      if y2.consumed then s2.onTile t fun u => u.blockFault x causePoison 15 else s2.onTile t done
    else
      let k := recRss r
      let sem := (s.tile t).sem k
      let s3 := if y2.consumed then s2.onTile t fun u => u.setSem k (sem.raiseError (recRsn r))
        else match sem.raise (recRsn r) with
          | some z => s2.onTile t fun u => u.setSem k z
          | none => s2
      if (sem.raise (recRsn r)).isNone then s3.onTile t fun u => u.blockFault x causeSemovf 15 else s3.onTile t done

/-! ## The rows that drive a block stream -/

/-- Begin the fetched block: replay its nest, or retire it at once when a trip count is 0. Its first tc is the next one, in which no
exposed stream of the tile has issued, so that the draws of a tc keep the order of R125. -/
def State.beginBlock (s : State) (t : BitVec 6) (x : BStream) (r : List W32) : State :=
  let tl := s.tile t
  let y := tl.stream x
  let now := tl.tc + 1
  let y1 : Stream :=
    { y with
      record := r, idx := Vector.replicate 6 0, body := 0, ring := 0, ringDue := 0, ppoint := false
      ringAt := [], started := false, consumed := false, denied := none, queued := none, stalls := 0
      blockCount := y.count, t0 := now, nextTc := now, endTc := now }
  if (upto (recDepth r)).any fun j => recTrip r j == 0 then (s.onTile t fun u => u.setStream x y1).retire t x
  else s.onTile t fun u =>
    (u.setStream x { y1.moveTo (nextIssue r 0 0) with state := .run }).bind x r

/-- A ring raise (R186): the other semaphore of the ring, and the position advances in the same step, once every access
through the window has been performed, that of a load whose data is on its way too. -/
def State.ringRaise (s : State) (t : BitVec 6) (x : BStream) : State :=
  let tl := s.tile t
  let y := tl.stream x
  if !tl.live || decide (y.state ≠ .run) || (y.exposed && tl.frozenAt (max tl.tc y.nextTc)) || s.asking (streamAsker t x) then s
  else match (upto 32).find? fun k => y.ringDue.getLsbD k with
    | none => s
    | some j =>
      let n : BitVec 5 := BitVec.ofNat 5 j
      let clear := fun (y : Stream) => { y with ring := y.ring &&& ~~~ bit32 n, ringDue := y.ringDue &&& ~~~ bit32 n }
      match tl.window n with
      | none => s.onTile t fun u => u.onStream x clear
      | some w =>
        let im := w.image
        let writer := blockWrites x y n
        let k : BitVec 6 := BitVec.ofNat 6 (if writer then im.rs else im.rs + 1)
        match (tl.sem k).raise 1 with
        | none => s.blockFail t x causeSemovf ((tget y.ringAt j).getD 0) .stall
        | some z =>
          let p := ((if writer then im.wpos else im.rpos) + 1) % (im.ns + 1)
          s.onTile t fun u =>
            (((u.performAll x).setSem k z).setWindow n (some { w with image := im.setPos writer p })).onStream x clear

/-- Completion (R230, step 1): every iteration issued, every result written, every ring raise done, and every
access at other packages answered. -/
def State.blockComplete (s : State) (t : BitVec 6) (x : BStream) : Bool :=
  let tl := s.tile t
  let y := tl.stream x
  decide (y.state = .run) && y.nestDone && y.ringDue == 0 && !(tl.pending.any fun p => p.stream == x) && !s.asking (streamAsker t x)

/-- An access at another package that ended in an error makes the block one that consumed it (R197, R329). -/
def State.takeErrors (s : State) (t : BitVec 6) (x : BStream) : State :=
  if s.fabric.answers.any fun a => a.who == streamAsker t x && a.err then
    (s.dropAnswers (streamAsker t x)).onTile t fun u => u.onStream x fun y => { y with consumed := true }
  else s.dropAnswers (streamAsker t x)

/-- The tc in which a completed block retires. -/
def Tile.retireTc (t : Tile) (x : BStream) : Nat := if (t.stream x).exposed then max t.tc (t.stream x).endTc else t.tc

/-- Retirement of a completed block (R230), which a freeze delays in an exposed block (R237); a boundary in REPLAY holds it
(R299). Raises of earlier tc are applied before its own (R16). -/
def State.blockRetire (s : State) (t : BitVec 6) (x : BStream) : State :=
  let tl := s.tile t
  let y := tl.stream x
  if tl.live && s.blockComplete t x && !(y.exposed && tl.frozenAt (tl.retireTc x)) then
    (((s.takePort t (tl.retireTc x - 1)).takeErrors t x).onTile t fun u => if y.exposed then u.toTc y.endTc else u).retire t x
  else s

/-! ## The raises of one tc (R16, R417) -/

/-- An exposed block has a ring raise or its retirement to do by tc now. -/
def State.raiseDue (s : State) (t : BitVec 6) (now : Nat) (x : BStream) : Bool :=
  let tl := s.tile t
  let y := tl.stream x
  tl.live && y.exposedRun && !tl.frozenAt now && !s.asking (streamAsker t x) && decide (y.nextTc ≤ now) &&
    (y.ringDue != 0 ||
      (y.nestDone && decide (y.endTc ≤ now) && tl.pending.all fun p => p.stream != x || (p.landed && decide (p.due < now))))

def State.raiseOnce (s : State) (t : BitVec 6) (now : Nat) (x : BStream) : State :=
  if !s.raiseDue t now x then s
  else if ((s.tile t).stream x).ringDue ≠ 0 then s.ringRaise t x
  else (s.onTile t fun u => u.settle now).blockRetire t x

/-- The raises of exposed blocks that are due by tc now, in the order V, M, L, S: those of ring windows, then that of the block. -/
def State.dueRaises (s : State) (t : BitVec 6) (now : Nat) : State :=
  [BStream.v, .m, .l, .s].foldl (fun s x => (upto 33).foldl (fun s _ => s.raiseOnce t now x) s) s

/-- All raises of the tc up to now are applied: what has reached the port in earlier tc, the block streams', then the port's (R16). -/
def State.raisesOf (s : State) (t : BitVec 6) (now : Nat) : State :=
  ((s.takePort t (now - 1)).dueRaises t now).takePort t now

/-- The count that a sem.wait of the C stream, stalled on a semaphore, waits for (R79). -/
def Tile.controlWaits (t : Tile) (k : BitVec 6) : Option Nat :=
  if !t.controlLive || !t.control.stalled then none
  else match Decode.control (t.codeWord t.control.pc.toNat) with
    | .ok (.semWait _ a n i) => if n = k then some (t.control.reg a + i.setWidth 64).toNat else none
    | _ => none

/-- The count that a block stream waits for on a semaphore in tc now: its block's await, or the slot of a ring window (R186, R229). -/
def Tile.streamWaits (t : Tile) (now : Nat) (x : BStream) (k : BitVec 6) : Option Nat :=
  let y := t.stream x
  match y.state with
  | .await => match y.w1 with
    | some w => if bits w.toNat 31 26 = k.toNat ∧ bits w.toNat 25 16 ≠ 0 ∧ !(y.ppoint && decide (t.status = .stopping)) then some (bits w.toNat 25 16) else none
    | none => none
  | .run =>
    if y.nestDone || (y.exposed && (decide (now < y.nextTc) || t.frozenAt now)) then none
    else match t.ringNeeds x y with
      | [] => none
      | n :: _ => match t.ringOf n with
        | some im => if k.toNat = (if blockWrites x y n then im.rs + 1 else im.rs) then some 1 else none
        | none => none
  | _ => none

/-- Awaits of one tc are judged in the order C, V, M, L, S (R16): an earlier stream that waits for no more than a semaphore holds is
granted first. -/
def Tile.earlierWaits (t : Tile) (now : Nat) (x : BStream) (k : BitVec 6) : Bool :=
  let held (n : Option Nat) : Bool := match n with | some n => decide (n ≤ (t.sem k).count.toNat) | none => false
  held (t.controlWaits k) || [BStream.v, .m, .l, .s].any fun y => decide (streamCode y < streamCode x) && held (t.streamWaits now y k)

/-- W1 of the record at a stream's position, read once for its await (R36). -/
def State.awaitWord (s : State) (t : BitVec 6) (x : BStream) : Res W32 :=
  let y := (s.tile t).stream x
  match y.w1 with
  | some w => .ok w
  | none => if y.pos.toNat + 8 > s.prefixEnd t then .error (.trap causeBfault 0) else s.storeWord t (y.pos.toNat + 4)

/-- The record fetched and checked once its await has been granted (R36, R229). -/
def State.fetchBlock (s : State) (t : BitVec 6) (x : BStream) : State :=
  match s.readBlock t ((s.tile t).stream x).pos.toNat with
  | .error e => s.blockBad t x 12 e
  | .ok r =>
    match badWord x r with
    | some i => s.blockFail t x causeIllegal (BitVec.ofNat 4 i) .stall
    | none => if (s.tile t).fetchClash x r then s.blockFail t x causeBfault 12 .stall else s.beginBlock t x r

/-- The await of R229: judged after the raises of its tc (R16, R417), granted, subtracted, and the record fetched. -/
def State.awaitGrant (s0 : State) (t : BitVec 6) (x : BStream) : State :=
  let y := (s0.tile t).stream x
  if !(s0.tile t).live || decide (y.state ≠ .await) || (y.ppoint && decide ((s0.tile t).status = .stopping)) then s0
  else
    let now := (s0.tile t).portNow
    let s := s0.raisesOf t now
    if !(s.tile t).live || decide (((s.tile t).stream x).state ≠ .await) then s
    else match s.awaitWord t x with
    | .error e => s.blockBad t x 12 e
    | .ok w1 =>
      let awn := bits w1.toNat 25 16
      let k : BitVec 6 := BitVec.ofNat 6 (bits w1.toNat 31 26)
      let sem := (s.tile t).sem k
      let s1 := s.onTile t fun u => u.onStream x fun y => { y with w1 := some w1 }
      if awn = 0 then s1.fetchBlock t x
      else if sem.poison then s1.blockFail t x causePoison 12 .stall
      else if sem.count.toNat < awn ∨ (s1.tile t).earlierWaits now x k then s1.onTile t Tile.tick
      else (s1.onTile t fun u => u.setSem k { sem with count := BitVec.ofNat 16 (sem.count.toNat - awn) }).fetchBlock t x

def execBlockAwaitGrant (t : BitVec 6) (x : BitVec 2) (s : State) : Out := .next (s.awaitGrant t (streamOf x))

/-- A ring await (R186) of the next word's first window whose slot is not held, judged as the await of a block (R16). -/
def State.ringGrant (s0 : State) (t : BitVec 6) (x : BStream) : State :=
  let y := (s0.tile t).stream x
  let now := if y.exposed then max (s0.tile t).tc y.nextTc else (s0.tile t).portNow
  if !(s0.tile t).live || decide (y.state ≠ .run) || y.nestDone || (y.exposed && (s0.tile t).frozenAt now) then s0
  else match (s0.tile t).ringNeeds x y with
    | [] => s0
    | n :: _ =>
      match (s0.tile t).ringOf n with
      | none => s0
      | some im =>
        let s := s0.raisesOf t now
        let k : BitVec 6 := BitVec.ofNat 6 (if blockWrites x y n then im.rs + 1 else im.rs)
        let sem := (s.tile t).sem k
        if !(s.tile t).live || decide (((s.tile t).stream x).state ≠ .run) then s
        else if sem.poison then s.blockFail t x causePoison y.body .stall
        else if sem.count = 0 ∨ (s.tile t).earlierWaits now x k then
          s.onTile t fun u => if y.exposed then (u.atIssue x).namedStall x else u.tick
        else s.onTile t fun u =>
          (u.setSem k { sem with count := sem.count - 1 }).onStream x fun y => { y with ring := y.ring ||| bit32 n }

def execRingAwaitGrant (t : BitVec 6) (x : BitVec 2) (s : State) : Out := .next (s.ringGrant t (streamOf x))

def execRingRaise (t : BitVec 6) (x : BitVec 2) (s : State) : Out := .next (s.ringRaise t (streamOf x))

/-- No exposed stream of the tile has a word to issue at or before a tc (R146, R235). -/
def Tile.pastIssues (t : Tile) (due : Nat) : Bool :=
  [BStream.v, .m, .l, .s].all fun x =>
    let y := t.stream x
    !(y.exposedRun && !y.nestDone && decide (y.nextTc ≤ due))

/-- The earliest result in flight is written at the end of its tc (R146), when no word issues before that. -/
def Tile.writeNext (t : Tile) : Tile :=
  match t.pending.filter fun p => p.load || p.landed with
  | [] => t
  | p :: _ =>
    if p.landed && !t.operandLate && !t.portBusy && t.pastIssues p.due then t.toTc (p.due + 1) else t

def execExposedResultWrite (t : BitVec 6) (s : State) : Out := .next (s.onTile t Tile.writeNext)

/-! ## Data that comes late (R203, R236, R307) -/

/-- A kept load's register read again through its re-pinned window. -/
def State.rereadKept (s : State) (t : BitVec 6) (x : BStream) (k : Kept) (v : VReg) : Res VReg :=
  match (s.tile t).window k.window with
  | none => .ok v
  | some w =>
    let u : Use := { image := w.image, pins := w.pins, cur := (0, 0, 0), ringoff := 0 }
    k.pieces.foldlM (init := v) fun v e =>
      (pieces (e.2.2 / 128 + 2) (vaOf e.2.1) e.2.2).foldlM (init := v) fun v p => do
        let r ← s.winRead t x u p.1 p.2
        if r.2 then .error (match pinPa u.pins p.1 with
          | some (leaf, gpa) => if s.ownPkg gpa then .consumed (s.granuleInError leaf (s.winView t u.image) (localOf gpa) p.2) else .lost (tileDie t) gpa
          | none => .stall)
        else
          let at_ := 8 * (e.1 + (p.1 - vaOf e.2.1))
          return BitVec.ofNat 2048 (putBits v.toNat (at_ + 8 * p.2 - 1) at_ (leNat r.1))

/-- A load that the resume asks for again (R307) reads its bytes; another has them. -/
def State.rereadOne (s : State) (t : BitVec 6) (p : Pending) : Res Pending :=
  match p.kept with
  | none => .ok p
  | some k =>
    if !k.again then .ok p
    else match p.what with
      | .vreg r v => do return { p with what := .vreg r (← s.rereadKept t p.stream k v), kept := none }
      | .push q v => do return { p with what := .push q (← s.rereadKept t p.stream k v), kept := none }
      | _ => .ok p

/-- The first result that f picks, and the list with it changed or, for none, taken out. -/
def changeFirst (f : Pending → Bool) (g : Pending → Option Pending) : List Pending → List Pending
  | [] => []
  | p :: r => if f p then (g p).toList ++ r else p :: changeFirst f g r

/-- The data of the first result that f picks comes: what the resume asked for is read first (R307), and it stays as it is while the
read has to wait. Loads are performed in program order (R265), so the other loads of its stream have been performed too. -/
def State.dataLands (s : State) (t : BitVec 6) (f : Pending → Bool) (done : Pending → Tile → Tile) : State :=
  match (s.tile t).pending.find? f with
  | none => s
  | some p => match s.rereadOne t p with
    | .ok p' => (if p'.kept = p.kept then s else s.dropReads (streamAsker t p.stream)).onTile t (done p')
    | .error e => s.blockBad t p.stream ((s.tile t).stream p.stream).body e

/-- Load data that has not reached the tile. -/
def Pending.lateLoad (p : Pending) : Bool := p.load && !p.landed

/-- Late data lands in its landing entry (R236): written in the tc in which it lands, and the freeze ends. -/
def execLoadDataLand (t : BitVec 6) (s : State) : Out :=
  .next (s.dataLands t Pending.lateLoad fun p u =>
    ({ u with pending := changeFirst Pending.lateLoad (fun _ => some { p with landed := true }) u.pending }).performAll p.stream)

/-- A late operand byte arrives (R198). -/
def execOperandByteArrival (t : BitVec 6) (s : State) : Out := .next (s.onTile t fun u => { u with operandLate := false })
/-- The port takes the access it could not take at issue (R237). -/
def execExposedAccessAccept (t : BitVec 6) (s : State) : Out := .next (s.onTile t fun u => { u with portBusy := false })

def execBlockRetire (t : BitVec 6) (x : BitVec 2) (s : State) : Out := .next (s.blockRetire t (streamOf x))

/-! ## The forms of R85 to R88 and R103 -/

/-- blk.go (R85). VAL of its ALIGN or XLATE trap is the offset (DESIGN CHOICE, log 88). -/
def execBlkGo (a : BitVec 5) (x : BitVec 2) (s : State) : Out :=
  .next (let v := (s.g a).toNat
    let y := (s.tile s.curTile).stream (streamOf x)
    if v % 4 ≠ 0 then s.cTrap causeAlign (s.g a)
    else if v ≥ s.prefixEnd s.curTile then s.cTrap causeXlate (s.g a)
    else if !y.ended then s.cStall
    else (s.onCur fun t => t.setStream (streamOf x) { Stream.reset with state := .await, pos := BitVec.ofNat 23 v, haltSeen := t.anyHalted }).cDone)

/-- blk.stop (R86, R237, R238): it completes when the stream has stopped and every access it issued has been performed. -/
def execBlkStop (x : BitVec 2) (s : State) : Out :=
  .next (let s1 := s.onCur fun t => t.requestStop fun y => y == streamOf x
    if ((s1.tile s1.curTile).stream (streamOf x)).stopDue || s1.asking (streamAsker s1.curTile (streamOf x)) then s1.cStall else s1.cDone)

def stateCode : RunState → Nat
  | .idle => 0
  | .await => 1
  | .run => 2
  | .stopped => 3
  | .faulted => 4
  | .halted => 5

/-- blk.status (R87). -/
def Stream.status (y : Stream) : Nat :=
  y.idxAt 0 * 2 ^ 40 + y.pos.toNat % 2 ^ 22 * 2 ^ 16 + y.faultIdx.toNat * 2 ^ 8 + stateCode y.state

def execBlkStatus (d : BitVec 5) (x : BitVec 2) (s : State) : Out :=
  .next (s.result d (BitVec.ofNat 64 ((s.tile s.curTile).stream (streamOf x)).status))

/-- The tc counts of pause and of the timeout of waite (R73, R92): n tc after tc `since`. They stop in a freeze (R237); exposed
work counts the tc while there is some, and else they pass with the event. -/
def Tile.countPast (t : Tile) (since n : Nat) : Option Tile :=
  if t.frozenAt t.tc then none
  else if t.exposedBusy then (if since + n ≤ t.tc then some t else none)
  else some (t.toTc (since + n))

/-- The count of a pause expires (R73). -/
def execPauseEnd (t : BitVec 6) (s : State) : Out :=
  .next (s.onTile t fun x =>
    if x.control.pause = 0 then x
    else match x.countPast x.control.since x.control.pause with
      | some y => { y with control := { y.control with pause := 0 } }
      | none => x)

/-- The word and the bits of a field kind, by W0's DEPTH (R88): word, high bit, low bit. -/
def patchPlace (kind depth i : Nat) : Nat × Nat × Nat :=
  match kind with
  | 0 => (6 + i, 23, 0)
  | 1 => (0, 15, 0)
  | 2 => (1, 25, 16)
  | 3 => (1, 9, 0)
  | 4 => (6 + depth + i, 31, 0)
  | 5 => (2, 31, 0)
  | _ => (3, 31, 0)

/-- A word of the own store written by a stream, after the reads of its earlier loads (R264, R265). -/
def State.putOwn (s : State) (t : BitVec 6) (x : Option BStream) (off : Nat) (bs : List Byte) : State :=
  let pa := storeAddr t off
  (match x with | some x => s.performKept t x (s.group pa) bs.length | none => s).put pa bs

/-- The checks of R88, then the one 4-byte read-modify-write: the address and its new word. -/
def State.patch (s : State) (t : BitVec 6) (a d kind i : Nat) : Res (Nat × Nat) := do
  need (a % 4 = 0) causeAlign (BitVec.ofNat 64 a)
  need (decide (a < s.prefixEnd t)) causeXlate (BitVec.ofNat 64 a)
  let w0 ← s.storeWord t a
  let p := patchPlace kind (bits w0.toNat 23 21) i
  need (w0Ok w0.toNat) causeBfault
  need (kind != 0 || decide (i < bits w0.toNat 23 21)) causeBfault
  need (kind != 4 || decide (i < bits w0.toNat 27 24)) causeBfault
  need (decide (d < 2 ^ (p.2.1 + 1 - p.2.2))) causeBfault
  need (decide (a + 4 * p.1 + 4 ≤ s.prefixEnd t)) causeXlate (BitVec.ofNat 64 (a + 4 * p.1))
  let old ← s.storeWord t (a + 4 * p.1)
  return (a + 4 * p.1, putBits old.toNat p.2.1 p.2.2 d)

def State.doPatch (s : State) (t : BitVec 6) (x : Option BStream) (a d kind i : Nat) : Res State := do
  let r ← s.patch t a d kind i
  return s.putOwn t x r.1 (leBytes 4 r.2)

/-- blk.patch (R88). VAL of its trap is the offset (DESIGN CHOICE, log 88). -/
def execBlkPatch (d a : BitVec 5) (k i : BitVec 4) (s : State) : Out :=
  .next (s.cRunAt (s.g a) (s.doPatch s.curTile none (s.g a).toNat (s.g d).toNat k.toNat i.toNat))

def execSegCnt (d : BitVec 5) (x : BitVec 2) (s : State) : Out :=
  .next (s.result d (((s.tile s.curTile).stream (streamOf x)).count.setWidth 64))
def execSegSig (d : BitVec 5) (x : BitVec 2) (s : State) : Out :=
  .next (s.result d (((s.tile s.curTile).stream (streamOf x)).crc.setWidth 64))
def execSegLast (d : BitVec 5) (x : BitVec 2) (s : State) : Out :=
  .next (let y := (s.tile s.curTile).stream (streamOf x)
    s.result d (BitVec.ofNat 64 (y.lastCount.toNat * 2 ^ 32 + y.lastSig.toNat)))

end Sys2Proof.Machine
end

