-- ==== Sys2Proof/Machine/Engines.lean ====
section
/-!
DEFINITION. Sys2Proof/Machine/Engines.lean: the die copy engines (R93 to R96), landing-word arrivals (R81) and
the pins that copies and routing operations hold (R89, R94, R257).
-/

namespace Sys2Proof.Machine

/-! ## Bytes through pins -/

/-- Bytes that an engine has read: the ranges among them in error, as offset and number, and what was consumed (R396, R398). -/
structure Fetched where
  bytes : List Byte
  bad : List (Nat × Nat)
  notes : List Bad
deriving DecidableEq, Repr

def Fetched.none : Fetched := { bytes := [], bad := [], notes := [] }
/-- n bytes that cannot be read: an error that consumes nothing. -/
def Fetched.refused (n : Nat) : Fetched := { bytes := List.replicate n 0, bad := [(0, n)], notes := [] }
/-- The bytes of f with those of g after them. -/
def Fetched.join (f g : Fetched) : Fetched :=
  { bytes := f.bytes ++ g.bytes, bad := f.bad ++ g.bad.map (fun (e : Nat × Nat) => (f.bytes.length + e.1, e.2)), notes := f.notes ++ g.notes }

/-- The pieces of [pa, pa+n) that lie in one granule each. -/
def grains : Nat → Nat → Nat → List (Nat × Nat)
  | 0, _, _ => []
  | fuel + 1, pa, n =>
    if n = 0 then []
    else
      let g := granuleSize (localOf pa)
      let k := min n (g - pa % g)
      (pa, k) :: grains fuel (pa + k) (n - k)

/-- The consumption of an error in n bytes at a group address, on a die (R329, R396). -/
def State.consumption (s : State) (d : BitVec 2) (leaf : Leaf) (gpa n : Nat) : Bad :=
  if s.ownPkg gpa then .consumed (granuleOf (s.granuleInError leaf .newest (localOf gpa) n)) else .lost d gpa

/-- Bytes of one line: those in error are found granule by granule (R396). -/
def State.readGrains (s : State) (d : BitVec 2) (who : Asker) (leaf : Leaf) (gpa n : Nat) : Res Fetched := do
  let r ← s.readAny who leaf .newest gpa n
  if !r.2 then return { bytes := r.1, bad := [], notes := [] }
  (grains 17 gpa n).foldlM (init := Fetched.none) fun acc g => do
    let r ← s.readAny who leaf .newest g.1 g.2
    return acc.join { bytes := r.1, bad := if r.2 then [(0, g.2)] else [], notes := if r.2 then [s.consumption d leaf g.1 g.2] else [] }

/-- Bytes at a virtual address under pins; a frame that has been quarantined refuses them (R400). -/
def State.readPins (s : State) (d : BitVec 2) (who : Asker) (pins : List Held) (va n : Nat) : Res Fetched :=
  (pieces (n / 128 + 2) va n).foldlM (init := Fetched.none) fun acc e =>
    match pinPa pins (e.1 % 2 ^ 57) with
    | none => .ok (acc.join (Fetched.refused e.2))
    | some (leaf, gpa) =>
      if s.refused gpa then .ok (acc.join (Fetched.refused e.2))
      else do
        let r ← s.readGrains d who leaf gpa e.2
        return acc.join r

/-- Every granule that bytes [pa, pa+n) of the own package touch becomes poisoned (R95, R316). -/
def State.poisonRange (s : State) (pa n : Nat) : State :=
  (upto (n + 1)).foldl (fun s i => if pa + i < pa + n then s.addPoison (pa + i) else s) s

/-- Offset i lies in a range. -/
def inRanges (bad : List (Nat × Nat)) (i : Nat) : Bool := bad.any fun e => decide (e.1 ≤ i) && decide (i < e.1 + e.2)
/-- The ranges as they lie in bytes [o, o+n). -/
def cutRanges (bad : List (Nat × Nat)) (o n : Nat) : List (Nat × Nat) :=
  bad.filterMap fun e =>
    let lo := max e.1 o
    let hi := min (e.1 + e.2) (o + n)
    if lo < hi then some (lo - o, hi - lo) else none
/-- n bytes in runs that are in error or sound: offset, number, and which. -/
def runsOf (bad : List (Nat × Nat)) (n : Nat) : List (Nat × Nat × Bool) :=
  if bad.isEmpty then [(0, n, false)]
  else ((upto n).foldl (init := ([] : List (Nat × Nat × Bool))) fun acc i =>
    match acc with
    | (o, k, b) :: r => if inRanges bad i = b then (o, k + 1, b) :: r else (i, 1, inRanges bad i) :: acc
    | [] => [(i, 1, inRanges bad i)]).reverse

/-- Bytes written under a pin; those whose source was in error poison the granules they reach (R95, R396). A quarantined frame refuses the
write (R400). -/
def State.writePins (s : State) (w : Writer) (d : BitVec 2) (who : Asker) (pins : List Held) (va : Nat) (bs : List Byte)
    (bad : List (Nat × Nat)) : Res State :=
  match pinPa pins (va % 2 ^ 57) with
  | none => .ok s
  | some (leaf, gpa) =>
    if s.refused gpa then .error (.trap causePerm 0)
    else (runsOf bad bs.length).foldlM (init := s) fun s e => do
      let s1 ← s.writeAny w d who leaf (gpa + e.1) ((bs.drop e.1).take e.2.1) (if e.2.2 then markPoison else 0)
      return if e.2.2 && s.ownPkg gpa then s1.poisonRange (localOf gpa + e.1) e.2.1 else s1

/-! ## Arrivals (R81, R187) -/

/-- An arrival or a completion for a landing word of another package leaves as a marked write (R81, R295); one of the own package reaches
its tile's port (R417). -/
def State.sendHeld (s : State) (h : HeldArrival) : State :=
  if s.ownPkg h.addr then s.arrive h.src (localOf h.addr) (leNat (h.body.take 4)) (h.body.getD 4 0 != 0)
  else s.request h.die h.who .write h.addr 16 markArrival h.body

/-- Held arrivals leave once every data write before them has been performed: they are releases (R81, R187). -/
def State.releaseHeld (s : State) : State :=
  let ready (h : HeldArrival) : Bool := h.waits.all fun t => s.fabric.requests.all fun r => r.tag != t
  (s.fabric.held.filter ready).foldl State.sendHeld
    { s with fabric := { s.fabric with held := s.fabric.held.filter fun h => !ready h } }

/-- A request is answered: arrivals that waited for it leave, with their error indication where it was not performed, as do messages of
its flow (R328) and the MSI-X message of a completion (R349). -/
def State.answered (s : State) (r : Request) (code : BitVec 2) (bytes : List Byte) : State :=
  let s1 := s.settle r code bytes
  let held := s1.fabric.held.map fun h => if code ≠ 0 ∧ h.waits.contains r.tag then { h with body := h.body.set 4 1 } else h
  let s2 := { s1 with fabric := { s1.fabric with held := held } }.releaseHeld
  let s3 := if s2.fabric.drain.isEmpty then s2 else { s2 with fabric := { s2.fabric with drain := s2.fabric.drain.filter (· != r.tag) } }.pump
  match s3.bridge.owed.find? fun e => e.1 == r.tag with
  | none => s3
  | some e => { s3 with bridge := { s3.bridge with owed := s3.bridge.owed.filter fun e => e.1 != r.tag } }.sendMsix (some e.2)

/-- The writes and atomics of an agent at other packages that are not performed yet. -/
def State.unperformed (s : State) (who : Asker) : List (BitVec 23) :=
  (s.fabric.requests.filter fun r => r.who == who && r.kind != .read).map (·.tag)

/-- An arrival that an agent delivers to a landing word by its group address (R81). It writes the word (R371), and follows the agent's
writes at other packages; `src` is its rank at the port of this package's tile (R16). -/
def State.arriveAt (s : State) (w : Writer) (d : BitVec 2) (who : Asker) (src gpa b : Nat) (e : Bool) : State :=
  let s1 := s.markUnrollable w openLeaf gpa
  let waits := s1.unperformed who
  if s1.ownPkg gpa && waits.isEmpty then s1.arrive src (localOf gpa) b e
  else
    let h : HeldArrival := { die := d, who := who, src := src, addr := gpa, body := leBytes 4 b ++ [BitVec.ofNat 8 (b2n e)], waits := waits }
    { s1 with fabric := { s1.fabric with held := s1.fabric.held ++ [h] } }.releaseHeld

/-- An arrival at a local landing word has come to its tile's port and is not taken yet (R417). -/
def State.arrivalQueued (s : State) (pa : Nat) : Bool :=
  match place pa with
  | .tileStore t off => (s.tile t).port.any fun e => match e.2 with
    | .arrival _ o _ _ => o == off
    | _ => false
  | _ => false

/-- Arrivals that an agent of a tile delivered at a landing word of another tile of this package still wait there: a release that follows
them waits too (R317). -/
def State.arrivalWaits (s : State) (tile : Option (BitVec 6)) (gpa : Nat) : Bool :=
  s.ownPkg gpa && s.arrivalQueued (localOf gpa) &&
  (match place (localOf gpa) with | .tileStore t _ => tile != some t | _ => false)

/-! ## Copy records (R93, R94) -/

abbrev CopyRecord := Vector W64 8

def CopyRecord.word (r : CopyRecord) (j : Nat) : Nat := (r[j]?.getD 0).toNat
def CopyRecord.src (r : CopyRecord) : Nat := r.word 0
def CopyRecord.dst (r : CopyRecord) : Nat := r.word 1
def CopyRecord.xlen (r : CopyRecord) : Nat := bits (r.word 2) 23 0
def CopyRecord.ycnt (r : CopyRecord) : Nat := bits (r.word 2) 39 24
def CopyRecord.spitch (r : CopyRecord) : Int := toSigned 32 (bits (r.word 3) 31 0)
def CopyRecord.dpitch (r : CopyRecord) : Int := toSigned 32 (bits (r.word 3) 63 32)
def CopyRecord.lwa (r : CopyRecord) : Nat := r.word 4
def CopyRecord.sem (r : CopyRecord) : BitVec 6 := BitVec.ofNat 6 (bits (r.word 5) 5 0)
def CopyRecord.scnt (r : CopyRecord) : Nat := bits (r.word 5) 15 6

/-- The field limits of R93 and the alignment of LWA. -/
def CopyRecord.fieldsOk (r : CopyRecord) : Bool :=
  bits (r.word 5) 63 16 == 0 && r.word 6 == 0 && r.word 7 == 0 && bits (r.word 2) 63 40 == 0 &&
  r.ycnt != 0 && r.xlen != 0 && r.lwa % 16 == 0

def rowsOf (base : Nat) (pitch : Int) (count len : Nat) : List (Nat × Nat) :=
  (upto count).map fun (y : Nat) => (ofSigned 64 ((base : Int) + (y : Int) * pitch), len)
def CopyRecord.sources (r : CopyRecord) : List (Nat × Nat) := rowsOf r.src r.spitch r.ycnt r.xlen
def CopyRecord.destinations (r : CopyRecord) : List (Nat × Nat) := rowsOf r.dst r.dpitch r.ycnt r.xlen

/-- A landing word lies in some tile store. -/
def inTileStore (gpa : Nat) : Bool := match place (localOf gpa) with | .tileStore _ _ => true | _ => false

/-- The pins of a copy, every page of its rows, and the group address of its landing word, with the checks of R76 steps 4 and
5 on both (R94). -/
def State.copyPins (s : State) (t : BitVec 6) (root : Nat) (r : CopyRecord) : Res (List Held × Option Nat) := do
  let p1 ← s.pinRanges t root .read r.sources []
  let pins ← s.pinRanges t root .write r.destinations p1
  let p3 ← if r.lwa = 0 then .ok pins else s.pinRanges t root .write [(r.lwa, 16)] pins
  let lw := if r.lwa = 0 then none else (pinPa p3 (r.lwa % 2 ^ 57)).map (·.2)
  need (match lw with | some gpa => inTileStore gpa | none => r.lwa == 0) causeBfault
  let src := r.sources.flatMap fun e => fragments pins (e.2 / 4096 + 2) e.1 e.2
  let dst := r.destinations.flatMap fun e => fragments pins (e.2 / 4096 + 2) e.1 e.2
  need (src.all fun a => dst.all fun b => !overlap a b) causeBfault
  return (pins, lw)

/-! ## Engines -/

def Die.engine (d : Die) (e : BitVec 1) : List CopyOp := d.engines[e.toNat]
def Die.setEngine (d : Die) (e : BitVec 1) (q : List CopyOp) : Die := { d with engines := d.engines.set e.toNat q }

/-- Copies of a tile queued or running on an engine (R94, R96). -/
def Die.queued (d : Die) (e : BitVec 1) (t : BitVec 6) : Nat := (d.engine e).countP fun o => o.tile == some t

def Tile.copy (t : Tile) (e : BitVec 1) : CopyState := t.copies[e.toNat]
def Tile.setCopy (t : Tile) (e : BitVec 1) (c : CopyState) : Tile := { t with copies := t.copies.set e.toNat c }

/-- cp.go (R76, R94); it stalls until its engine is ready (R409). -/
def execCpGo (d a : BitVec 5) (e : BitVec 1) (s : State) : Out :=
  .next (s.withRecord (s.g a) CopyRecord.fieldsOk fun (r : CopyRecord) => do
    let t := s.curTile
    let pins ← s.copyPins t (s.root t) r
    if !s.engReady (2 * (tileDie t).toNat + e.toNat) ∨ (s.die (tileDie t)).queued e t ≥ 16 then .error .stall
    else do
      need (decide ((pageKeys ((s.tile t).pins ++ pins.1)).length ≤ pinLimit)) causePinlim
      let op : CopyOp :=
        { id := s.nextOp, tile := some t, node := (s.tile t).node, record := r, pins := pins.1, lw := pins.2, running := false, denied := none
          performed := none, told := false }
      let c := (s.tile t).copy e
      let s1 := s.onDie (tileDie t) fun x => x.setEngine e (x.engine e ++ [op])
      let s2 := s1.onTile t fun u =>
        { u.setCopy e { c with seq := c.seq + 1 } with opPins := u.opPins ++ pins.1.map fun p => { op := s.nextOp, pin := p } }
      return { s2 with nextOp := s.nextOp + 1 }.setG d (c.seq.setWidth 64))

/-- cp.status (R96). -/
def execCpStatus (d : BitVec 5) (e : BitVec 1) (s : State) : Out :=
  .next (let t := s.curTile
    let c := (s.tile t).copy e
    let v := b2n c.err * 2 ^ 63 + (s.die (tileDie t)).queued e t * 2 ^ 32 + c.done.toNat
    ((s.onTile t fun u => u.setCopy e { c with err := false }).setG d (BitVec.ofNat 64 v)).cDone)

/-- The engine begins its oldest copy (R95). -/
def execCopyStart (d : BitVec 2) (e : BitVec 1) (s : State) : Out :=
  .next (s.onDie d fun x => x.setEngine e (match x.engine e with
    | [] => []
    | o :: r => { o with running := true } :: r))

/-- What a copy has done so far: the state, its arrivals and whether any piece was in error. -/
structure CopyRun where
  st : State
  arrivals : List (Nat × Bool × Nat)
  err : Bool

/-- A tag failure met by an engine ends the submitting node without rollback (R399). -/
def State.engineIntegrity (s : State) (tile : Option (BitVec 6)) (node : W32) : State :=
  match tile with
  | some t => s.onTile t fun u => u.takeTrap { TrapRecord.none with cause := causeIntegrity, addr := BitVec.ofNat 32 u.control.pc.toNat }
  | none => s.onNode node fun n => { n with cause := if n.cause = 0 then causeIntegrity else n.cause }

/-- The bytes an engine reads. An error found here or at another home is logged where it is consumed; a failed tag ends the submitting
node (R398, R399). -/
def State.engineRead (s : State) (d : BitVec 2) (who : Asker) (tile : Option (BitVec 6)) (node : W32) (pins : List Held) (va n : Nat) :
    Res (State × Fetched) :=
  match s.readPins d who pins va n with
  | .error (.integrity pa) =>
    .ok ((s.logError (some node) causeIntegrity (.integrity pa)).engineIntegrity tile node, Fetched.refused n)
  | .error (.trap _ _) => .ok (s.engineIntegrity tile node, Fetched.refused n)
  | .error e => .error e
  | .ok f => .ok (f.notes.eraseDups.foldl (fun s b => s.logError (some node) 0 b) s, f)

/-- The writer that a copy is (R370). -/
def CopyOp.writer (o : CopyOp) : Writer := { node := some o.node, tile := o.tile }

/-- One piece of a row, inside one destination line (R95, R366). A quarantined frame is not written, which the arrival says (R400). -/
def CopyRun.piece (c : CopyRun) (d : BitVec 2) (o : CopyOp) (src dst n : Nat) : Res CopyRun := do
  let r ← c.st.engineRead d (.operation o.id) o.tile o.node o.pins src n
  let place := match pinPa o.pins (dst % 2 ^ 57) with | some (_, gpa) => gpa | none => 0
  let unwritten (s : State) : CopyRun := { st := s, arrivals := c.arrivals ++ [(n, true, place)], err := true }
  match r.1.writePins o.writer d (.operation o.id) o.pins dst r.2.bytes r.2.bad with
  | .ok s' => return { st := s', arrivals := c.arrivals ++ [(n, !r.2.bad.isEmpty, place)], err := c.err || !r.2.bad.isEmpty }
  | .error (.denied pa) =>
    if r.1.overdue o.denied then return unwritten (r.1.logError (some o.node) 0 (.denied pa)) else .error (.denied pa)
  | .error (.trap _ _) => return unwritten r.1
  | .error e => .error e

/-- Every byte of the box, row by row (R95). -/
def State.runCopy (s : State) (d : BitVec 2) (o : CopyOp) : Res CopyRun :=
  let r : CopyRecord := o.record
  ((CopyRecord.sources r).zip (CopyRecord.destinations r)).foldlM (init := ⟨s, [], false⟩) fun c e =>
    (pieces (CopyRecord.xlen r / 128 + 2) e.2.1 (CopyRecord.xlen r)).foldlM (init := c) fun c p =>
      c.piece d o (e.1.1 + (p.1 - e.2.1)) p.1 p.2

/-- The pins of an operation end (R257). -/
def State.endPins (s : State) (t : BitVec 6) (op : Nat) : State :=
  (s.onTile t fun u => { u with opPins := u.opPins.filter fun p => p.op != op }).shootCheck

/-- The completion of a copy: the raise as a release, then the tile's counts (R95, R96). A copy node of the pool completes with
it (R291), with POISON where the copy itself ended in error (DESIGN CHOICE, log 88). -/
def State.endCopy (s : State) (d : BitVec 2) (e : BitVec 1) (o : CopyOp) (err : Bool) : State :=
  let r : CopyRecord := o.record
  let s2 := (s.onDie d fun x => x.setEngine e ((x.engine e).filter fun y => y.id != o.id)).dropAnswers (.operation o.id)
  match o.tile with
  | some t =>
    let s3 := s2.onTile t fun u =>
      let k := u.copy e
      u.setCopy e { k with done := k.done + 1, err := k.err || err }
    (s3.raiseSem e.toNat t (CopyRecord.sem r) (CopyRecord.scnt r) err).endPins t o.id
  | none => s2.onNode o.node fun n =>
      { n with op := none, hostDone := true, cause := if n.cause = 0 && err then causePoison else n.cause }

/-- A write of an operation at another package that was not performed, on the bytes at a place (R95, R366). -/
def State.writeFailed (s : State) (who : Asker) (gpa n : Nat) : Bool :=
  s.fabric.answers.any fun a => a.who == who && a.kind == .write && a.err && overlap (a.addr, a.size) (gpa, n)

/-- A copy whose bytes have been performed at the destination delivers them to its landing word, and ends once no access of it
at another package is unfinished (R95). -/
def State.finishCopy (s : State) (d : BitVec 2) (e : BitVec 1) (o : CopyOp) : State :=
  let who : Asker := .operation o.id
  match o.performed with
  | none => s
  | some (arrivals, err) =>
    if s.asking who then s
    else
      let s1 := if o.told then s else match o.lw with
        | some gpa => arrivals.foldl (fun (s : State) (a : Nat × Bool × Nat) =>
            s.arriveAt o.writer d who e.toNat gpa a.1 (a.2.1 || s.writeFailed who a.2.2 a.1)) s
        | none => s
      if s1.asking who || (o.lw.any fun gpa => s1.arrivalWaits o.tile gpa) then
        s1.onDie d fun x => x.setEngine e ((x.engine e).map fun y => if y.id = o.id then { y with told := true } else y)
      else s1.endCopy d e o (err || s1.fabric.answers.any fun a => a.who == who && a.err)

/-- The oldest copy of an engine performs its bytes and completes (R95). -/
def execCopyComplete (d : BitVec 2) (e : BitVec 1) (s : State) : Out :=
  .next (match (s.die d).engine e with
    | [] => s
    | o :: r =>
      if !o.running then s
      else if o.performed.isSome then s.finishCopy d e o
      else match s.runCopy d o with
        | .ok c =>
          let o' := { o with performed := some (c.arrivals, c.err) }
          (c.st.onDie d fun x => x.setEngine e (o' :: r)).finishCopy d e o'
        | .error (.away gpa n k) => s.ask d (.operation o.id) .read gpa n k [BitVec.ofNat 8 n]
        | .error (.denied _) => s.onDie d fun x => x.setEngine e ({ o with denied := s.waits o.denied } :: r)
        | .error _ => s)

/-- An arrival at a landing word of this package from a remote write or delivery (R81, R417). -/
def execLandingWordArrival (a : BitVec 58) (n : W32) (e : Bool) (s : State) : Out :=
  .next (if s.ownPkg a.toNat ∧ a.toNat % 16 = 0 then s.arrive 3 (localOf a.toNat) n.toNat e else s)

end Sys2Proof.Machine
end

