-- ==== Sys2Proof/Machine/Routing.lean ====
section
/-!
DEFINITION. Sys2Proof/Machine/Routing.lean: the routing engines: the rt commands (R97, R98), send lists and route
headers (R316, R331 to R333), receive buffers (R334), acknowledgement and bounces (R335), re-sending (R336).
-/

namespace Sys2Proof.Machine

/-! ## Send-list entries and headers (R331, R333) -/

abbrev Entry := BitVec 128

def Entry.token (e : Entry) : Nat := bits e.toNat 31 0
def Entry.first (e : Entry) : Nat := bits e.toNat 47 32
def Entry.second (e : Entry) : Nat := bits e.toNat 63 48
def Entry.gate1 (e : Entry) : Nat := bits e.toNat 79 64
def Entry.gate2 (e : Entry) : Nat := bits e.toNat 95 80
def Entry.nosec (e : Entry) : Bool := bits e.toNat 96 96 == 1
/-- R331: UND and the reserved bits are zero in a send list, experts are at most 4,095. -/
def Entry.ok (e : Entry) : Bool :=
  bits e.toNat 127 97 == 0 && decide (e.first ≤ 4095) && (e.nosec || decide (e.second ≤ 4095))

def routeHeader (len token gate choice expert sdie spkg phase seq : Nat) : BitVec 256 :=
  BitVec.ofNat 256 (len * 2 ^ 128 + token * 2 ^ 96 + gate * 2 ^ 80 + choice * 2 ^ 79 + expert * 2 ^ 64 + sdie * 2 ^ 58 +
    spkg * 2 ^ 48 + phase * 2 ^ 32 + seq)

/-! ## Command blocks (R97) -/

abbrev Block := Vector W64 8
def Block.word (b : Block) (j : Nat) : Nat := (b[j]?.getD 0).toNat
def Block.restZero (b : Block) (j : Nat) : Bool := (upto 8).all fun i => decide (i < j) || b.word i == 0

-- rt.open
def Block.expert (b : Block) : Nat := bits (b.word 2) 11 0
def Block.cap (b : Block) : Nat := bits (b.word 2) 28 16
def Block.slotu (b : Block) : Nat := bits (b.word 2) 39 32
def Block.openPhase (b : Block) : Nat := bits (b.word 2) 63 48
def Block.openOk (b : Block) : Bool :=
  b.restZero 3 && bits (b.word 2) 15 12 == 0 && bits (b.word 2) 31 29 == 0 && bits (b.word 2) 47 40 == 0 &&
  b.word 0 % 128 == 0 && b.word 1 % 16 == 0 && decide (1 ≤ b.cap) && decide (b.cap ≤ 4096) &&
  decide (1 ≤ b.slotu) && decide (b.slotu ≤ 129)

-- rt.send
def Block.list (b : Block) : Nat := b.word 0
def Block.pay (b : Block) : Nat := b.word 1
def Block.ovf (b : Block) : Nat := b.word 2
def Block.count (b : Block) : Nat := bits (b.word 3) 15 0
def Block.pitchu (b : Block) : Nat := bits (b.word 3) 31 16
def Block.len (b : Block) : Nat := bits (b.word 3) 47 32
def Block.sendPhase (b : Block) : Nat := bits (b.word 3) 63 48
def Block.sem (b : Block) : BitVec 6 := BitVec.ofNat 6 (bits (b.word 4) 5 0)
def Block.scnt (b : Block) : Nat := bits (b.word 4) 15 6
def Block.sendOk (b : Block) : Bool :=
  b.restZero 5 && bits (b.word 4) 63 16 == 0 && b.list % 16 == 0 && b.ovf % 16 == 0 && decide (1 ≤ b.count) &&
  decide (b.count ≤ 16384) && decide (1 ≤ b.len) && decide (b.len ≤ 16384) && decide (b.len ≤ b.pitchu * 128)
def Block.payload (b : Block) (token : Nat) : Nat := b.pay + token * b.pitchu * 128

-- rt.route
def Block.routeOk (b : Block) : Bool := b.restZero 1 && bits (b.word 0) 31 31 == 0 && bits (b.word 0) 63 50 == 0
def Block.route (b : Block) : Route :=
  { pkg := BitVec.ofNat 10 (bits (b.word 0) 21 12), die := BitVec.ofNat 2 (bits (b.word 0) 23 22),
    handle := BitVec.ofNat 6 (bits (b.word 0) 29 24), standby := bits (b.word 0) 30 30 == 1,
    spkg := BitVec.ofNat 10 (bits (b.word 0) 41 32), sdie := BitVec.ofNat 2 (bits (b.word 0) 43 42),
    shandle := BitVec.ofNat 6 (bits (b.word 0) 49 44) }

-- rt.stat, rt.close
def Block.handleOk (b : Block) : Bool :=
  b.restZero 1 && bits (b.word 0) 7 6 == 0 && bits (b.word 0) 63 9 == 0
def Block.handle (b : Block) : BitVec 6 := BitVec.ofNat 6 (bits (b.word 0) 5 0)
def Block.receive (b : Block) : Bool := bits (b.word 0) 8 8 == 1

/-- STATUS codes of R97. -/
def rtFull : Nat := 1
def rtBadarg : Nat := 2
def rtNoroute : Nat := 3
def rtClosed : Nat := 4

/-- gd of an rt command. -/
def rtValue (status value : Nat) : W64 := BitVec.ofNat 64 (value % 2 ^ 32 * 2 ^ 32 + status)

/-- Pages newly pinned by an operation of the tile, within the limit of R89. -/
def State.pinOk (s : State) (t : BitVec 6) (pins : List Held) : Res Unit :=
  need (decide ((pageKeys ((s.tile t).pins ++ pins)).length ≤ pinLimit)) causePinlim

def State.addPins (s : State) (t : BitVec 6) (op : Nat) (pins : List Held) : State :=
  s.onTile t fun u => { u with opPins := u.opPins ++ pins.map fun p => { op := op, pin := p } }

/-- A landing word's address that translates outside every tile store (R97, step 2). One without a translation is left to step 4. -/
def State.lwaMisplaced (s : State) (root lwa : Nat) : Bool :=
  lwa != 0 && canonical (BitVec.ofNat 64 lwa) &&
  (match s.walk root (lwa % 2 ^ 57) with
    | .ok page => !inTileStore (leafPa (lwa % 2 ^ 57) page)
    | .error _ => false)

def Die.recv (d : Die) (h : BitVec 6) : RecvHandle := d.recvs[h.toNat]
def Die.setRecv (d : Die) (h : BitVec 6) (x : RecvHandle) : Die := { d with recvs := d.recvs.set h.toNat x }
def Die.sending (d : Die) (h : BitVec 4) : Option SendHandle := d.sends[h.toNat]
def Die.setSend (d : Die) (h : BitVec 4) (x : Option SendHandle) : Die := { d with sends := d.sends.set h.toNat x }

/-- The lowest free receive and send handle of a die (R98). -/
def Die.freeRecv (d : Die) : Option Nat := (upto 64).find? fun h => !(d.recv (BitVec.ofNat 6 h)).opened
def Die.freeSend (d : Die) : Option Nat := (upto 16).find? fun h => (d.sending (BitVec.ofNat 4 h)).isNone

/-- What step 6 of R97 finds free; nothing while the die's routing engine is not ready, so that the status is FULL (R409). -/
def State.whenRouting {α : Type} (s : State) (d : BitVec 2) (x : Option α) : Option α := if s.engReady (8 + d.toNat) then x else none

/-- A result of an rt command: the state after it, its status and its value. -/
abbrev RtOut := State × Nat × Nat

/-- rt.open (R97, R98, R334). -/
def State.rtOpen (s : State) (b : Block) : Res RtOut := do
  let t := s.curTile
  let d := tileDie t
  if !b.openOk || s.lwaMisplaced (s.root t) (b.word 1) then return (s, rtBadarg, 0)
  else do
    let p1 ← s.pinRanges t (s.root t) .write [(b.word 0, b.cap * b.slotu * 128)] []
    let pins ← if b.word 1 = 0 then .ok p1 else s.pinRanges t (s.root t) .write [(b.word 1, 16)] p1
    s.pinOk t pins
    match s.whenRouting d (s.die d).freeRecv with
    | none => return (s, rtFull, 0)
    | some h =>
      if (upto 64).any fun k =>
          let r := (s.die d).recv (BitVec.ofNat 6 k)
          r.opened && r.expert.toNat == b.expert && r.phase.toNat == b.openPhase then return (s, rtBadarg, 0)
      else
        let old := (s.die d).recv (BitVec.ofNat 6 h)
        let keeps := old.phase.toNat = b.openPhase ∧ old.slotu ≠ 0
        let x : RecvHandle :=
          { opened := true, id := if keeps then old.id else s.nextOp, tile := t, node := (s.tile t).node, buf := b[0], lwa := b[1]
            expert := BitVec.ofNat 12 b.expert, cap := b.cap, slotu := b.slotu, phase := BitVec.ofNat 16 b.openPhase
            pins := pins, accept := 0, dup := 0, refused := 0, bytes := 0
            sources := if keeps then old.sources else [] }
        let s1 := ((s.onDie d fun y => y.setRecv (BitVec.ofNat 6 h) x).addPins t x.id pins).dropAnswers (.operation x.id)
        return ({ s1 with nextOp := s.nextOp + 1 }, 0, h)

/-- The entries of a send list, read through its pins. -/
def State.readEntries (s : State) (d : BitVec 2) (who : Asker) (pins : List Held) (b : Block) : Res (List Entry) :=
  (upto b.count).mapM fun i => do
    let r ← s.readPins d who pins (b.list + 16 * i) 16
    match r.notes, r.bad with
    | e :: _, _ => .error e
    | [], _ :: _ => .error (.trap causePerm (BitVec.ofNat 64 (b.list + 16 * i)))
    | [], [] => return BitVec.ofNat 128 (leNat r.bytes)

def Die.routeOf (d : Die) (expert : Nat) : Option Route := tget d.routes expert
/-- FIRST, and SECOND unless NOSEC, have route entries (R332). -/
def Die.routed (d : Die) (e : Entry) : Bool := (d.routeOf e.first).isSome && (e.nosec || (d.routeOf e.second).isSome)

/-- A send handle made from a command block, or the status that refuses it (R97, R98, R332): for a tile, or for
a routing node of the pool (R291). -/
def State.makeSend (s : State) (t : BitVec 6) (root : Nat) (d : BitVec 2) (tile : Option (BitVec 6)) (node : W32) (who : Asker) (b : Block) :
    Res RtOut := do
  if !b.sendOk then return (s, rtBadarg, 0)
  else do
    let p1 ← s.pinRanges t root .read [(b.list, 16 * b.count)] []
    let es ← s.readEntries d who p1 b
    if !es.all Entry.ok then return (s, rtBadarg, 0)
    else if !es.all (s.die d).routed then return (s, rtNoroute, 0)
    else do
      let p2 ← s.pinRanges t root .read (es.map fun e => (b.payload (Entry.token e), b.len)) p1
      let pins ← s.pinRanges t root .write [(b.ovf, 16 * b.count)] p2
      match tile with
      | some t => s.pinOk t pins
      | none => .ok ()
      match s.whenRouting d (s.die d).freeSend with
      | none => return (s, rtFull, 0)
      | some h =>
        let tokens : List Token := es.zipIdx.map fun e =>
          { idx := e.2, entry := e.1, state := .unformed, second := false, seq := 0, pkg := 0, die := 0, handle := 0 }
        let x : SendHandle :=
          { id := s.nextOp, tile := tile, node := node, block := b, pins := pins, tokens := tokens, rerouted := [], listing := [], resend := [], denied := none,
            deliv := 0, bounce := 0, overs := 0, resent := 0, raised := false }
        let s1 := s.onDie d fun y => y.setSend (BitVec.ofNat 4 h) (some x)
        let s2 := match tile with | some t => s1.addPins t s.nextOp pins | none => s1
        return ({ s2 with nextOp := s.nextOp + 1 }, 0, h)

/-- UNACK of a send: its tokens that are neither acknowledged nor resolved (R98, R335). -/
def SendHandle.unack (x : SendHandle) : Nat := x.tokens.countP fun k => decide (k.state ≠ .acked ∧ k.state ≠ .listing ∧ k.state ≠ .overflow)

/-- The counts that rt.stat writes (R98). -/
def State.rtStat (s : State) (d : BitVec 2) (b : Block) : Option (List Nat) :=
  if b.receive then
    let r := (s.die d).recv b.handle
    if r.opened then some [r.accept, r.dup, r.refused, r.bytes] else none
  else if b.handle.toNat < 16 then match (s.die d).sending (b.handle.setWidth 4) with
    | some x => some [x.deliv, x.bounce, x.overs, x.unack, x.resent]
    | none => none
  else none

/-- The block of a command: one load; rt.stat's page must also allow writing (R97). -/
def State.rtBlock (s : State) (write : Bool) (ea : W64) : Res (Block × Leaf × Nat) := do
  let r ← s.cReach .read ea 64
  if write then let _ ← s.cReach .write ea 64
  let bs ← s.readWhole s.cAsker r.1 .newest r.2 64 ea
  return (Vector.ofFn fun j => BitVec.ofNat 64 (leNat ((bs.drop (8 * j.val)).take 8)), r.1, r.2)

/-- An rt command: faults as R10, statuses in gd with no other change (R97). -/
def State.rtCommand (s : State) (d a : BitVec 5) (write : Bool) (f : Block → Leaf → Nat → Res RtOut) : State :=
  s.cRunAt (s.g a) do
    let b ← s.rtBlock write (s.g a)
    let r ← f b.1 b.2.1 b.2.2
    return (if r.2.1 = 0 then r.1 else s).setG d (rtValue r.2.1 r.2.2)

def execRtOpen (d a : BitVec 5) (s : State) : Out := .next (s.rtCommand d a false fun b _ _ => s.rtOpen b)

def execRtSend (d a : BitVec 5) (s : State) : Out :=
  .next (s.rtCommand d a false fun b _ _ =>
    s.makeSend s.curTile (s.root s.curTile) (tileDie s.curTile) (some s.curTile) (s.tile s.curTile).node s.cAsker b)

def execRtRoute (d a : BitVec 5) (s : State) : Out :=
  .next (s.rtCommand d a false fun b _ _ =>
    if !b.routeOk then .ok (s, rtBadarg, 0)
    else if (s.whenRouting (tileDie s.curTile) (some ())).isNone then .ok (s, rtFull, 0)
    else .ok (s.onDie (tileDie s.curTile) fun y => { y with routes := tput y.routes (bits (b.word 0) 11 0) b.route }, 0, 0))

def execRtStat (d a : BitVec 5) (s : State) : Out :=
  .next (s.rtCommand d a true fun b leaf gpa =>
    if !b.handleOk then .ok (s, rtBadarg, 0)
    else match s.rtStat (tileDie s.curTile) b with
      | none => .ok (s, rtClosed, 0)
      | some vs => if (s.whenRouting (tileDie s.curTile) (some ())).isNone then .ok (s, rtFull, 0) else do
        let s1 ← s.writeAny s.curWriter (tileDie s.curTile) s.cAsker leaf (gpa + 8) (vs.flatMap fun v => leBytes 8 v)
        return (s1, 0, 0))

/-! ## Receive buffers (R316, R333, R334) -/

def Source.has (x : Source) (m : BitVec 256) (seq : Nat) : Bool :=
  decide (x.base ≤ seq) && decide (seq < x.base + 256) && m.getLsbD (seq % 256)

/-- The base advances past every number whose acceptance or refusal bit is set (R334). -/
def Source.advance : Nat → Source → Source
  | 0, x => x
  | n + 1, x =>
    let k := x.base % 256
    if x.accepted.getLsbD k || x.refused.getLsbD k then
      Source.advance n { x with base := x.base + 1, accepted := x.accepted &&& ~~~ BitVec.twoPow 256 k,
                                refused := x.refused &&& ~~~ BitVec.twoPow 256 k }
    else x

def Source.accept (x : Source) (seq : Nat) : Source :=
  Source.advance 256 { x with accepted := x.accepted ||| BitVec.twoPow 256 (seq % 256), since := x.since + 1 }
def Source.refuse (x : Source) (seq : Nat) : Source :=
  Source.advance 256 { x with refused := x.refused ||| BitVec.twoPow 256 (seq % 256) }

def RecvHandle.source (r : RecvHandle) (phase : BitVec 16) (pkg : BitVec 10) (die : BitVec 2) : Source :=
  (r.sources.find? fun x => x.phase == phase && x.pkg == pkg && x.die == die).getD
    { phase := phase, pkg := pkg, die := die, base := 0, accepted := 0, refused := 0, since := 0 }
def RecvHandle.setSource (r : RecvHandle) (x : Source) : RecvHandle :=
  { r with sources := (r.sources.filter fun y => !(y.phase == x.phase && y.pkg == x.pkg && y.die == x.die)) ++ [x] }

/-- What a receive handle does with a header. -/
inductive Verdict where
  | accepted | refused | duplicate | waits | denied
deriving DecidableEq, Repr

structure HeaderFields where
  len : Nat
  expert : Nat
  die : BitVec 2
  pkg : BitVec 10
  phase : BitVec 16
  seq : Nat

def headerFields (r : BitVec 256) : HeaderFields :=
  { len := bits r.toNat 143 128, expert := bits r.toNat 75 64, die := BitVec.ofNat 2 (bits r.toNat 59 58),
    pkg := BitVec.ofNat 10 (bits r.toNat 57 48), phase := BitVec.ofNat 16 (bits r.toNat 47 32), seq := bits r.toNat 31 0 }

/-- The writes of an acceptance: header, payload, then one arrival of LEN + 32 bytes (R316), which says whether an error is in the payload or
a write was not performed (R81). -/
def State.writeSlot (s : State) (d : BitVec 2) (x : RecvHandle) (h : BitVec 256) (payload : List Byte) (bad : List (Nat × Nat)) : Res State := do
  let slot := x.buf.toNat + x.accept * x.slotu * 128
  let w : Writer := { node := some x.node, tile := some x.tile }
  let who : Asker := .operation x.id
  let s1 ← s.writePins w d who x.pins slot (leBytes 32 h.toNat) []
  let parts := pieces (payload.length / 128 + 2) (slot + 128) payload.length
  let s2 ← parts.foldlM (init := s1) fun s p =>
    let o := p.1 - (slot + 128)
    s.writePins w d who x.pins p.1 ((payload.drop o).take p.2) (cutRanges bad o p.2)
  let lost := ((slot, 32) :: parts).any fun p => (pinPa x.pins (p.1 % 2 ^ 57)).any fun q => s2.writeFailed who q.2 p.2
  return if x.lwa = 0 then s2 else match pinPa x.pins (x.lwa.toNat % 2 ^ 57) with
    | some (_, gpa) => s2.arriveAt w d who 2 gpa (payload.length + 32) (!bad.isEmpty || lost)
    | none => s2

/-- A header reaches a receive handle of a die (R334). A handle whose pins have ended with its context takes no more (R257; DEDUCED,
log 77), and one re-sent after rt.close bounces though it was accepted before (DESIGN CHOICE, log 88). `late`: it has waited for a version record up to the bound, and is refused (R366). -/
def State.receiveHeader (s : State) (d : BitVec 2) (h : BitVec 6) (hdr : BitVec 256) (payload : List Byte)
    (bad : List (Nat × Nat)) (late : Bool) : State × Verdict :=
  let x := (s.die d).recv h
  let f := headerFields hdr
  let src := x.source f.phase f.pkg f.die
  let keeps := x.slotu ≠ 0 ∧ x.phase = f.phase
  let opened := x.opened && !x.pins.isEmpty
  let store (s : State) (y : RecvHandle) : State := s.onDie d fun z => z.setRecv h y
  if keeps ∧ (f.seq < src.base ∨ src.has src.accepted f.seq) ∧ opened ∧ x.expert.toNat = f.expert then
    (store s { x with dup := x.dup + 1 }, .duplicate)
  else if !(opened && x.expert.toNat == f.expert && x.phase == f.phase) then
    if keeps ∧ !(decide (f.seq < src.base) || src.has src.accepted f.seq) then (store s (x.setSource (src.refuse f.seq)), .refused)
    else (s, .refused)
  else if src.has src.refused f.seq then (s, .refused)
  else
    let refuse : State × Verdict := (store s ({ x with refused := x.refused + 1 }.setSource (src.refuse f.seq)), .refused)
    if x.accept ≥ x.cap ∨ f.len + 128 > x.slotu * 128 then refuse
    else match s.writeSlot d x hdr payload bad with
      | .ok s1 =>
        (store s1 ({ x with accept := x.accept + 1, bytes := x.bytes + f.len + 32 }.setSource (src.accept f.seq)), .accepted)
      | .error .stall => (s, .waits)
      | .error (.denied pa) => if late then (refuse.1.logError (some x.node) 0 (.denied pa), .refused) else (s, .denied)
      | .error _ => refuse

/-! ## The sending engine (R316, R332, R335) -/

/-- The numbering of a pair in a phase; it starts at 0 (R316, R334). -/
def Die.pair (d : Die) (phase : BitVec 16) (pkg : BitVec 10) (die : BitVec 2) (h : BitVec 6) : Pair :=
  (d.pairs.find? fun p => p.phase == phase && p.pkg == pkg && p.die == die && p.handle == h).getD
    { phase := phase, pkg := pkg, die := die, handle := h, next := 0, base := 0 }

/-- Some send of a phase has not completed. -/
def Die.phaseBusy (d : Die) (phase : BitVec 16) : Bool :=
  d.sends.toList.any fun y => match y with | some y => Block.sendPhase y.block == phase.toNat && !y.raised | none => false

/-- The numbering continues for as long as the phase is the same (R334): a pair of another phase to the same buffer ends, unless a
send of its phase still goes on. -/
def Die.setPair (d : Die) (x : Pair) : Die :=
  { d with pairs := (d.pairs.filter fun p =>
      !(p.pkg == x.pkg && p.die == x.die && p.handle == x.handle && (p.phase == x.phase || !d.phaseBusy p.phase))) ++ [x] }

def SendHandle.onToken (x : SendHandle) (i : Nat) (f : Token → Token) : SendHandle :=
  { x with tokens := x.tokens.map fun k => if k.idx = i then f k else k }

def State.onSend (s : State) (d : BitVec 2) (h : BitVec 4) (f : SendHandle → SendHandle) : State :=
  s.onDie d fun y => y.setSend h ((y.sending h).map f)

/-- The failure of a die is logged: of this package, or of another as it has been told (R336). -/
def State.dieGone (s : State) (pkg : BitVec 10) (die : BitVec 2) : Bool :=
  if pkg = s.fabric.pkg then (s.die die).failed else s.fabric.lostDies.contains (pkg.toNat, die.toNat)

/-- Where a route leads: its standby once the die of the buffer has failed (R336). -/
def State.routeTarget (s : State) (r : Route) : BitVec 10 × BitVec 2 × BitVec 6 :=
  if s.dieGone r.pkg r.die ∧ r.standby then (r.spkg, r.sdie, r.shandle) else (r.pkg, r.die, r.handle)

/-- A token is finally resolved into the overflow list: its copy is to be written, with UND = 1 where it could be neither delivered nor
refused (R332, R335). -/
def State.overflowToken (s : State) (d : BitVec 2) (h : BitVec 4) (i : Nat) (entry : Entry) (und : Bool) : State :=
  let e : Entry := if und then entry ||| BitVec.twoPow 128 98 else entry
  s.onSend d h fun x => { x.onToken i fun k => { k with state := .listing } with listing := x.listing ++ [(i, e)] }

/-- The copies of a send are written in their order (R332), until one waits for storage (R251, R357) or for a version record (R366). One
that is denied up to the bound, or whose frame is quarantined (R400), is not written, and is counted (DESIGN CHOICE, log 77). -/
def State.writeListing (s : State) (d : BitVec 2) (x : SendHandle) : Nat → State × SendHandle
  | 0 => (s, x)
  | n + 1 =>
    match x.listing with
    | [] => (s, x)
    | (i, e) :: r =>
      let w : Writer := { node := some x.node, tile := x.tile }
      let y : SendHandle := { x.onToken i fun k => { k with state := .overflow } with overs := x.overs + 1, listing := r, denied := none }
      match s.writePins w d (.operation x.id) x.pins (Block.ovf x.block + 16 * x.overs) (leBytes 16 e.toNat) [] with
      | .ok s1 => s1.writeListing d y n
      | .error .stall => (s, x)
      | .error (.denied pa) =>
        if s.overdue x.denied then (s.logError (some x.node) 0 (.denied pa)).writeListing d y n
        else (s, { x with denied := s.waits x.denied })
      | .error _ => s.writeListing d y n

/-- Every entry of a send is acknowledged or stands in the overflow list, whose writes at other packages have been performed (R97, R317,
R335). -/
def State.sendDone (s : State) (x : SendHandle) : Bool := !x.raised && x.unack == 0 && x.listing.isEmpty && !s.asking (.operation x.id)

/-- The completion raise of a send (R97). -/
def State.sendRaise (s : State) (x : SendHandle) : State :=
  let s1 := s.dropAnswers (.operation x.id)
  match x.tile with
  | some t => (s1.raiseSem 2 t (Block.sem x.block) (Block.scnt x.block) false).endPins t x.id
  | none => s1.onNode x.node fun n => { n with op := none, hostDone := true }

/-- The completion of a send (R97, R317, R335). -/
def State.sendCheck (s0 : State) (d : BitVec 2) (h : BitVec 4) : State :=
  match (s0.die d).sending h with
  | none => s0
  | some x0 =>
    let r := s0.writeListing d x0 16385
    let x := r.2
    let s := r.1.onDie d fun y => y.setSend h (some x)
    if !s.sendDone x then s
    else
      let s1 := s.sendRaise { x with raised := true }
      s1.onDie d fun y => y.setSend h (if x.tile.isSome then some { x with raised := true } else none)

/-- Sends that were closed with no token unacknowledged, while entries of their overflow list were still to be written (R98, R332). -/
def State.closingCheck (s : State) (d : BitVec 2) : State :=
  (s.die d).closing.foldl (init := s.onDie d fun y => { y with closing := [] }) fun s x =>
    let r := s.writeListing d x 16385
    if r.1.sendDone r.2 then r.1.sendRaise r.2 else r.1.onDie d fun y => { y with closing := y.closing ++ [r.2] }

/-- A bounce (R335): a first choice goes to SECOND, otherwise the token goes to the overflow list. -/
def State.bounceToken (s : State) (d : BitVec 2) (h : BitVec 4) (i : Nat) : State :=
  match (s.die d).sending h with
  | none => s
  | some x =>
    match x.tokens.find? fun k => k.idx == i with
    | none => s
    | some k =>
      let s1 := s.onSend d h fun x => { x with bounce := x.bounce + 1 }
      if k.second || Entry.nosec k.entry then (s1.overflowToken d h i k.entry false).sendCheck d h
      else s1.onSend d h fun x => { x.onToken i fun k => { k with state := .bounced } with rerouted := x.rerouted ++ [i] }

/-- The tokens of a die that a header names by buffer, phase and sequence number. -/
def Die.tokensAt (d : Die) (pkg : BitVec 10) (die : BitVec 2) (handle : BitVec 6) (phase : Nat) (p : Nat → Bool) : List (BitVec 4 × Nat) :=
  (upto 16).flatMap fun h => match d.sending (BitVec.ofNat 4 h) with
    | none => []
    | some x =>
      if Block.sendPhase x.block = phase then
        (x.tokens.filter fun k => decide (k.state = .sent) && k.pkg == pkg && k.die == die && k.handle == handle && p k.seq.toNat).map
          fun k => (BitVec.ofNat 4 h, k.idx)
      else []

/-- A summary reaches the sending die (R335): covered tokens are acknowledged. -/
def State.takeSummary (s : State) (d : BitVec 2) (pkg : BitVec 10) (die : BitVec 2) (handle : BitVec 6) (phase base : Nat) (map : BitVec 256) : State :=
  let covered (seq : Nat) : Bool := decide (seq < base) || (decide (seq < base + 256) && map.getLsbD (seq % 256))
  let hits := (s.die d).tokensAt pkg die handle phase covered
  let s1 := s.onDie d fun y =>
    { y with pairs := y.pairs.map fun p =>
        if p.phase.toNat = phase ∧ p.pkg = pkg ∧ p.die = die ∧ p.handle = handle then { p with base := max p.base base } else p }
  let s2 := hits.foldl (fun s e => s.onSend d e.1 fun x => { x.onToken e.2 fun k => { k with state := .acked } with
    deliv := x.deliv + 1, resend := x.resend.filter (· != e.2) }) s1
  (hits.map (·.1)).eraseDups.foldl (fun s h => s.sendCheck d h) s2

/-- Send a summary of a source: base and acceptance map (R334). It follows the writes of the acceptances it covers and their arrivals,
so that it waits for those at other packages and at the port of the landing word's tile (R317, R417). -/
def State.sendSummary (s : State) (d : BitVec 2) (h : BitVec 6) (phase : BitVec 16) (pkg : BitVec 10) (die : BitVec 2) : State :=
  let x := (s.die d).recv h
  let src := x.source phase pkg die
  if s.asking (.operation x.id) || (x.lwa != 0 && (pinPa x.pins (x.lwa.toNat % 2 ^ 57)).any fun q => s.ownPkg q.2 && s.arrivalQueued (localOf q.2)) then s
  else
    let s1 := (s.onDie d fun y => y.setRecv h (x.setSource { src with since := 0 })).dropAnswers (.operation x.id)
    if pkg = s.fabric.pkg then s1.takeSummary die s.fabric.pkg d h phase.toNat src.base src.accepted
    else s1.send d pkg.toNat 0x11 (h.toNat * 4 + d.toNat) 0
      ([BitVec.ofNat 8 die.toNat] ++ leBytes 2 phase.toNat ++ leBytes 4 src.base ++ leBytes 32 src.accepted.toNat)

/-- A buffer of this package has judged a header from one of its own dies: the sender learns of a refusal, and a
duplicate sends a summary; 32 acceptances send one as well (R334). -/
def State.afterLocal (s : State) (d : BitVec 2) (h : BitVec 6) (hdr : BitVec 256) (v : Verdict) : State :=
  let f := headerFields hdr
  match v with
  | .refused =>
    ((s.die f.die).tokensAt s.fabric.pkg d h f.phase.toNat fun q => q == f.seq).foldl (fun s e => s.bounceToken f.die e.1 e.2) s
  | .duplicate => s.sendSummary d h f.phase f.pkg f.die
  | .accepted =>
    if (((s.die d).recv h).source f.phase f.pkg f.die).since ≥ 32 then s.sendSummary d h f.phase f.pkg f.die else s
  | .waits => s
  | .denied => s

/-- The ranges of a payload in error as they go with its message: offset and number, two bytes each (DESIGN CHOICE, log 3). -/
def rangeBytes (bad : List (Nat × Nat)) : List Byte := bad.flatMap fun e => leBytes 2 e.1 ++ leBytes 2 e.2
def bytesRanges : Nat → List Byte → List (Nat × Nat)
  | 0, _ => []
  | k + 1, bs => if bs.length < 4 then [] else (leNat (bs.take 2), leNat ((bs.drop 2).take 2)) :: bytesRanges k (bs.drop 4)

/-- A formed header with its payload goes to its buffer; the errors in the payload go with it (R316). A buffer of another node, or of
another package, makes the sender's interval unrollable (R371). None while a buffer of this package cannot take it; `late` as in
State.receiveHeader. -/
def State.dispatchHeader (s : State) (w : Writer) (d : BitVec 2) (pkg : BitVec 10) (die : BitVec 2) (h : BitVec 6) (hdr : BitVec 256) (payload : List Byte)
    (bad : List (Nat × Nat)) (late : Bool) : State × Verdict :=
  if pkg = s.fabric.pkg then
    let r := s.receiveHeader die h hdr payload bad late
    let s1 := if r.2 = .accepted ∧ some ((s.die die).recv h).node ≠ w.node then r.1.spoil w else r.1
    (s1.afterLocal die h hdr r.2, r.2)
  else ((s.spoil w).send d pkg.toNat 0x10 (h.toNat * 4 + die.toNat) 0 (leBytes 32 hdr.toNat ++ payload ++ rangeBytes bad), .accepted)

/-- The writer that a send is (R370). -/
def SendHandle.writer (x : SendHandle) : Writer := { node := some x.node, tile := x.tile }

/-- Tokens still to be re-sent in the flow of a buffer, with their sends (R328, R336). -/
def Die.resending (d : Die) (pkg : BitVec 10) (h : BitVec 6) : List Token :=
  d.sends.toList.flatMap fun y => match y with
    | none => []
    | some x => x.tokens.filter fun k => x.resend.contains k.idx && k.pkg == pkg && k.handle == h

/-- The numbering by which a header goes where a route leads: a standby continues that of the buffer it replaces (R336). -/
def State.routePair (s : State) (d : BitVec 2) (phase : BitVec 16) (r : Route) : Pair :=
  let t := s.routeTarget r
  let p := (s.die d).pair phase t.1 t.2.1 t.2.2
  if t = (r.pkg, r.die, r.handle) then p else { p with next := max p.next ((s.die d).pair phase r.pkg r.die r.handle).next }

/-- Tokens that stood unacknowledged at a buffer when its die failed, and are still to go to the standby (R336). -/
def State.stranded (s : State) (d : BitVec 2) (r : Route) : Bool :=
  s.dieGone r.pkg r.die && (s.die d).sends.toList.any fun y => match y with
    | none => false
    | some x => x.tokens.any fun k => decide (k.state = .sent) && k.pkg == r.pkg && k.die == r.die && k.handle == r.handle

/-- No header of a send may be formed along a route now: its number would reach the last base learned from the buffer plus 256 (R335), or
tokens of the flow are still to be re-sent (R336). -/
def State.bufferHeld (s : State) (d : BitVec 2) (x : SendHandle) (r : Route) : Bool :=
  let t := s.routeTarget r
  let p := s.routePair d (BitVec.ofNat 16 (Block.sendPhase x.block)) r
  decide (p.base + 256 ≤ p.next) || !((s.die d).resending t.1 t.2.2).isEmpty || s.stranded d r

/-- The token whose header is formed next: bounced first choices in the order their bounces returned, then entries
in order; headers for a held buffer delay no others (R316, R335). That a bounced token comes before the list is the model's order
(DESIGN CHOICE, log 88). -/
def State.nextToken (s : State) (d : BitVec 2) (x : SendHandle) : Option (Nat × Bool) :=
  let held (i : Nat) (second : Bool) : Bool :=
    match x.tokens.find? fun k => k.idx == i with
    | none => true
    | some k => match (s.die d).routeOf (if second then Entry.second k.entry else Entry.first k.entry) with
      | none => false
      | some r => s.bufferHeld d x r
  match x.rerouted.find? fun i => !held i true with
  | some i => some (i, true)
  | none => ((x.tokens.filter fun k => decide (k.state = .unformed)).find? fun k => !held k.idx false).map fun k => (k.idx, false)

/-- The header of one token is formed: its entry is read and checked again (R332, R333). -/
def State.formHeader (s : State) (d : BitVec 2) (h : BitVec 4) (x : SendHandle) (i : Nat) (second : Bool) : State :=
  let b : Block := x.block
  let who : Asker := .operation x.id
  match s.engineRead d who x.tile x.node x.pins (b.list + 16 * i) 16 with
  | .error (.away gpa n k) => s.ask d who .read gpa n k [BitVec.ofNat 8 n]
  | .error _ => s
  | .ok (s1, got) =>
    let e : Entry := BitVec.ofNat 128 (leNat got.bytes)
    let s2 := s1.onSend d h fun x => { x with rerouted := x.rerouted.filter (· != i) }
    let und : State := ((s2.dropReads who).overflowToken d h i e true).sendCheck d h
    let row := (b.payload e.token) % 2 ^ 64
    if !got.bad.isEmpty || !e.ok || !(s.die d).routed e || (second && e.nosec) || (pinned x.pins (row % 2 ^ 57)).isNone || (pinned x.pins ((row + b.len - 1) % 2 ^ 57)).isNone then und
    else match (s.die d).routeOf (if second then e.second else e.first) with
      | none => und
      | some r =>
        let t := s.routeTarget r
        if s.bufferHeld d x r then s.onSend d h fun x => x.onToken i fun k => { k with entry := e }
        else match s2.engineRead d who x.tile x.node x.pins row b.len with
        | .error (.away gpa n k) => s.ask d who .read gpa n k [BitVec.ofNat 8 n]
        | .error _ => s
        | .ok (s3, pay) =>
          let p := s3.routePair d (BitVec.ofNat 16 b.sendPhase) r
          let hdr := routeHeader b.len e.token (if second then e.gate2 else e.gate1) (b2n second) (if second then e.second else e.first)
            d.toNat s.fabric.pkg.toNat b.sendPhase p.next
          let s4 := (s3.onDie d fun y => y.setPair { p with next := p.next + 1 }).onSend d h fun x =>
            { x.onToken i fun k => { k with entry := e, state := .sent, second := second, seq := BitVec.ofNat 32 p.next,
                                            pkg := t.1, die := t.2.1, handle := t.2.2 } with denied := none }
          let out := (s4.dropReads who).dispatchHeader x.writer d t.1 t.2.1 t.2.2 hdr pay.bytes pay.bad (s.overdue x.denied)
          match out.2 with
          | .waits => s
          | .denied => s.onSend d h fun x => { x with denied := s.waits x.denied }
          | _ => out.1

/-- The engine forms and sends the next header of a send (R316). -/
def execRtHeaderForm (d : BitVec 2) (h : BitVec 4) (s : State) : Out :=
  .next (let s := if (s.die d).closing.isEmpty then s else s.closingCheck d
    match (s.die d).sending h with
    | none => s
    | some x => match s.nextToken d x with
      | none => s.sendCheck d h
      | some (i, second) => s.formHeader d h x i second)

/-- A route header and payload arrive from another package, with the ranges in error behind it (R316, R334). -/
def execRouteHeader (p : BitVec 4) (m : BitVec 128) (d : BitVec 2) (h : BitVec 6) (r : BitVec 256) (q : List Byte) (s : State) : Out :=
  .next (s.arriving p m 0x10 (leBytes 32 r.toNat ++ q) fun s =>
      let f := headerFields r
      let here : Instr := .routeHeader p m d h r q
      if s.behind here m then s.hold here else
      let out := s.receiveHeader d h r (q.take f.len) (bytesRanges q.length (q.drop f.len)) (s.late here)
      let s1 := out.1.unawait here
      match out.2 with
      | .waits => s.hold here
      | .denied => s.await here
      | .refused => s1.send d f.pkg.toNat 0x12 (h.toNat * 4 + d.toNat) 0 ([BitVec.ofNat 8 f.die.toNat] ++ leBytes 32 r.toNat)
      | .duplicate => s1.sendSummary d h f.phase f.pkg f.die
      | .accepted =>
        if (((s1.die d).recv h).source f.phase f.pkg f.die).since ≥ 32 then s1.sendSummary d h f.phase f.pkg f.die else s1)

/-- A buffer sends its summary for a source: k is the source's package × 4 + die (R334). -/
def execSummarySend (d : BitVec 2) (h : BitVec 6) (f : BitVec 16) (k : BitVec 12) (s : State) : Out :=
  .next (s.sendSummary d h f (BitVec.ofNat 10 (k.toNat / 4)) (BitVec.ofNat 2 k.toNat))

/-- A summary arrives from another package, for die d (R335). -/
def execSummary (p : BitVec 4) (m : BitVec 128) (d : BitVec 2) (h : BitVec 6) (f : BitVec 16) (b : W32) (q : BitVec 256) (s : State) : Out :=
  .next (s.arriving p m 0x11 ([d.setWidth 8] ++ leBytes 2 f.toNat ++ leBytes 4 b.toNat ++ leBytes 32 q.toNat) fun s =>
    s.takeSummary d (BitVec.ofNat 10 (headerSpkg m)) (BitVec.ofNat 2 (headerSdie m)) h f.toNat b.toNat q)

/-- A bounce arrives from another package, for die d (R335). -/
def execBounce (p : BitVec 4) (m : BitVec 128) (d : BitVec 2) (h : BitVec 6) (r : BitVec 256) (s : State) : Out :=
  .next (s.arriving p m 0x12 ([d.setWidth 8] ++ leBytes 32 r.toNat) fun s =>
      let f := headerFields r
      ((s.die d).tokensAt (BitVec.ofNat 10 (headerSpkg m)) (BitVec.ofNat 2 (headerSdie m)) h f.phase.toNat fun q => q == f.seq).foldl
        (fun s e => s.bounceToken d e.1 e.2) s)

/-! ## Re-sending (R336) -/

/-- Tokens in ascending SEQ. -/
def insertToken (k : Token) : List Token → List Token
  | [] => [k]
  | j :: r => if k.seq < j.seq then k :: j :: r else j :: insertToken k r
def SendHandle.sentTokens (x : SendHandle) : List Token :=
  (x.tokens.filter fun k => decide (k.state = .sent)).foldl (fun l k => insertToken k l) []

/-- The unacknowledged tokens of a send whose flow has changed are to be re-sent. -/
def State.resendFlows (s : State) (d : BitVec 2) (h : BitVec 4) (hit : Nat → Nat → Bool) : State :=
  s.onSend d h fun x =>
    { x with resend := (x.sentTokens.filter fun k => x.resend.contains k.idx || (k.pkg != s.fabric.pkg && hit k.pkg.toNat k.handle.toNat)).map (·.idx) }

/-- One unacknowledged token re-sent with its own phase, SEQ, CHOICE and GATE, after every token of its flow with a lower number. -/
def State.resendToken (s : State) (d : BitVec 2) (h : BitVec 4) (i : Nat) : State :=
  match (s.die d).sending h with
  | none => s
  | some x =>
    match x.tokens.find? fun k => k.idx == i with
    | none => s
    | some k =>
      let b : Block := x.block
      let e : Entry := k.entry
      let who : Asker := .operation x.id
      let first := ((s.die d).resending k.pkg k.handle).all fun j => k.seq ≤ j.seq
      if !(x.resend.contains i && first) then s
      else match s.engineRead d who x.tile x.node x.pins (b.payload e.token % 2 ^ 64) b.len with
        | .error (.away gpa n a) => s.ask d who .read gpa n a [BitVec.ofNat 8 n]
        | .error _ => s
        | .ok (s1, pay) =>
          let hdr := routeHeader b.len e.token (if k.second then e.gate2 else e.gate1) (b2n k.second) (if k.second then e.second else e.first)
            d.toNat s.fabric.pkg.toNat b.sendPhase k.seq.toNat
          let s2 := s1.onSend d h fun x => { x with resent := x.resent + 1, resend := x.resend.filter (· != i), denied := none }
          let out := (s2.dropReads who).dispatchHeader x.writer d k.pkg k.die k.handle hdr pay.bytes pay.bad (s.overdue x.denied)
          match out.2 with
          | .waits => s
          | .denied => s.onSend d h fun x => { x with denied := s.waits x.denied }
          | _ => out.1

/-- After the failure of the die that holds its buffer a token moves to the standby with its numbers, or to the overflow list. -/
def State.failoverToken (s : State) (d : BitVec 2) (h : BitVec 4) (x : SendHandle) (k : Token) : State :=
  let expert := if k.second then Entry.second k.entry else Entry.first k.entry
  let und := (s.overflowToken d h k.idx k.entry true).sendCheck d h
  match (s.die d).routeOf expert with
  | some r =>
    if r.standby then
      let phase : BitVec 16 := BitVec.ofNat 16 (Block.sendPhase x.block)
      let old := (s.die d).pair phase k.pkg k.die k.handle
      let new := (s.die d).pair phase r.spkg r.sdie r.shandle
      (s.onDie d fun y => y.setPair { new with next := max new.next old.next }).onSend d h fun x =>
        { x.onToken k.idx fun k => { k with pkg := r.spkg, die := r.sdie, handle := r.shandle } with
          resend := x.resend.filter (· != k.idx) ++ [k.idx] }
    else und
  | none => und

/-- A route has changed (R336): k is true after the failure of a die that held receive buffers, false after a
change of path. -/
def execRouteResend (d : BitVec 2) (h : BitVec 4) (k : Bool) (s : State) : Out :=
  .next (match (s.die d).sending h with
    | none => s
    | some x =>
      let moved := if k then x.sentTokens.filter fun t => s.dieGone t.pkg t.die else []
      let s1 := moved.foldl (fun s t => s.failoverToken d h x t) s
      let s2 := if moved.isEmpty then s1 else s1.log d
          { ErrorRecord.blank with
            cls := 0x0D, sev := 1, src := 6, unit := d.setWidth 16, node := s.recordNode (some x.node)
            count := BitVec.ofNat 32 (((moved.filter fun t =>
              match (s.die d).routeOf (if t.second then Entry.second t.entry else Entry.first t.entry) with | some r => r.standby | none => false)).length) }
      match (s2.die d).sending h with
      | none => s2
      | some y => y.resend.foldl (fun s i => s.resendToken d h i) s2)

/-- rt.close (R97, R98, R334). -/
def State.rtClose (s : State) (b : Block) : Res RtOut :=
  let d := tileDie s.curTile
  if !b.handleOk then .ok (s, rtBadarg, 0)
  else if b.receive then
    let r := (s.die d).recv b.handle
    if !r.opened then .ok (s, rtClosed, 0)
    else if (s.whenRouting d (some ())).isNone then .ok (s, rtFull, 0)
    else
      let s1 := r.sources.foldl (fun s x => s.sendSummary d b.handle x.phase x.pkg x.die) s
      let s2 := s1.onDie d fun y => y.setRecv b.handle { y.recv b.handle with opened := false, pins := [] }
      .ok (s2.endPins r.tile r.id, 0, r.accept)
  else if b.handle.toNat ≥ 16 then .ok (s, rtClosed, 0)
  else match (s.die d).sending (b.handle.setWidth 4) with
    | none => .ok (s, rtClosed, 0)
    | some x =>
      if x.unack > 0 ∨ (s.whenRouting d (some ())).isNone then .ok (s, rtFull, 0)
      else .ok (s.onDie d fun y => { y.setSend (b.handle.setWidth 4) none with closing := if x.raised then y.closing else y.closing ++ [x] }, 0, x.deliv)

def execRtClose (d a : BitVec 5) (s : State) : Out := .next (s.rtCommand d a false fun b _ _ => s.rtClose b)

end Sys2Proof.Machine
end

