-- ==== Sys2Proof/Machine/Context.lean ====
section
/-!
DEFINITION. Sys2Proof/Machine/Context.lean: contexts on tiles: arrivals and the boundary (R298, R299), images, loads and
saves (R301 to R308), the end of a context (R310), debug breaks (R311), a tile leaving service (R4, R391, R393, R403),
and the rollback of a checkpoint interval (R226, R372).
-/

namespace Sys2Proof.Machine

/-! ## Arrivals and the boundary (R298, R299) -/

/-- What the C stream's next issue would be (R298). -/
inductive Arrival where
  | plain | kernel | epilogue | excess
deriving DecidableEq, Repr

/-- The arrival of the word at pc; a delay slot, and a repeat of an issue that trapped or was abandoned, is none. -/
def Control.arrival (k : Control) (n : Node) : Arrival :=
  if k.slot ≠ 0 ∨ k.arrived then .plain
  else if k.pc.toNat = n.ker then
    if k.iter.toNat < n.trip then .kernel
    else if n.ker = n.epi then .epilogue
    else .excess
  else if k.pc.toNat = n.epi then .epilogue
  else .plain

def State.arrivalOf (s : State) (t : BitVec 6) : Arrival :=
  match s.tileNode t with
  | some n => (s.tile t).control.arrival n
  | none => .plain

/-- The node's saves have the drain form (R299, R369). -/
def Node.drains (n : Node) : Bool := n.cmode == 0 || n.ckpt

/-- A block stream that neither runs nor waits inside a block. -/
def Stream.quiet (y : Stream) : Bool := y.ended || decide (y.state = .await)
def Tile.quiet (t : Tile) : Bool := t.v.quiet && t.m.quiet && t.l.quiet && t.s.quiet
/-- No block stream is halted: a debug halt holds the boundary off (R220, R311). -/
def Tile.unhalted (t : Tile) : Bool := !t.applyHalts.anyHalted

/-- A copy or routing operation of the tile has not completed (R302). -/
def State.opsBusy (s : State) (t : BitVec 6) : Bool :=
  let d := s.die (tileDie t)
  decide (0 < d.queued 0 t + d.queued 1 t) ||
  s.dies.toList.any fun x => (x.closing.any fun y => y.tile == some t) ||
    x.sends.toList.any fun y => match y with | some y => y.tile == some t && !y.raised | none => false

/-- Streams of the tile have unfinished accesses at other packages. -/
def State.streamsAsking (s : State) (t : BitVec 6) : Bool :=
  s.fabric.requests.any fun r => match r.who with | .stream u _ => u == t | _ => false

/-- The boundary may be taken in this tc (R299). -/
def State.boundaryDue (s : State) (t : BitVec 6) : Bool :=
  let x := s.tile t
  match s.tileNode t with
  | none => false
  | some n =>
    decide (x.status = .stopping) && !x.boundary && !x.ending && x.trapping.isNone && !x.debug && !x.halt.getLsbD 0 && x.control.pause == 0 && !x.control.stalled &&
    (x.control.arrival n == .kernel || x.control.arrival n == .epilogue) && (!n.drains || x.quiet)

/-- The word does not issue, ITER is unchanged, and from here no await is granted. -/
def State.takeBoundary (s : State) (t : BitVec 6) : State :=
  s.onTile t fun x => { x with boundary := true, control := { x.control with closing := false } }

def execKernelBoundary (t : BitVec 6) (s : State) : Out := .next (if s.boundaryDue t then s.takeBoundary t else s)

/-- Every issued instruction has retired: in REPLAY, every interlocked one (R299). -/
def execTileStopped (t : BitVec 6) (s : State) : Out :=
  .next (let x := s.tile t
    match s.tileNode t with
    | none => s
    | some n =>
      if x.status = .stopping ∧ x.boundary ∧ x.unhalted ∧ x.trapping.isNone ∧ !x.stopsDue ∧ !s.streamsAsking t ∧ (!n.drains ∨ x.pending.isEmpty) then s.onTile t fun x => x.enter .stopped
      else s)

/-- The share whose context the tile holds. A share that has since been dispatched afresh (R365) is another. -/
def State.onTileShare (s : State) (t : BitVec 6) (f : Node → Share → Share) : State :=
  let x := s.tile t
  s.onNode x.node fun n => n.onShare x.share fun y => if y.phase = .loaded ∧ y.tile = t then f n y else y

/-- The context has ended by trap.ecall with g10 = 0 (R310): it enters DONE once its operations have completed. -/
def execContextDone (t : BitVec 6) (s : State) : Out :=
  .next (let x := s.tile t
    if x.ending ∧ (x.status = .run ∨ x.status = .stopping) ∧ x.trapping.isNone ∧ !x.stopsDue ∧ !s.opsBusy t ∧ !s.streamsAsking t then
      (s.onTile t fun x => { x with ending := false }.enter .done).onTileShare t fun n y => { y with ended := true, endedIn := n.interval }
    else s)

/-- A requested break is taken at the C stream's next instruction boundary (R311). -/
def State.debugBreak (s : State) (t : BitVec 6) : State :=
  s.onTile t fun x =>
    if x.debug ∧ (x.status = .run ∨ x.status = .stopping) ∧ !x.halt.getLsbD 0 ∧ !x.ending then
      { x with debug := false }.controlTrap causeDebug 0
    else x

def execDebugBreakTaken (t : BitVec 6) (s : State) : Out := .next (s.debugBreak t)

/-! ## Raw moves of memory (R213, R301) -/

/-- Bytes of the local map as they are stored; a granule in error reads as zeros with the flag set. -/
def State.rawRead (s : State) (pa n : Nat) : List Byte × Bool :=
  match s.readLocal openLeaf .newest pa n with
  | .ok r => r
  | .error _ => (List.replicate n 0, true)

def State.rawWrite (s : State) (pa : Nat) (bs : List Byte) : State :=
  match s.writeLocal { node := none, tile := none } openLeaf pa bs with
  | .ok s' => s'
  | .error _ => s

/-- Rows moved with the poison of their granules (R212, R396). -/
def State.moveBytes (s : State) (src dst n : Nat) : State :=
  let g := max (granuleSize src) (granuleSize dst)
  (upto (n / g)).foldl (init := s) fun (s : State) i =>
    let r := s.rawRead (src + g * i) g
    let s1 := s.rawWrite (dst + g * i) r.1
    if r.2 then s1.poisonRange (dst + g * i) g else s1

/-- Bytes of SRAM that hold nothing any more. -/
def State.clearRange (s : State) (lo n : Nat) : State :=
  { s with mem := s.mem.filter fun e => e.1 < lo || decide (lo + n ≤ e.1),
           poison := s.poison.filter fun g => g < lo || decide (lo + n ≤ g) }

/-! ## Sections of an image (R301, R303, R304) -/

def imageSize : Nat := 0x600000

/-- What the spec leaves open in an image: bytes between its fields. -/
def openBytes (area pos n : Nat) : List Byte := (upto n).map fun i => Config.snapshotByte area (pos + i)

/-- A section from byte pos up to stop: its fields in rising order, each at its offset. -/
def layout (area pos stop : Nat) : List (Nat × List Byte) → List Byte
  | [] => openBytes area pos (stop - pos)
  | (o, bs) :: r => openBytes area pos (o - pos) ++ bs ++ layout area (o + bs.length) stop r

/-- The header (R303): every byte that it does not list is zero. -/
def headerBytes (node : Node) (x : Tile) (share : Nat) (t : BitVec 6) (full iv : Bool) (interval saves txh disc : Nat) : List Byte :=
  let tr := if x.transfer.trapped then x.trap else TrapRecord.none
  let flags := b2n full + 2 * b2n x.transfer.trapped + 4 * b2n iv
  leBytes 4 0x4A524349 ++ leBytes 2 1 ++ [BitVec.ofNat 8 node.cmode, BitVec.ofNat 8 flags] ++ leBytes 4 node.number ++
  leBytes 2 share ++ [t.setWidth 8, 0] ++ leBytes 4 interval ++ [BitVec.ofNat 8 disc, BitVec.ofNat 8 txh, 0, 0] ++ leBytes 8 saves ++
  [tr.cause, tr.stream, tr.idx, 0] ++ leBytes 4 tr.addr.toNat ++ leBytes 8 tr.val.toNat ++ leBytes 4 tr.tgt.toNat ++
  List.replicate 4044 0

/-- The entry of a block stream, 160 bytes (R304). -/
def streamBytes (area at_ : Nat) (y : Stream) : List Byte :=
  let st := if y.state = .halted then y.prior else y.state
  if st = .idle then List.replicate 160 0
  else
    layout area at_ (at_ + 160)
      ([(at_, [BitVec.ofNat 8 (stateCode st), y.body.setWidth 8, y.faultIdx.setWidth 8, y.faultCause]),
        (at_ + 4, leBytes 4 y.pos.toNat),
        (at_ + 8, (upto 6).flatMap fun l => leBytes 4 (y.idxAt l)),
        (at_ + 32, leBytes 4 y.count.toNat), (at_ + 36, leBytes 4 y.crc.toNat), (at_ + 40, leBytes 4 y.ring.toNat),
        (at_ + 64, y.record.flatMap fun w => leBytes 4 w.toNat)])

/-- User-level trap registers in the order of R304, as R108 lays them out. -/
def UserTrap.words (u : UserTrap) : List Nat :=
  [u.utvec.toNat * 4, b2n u.raisen * 2 + b2n u.nren, b2n u.inHandler, u.uepc.toNat * 4, u.ucause.toNat, u.utval.toNat,
   u.tgt.toNat * 2 ^ 16 + u.slot.toNat]

def votesNat (l : List Bool) : Nat := (l.zipIdx.map fun e => b2n e.1 * 2 ^ e.2).sum

/-- The scalar section (R304), with the pc at which the context continues. The number of what the image holds beside its fields stands in
the open bytes after the stream entries (log 89). -/
def scalarBytes (area : Nat) (x : Tile) (pc beside : Nat) : List Byte :=
  let k := x.control
  layout area 0x1000 0x2000
    [(0x1000, leBytes 8 0 ++ (upto 31).flatMap fun i => leBytes 8 (k.reg (BitVec.ofNat 5 (i + 1))).toNat),
     (0x1100, leBytes 8 pc), (0x1108, [k.c]),
     (0x1110, (upto 4).flatMap fun i => leBytes 2 (k.bt (BitVec.ofNat 2 i)).toNat),
     (0x1118, [BitVec.ofNat 8 k.shadow.length]),
     (0x1120, k.shadow.reverse.flatMap fun e => leBytes 2 e.toNat),
     (0x11A0, x.user.words.flatMap fun w => leBytes 8 w),
     (0x11D8, [x.vflags.setWidth 8]), (0x11E0, leBytes 4 k.iter.toNat),
     (0x1200, x.sems.toList.flatMap fun z => leBytes 4 (b2n z.poison * 2 ^ 16 + z.count.toNat)),
     (0x1300, x.seeds.toList.flatMap fun z => leBytes 4 z.toNat),
     (0x1400, x.formats.flatMap fun z => leBytes 4 z.toNat), (0x1440, [BitVec.ofNat 8 x.formats.length]),
     (0x1448, leBytes 2 (votesNat x.votes)), (0x144A, [BitVec.ofNat 8 x.votes.length]),
     (0x1450, x.queues.toList.flatMap fun q => leBytes 8 (q.entries.length + q.bound.toNat * 8 + q.head.toNat * 32)),
     (0x1490, x.banks.toList.flatMap fun b => leBytes 4 (b2n b.poison * 2 ^ 31 + b.flags.toNat)),
     (0x14A0, streamBytes area 0x14A0 x.v ++ streamBytes area 0x1540 x.m ++ streamBytes area 0x15E0 x.l ++ streamBytes area 0x1680 x.s),
     (0x1720, leBytes 8 beside)]

/-- The window section: installed copies with their ring positions (R301). -/
def windowBytes (x : Tile) : List Byte :=
  x.windows.toList.flatMap fun w => match w with
    | some w => w.image.toList.flatMap fun z => leBytes 8 z.toNat
    | none => List.replicate 64 0

/-- One queue: its four slots in slot order; an empty slot is open. -/
def queueBytes (area n : Nat) (q : Queue) : List Byte :=
  (upto 4).flatMap fun slot =>
    match q.entries[(slot + 4 - q.head.toNat) % 4]? with
    | some v => leBytes 256 v.toNat
    | none => openBytes area (0x4200 + 1024 * n + 256 * slot) 256

/-! ## Claimed rows (R305) -/

/-- DISCM: the discardable footprints of the packet. -/
def Node.discMask (n : Node) : Nat := ((upto 8).map fun i => if n.flen i ≠ 0 ∧ n.fflags i / 8 % 2 = 1 then 2 ^ i else 0).sum
def Node.discRow (n : Node) (r : Nat) : Bool :=
  (upto 8).any fun i => n.flen i != 0 && n.fflags i / 8 % 2 == 1 && decide (n.fbase i ≤ r * 1024) && decide (r * 1024 < n.fbase i + n.flen i)
/-- Tile-store rows that an image holds. -/
def Node.imageRows (n : Node) : List Nat := (upto n.nrows).filter fun r => !n.discRow r

/-! ## Saving (R301, R368) -/

/-- A released stream returns to the state it had held; the tc of the halt that lie before the end of its block are no active cycles (R221,
R239, R312). It goes on in the tc that follows, so that the draws of a tc keep the order of R125. -/
def Stream.release (y : Stream) (tc : Nat) : Stream :=
  if y.state ≠ .halted then y
  else
    let last := if y.nestDone then y.endTc else tc + 1
    { y with
      state := y.prior, stalls := y.stalls + (min (tc + 1) last - min y.nextTc last)
      nextTc := if y.nestDone then y.nextTc else max y.nextTc (tc + 1) }

/-- The sections of one save: what differs from the area, or everything. -/
def State.writeImage (s : State) (t : BitVec 6) (n : Node) (area : Nat) (marks : Dirty) (every : Bool) (header : List Byte) (pc beside : Nat) : State :=
  let x := s.tile t
  let s1 := ((s.rawWrite area header).rawWrite (area + 0x1000) (scalarBytes area x pc beside)).rawWrite (area + 0x2000) (windowBytes x)
  let s2 := (upto 24).foldl (init := s1) fun (s : State) i =>
    if every || marks.v.getLsbD i then s.rawWrite (area + 0x2800 + 256 * i) (leBytes 256 (x.vreg (BitVec.ofNat 5 i)).toNat) else s
  let s3 := (upto 7).foldl (init := s2) fun (s : State) i =>
    if every || marks.p.getLsbD (i + 1) then s.rawWrite (area + 0x4040 + 64 * i) (leBytes 64 (x.preg (BitVec.ofNat 3 (i + 1))).toNat) else s
  let s4 := (upto 8).foldl (init := s3) fun (s : State) i =>
    if every || marks.q.getLsbD i then s.rawWrite (area + 0x4200 + 1024 * i) (queueBytes area i (x.queue (BitVec.ofNat 3 i))) else s
  let s5 := if n.drains then s4 else s4.rawWrite (area + 0x8000) (layout area 0x8000 0x10000 [(0x8000, leBytes 8 beside)])
  let s6 := if every then s5.rawWrite (area + 0x10000) ((upto 65536).map fun i => tval 0 x.code i) else s5
  let s7 := (upto n.nacc).foldl (init := s6) fun (s : State) r =>
    if every || marks.acc.getLsbD r then
      let b := x.bank (BitVec.ofNat 2 (r / 256))
      let row := area + 0x20000 + r / 256 * 0x80000 + r % 256 * 0x800
      let s1 := s.rawWrite row ((upto 512).flatMap fun c => leBytes 4 (b.get (r % 256) c).toNat)
      (b.bad.filter fun g => g / 256 == r % 256).foldl (init := s1) fun (s : State) g => s.poisonRange (row + 8 * (g % 256)) 8
    else s
  n.imageRows.foldl (init := s7) fun (s : State) r =>
    if every || marks.rows.getLsbD r then s.moveBytes (storeAddr t (1024 * r)) (area + 0x200000 + 1024 * r) 1024 else s

/-- The image pair after a save or load at an address: the address outside the pair becomes its new base (R216). -/
def Share.pairAt (x : Share) (addr : Nat) : Share :=
  if addr = x.base ∨ addr = x.base + imageSize then x else { x with base := addr }

/-- The dirty marks of an area, of which those of the pair at `base` are kept; every mark of any other area. -/
def marksOf (base area : Nat) (a b : Dirty) : Dirty :=
  if area = base then a else if area = base + imageSize then b else Dirty.all

/-- What a save of the tile keeps with its image. The halt set is empty after a load (R308), so a halted stream is kept in the state that
its release would give it. -/
def State.pipeOf (s : State) (t : BitVec 6) : Pipe :=
  let x := s.tile t
  { tx := x.tx, arrived := x.control.arrived, again := x.user.again, tc := x.tc, pending := x.pending,
    v := x.v.release x.tc, m := x.m.release x.tc, l := x.l.release x.tc, s := x.s.release x.tc }

/-- A save of the tile's context to an address: incremental or full (R216, R301). -/
def State.saveImage (s0 : State) (t : BitVec 6) (addr : Nat) (full iv : Bool) (interval pc : Nat) : State :=
  let s := s0.flushPort t
  let x := s.tile t
  match s.tileNode t with
  | none => s
  | some n =>
    match n.share? x.share with
    | none => s
    | some sh0 =>
      let sh := sh0.pairAt addr
      let second := addr != sh.base
      let written := sh.written.contains addr
      let a := marksOf sh0.base sh.base x.dirtyA x.dirtyB
      let b := marksOf sh0.base (sh.base + imageSize) x.dirtyA x.dirtyB
      let every := full || !written
      let saves := (if written then leNat (s.rawRead (addr + 24) 8).1 else 0) + 1
      let txh := match s.openSlot t with | some k => k.toNat | none => 0xFF
      let hdr := headerBytes n x x.share t every iv interval saves txh n.discMask
      let beside := s.nextOp
      let s1 := s.writeImage t n addr (if second then b else a) every hdr pc beside
      let s2 := s1.onTile t fun x => { x with dirtyA := if second then a else Dirty.none, dirtyB := if second then Dirty.none else b }
      { s2 with nextOp := beside + 1, pool := { s2.pool with pipes := tput s2.pool.pipes beside (s.pipeOf t) } }.onNode n.handle fun n =>
        n.onShare x.share fun y =>
          { y with base := sh.base, written := if written then sh.written else addr :: sh.written, home := some addr, savedBy := some t }

/-! ## Loading (R305, R306, R308) -/

def imgNat (bs : List Byte) (o n : Nat) : Nat := leNat ((bs.drop o).take n)

/-- The header of an image, as a load reads it. -/
structure ImageHeader where
  cmode : Nat
  trapped : Bool
  ivstart : Bool
  number : Nat
  share : Nat
  tile : Nat
  disc : Byte
  txh : Nat
  trap : TrapRecord

def ImageHeader.of (bs : List Byte) : ImageHeader :=
  { cmode := imgNat bs 6 1, trapped := imgNat bs 7 1 / 2 % 2 == 1, ivstart := imgNat bs 7 1 / 4 % 2 == 1,
    number := imgNat bs 8 4, share := imgNat bs 12 2, tile := imgNat bs 14 1, disc := BitVec.ofNat 8 (imgNat bs 20 1),
    txh := imgNat bs 21 1,
    trap := { cause := BitVec.ofNat 8 (imgNat bs 32 1), stream := BitVec.ofNat 8 (imgNat bs 33 1), idx := BitVec.ofNat 8 (imgNat bs 34 1),
              addr := BitVec.ofNat 32 (imgNat bs 36 4), val := BitVec.ofNat 64 (imgNat bs 40 8), tgt := BitVec.ofNat 32 (imgNat bs 48 4) } }

/-- R303: magic, format, CMODE, and every byte that must be zero; the trap bytes are zero in an image without a trap. -/
def imageHeaderOk (bs : List Byte) : Bool :=
  imgNat bs 0 4 == 0x4A524349 && imgNat bs 4 2 == 1 && decide (imgNat bs 6 1 ≤ 1) && decide (imgNat bs 7 1 < 8) &&
  imgNat bs 15 1 == 0 && imgNat bs 22 2 == 0 && imgNat bs 35 1 == 0 && (bs.drop 52).all (· == 0) &&
  (imgNat bs 7 1 / 2 % 2 == 1 || imgNat bs 32 20 == 0)

def runStateOf (c : Nat) : RunState :=
  match c with
  | 1 => .await
  | 2 => .run
  | 3 => .stopped
  | 4 => .faulted
  | _ => .idle

/-- A stream's entry, read back. The entry has no place for three things, and the model starts them anew (DESIGN CHOICE, log 88): that a
halt fell in the open segment (R241), the W1 that an await has read (R229), and the CRC of an IDLE stream, 0xFFFF_FFFF. The last closed segment is no field of the entry: an image that this share saved keeps it beside
them (State.loadImage), and in any other what seg.last reads is open. -/
def streamOfBytes (area at_ : Nat) (bs : List Byte) : Stream :=
  let f (o n : Nat) : Nat := imgNat bs (at_ - 0x1000 + o) n
  let st := runStateOf (f 0 1)
  let last : Stream :=
    { Stream.reset with
      lastCount := BitVec.ofNat 32 (leNat (openBytes area (at_ + 44) 4)), lastSig := BitVec.ofNat 32 (leNat (openBytes area (at_ + 48) 4)) }
  if st = .idle then last
  else
    let w0 := f 64 4
    let words := if w0Ok w0 ∧ st ≠ .await then 6 + bits w0 23 21 + bits w0 27 24 else 0
    { last with
      state := st, body := BitVec.ofNat 4 (f 1 1), faultIdx := BitVec.ofNat 4 (f 2 1), faultCause := BitVec.ofNat 8 (f 3 1),
      pos := BitVec.ofNat 23 (f 4 4), idx := Vector.ofFn fun l => BitVec.ofNat 24 (f (8 + 4 * l.val) 4),
      count := BitVec.ofNat 32 (f 32 4), crc := BitVec.ofNat 32 (f 36 4), ring := BitVec.ofNat 32 (f 40 4),
      record := (upto words).map fun j => BitVec.ofNat 32 (f (64 + 4 * j) 4) }

def controlOfBytes (bs : List Byte) : Control :=
  { Control.reset with
    pc := BitVec.ofNat 17 (imgNat bs 0x100 8), g := Vector.ofFn fun i => BitVec.ofNat 64 (imgNat bs (8 * i.val) 8),
    c := BitVec.ofNat 8 (imgNat bs 0x108 1), b := Vector.ofFn fun i => BitVec.ofNat 16 (imgNat bs (0x110 + 2 * i.val) 2),
    shadow := ((upto (min 64 (imgNat bs 0x118 1))).map fun i => BitVec.ofNat 16 (imgNat bs (0x120 + 2 * i) 2)).reverse,
    iter := BitVec.ofNat 32 (imgNat bs 0x1E0 4) }

def userOfBytes (bs : List Byte) : UserTrap :=
  let w (j : Nat) : Nat := imgNat bs (0x1A0 + 8 * j) 8
  { utvec := BitVec.ofNat 14 (w 0 / 4), nren := w 1 % 2 == 1, raisen := w 1 / 2 % 2 == 1, inHandler := w 2 % 2 == 1,
    uepc := BitVec.ofNat 14 (w 3 / 4), ucause := BitVec.ofNat 8 (w 4), utval := BitVec.ofNat 64 (w 5),
    tgt := BitVec.ofNat 16 (w 6 / 2 ^ 16), slot := BitVec.ofNat 2 (w 6), again := w 2 % 2 == 1 }

/-- The scalar, window, register and queue state of an image, over a fresh tile. -/
def State.readContext (s : State) (area : Nat) (x : Tile) : Tile :=
  let sc := (s.rawRead (area + 0x1000) 4096).1
  let win := (s.rawRead (area + 0x2000) 2048).1
  let at_ (o n : Nat) : Nat := leNat (s.rawRead (area + o) n).1
  { x with
    control := controlOfBytes sc, user := userOfBytes sc, vflags := BitVec.ofNat 6 (imgNat sc 0x1D8 1),
    sems := Vector.ofFn fun i =>
      { count := BitVec.ofNat 16 (imgNat sc (0x200 + 4 * i.val) 2), poison := imgNat sc (0x202 + 4 * i.val) 1 % 2 == 1 },
    seeds := Vector.ofFn fun i => BitVec.ofNat 32 (imgNat sc (0x300 + 4 * i.val) 4),
    formats := (upto (min 16 (imgNat sc 0x440 1))).map fun i => BitVec.ofNat 32 (imgNat sc (0x400 + 4 * i) 4),
    votes := (upto (min 16 (imgNat sc 0x44A 1))).map fun i => (imgNat sc 0x448 2).testBit i,
    queues := Vector.ofFn fun q =>
      let w := imgNat sc (0x450 + 8 * q.val) 8
      { entries := (upto (min 4 (w % 8))).map fun i =>
          BitVec.ofNat 2048 (at_ (0x4200 + 1024 * q.val + 256 * ((w / 32 % 4 + i) % 4)) 256),
        head := BitVec.ofNat 2 (w / 32), bound := BitVec.ofNat 2 (w / 8) },
    windows := Vector.ofFn fun i =>
      let bs := (win.drop (64 * i.val)).take 64
      if bs.all (· == 0) then none
      else some { image := Vector.ofFn fun j => BitVec.ofNat 64 (imgNat bs (8 * j.val) 8), pins := [] },
    v := streamOfBytes area 0x14A0 sc, m := streamOfBytes area 0x1540 sc, l := streamOfBytes area 0x15E0 sc, s := streamOfBytes area 0x1680 sc,
    vregs := Vector.ofFn fun i => BitVec.ofNat 2048 (at_ (0x2800 + 256 * i.val) 256),
    pregs := Vector.ofFn fun i => if i.val = 0 then 0 else BitVec.ofNat 512 (at_ (0x4000 + 64 * i.val) 64),
    banks := Vector.ofFn fun b =>
      let w := imgNat sc (0x490 + 4 * b.val) 4
      { cells := [], flags := BitVec.ofNat 6 w, poison := bits w 31 31 == 1, bad := [] },
    code := ((s.rawRead (area + 0x10000) 65536).1.zipIdx.map fun e => (e.2, e.1)).filter fun e => e.2 != 0 }

/-- Claimed accumulator rows of an image, with the poison of their granules (R212, R396). -/
def State.readAcc (s : State) (area : Nat) (n : Node) (x : Tile) : Tile :=
  (upto n.nacc).foldl (init := x) fun (x : Tile) r =>
    let row := area + 0x20000 + r / 256 * 0x80000 + r % 256 * 0x800
    let got := s.rawRead row 2048
    let bad := if got.2 then ((upto 256).filter fun g => s.anyPoison (row + 8 * g) 8).map (r % 256 * 256 + ·) else []
    let b : BitVec 2 := BitVec.ofNat 2 (r / 256)
    let bank := (upto 512).foldl (init := x.bank b) fun (k : Bank) c => k.put (r % 256) c (BitVec.ofNat 32 (imgNat got.1 (4 * c) 4))
    x.setBank b { bank with bad := bad ++ bank.bad }

/-- A tile with a fresh context of a node's share: what a load leaves alone is its time, its event and its timers. -/
def Tile.fresh (x : Tile) (node : W32) (share : Nat) : Tile :=
  { Tile.reset with
    status := x.status, node := node, share := share, tc := x.tc, tcBase := x.tc, event := x.event, halt := x.halt, transfer := x.transfer }

/-- A load from a packet (R306): the bytes of its tile-store image in rows that the node claims and that no DISC footprint
covers; every other row reads as zero (R305). -/
def State.loadPacket (s : State) (t : BitVec 6) (n : Node) (share : Nat) : State :=
  let s1 := (n.imageRows.filter fun r => decide (1024 * r < n.dlen)).foldl (init := s.clearRange (storeAddr t 0) 0x400000) fun (s : State) r =>
    s.moveBytes (n.dimg + 1024 * r) (storeAddr t (1024 * r)) (min 1024 (n.dlen - 1024 * r))
  let code := ((s.rawRead n.cimg n.clen).1.zipIdx.map fun e => (e.2, e.1)).filter fun e => e.2 != 0
  let s2 := s1.onTile t fun x =>
    { x.fresh n.handle share with
      code := code, control := { Control.reset with pc := BitVec.ofNat 17 n.pro }, dirtyA := Dirty.all, dirtyB := Dirty.all }
  s2.onNode n.handle fun n => n.onShare share fun y =>
    let base := (s.tile t).transfer.addr
    { y with
      base := base, home := none, phase := .loaded, tile := t, own := false, closed := false }

/-- What the image at an address holds beside its fields: a REPLAY image in its snapshot section, any other after its stream entries. -/
def State.besideAt (s : State) (n : Node) (addr : Nat) : Option Pipe :=
  tget s.pool.pipes (leNat (s.rawRead (addr + if n.drains then 0x1720 else 0x8000) 8).1)

/-- A load from an image (R305, R308). In REPLAY the snapshot returns with it (R307). -/
def State.loadImage (s : State) (t : BitVec 6) (n : Node) (h : ImageHeader) (addr : Nat) : State :=
  let y0 := (n.share? h.share).map fun y => y.pairAt addr
  let second := match y0 with | some y => addr != y.base | none => false
  let s1 := n.imageRows.foldl (init := s.clearRange (storeAddr t 0) 0x400000) fun (s : State) r =>
    s.moveBytes (addr + 0x200000 + 1024 * r) (storeAddr t (1024 * r)) 1024
  let s2 := s1.onTile t fun x =>
    let pipe := s.besideAt n addr
    let tx := if h.txh = 0xFF then pipe.bind Pipe.tx else some (BitVec.ofNat 8 h.txh)
    let y := s.readAcc addr n (s.readContext addr (x.fresh n.handle h.share))
    let z := { y with
      disc := h.disc, discm := h.disc, tx := if n.mode = 2 then none else tx,
      trap := if h.trapped then h.trap else TrapRecord.none,
      dirtyA := if second then Dirty.all else Dirty.none, dirtyB := if second then Dirty.none else Dirty.all }
    let w := if h.trapped ∧ h.trap.stream = 0 then
        { z with control := { z.control with slot := BitVec.ofNat 2 h.trap.idx.toNat, target := BitVec.ofNat 17 h.trap.tgt.toNat } }
      else z
    match pipe with
    | none => w
    | some p =>
      let w := { w with control := { w.control with arrived := p.arrived }, user := { w.user with again := p.again } }
      if n.drains then
        w.onStreams fun k y => let z := match k with | .v => p.v | .m => p.m | .l => p.l | .s => p.s
                               { y with lastCount := z.lastCount, lastSig := z.lastSig }
      else { w with tc := p.tc, tcBase := p.tc, pending := p.pending, v := p.v, m := p.m, l := p.l, s := p.s }
  s2.onNode n.handle fun n => n.onShare h.share fun y =>
    let z := y.pairAt addr
    { z with home := some addr, phase := .loaded, tile := t, own := false, closed := false }

/-- The image is in place: READY, or FAULTED for a context saved FAULTED (R215, R216, R308). A node that has ended
meanwhile leaves the tile in DONE (R296). -/
def execTileLoadComplete (t : BitVec 6) (s : State) : Out :=
  .next (let x := s.tile t
    if x.status ≠ .loading then s
    else match s.tileNode t with
      | none => s
      | some n =>
        let h := ImageHeader.of (s.rawRead x.transfer.addr 4096).1
        let s1 := if x.transfer.pkt then s.loadPacket t n x.share else s.loadImage t n h x.transfer.addr
        s1.onTile t fun y =>
          if n.phase = .complete then y.enter .done
          else if !x.transfer.pkt && h.trapped then y.enter .faulted
          else y.enter .ready)

/-! ## Re-pinning and the resume (R307, R308) -/

/-- Windows without their pins, in ascending order. -/
def Tile.unpinned (x : Tile) : List Nat :=
  (upto 32).filter fun n => match x.window (BitVec.ofNat 5 n) with | some w => w.pins.isEmpty | none => false

/-- Pin every installed window again, in ascending window order (R308), up to the first failure: its window and cause, which is 0 for a
reach that has to wait (R251, R390). -/
def State.repin (s : State) (t : BitVec 6) : State × Option (Nat × Byte) :=
  (s.tile t).unpinned.foldl (init := (s, (none : Option (Nat × Byte)))) fun (a : State × Option (Nat × Byte)) n =>
    let i : BitVec 5 := BitVec.ofNat 5 n
    match a.2, (a.1.tile t).window i with
    | none, some w =>
      match a.1.pinRanges t (a.1.root t) .read (Image.reach w.image) [] with
      | .ok pins =>
        if (pageKeys ((a.1.tile t).pinsWithout i ++ pins)).length ≤ pinLimit then
          (a.1.onTile t fun x => x.setWindow i (some { w with pins := pins }), none)
        else (a.1, some (n, causePinlim))
      | .error (.trap c _) => (a.1, some (n, c))
      | .error .stall => (a.1, some (n, 0))
      | .error _ => (a.1, some (n, causePoison))
    | _, _ => a

/-- The windows of a context cannot be pinned yet (R251, R390). -/
def State.repinWaits (s : State) (t : BitVec 6) : Bool := match ((s.flushPort t).repin t).2 with | some (_, c) => c == 0 | none => false

/-- One load of the snapshot is asked for again, the first that has not come. -/
def State.rereadNext (s : State) (t : BitVec 6) : State :=
  let wants (p : Pending) : Bool := match p.kept with | some k => k.again | none => false
  s.dataLands t wants fun p u => { u with pending := changeFirst wants (fun _ => some { p with landed := p.load }) u.pending }

/-- The loads that a REPLAY snapshot keeps are read after the resume, in their order (R307); one that has to wait for its bytes is read when
they come. What has been performed lands. -/
def State.resumeKept (s : State) (t : BitVec 6) : State :=
  let again (p : Pending) : Pending :=
    if p.landed then p
    else match p.kept with
      | some k => { p with kept := some { k with again := true } }
      | none => { p with landed := p.load }
  (upto (s.tile t).pending.length).foldl (fun s _ => s.rereadNext t)
    (s.onTile t fun x => { x with pending := x.pending.map again })

/-- ov.tile.go's move of a tile with its context to RUN (R215, R220, R308). -/
def State.startTile (s0 : State) (t : BitVec 6) : State :=
  let s := s0.flushPort t
  let r := s.repin t
  match r.2 with
  | none =>
    let s2 := r.1.onTile t fun x =>
      let y := if x.status = .faulted then x.trapReturn else x
      let z := y.onStreams fun _ k => { k with ppoint := false }
      { z with boundary := false, control := { z.control with stalled := false, closing := false, wait := none }, trap := TrapRecord.none }.enter .run
    (s2.resumeKept t).onNode (s.tile t).node fun n => n.onShare (s.tile t).share fun y => { y with own := false, closed := false }
  | some (n, cause) => r.1.onTile t fun x =>
    { x.setWindow (BitVec.ofNat 5 n) none with
      trap := { TrapRecord.none with cause := cause, stream := 5, val := BitVec.ofNat 64 n } }.enter .faulted

/-! ## A tile enters EMPTY, or leaves service (R4, R210, R403) -/

/-- The physical tile that holds a logical number goes to a state; the cluster's spare takes the number, or the logical
tile is retired (R4, R391, R393, R403). Answers whether a spare took it. -/
def State.replaceTile (s : State) (t : BitVec 6) (to_ : BitVec 2) : State :=
  let c := tileCluster t
  match s.physOfTile t with
  | none => s
  | some p =>
    let k := (s.cluster c).onPhys p fun y => { y with state := to_, logical := 0xFF, pendingQuar := false }
    let spare := (upto 5).find? fun q => match k.phys[q]? with | some y => y.state == 1 && !y.run | none => false
    let record : ErrorRecord :=
      { ErrorRecord.blank with
        sev := 3, src := 8, unit := BitVec.ofNat 16 t.toNat, sub := BitVec.ofNat 16 p, node := s.recordNode ((s.tileNode t).map (·.handle)), count := BitVec.ofNat 32 t.toNat }
    match spare with
    | some q =>
      let d := tileDie t
      let s1 := (s.setCluster c (k.onPhys q fun y => { y with state := 0, logical := t.setWidth 8 })).onDie d fun x =>
        { x with bad := x.bad.filter fun b => !((b.array == 0 || b.array == 1) && b.unit == t) }
      ((s1.clearRange (storeAddr t 0) 0x400000).onTile t fun x => { Tile.reset with event := x.event, tc := x.tc }.enter .empty).log d { record with cls := 0x06 }
    | none =>
      let s1 := ((s.setCluster c k).onTile t fun x => { Tile.reset with event := x.event, tc := x.tc }.enter .retired).onDie (tileDie t) fun x =>
        { x with retired := (0, t) :: (1, t) :: x.retired }
      ({ s1 with ready := { s1.ready with tile := s1.ready.tile &&& ~~~ BitVec.twoPow 64 t.toNat } }).log (tileDie t) { record with cls := 0x07 }

/-- The pins of the tile's open receive handles end with its context (R257, R302). -/
def State.endRecvPins (s : State) (t : BitVec 6) : State :=
  s.onDie (tileDie t) fun x => { x with recvs := x.recvs.map fun r => if r.tile = t then { r with pins := [] } else r }

/-- The tile's context is gone: every pin ends (R302), the share keeps its dirty marks (R216), and a physical tile
marked for quarantine leaves service (R403). -/
def State.enterEmpty (s : State) (t : BitVec 6) : State :=
  let x := s.tile t
  let s1 := (s.onTileShare t fun _ y => { y with dirtyA := x.dirtyA, dirtyB := x.dirtyB }).endRecvPins t
  let s2 := (s1.onTile t fun x => { Tile.reset with event := x.event, tc := x.tc, halt := x.halt }.enter .empty).shootCheck
  match s.physOfTile t with
  | some p =>
    let quar := match (s.cluster (tileCluster t)).phys[p]? with | some y => y.pendingQuar | none => false
    if quar then
      let s3 := s2.log (tileDie t)
        { ErrorRecord.blank with
          cls := 0x09, sev := 3, src := 8, unit := BitVec.ofNat 16 t.toNat, sub := BitVec.ofNat 16 p, node := s.recordNode (some x.node), count := BitVec.ofNat 32 t.toNat }
      s3.replaceTile t 2
    else s2
  | none => s2

/-! ## Checkpoint intervals (R368, R370) -/

/-- A fresh tag, skipping tags still in use. -/
def State.freshTag (s : State) : BitVec 24 × State :=
  let used (g : BitVec 24) : Bool := s.openTag g
  let k := ((upto (s.pool.nodes.length + 1)).find? fun i => !used (s.versions.nextTag + BitVec.ofNat 24 i)).getD 0
  let g := s.versions.nextTag + BitVec.ofNat 24 k
  (g, { s with versions := { s.versions with nextTag := g + 1 } })

/-- A closed interval's records lose U, and the lines that it logged last lose UNDO (R367, R368). -/
def State.clearUndo (s : State) (tag : BitVec 24) : State :=
  let records := s.versions.records.map fun e => (e.1, if e.2.u ∧ e.2.intv = tag then { e.2 with u := false } else e.2)
  s.versions.lines.foldl (init := { s with versions := { s.versions with records := records } }) fun (s : State) e =>
    if e.2.undo && e.2.intv == tag then s.setLine e.1 { s.line e.1 with undo := false } else s

/-- Interval n closes and n + 1 opens with a new tag (R368, step 2). -/
def State.openInterval (s : State) (n : Node) : State :=
  let s1 := s.clearUndo n.tag
  let g := s1.freshTag
  g.2.onNode n.handle fun n =>
    { n with
      interval := n.interval + 1, tag := g.1, opened := s.time.ns.toNat, rerun := false, unrollable := false, closing := .no
      shares := n.shares.map fun y => { y with closed := false } }

/-- A tile whose C stream waits at a close of its node's interval. -/
def State.closeWaits (s : State) (h : W32) (y : Share) : Bool :=
  let x := s.tile y.tile
  decide (y.phase = .loaded) && x.node == h && x.share == y.index && x.control.closing && decide (x.status = .run ∨ x.status = .stopping)

/-- A share that has ended takes part in no close (R368). -/
def Share.over (y : Share) : Bool := y.ended || y.reported.isSome

/-- The area of the start image of interval m (R368). -/
def Share.startArea (y : Share) (m : Nat) : Nat := y.base + m % 2 * imageSize

/-- Every share waits at the close, has been saved for it, or has ended. -/
def State.closeReady (s : State) (n : Node) : Bool :=
  let live := n.shares.filter fun y => !y.over
  !live.isEmpty && live.all fun y => y.closed ||
    (s.closeWaits n.handle y && (s.tile y.tile).quiet && (s.tile y.tile).pending.isEmpty && !s.opsBusy y.tile && !s.streamsAsking y.tile)

/-- The close of R368: images of the waiting shares, the next interval, and each stalled share continues. A share that
waits at its ckpt.close is saved after it, and continues after it. -/
def State.closeInterval (s : State) (n : Node) : State :=
  let waiting := n.shares.filter fun y => !y.over && !y.closed
  let s1 := waiting.foldl (init := s) fun (s : State) y =>
    let k := (s.tile y.tile).control
    s.saveImage y.tile (y.startArea (n.interval.toNat + 1)) false true (n.interval.toNat + 1) (if k.stalled then k.advance.pc.toNat else k.pc.toNat)
  let s2 := match s1.node? n.handle with | some m => s1.openInterval m | none => s1
  waiting.foldl (init := s2) fun (s : State) y => s.onTile y.tile fun x =>
    { x with control := if x.control.stalled then { x.control.finish with closing := false } else { x.control with closing := false } }

/-! ## Saves (R302) -/

/-- The wait of a victim is over when none of its shares is on a tile: it is ready again with its own acceptance order (R290). A share
that its supervisor holds, its tile EMPTY, stays with it (R376). -/
def State.victimBack (s : State) (h : W32) : State :=
  match s.node? h with
  | none => s
  | some n =>
    let live := n.shares.filter fun y => y.reported.isNone && !y.ended
    let back := live.filter fun y => y.phase = .unplaced
    if n.phase = .running ∧ n.stopFor.isSome ∧ !back.isEmpty ∧ live.all fun y => y.phase = .unplaced ∨ y.phase = .held then
      s.onNode h fun n =>
        { n with phase := .ready, since := s.time.ns.toNat, stopFor := none, preempted := back.any fun y => y.home.isSome }
    else s

/-- The save is complete: the image is written, every pin ends and the tile enters EMPTY (R302). A share that its own
supervisor stopped, or that is FAULTED or has ended, stays with its supervisor; a victim's share returns to the pool
(R290, R376). A pre-emption save of a checkpointed node is the share's part of the close (R368, R369). -/
def State.saveComplete (s : State) (t : BitVec 6) : State :=
  let x := s.tile t
  match s.tileNode t with
  | none => s.enterEmpty t
  | some n =>
    let interval := if n.ckpt then n.interval.toNat + b2n x.transfer.interval else 0
    let saved := s.saveImage t x.transfer.addr x.transfer.full x.transfer.interval interval x.control.pc.toNat
    let own : Bool := match n.share? x.share with | some y => decide (y.phase = .loaded) && y.tile == t | none => false
    let s1 := if own then saved else { saved with pool := { s.pool with pipes := saved.pool.pipes } }
    let s2 := s1.enterEmpty t
    let s3 := (if own then s2.onNode n.handle fun n => n.onShare x.share fun y =>
      { y with
        closed := y.closed || x.transfer.interval
        phase := if y.own ∨ x.transfer.trapped ∨ y.over ∨ n.stopFor.isNone then .held else .unplaced } else s2).victimBack n.handle
    match s3.node? n.handle with
    | some m => if x.transfer.interval ∧ m.ckpt ∧ s3.closeReady m then s3.closeInterval m else s3
    | none => s3

def execTileSaveComplete (t : BitVec 6) (s : State) : Out :=
  .next (if (s.tile t).status = .saving ∧ !s.opsBusy t ∧ !s.streamsAsking t then s.saveComplete t else s)

/-! ## Rollback (R226, R372) -/

/-- One line that an interval logged back to its value and stamp at the interval's start. -/
def State.restoreLine (s : State) (tag : BitVec 24) (l : Nat) : State :=
  match (s.records l).find? fun e => e.2.u && e.2.intv == tag with
  | none => s
  | some (i, r) =>
    let later := (s.records l).filter fun e => e.2.kind == 0 && decide (r.stamp.toNat < e.2.stamp.toNat)
    let a := lineAddr l
    let s1 := (((s.clearPoison a 128).setSeal l r.tag).freeRecord l i)
    let s2 := later.foldl (init := s1) fun (s : State) e => s.freeRecord l e.1
    let s3 := ({ s2 with mem := s2.mem.setBytes a r.data }).unreserve a 128
    let s4 := if r.poison.getLsbD 0 then s3.addPoison a else s3
    let s5 := if r.poison.getLsbD 1 then s4.addPoison (a + 64) else s4
    s5.setLine l { s5.line l with stamp := r.stamp, undo := false }

/-- Operations submitted by the node's tiles that have not completed. -/
def State.nodeBusy (s : State) (n : Node) : Bool :=
  n.shares.any fun y => decide (y.phase = .loaded) && s.opsBusy y.tile

/-- R372, once the operations have completed. -/
def State.rollback (s : State) (n : Node) : State :=
  let lines := (s.versions.lines.filter fun e => e.2.undo && e.2.intv == n.tag).map (·.1)
  let s1 := lines.foldl (init := s) fun (s : State) l => s.restoreLine n.tag l
  let open_ := s1.versions.txs.filter fun e => e.2.node == n.handle && !e.2.ended
  let s2 := open_.foldl (init := s1) fun (s : State) e => s.doom (BitVec.ofNat 8 e.1) 5
  let back := n.shares.filter fun y => !(y.ended && decide (y.endedIn.toNat < n.interval.toNat))
  let s3 := back.foldl (init := s2) fun (s : State) y =>
    if y.phase = .loaded then s.enterEmpty y.tile
    else if y.phase = .held ∨ y.phase = .handed then s.onTile y.tile fun x => { x with event := true }
    else s
  let g := s3.freshTag
  g.2.onNode n.handle fun m =>
    let shares := m.shares.map fun y =>
      if back.any fun z => z.index == y.index then
        { y with
          phase := if y.phase = .loaded ∨ y.phase = .held ∨ y.phase = .handed ∨ y.reported.isSome then .handed else y.phase
          reported := none, ended := false, own := false, closed := false
          home := if m.interval = 0 then none else some (y.startArea m.interval.toNat) }
      else y
    { m with
      tag := g.1, rerun := true, closing := .no, shares := shares
      cause := ((shares.filterMap Share.reported).find? fun c => c != 0).getD 0 }

/-- rd of the supervisor that waits for a rollback (R226). -/
def State.rollDone (s : State) (h : W32) (interval : W32) : State :=
  { s with clusters := s.clusters.map fun k => match k.wait with
      | some (.roll rd g) => if g = h then { k.setReg rd (interval.setWidth 64 <<< 8) with wait := none } else k
      | _ => k }

/-- The wait of ov.ckpt.roll ends when every copy and routing operation of the node's tiles has completed. -/
def execCkptRollComplete (h : W32) (s : State) : Out :=
  .next (match s.node? h with
    | none => s
    | some n =>
      let waits := s.clusters.toList.any fun k => match k.wait with | some (.roll _ g) => g == h | _ => false
      if waits && !s.nodeBusy n then (s.rollback n).rollDone h n.interval else s)

end Sys2Proof.Machine
end

