-- ==== Sys2Proof/Machine/Reduction.lean ====
section
/-!
DEFINITION. Sys2Proof/Machine/Reduction.lean: reduction windows (R337 to R341): contributions of this package, the
fixed merge tree over link units, the home's write with its arrival, and acknowledgements.
-/

namespace Sys2Proof.Machine

/-! ## The entry -/

/-- Contributors of an entry. -/
def RedWindow.n (w : RedWindow) : Nat := w.ncon.toNat + 1
/-- The first byte of the window, and the byte after it, as group addresses. -/
def RedWindow.start (w : RedWindow) : Nat := w.pbase.toNat * 128
def RedWindow.stop (w : RedWindow) : Nat := w.start + 128 * w.lines.toNat
def RedWindow.home (w : RedWindow) : Nat := w.start / 2 ^ 48
def RedWindow.elemBytes (w : RedWindow) : Nat := if w.fmt = 1 then 2 else 4
def RedWindow.perLine (w : RedWindow) : Nat := 128 / w.elemBytes

/-- Package id of contributor c. -/
def State.redPackage (s : State) (w : RedWindow) (c : Nat) : Nat := leNat (s.mem.bytes (w.list.toNat * 16 + 2 * c) 2)
/-- This package's contributor index. -/
def State.redIndex (s : State) (w : RedWindow) : Option Nat := (upto w.n).find? fun c => s.redPackage w c == s.fabric.pkg.toNat

/-- The enabled entry of this package that a group address falls in (R338). -/
def State.redFind (s : State) (gpa : Nat) : Option (BitVec 6) :=
  ((upto 64).find? fun i =>
    let w := s.redWindow (BitVec.ofNat 6 i)
    w.en && decide (w.start ≤ gpa) && decide (gpa < w.stop)).map (BitVec.ofNat 6)

/-- CRC-32C over RWBASE, RWCFG and the list, least significant byte first (R338). -/
def State.redDigest (s : State) (w : RedWindow) : W32 :=
  let bytes := leBytes 8 w.start ++ leBytes 8 w.cfg ++ (upto w.n).flatMap fun c => leBytes 2 (s.redPackage w c)
  (bytes.foldl (fun c b => crcFeed c b.toNat) 0xFFFFFFFF) ^^^ 0xFFFFFFFF

/-! ## Epochs -/

def RedWindow.given? (w : RedWindow) (e : Nat) : Nat := tval 0 w.given e
/-- Every element of a line has been contributed in an epoch by this package. -/
def RedWindow.lineGiven (w : RedWindow) (epoch line : Nat) : Bool :=
  (upto w.perLine).all fun j => decide (epoch < w.given? (line * w.perLine + j))

/-- An epoch is open: a contribution or partial is held, or a line of it has been merged. -/
def RedWindow.recount (w : RedWindow) : RedWindow :=
  { w with busy := !w.parts.isEmpty || !w.sent.isEmpty || !w.merged.isEmpty }

/-- The lines of the oldest open epoch are all merged. -/
def RedWindow.full (w : RedWindow) : Bool := decide (w.lines.toNat ≤ w.merged.countP fun m => m.1 == w.epoch.toNat)

/-- EPOCH advances past the oldest open epoch (R340). -/
def RedWindow.closeEpoch (w : RedWindow) : RedWindow :=
  let e := w.epoch.toNat
  { w with
    epoch := w.epoch + 1
    err := w.err || w.bad.contains e
    bad := w.bad.filter (· != e)
    merged := w.merged.filter fun m => m.1 != e }.recount

/-- Epochs close while the oldest open one is full. The home logs one that completes with an error (R402), and what waited for the epochs is
tried again. -/
def State.redClose (s : State) (d : BitVec 2) (i : BitVec 6) : Nat → State
  | 0 => s
  | n + 1 =>
    let y := s.redWindow i
    if !y.full then s.setRedWindow i y.recount
    else
      let s1 := s.setRedWindow i y.closeEpoch
      let s2 := if y.bad.contains y.epoch.toNat && y.home == s.fabric.pkg.toNat then
          s1.log d { ErrorRecord.blank with cls := 0x0F, sev := 1, src := 5, unit := d.setWidth 16, count := i.setWidth 32 }
        else s1
      s2.retryHeld.redClose d i n

/-! ## The home (R340) -/

/-- A message of the window's flow: kind 0x18 with contributor, epoch, line and digest before its values, or kind
0x19 with epoch and line. -/
def State.redSend (s : State) (d : BitVec 2) (i : BitVec 6) (pkg kind : Nat) (body : List Byte) : State :=
  s.send d pkg kind i.toNat 0 body

def valueBytes (w : RedWindow) (vs : List W32) : List Byte := vs.flatMap fun v => leBytes w.elemBytes v.toNat
def bytesValues (w : RedWindow) : Nat → List Byte → List W32
  | 0, _ => []
  | k + 1, bs => BitVec.ofNat 32 (leNat (bs.take w.elemBytes)) :: bytesValues w k (bs.drop w.elemBytes)

/-- Acknowledge a line of an epoch to every other contributor. -/
def State.redAck (s : State) (d : BitVec 2) (i : BitVec 6) (epoch line : Nat) : State :=
  let w := s.redWindow i
  ((upto w.n).map (s.redPackage w)).foldl (fun s p =>
    if p = s.fabric.pkg.toNat then s else s.redSend d i p 0x19 (leBytes 4 epoch ++ leBytes 4 line)) s

/-- A line of an epoch is done at the home: what this unit retained of it goes, the arrival is delivered, and the
contributors are told. -/
def State.redDone (s : State) (d : BitVec 2) (i : BitVec 6) (epoch line : Nat) : State :=
  let w := s.redWindow i
  let keep := fun (p : Part) => p.epoch != epoch || p.line != line
  let s1 := s.setRedWindow i
    { w with parts := w.parts.filter keep, sent := w.sent.filter keep, merged := w.merged ++ [(epoch, line)], progress := s.time.ns.toNat }
  let s2 := s1.arriveAt { node := none, tile := none } d .unit 3 (w.lwa.toNat * 16) 128 (w.bad.contains epoch)
  (s2.redAck d i epoch line).redClose d i 4

/-- A merged line of an epoch is marked with an error (R340). -/
def RedWindow.mark (w : RedWindow) (epoch : Nat) (bad : Bool) : RedWindow :=
  if bad ∧ !w.bad.contains epoch then { w with bad := epoch :: w.bad } else w

/-- A merged line reaches the home: written, or combined with memory, as one access, under the attributes of the contributors'
page; a second one of the same line and epoch is discarded (R341). A write that finds no version record waits, and at its bound
completes the line with the error indication (R366). A line that waits has level 12, above every level of the tree. -/
def State.redHome (s : State) (d : BitVec 2) (i : BitVec 6) (part : Part) : State :=
  let x : Part := { part with level := 12 }
  let w := s.redWindow i
  let leaf := attrLeaf (BitVec.ofNat 16 x.attr)
  if !w.en || decide (x.epoch < w.epoch.toNat) || w.merged.contains (x.epoch, x.line) then s
  else
    let pa := localOf (w.start + 128 * x.line)
    let old := s.readLocal leaf .newest pa 128
    let vals : List W32 := match w.accm, old with
      | true, .ok r => List.zipWith (fun a b => BitVec.ofNat 32 (combine w.fmt.toNat w.op.toNat a.toNat b.toNat)) (bytesValues w w.perLine r.1) x.values
      | _, _ => x.values
    let bad := match w.accm, old with | true, .ok r => r.2 | _, _ => false
    let s1 := (if bad then s.logError none 0 (.consumed (s.granuleInError leaf .newest pa 128)) else s).setRedWindow i (w.mark x.epoch (x.err || bad))
    let waits (e : Option Nat) : State :=
      s.setRedWindow i { w with parts := (w.parts.filter fun p => p != x) ++ [x], busy := true, denied := e }
    match s1.writeLocal { node := none, tile := none } leaf pa (valueBytes w vals) with
    | .ok s' => (s'.setRedWindow i { s'.redWindow i with denied := none }).redDone d i x.epoch x.line
    | .error (.denied a) =>
      if s.overdue w.denied then
        ((s1.logError none 0 (.denied a)).setRedWindow i { (s1.redWindow i).mark x.epoch true with denied := none }).redDone d i x.epoch x.line
      else waits (s.waits w.denied)
    | .error _ => waits w.denied

/-! ## The merge tree (R339) -/

def findPart (l : List Part) (c epoch line : Nat) : Option Part :=
  l.find? fun p => p.contributor == c && p.epoch == epoch && p.line == line

def dropPart (l : List Part) (q : Part) : List Part :=
  l.filter fun p => !(p.contributor == q.contributor && p.epoch == q.epoch && p.line == q.line)

/-- The body of a kind 0x18 message: contributor, epoch, line and digest, then the values, the error mark and the attributes. -/
def State.redBody (s : State) (w : RedWindow) (p : Part) : List Byte :=
  leBytes 2 p.contributor ++ leBytes 4 p.epoch ++ leBytes 4 p.line ++ leBytes 4 (s.redDigest w).toNat ++ valueBytes w p.values ++
    [BitVec.ofNat 8 (b2n p.err)] ++ leBytes 2 p.attr

/-- part(c) of this unit, level by level: combined with the partner's part once it is here, passed on at the level at
which c is the right operand, merged at the root. -/
def State.redClimb (s : State) (d : BitVec 2) (i : BitVec 6) (own : Part) : Nat → State
  | 0 => s
  | fuel + 1 =>
    let w := s.redWindow i
    let l := own.level
    let c := own.contributor
    let body := fun (w : RedWindow) => s.redBody w own
    if 2 ^ l ≥ w.n then
      let s1 := s.setRedWindow i { w with parts := dropPart w.parts own, sent := if w.home = s.fabric.pkg.toNat then w.sent else w.sent ++ [own] }
      if w.home = s.fabric.pkg.toNat then s1.redHome d i own
      else s1.redSend d i w.home 0x18 (body w)
    else if c % 2 ^ (l + 1) = 0 then
      if c + 2 ^ l ≥ w.n then s.redClimb d i { own with level := l + 1 } fuel
      else match findPart w.parts (c + 2 ^ l) own.epoch own.line with
        | none => s.setRedWindow i { w with parts := dropPart w.parts own ++ [own] }
        | some q =>
          let vs := List.zipWith (fun a b => BitVec.ofNat 32 (combine w.fmt.toNat w.op.toNat a.toNat b.toNat)) own.values q.values
          (s.setRedWindow i { w with parts := dropPart w.parts q }).redClimb d i { own with level := l + 1, values := vs, err := own.err || q.err } fuel
    else
      (s.setRedWindow i { w with parts := dropPart w.parts own, sent := w.sent ++ [own] }).redSend d i (s.redPackage w (c - 2 ^ l)) 0x18 (body w)

/-- Climb with this package's part of a line, when all of it has been contributed. -/
def State.redAdvance (s : State) (d : BitVec 2) (i : BitVec 6) (epoch line : Nat) : State :=
  let w := s.redWindow i
  match s.redIndex w with
  | none => s
  | some c => match findPart w.parts c epoch line with
    | some own => if w.lineGiven epoch line then s.redClimb d i own 12 else s
    | none => s

/-- A contribution of this package to one element (R338): its epoch is the number of its earlier contributions to the
element. A third open epoch stalls. One that comes after its line was completed without it (R341) counts and goes no further. -/
def State.contribute (s : State) (d : BitVec 2) (i : BitVec 6) (gpa v attr : Nat) (bad : Bool) : Res State :=
  let w := s.redWindow i
  let e := (gpa - w.start) / w.elemBytes
  let k := w.given? e
  let line := e / w.perLine
  match s.redIndex w with
  | none => .error (.trap causeBfault 0)
  | some c =>
    if k ≥ w.epoch.toNat + 2 then .error .stall
    else if k < w.epoch.toNat ∨ w.merged.contains (k, line) then .ok (s.setRedWindow i { w with given := tset 0 w.given e (k + 1) })
    else
      let own := (findPart w.parts c k line).getD
        { contributor := c, epoch := k, line := line, level := 0, values := List.replicate w.perLine 0, err := false, attr := attr }
      let own' := { own with values := own.values.set (e % w.perLine) (BitVec.ofNat 32 v), err := own.err || bad }
      let w' := { w with given := tset 0 w.given e (k + 1), parts := dropPart w.parts own ++ [own'], busy := true, progress := s.time.ns.toNat }
      .ok ((s.setRedWindow i w').redAdvance d i k line)

/-! ## The rows of the table -/

/-- A contribution or partial arrives at this package's link unit (R338, R339), or the merged line at its home. A digest that differs marks
its epoch. A unit holds contributions of at most two open epochs: one of a third waits. -/
def execReductionContribution (p : BitVec 4) (m : BitVec 128) (i : BitVec 6) (c : BitVec 10) (e : W32) (l : BitVec 23)
    (g : W32) (q : List Byte) (s : State) : Out :=
  .next (s.arriving p m 0x18 (leBytes 2 c.toNat ++ leBytes 4 e.toNat ++ leBytes 4 l.toNat ++ leBytes 4 g.toNat ++ q) fun s =>
    let here : Instr := .reductionContribution p m i c e l g q
    let d : BitVec 2 := BitVec.ofNat 2 (p.toNat / 4)
    let w := s.redWindow i
    let differs := g != s.redDigest w
    let w1 : RedWindow := { (if e.toNat < w.epoch.toNat then w else w.mark e.toNat differs) with mism := w.mism || differs }
    let s0 := s.setRedWindow i w1
    if !w.en then s.unawait here
    else if s.behind here m then s.hold here
    else if decide (e.toNat < w.epoch.toNat) || decide (w.lines.toNat ≤ l.toNat) || w.merged.contains (e.toNat, l.toNat) then s0.unawait here
    else if w.epoch.toNat + 2 ≤ e.toNat then s0.hold here
    else
      let n := w.perLine * w.elemBytes
      let x : Part :=
        { contributor := c.toNat, epoch := e.toNat, line := l.toNat, level := 0, values := bytesValues w w.perLine q
          err := differs || (q[n]?.getD 0) != 0, attr := leNat ((q.drop (n + 1)).take 2) }
      let w2 : RedWindow := { w1 with progress := s.time.ns.toNat }
      let s1 := (s0.unawait here).setRedWindow i w2
      if c = 0 ∧ w.home = s.fabric.pkg.toNat then s1.redHome d i x
      else (s1.setRedWindow i { w2 with parts := dropPart w2.parts x ++ [x], busy := true }).redAdvance d i e.toNat l.toNat)

/-- The home's acknowledgement of a line and epoch: what this unit retained of it goes (R341). -/
def execEpochAck (p : BitVec 4) (m : BitVec 128) (i : BitVec 6) (e : W32) (l : BitVec 23) (s : State) : Out :=
  .next (s.arriving p m 0x19 (leBytes 4 e.toNat ++ leBytes 4 l.toNat) fun s =>
    let w := s.redWindow i
    if !w.en || decide (e.toNat < w.epoch.toNat) || w.merged.contains (e.toNat, l.toNat) then s
    else
      let keep := fun (x : Part) => x.epoch != e.toNat || x.line != l.toNat
      (s.setRedWindow i
        { w with parts := w.parts.filter keep, sent := w.sent.filter keep, merged := w.merged ++ [(e.toNat, l.toNat)], progress := s.time.ns.toNat }).redClose
          (BitVec.ofNat 2 (p.toNat / 4)) i 4)

/-- 1 ms without progress at the home of an open epoch: its open lines complete with the error indication, nothing is
written, and ERR is set (R341). -/
def execReductionTimeout (i : BitVec 6) (s : State) : Out :=
  .next (
    let w := s.redWindow i
    if !w.en || !w.busy || w.home ≠ s.fabric.pkg.toNat || decide (s.time.ns.toNat < w.progress + 1000000) then s
    else
      let e := w.epoch.toNat
      let s1 := s.setRedWindow i { w.mark e true with err := true, progress := s.time.ns.toNat }
      (upto w.lines.toNat).foldl (fun s l =>
        let w := s.redWindow i
        if w.epoch.toNat = e ∧ !w.merged.contains (e, l) then s.redDone 0 i e l else s) s1)

/-- When a path of the window's flow changes, a unit sends again what it retains for the package (R341). -/
def State.redResend (s : State) (d : BitVec 2) (i : BitVec 6) (towards : Nat → Bool) : State :=
  let w := s.redWindow i
  w.sent.foldl (fun s p =>
    let dest := if 2 ^ p.level ≥ w.n then w.home else s.redPackage w (p.contributor - 2 ^ p.level)
    if !towards dest then s else s.redSend d i dest 0x18 (s.redBody w p)) s

/-- Merged lines that wait for a version record, or for the package's rebase, are tried again (R366). -/
def State.redRetry (s : State) (i : BitVec 6) : State :=
  let w := s.redWindow i
  if w.home ≠ s.fabric.pkg.toNat then s
  else (w.parts.filter fun p => p.level == 12).foldl (init := s) fun s p =>
    (s.setRedWindow i { s.redWindow i with parts := (s.redWindow i).parts.filter fun q => q != p }).redHome 0 i p
def State.redRetries (s : State) : State := (upto 64).foldl (fun s i => s.redRetry (BitVec.ofNat 6 i)) s

end Sys2Proof.Machine
end

