-- ==== Sys2Proof/Machine/Snapshots.lean ====
section
/-!
DEFINITION. Sys2Proof/Machine/Snapshots.lean: snapshots and transactions (R99, R100, R357 to R365), the Coppice and the
rebase (R357, R367), and checkpoint intervals as programs and timers close them (R101, R102, R368).
-/

namespace Sys2Proof.Machine

/-! ## The commit clock (R357, R360) -/

/-- At most 4,096 snapshots are live (R360). -/
def State.snapshotFree (s : State) : Bool := decide (s.liveSnaps.length < 4096)

/-! ## Transactions (R361 to R364) -/

def State.tx? (s : State) (slot : Byte) : Option Tx := tget s.versions.txs slot.toNat
def State.setTx (s : State) (slot : Byte) (x : Tx) : State :=
  { s with versions := { s.versions with txs := tput s.versions.txs slot.toNat x } }

/-- A free slot and a snapshot, for a context or a node. -/
def State.openTx (s : State) (node : W32) (share : Option Nat) : Option (Byte × State) :=
  if s.versions.txs.length < 256 ∧ s.snapshotFree then
    let slot : Byte := BitVec.ofNat 8 (freeIndex s.versions.txs 0)
    let x : Tx := { snapshot := s.versions.clock.toNat, status := none, ended := false, stamp := 0, lines := [], node := node, share := share }
    some (slot, (s.setTx slot x).tick)
  else none

/-- One line of a commit with stamp c (R363): the tentative version goes in place, the old value becomes the record,
which stays where R358 keeps it or R370 logs it. -/
def State.commitLine (s : State) (slot : Byte) (x : Tx) (c : Nat) (l : Nat) : State :=
  match s.tentative l slot with
  | none => s
  | some (i, r) =>
    let m := s.line l
    let n := s.node? x.node
    let logs := r.viaCkpt && (match n with | some n => n.ckpt && !(s.undoOf l && m.intv == n.tag) | none => false)
    let keep := s.liveSnaps.any fun y => decide (m.stamp.toNat ≤ y) && decide (y < c)
    let old : Record :=
      { r with
        data := s.lineData l, stamp := m.stamp, poison := s.linePoison l, tag := tget s.seals l, viaCkpt := false, viaPlain := false,
        kind := (if keep then 0 else 2), u := logs, intv := (match n with | some n => if logs then n.tag else 0 | none => 0) }
    let s0 := match n with
      | some n => if n.ckpt && r.viaPlain then s.onNode n.handle fun n => { n with unrollable := true } else s
      | none => s
    let s1 := if s0.undoOf l then
        { s0 with pool := { s0.pool with nodes := s0.pool.nodes.map fun k =>
            if k.ckpt ∧ k.tag = m.intv ∧ k.handle ≠ x.node then { k with unrollable := true } else k } }
      else s0
    let a := lineAddr l
    let s2 := ((({ s1 with mem := s1.mem.setBytes a r.data }).unreserve a 128).clearPoison a 128).setSeal l (r.tag.map fun (g : SealTag) => { g with stamp := BitVec.ofNat 48 c })
    let s3 := if r.poison.getLsbD 0 then s2.addPoison a else s2
    let s4 := if r.poison.getLsbD 1 then s3.addPoison (a + 64) else s3
    let s5 := { s4 with versions := { s4.versions with records := tput s4.versions.records i old } }
    let tag : BitVec 24 := match n with | some n => n.tag | none => 0
    let s6 := s5.setLine l
      { m with stamp := BitVec.ofNat 48 c, tent := false, owner := 0, intv := if logs then tag else m.intv, undo := m.undo || logs }
    if keep || logs then s6 else s6.freeRecord l i

/-- commit(T) of R363. -/
def State.commitTx (s : State) (slot : Byte) : State :=
  match s.tx? slot with
  | none => s
  | some x =>
    let finish (s : State) (st : Byte) (c : BitVec 48) : State :=
      match s.tx? slot with
      | some y => s.setTx slot { y with status := some st, ended := true, stamp := c, lines := [] }
      | none => s
    match x.status with
    | some st => finish s st 0
    | none =>
      if x.lines.any fun l => decide (x.snapshot < (s.line l).stamp.toNat) then finish (s.doom slot 1) 1 0
      else
        let s1 := s.tick
        let c := s1.versions.clock
        finish (x.lines.foldl (init := s1) fun (s : State) l => s.commitLine slot x c.toNat l) 0 c

/-- tx.abort of an open transaction (R99, R364). -/
def State.abortTx (s : State) (slot : Byte) : State :=
  match s.tx? slot with
  | none => s
  | some x =>
    if x.ended then s
    else
      let s1 := s.doom slot 4
      match s1.tx? slot with
      | some y => s1.setTx slot { y with status := some 4, ended := true, lines := [] }
      | none => s1

/-- The slot and the handle are free again (R361). -/
def State.releaseTx (s : State) (slot : Byte) : State :=
  let s1 := s.abortTx slot
  { s1 with versions := { s1.versions with txs := tdrop s1.versions.txs slot.toNat } }

/-- gd of tx.open and tx.commit (R99). -/
def txValue (status : Byte) (v : Nat) : W64 := BitVec.ofNat 64 (status.toNat * 2 ^ 56 + (if status = 0 then v else 0))

/-- The node's transaction, when the current node is in transaction mode (R365). -/
def State.nodeTx (s : State) : Option Byte :=
  match s.tileNode s.curTile with
  | some n => if n.mode = 2 then n.tx else none
  | none => none
def State.inTxNode (s : State) : Bool := match s.tileNode s.curTile with | some n => n.mode == 2 | none => false

/-- The handle operand of a tx form (R99, R365): PERM when the context does not hold it. -/
def State.txHandle (s : State) (a : BitVec 5) : Res Byte :=
  if s.inTxNode then match s.nodeTx with | some k => .ok k | none => .error (.trap causePerm 0)
  else match (s.tile s.curTile).tx with
    | some k => if s.g a = k.setWidth 64 then .ok k else .error (.trap causePerm 0)
    | none => .error (.trap causePerm 0)

/-- tx.open (R99, R361, R365); it waits while the package rebases (R357). -/
def execTxOpen (d : BitVec 5) (s : State) : Out :=
  .next (
    let t := s.curTile
    let cap := (s.setG d (txValue 2 0)).cDone
    if s.inTxNode ∨ (s.tile t).tx.isSome then cap
    else if s.versions.rebasing then s.cStall
    else match s.openTx (s.tile t).node (some (s.tile t).share) with
      | none => cap
      | some (slot, s1) => ((s1.onTile t fun x => { x with tx := some slot }).setG d (txValue 0 slot.toNat)).cDone)

/-- tx.commit (R99, R363); PERM in a transaction-mode node (R365). -/
def execTxCommit (d a : BitVec 5) (s : State) : Out :=
  .next (s.cRun (do
    let slot ← s.txHandle a
    need (!s.inTxNode) causePerm
    let ended := match s.tx? slot with | some x => x.ended | none => true
    let s1 := if ended then s else s.commitTx slot
    return match s1.tx? slot with
      | some x => s1.setG d (txValue (x.status.getD 0) x.stamp.toNat)
      | none => s1))

/-- tx.abort (R99); in a transaction-mode node it dooms (R365). -/
def execTxAbort (a : BitVec 5) (s : State) : Out :=
  .next (s.cRun (do
    let slot ← s.txHandle a
    return if s.inTxNode then s.doom slot 4 else s.abortTx slot))

def execTxStamp (d a : BitVec 5) (s : State) : Out :=
  .next (s.cRun (do
    let slot ← s.txHandle a
    return match s.tx? slot with
      | some x => s.setG d (BitVec.ofNat 64 x.snapshot)
      | none => s))

def execTxRelease (a : BitVec 5) (s : State) : Out :=
  .next (s.cRun (do
    let slot ← s.txHandle a
    need (!s.inTxNode) causePerm
    return (s.releaseTx slot).onCur fun t => { t with tx := none }))

/-! ## The Coppice and the rebase (R357, R367) -/

/-- Every reclaimable record is reclaimed. -/
def State.reclaimAll (s : State) : State := s.versions.lines.foldl (init := s) fun (s : State) e => s.reclaimLine e.1

/-- Something is tried next (MODEL). -/
def State.next (s : State) (l : List Activity) : State := { s with agenda := l ++ s.agenda }

/-- A pass, after which what waits for a record is tried again (R366). -/
def execCoppicePass (s : State) : Out :=
  .next (let s1 := s.reclaimAll
    let s2 : State := { s1 with versions := { s1.versions with pass := s1.versions.pass + 1 } }
    (s2.next (s2.versions.waiting.map fun w => .event w.2)).redRetries)

/-- The rebase, once no snapshot is live and no slot is held. A version whose stamp changes is tagged again (R374). -/
def execRebase (s : State) : Out :=
  .next (if s.versions.rebasing ∧ s.liveSnaps.isEmpty ∧ s.versions.txs.isEmpty then
      let s1 := s.reclaimAll
      let v := s1.versions
      let lines : Table LineMeta := v.lines.filterMap fun e =>
        let m := { e.2 with stamp := 0 }
        if m = LineMeta.blank then none else some (e.1, m)
      let retag (g : SealTag) : SealTag := { g with stamp := 0 }
      { s1 with
        seals := s1.seals.map fun e => (e.1, retag e.2)
        versions := { v with
          clock := 1, rebasing := false, lines := lines
          records := v.records.map fun e => (e.1, { e.2 with stamp := 0, tag := e.2.tag.map retag }) } }
    else s)

/-- A denied write has waited for BOUND µs (R366): x names the C stream, a block stream, or a copy engine of the tile's die, and 7
the writes of other packages, of routing and of reduction homes. It issues again, with its outcome, if it still finds no record. -/
def execVersionStallTimeout (t : BitVec 6) (x : BitVec 3) (s : State) : Out :=
  let u := s.tile t
  let stream (y : BStream) : State :=
    if (u.stream y).denied.isSome && s.overdue (u.stream y).denied then s.next [.issue (.block t y)] else s
  let engine (e : BitVec 1) : State :=
    match (s.die (tileDie t)).engine e with
    | [] => s
    | o :: _ => if o.denied.isSome && s.overdue o.denied then s.next [.event (.copyComplete (tileDie t) e)] else s
  .next (match x.toNat with
    | 0 => if u.control.denied.isSome && s.overdue u.control.denied then s.next [.issue (.control t)] else s
    | 1 => stream .v
    | 2 => stream .m
    | 3 => stream .l
    | 4 => stream .s
    | 5 => engine 0
    | 6 => engine 1
    | _ => (s.next ((s.versions.waiting.filter fun w => w.1.isSome && s.overdue w.1).map fun w => .event w.2)).redRetries)

/-! ## Checkpoint intervals (R101, R102, R368) -/

/-- ckpt.close (R101): it stalls until the block streams are IDLE, STOPPED or AWAIT and every copy of the tile has
completed. In a checkpoint-mode node the share then waits at the close (R368). -/
def execCkptClose (s : State) : Out :=
  .next (
    let t := s.curTile
    let x := s.tile t
    let still (y : Stream) : Bool := y.quiet && decide (y.state ≠ .faulted)
    let d := s.die (tileDie t)
    if !(still x.v && still x.m && still x.l && still x.s) || decide (0 < d.queued 0 t + d.queued 1 t) then s.cStall
    else match s.tileNode t with
      | some n =>
        if n.ckpt then
          ((s.onCtl fun k => { k with closing := true }).onNode n.handle fun n => { n with closing := if n.closing = .no then .requested else n.closing }).cStall
        else s.cDone
      | none => s.cDone)

/-- ckpt.mark (R102). -/
def execCkptMark (d : BitVec 5) (s : State) : Out :=
  .next (s.result d (match s.tileNode s.curTile with
    | some n => if n.ckpt then BitVec.ofNat 64 (b2n n.rerun * 2 ^ 63 + 2 ^ 62 + n.interval.toNat) else 0
    | none => 0))

/-- CKI µs have passed since the interval opened: each share's next arrival at KER waits (R368). -/
def execCkptIntervalTimer (h : W32) (s : State) : Out :=
  .next (match s.node? h with
    | some n =>
      if n.ckpt ∧ n.phase = .running ∧ n.opened + n.cki * 1000 ≤ s.time.ns.toNat then s.onNode h fun n => { n with closing := .timer } else s
    | none => s)

/-- The close that waits on every share (R368). -/
def execCkptIntervalClose (h : W32) (s : State) : Out :=
  .next (match s.node? h with
    | some n => if n.ckpt ∧ n.phase = .running ∧ s.closeReady n then s.closeInterval n else s
    | none => s)

end Sys2Proof.Machine
end

