-- ==== Sys2Proof/Machine/System.lean ====
section
/-!
DEFINITION. Sys2Proof/Machine/System.lean: the trap forms of the C stream (R104 to R106) and its system registers
(R107, R108, R385).
-/

namespace Sys2Proof.Machine

/-! ## Traps (R104 to R106) -/

/-- trap.ecall (R104): with g10 = 0 it ends the context (R310), else it raises ECALL. -/
def execTrapEcall (s : State) : Out :=
  .next (if s.g 10 = 0 then s.cDone.onCur fun t => { t.requestStop (fun _ => true) with ending := true } else s.cTrap causeEcall 0)

/-- trap.raise (R104): the word holds the low seven bits of a code in 0x80 to 0xFF. -/
def execTrapRaise (c : BitVec 7) (s : State) : Out := .next (s.cTrap (BitVec.ofNat 8 (128 + c.toNat)) 0)

def execTrapEbreak (s : State) : Out := .next (s.cTrap causeEbreak 0)

/-- uret (R106); in a delay slot it is CTLINT (R58). -/
def execUret (s : State) : Out :=
  .next (if (s.tile s.curTile).user.inHandler ∧ s.ctl.slot = 0 then s.onCur Tile.userReturn else s.cTrap causeCtlint 0)

/-! ## System registers (R107, R108) -/

/-- Logical tiles in service, as TMASK and TILES show them. -/
def State.usableTiles (s : State) : List Nat := (upto 64).filter fun t => s.tileUsable (BitVec.ofNat 6 t)

/-- The capacity registers of R385: 0 CAPTS, 1 CAPACC, 2 CAPCP, 3 CAPDP. -/
def State.capRegister (s : State) (t : BitVec 6) (i : Nat) : Nat :=
  let d := tileDie t
  let c := tileCluster t
  let x := s.die d
  let claim (f : Node → Nat) : Nat := match s.tileNode t with | some n => f n | none => 0
  let alloc := ((s.cluster c).cpalloc[t.toNat % 4]?.getD 0).toNat
  match i with
  | 0 => claim Node.nrows * 2 ^ 32 + x.usable 0 t.toNat x.maxop.toNat * 2 ^ 16 + s.rows 0 t.toNat
  | 1 => claim Node.nacc * 2 ^ 27 + s.bankRows t 2 * 2 ^ 18 + s.bankRows t 1 * 2 ^ 9 + s.bankRows t 0
  | 2 => bits alloc 31 16 * 2 ^ 32 + bits alloc 15 0 * 2 ^ 16 + s.rows 2 c.toNat
  | _ => x.maxop.toNat * 2 ^ 40 + x.scratch * 2 ^ 16 + s.rows 3 d.toNat

/-- The value of a system register of a tile (R108). -/
def State.sysValue (s : State) (t : BitVec 6) (i : Nat) : Nat :=
  let x := s.tile t
  let u := x.user
  let ofNode (f : Node → Nat) : Nat := match s.tileNode t with | some n => f n | none => 0
  match i with
  | 0x000 => s.fabric.pkg.toNat * 64 + t.toNat
  | 0x001 => s.usableTiles.length
  | 0x002 => (s.usableTiles.map fun k => 2 ^ k).sum
  | 0x003 => (s.die (tileDie t)).point.toNat
  | 0x004 => ofNode fun n => n.did.toNat * 2 ^ 32 + n.members % 2 ^ 20 * 2 ^ 8 + n.dlev
  | 0x005 => ofNode fun n => n.tenant * 2 ^ 48 + n.class0 * 2 ^ 40 + n.queue * 2 ^ 32 + n.number
  | 0x008 => s.time.ns.toNat
  | 0x009 => x.timef.toNat
  | 0x00A => x.tc - x.tcBase
  | 0x010 => s.capRegister t 0
  | 0x011 => s.capRegister t 1
  | 0x012 => s.capRegister t 2
  | 0x013 => s.capRegister t 3
  | 0x020 => x.vflags.toNat
  | 0x030 => u.utvec.toNat * 4
  | 0x031 => b2n u.raisen * 2 + b2n u.nren
  | 0x032 => b2n u.inHandler
  | 0x033 => u.uepc.toNat * 4
  | 0x034 => u.ucause.toNat
  | 0x035 => u.utval.toNat
  | 0x036 => u.tgt.toNat * 2 ^ 16 + u.slot.toNat
  | 0x040 => x.disc.toNat
  | 0x041 => x.pinCount
  | _ => 0

/-- sys.rd (R107): a read of TIME captures TIMEF. -/
def execSysRd (d : BitVec 5) (x : BitVec 12) (s : State) : Out :=
  .next (let s1 := s.setG d (BitVec.ofNat 64 (s.sysValue s.curTile x.toNat))
    (if x = 0x008 then s1.onCur fun t => { t with timef := s.time.frac } else s1).cDone)

/-- A write of a system register under its access codes (R8, R107, R108). -/
def Tile.sysWrite (t : Tile) (i : Nat) (v : W64) : Tile :=
  let u := t.user
  match i with
  | 0x020 => { t with vflags := t.vflags &&& ~~~ v.setWidth 6 }
  | 0x030 => { t with user := { u with utvec := BitVec.extractLsb' 2 14 v } }
  | 0x031 => { t with user := { u with nren := wbit v 0, raisen := wbit v 1 } }
  | 0x033 => { t with user := { u with uepc := BitVec.extractLsb' 2 14 v, tgt := 0, slot := 0, again := u.again && BitVec.extractLsb' 2 14 v == u.uepc } }
  | 0x040 => { t with disc := t.disc &&& ~~~ v.setWidth 8 }
  | _ => t

def execSysWr (a : BitVec 5) (x : BitVec 12) (s : State) : Out :=
  .next (s.onCur fun t => t.sysWrite x.toNat (s.g a)).cDone

end Sys2Proof.Machine
end

