-- ==== Sys2Proof/Machine/Pool.lean ====
section
/-!
DEFINITION. Sys2Proof/Machine/Pool.lean: the ready pool: intake and judgement of packets (R283, R285, R349), dependences and
aging (R286, R287), the dispatch pass with placement, reservation and victims (R288 to R291), timed nodes (R296), and
completion (R295, R350, R361, R365).
-/

namespace Sys2Proof.Machine

def usNs : Nat := 1000

/-! ## Judging a packet (R282, R283) -/

/-- The bits of a packet that no field of R282 names are zero. -/
def Node.reservedZero (n : Node) : Bool :=
  bits (n.word 0) 63 58 == 0 && bits (n.word 1) 31 20 == 0 && bits (n.word 5) 63 40 == 0 && bits (n.word 7) 63 48 == 0 &&
  bits (n.word 9) 23 23 == 0 && bits (n.word 9) 63 48 == 0 && bits (n.word 10) 63 52 == 0 && n.word 15 == 0 &&
  (upto 8).all fun i => bits (n.word (17 + 2 * i)) 63 52 == 0

def isLandingAddress (a : Nat) : Bool := a % 16 == 0 && decide (a < 2 ^ 58) && inTileStore a

/-- The values that R282 gives each field. -/
def Node.fieldsOk (n : Node) : Bool :=
  n.number != 0xFFFFFFFF && n.plat != 0 && decide (n.dlev ≤ 4) && (n.timed || n.tstamp == 0) &&
  (if n.tclass = 0 then decide (1 ≤ n.tileCount) && decide (n.tileCount ≤ 64) else n.tileCount == 0) &&
  n.root % 4096 == 0 && decide (n.root < 2 ^ 48) && n.cimg % 64 == 0 && decide (n.cimg < 2 ^ 48) &&
  (if n.tclass = 0 then decide (4 ≤ n.clen) && decide (n.clen ≤ 65536) && n.clen % 4 == 0 else n.clen == 0) &&
  decide (n.dlen ≤ 4194304) && n.dlen % 64 == 0 && n.dimg % 64 == 0 && decide (n.dimg < 2 ^ 48) && (n.dlen != 0 || n.dimg == 0) &&
  n.pro % 4 == 0 && n.ker % 4 == 0 && n.epi % 4 == 0 && n.trip != 0 && decide (n.nrows ≤ 4096) && decide (n.nacc ≤ 768) &&
  decide (n.npool ≤ 8388608) && (n.lwa == 0 || isLandingAddress n.lwa)

def Node.rd (n : Node) (i : Nat) : Bool := n.fflags i % 2 == 1 || n.fflags i / 4 % 2 == 1
def Node.wr (n : Node) (i : Nat) : Bool := n.fflags i / 2 % 2 == 1
def Node.isDisc (n : Node) (i : Nat) : Bool := n.fflags i / 8 % 2 == 1

def Node.footprintOk (n : Node) (i : Nat) : Bool :=
  (!n.isDisc i || (n.fflags i == 8 && decide (n.fbase i + n.flen i ≤ 0x400000) && n.fbase i % 1024 == 0 && n.flen i % 1024 == 0)) &&
  (n.flen i == 0 || n.fflags i != 0)

/-- A cluster that AFFC and AFFD allow. -/
def Node.allowsCluster (n : Node) (c : Nat) : Bool := n.allowsTile (4 * c)

/-- R283: none of the cases that complete a node with BADPKT. -/
def State.packetOk (s : State) (n : Node) (q : Byte) : Bool :=
  let r := s.queue q
  n.reservedZero && n.fieldsOk && !(s.pool.live.any fun m => m.number == n.number) &&
  n.class0 == r.cls.toNat && n.queue == q.toNat && n.tenant == r.tenant.toNat &&
  (n.tclass != 0 || (decide (n.pro ≤ n.ker) && decide (n.ker ≤ n.epi) && decide (n.epi < n.clen))) &&
  ((upto 16).any n.allowsCluster) &&
  decide (n.tileCount ≤ (match n.dlev with | 0 => 1 | 1 => 4 | 2 => 16 | _ => 64)) &&
  (if n.dlev = 4 then decide (2 ≤ n.dmemb) && decide (n.dmemb ≤ 65536) else n.dmemb == 0) &&
  (upto 8).all n.footprintOk

/-! ## Completion (R295, R349, R350, R361, R368) -/

/-- Nodes that depend on nothing more become ready (R286, R296). -/
def Node.overlaps (a b : Node) : Bool :=
  (upto 8).any fun i => (upto 8).any fun j =>
    a.flen i != 0 && b.flen j != 0 && !a.isDisc i && !b.isDisc j && (a.wr i || b.wr j) &&
    decide (a.fbase i < b.fbase j + b.flen j) && decide (b.fbase j < a.fbase i + a.flen i)
def Node.dependsOn (b a : Node) : Bool :=
  decide (a.order < b.order) && decide (a.phase ≠ .complete) &&
  (((upto 6).any fun i => b.pred i == a.number) || (a.root == b.root && a.overlaps b))
def State.readyDue (s : State) (n : Node) : Bool :=
  decide (n.phase = .waiting) && !(s.pool.nodes.any fun a => n.dependsOn a) &&
  (!n.timed || decide (n.tstamp ≤ s.time.ns.toNat + s.pool.lead.toNat * usNs))
def State.readyUp (s : State) : State :=
  { s with pool := { s.pool with nodes := s.pool.nodes.map fun n => if s.readyDue n then { n with phase := .ready, since := s.time.ns.toNat } else n } }

/-- D(q) := 0 for a queue that holds no ready and no running node (R288). -/
def State.idleQueues (s : State) : State :=
  let active (q : Nat) : Bool := s.pool.nodes.any fun n => decide (n.phase = .ready ∨ n.phase = .running) && n.queue == q
  { s with pool := { s.pool with queues := Vector.ofFn fun i => if active i.val then s.pool.queues[i] else { s.pool.queues[i] with deficit := 0 } } }

/-- The completion step at the landing word (R295): its cause byte, and an arrival of TARGET bytes. The MSI-X vector follows it (R349). -/
def State.landCompletion (s : State) (lwa : Nat) (cause : Byte) (v : Option Byte) : State :=
  if lwa = 0 ∨ !isLandingAddress lwa then s.sendMsix v
  else if s.ownPkg lwa then s.arriveCompletion (localOf lwa) cause v
  else
    let tag := s.fabric.nextTag
    let s1 := s.request s.poolDie .pool .write lwa 16 markCompletion [cause]
    match v with
    | none => s1
    | some x =>
      if s1.fabric.requests.any fun r => r.tag == tag then { s1 with bridge := { s1.bridge with owed := s1.bridge.owed ++ [(tag, x)] } }
      else s1.sendMsix v

/-- A supervisor that waits for a rollback of the node. -/
def State.rollWaits (s : State) (h : W32) : Bool :=
  s.clusters.toList.any fun k => match k.wait with | some (.roll _ g) => g == h | _ => false

/-- The node of a waiting rollback is live no more: rd gets BADARG (R226; DESIGN CHOICE, log 90). -/
def State.rollGone (s : State) (h : W32) : State :=
  { s with clusters := s.clusters.map fun k => match k.wait with
      | some (.roll rd g) => if g = h then { k.setReg rd 2 with wait := none } else k
      | _ => k }

/-- A node is complete: its cause is the first that reached the pool (R295). Its snapshot ends (R350), its transaction slots
are released (R361), its interval closes (R368), and shares that no tile holds are withdrawn (R296). The MSI-X message is that of its own queue (R349), where the package bridges a host
(R345). -/
def State.completeNode (s : State) (h : W32) (cause : Byte) : State :=
  match s.node? h with
  | none => s
  | some n =>
    let c := if n.cause = 0 then cause else n.cause
    let slots := s.versions.txs.filter fun e => e.2.node == h
    let s1 := slots.foldl (init := s) fun (s : State) e => s.releaseTx (BitVec.ofNat 8 e.1)
    let s2 := if n.ckpt ∧ n.turn ≠ 0 then s1.clearUndo n.tag else s1
    let snaps := match n.snapshot with | some x => s2.versions.nodeSnaps.erase x | none => s2.versions.nodeSnaps
    let s3 := s2.onNode h fun n =>
      { n with
        phase := .complete, cause := c, snapshot := none, tx := none, op := none, closing := .no, stopFor := none
        shares := n.shares.map fun y => if y.phase = .loaded then y else { y with phase := .withdrawn } }
    let s4 := { s3 with
      versions := { s3.versions with nodeSnaps := snaps }
      pool := { s3.pool with reserving := s3.pool.reserving.filter fun r => r != h }
      tiles := s3.tiles.map fun (x : Tile) => if x.node = h ∧ x.tx.isSome then { x with tx := none } else x }
    let q := s4.queue n.via
    ((s4.rollGone h).landCompletion n.lwa c (if q.ien ∧ s4.bridge.hosten then some q.vec else none)).readyUp.idleQueues

/-! ## Intake (R285, R349) -/

def Barrier.fresh : Barrier := { phase := 0, arrived := [] }
def Share.fresh (i : Nat) : Share :=
  { index := i, phase := .unplaced, tile := 0, savedBy := none, own := false, closed := false, reported := none, ended := false,
    endedIn := 0, base := 0, written := [], home := none, dirtyA := Dirty.all, dirtyB := Dirty.all }

/-- A node as its packet gives it, with the handle of its acceptance. -/
def Node.ofPacket (p : Vector W64 32) (q : Byte) (order now : Nat) : Node :=
  let n : Node :=
    { handle := BitVec.ofNat 32 (order + 1), order := order, via := q, turn := 0, counted := false, packet := p, phase := .waiting, cls := 0, since := now, start := 0,
      shares := [], preempted := false, stopFor := none, stopAt := 0, cause := 0, snapshot := none, tx := none, did := 0,
      barriers := Vector.replicate 16 Barrier.fresh, interval := 0, tag := 0, opened := 0, rerun := false, unrollable := false,
      closing := .no, timedOk := false, hostDone := false, op := none }
  { n with cls := BitVec.ofNat 2 n.class0, shares := (upto n.tileCount).map Share.fresh }

/-- The queue whose packet is read next, after the one read last; queues found with too high a count are marked (R349). -/
def State.nextQueue (s : State) : State × Option Byte :=
  (upto 256).foldl (init := (s, (none : Option Byte))) fun (a : State × Option Byte) k =>
    match a.2 with
    | some _ => a
    | none =>
      let q : Byte := s.pool.lastRead + 1 + BitVec.ofNat 8 k
      let r := a.1.queue q
      let count := (r.tail - r.head).toNat
      if !r.en || r.blocked || decide (count = 0) then a
      else if 2 ^ r.lsize.toNat < count then (a.1.setQueue q { r with ovr := true, blocked := true }, none)
      else (a.1, some q)

/-- The pool has the packets of a queue's head entry; from a quarantined frame it gets none (R400), zeros that no packet is. -/
def State.packetAt (s : State) (pa : Nat) : State × Vector W64 32 :=
  let r : List Byte × Bool := if place pa = .hbm ∧ !s.quarantined pa then s.rawRead pa 256 else (List.replicate 256 0, false)
  let s1 := if r.2 then s.logError none 0 (.consumed (s.firstBad pa 256)) else s
  (s1, Vector.ofFn fun j => BitVec.ofNat 64 (leNat ((r.1.drop (8 * j.val)).take 8)))

/-- The die that runs the pool is ready (R408, R409). -/
def State.poolReady (s : State) : Bool := wbit s.ready.eng (if s.pool.mirror then 34 else 33)

def State.acceptPacket (s : State) : State :=
  if !s.poolReady || decide (16384 ≤ s.pool.live.length) then s
  else
    let r := s.nextQueue
    match r.2 with
    | none => r.1
    | some q =>
      let k := r.1.queue q
      let got := r.1.packetAt (k.base.toNat * 256 + 256 * (k.head.toNat % 2 ^ k.lsize.toNat))
      let s1 := got.1
      let n := Node.ofPacket got.2 q s1.pool.accepted s1.time.ns.toNat
      let ok := s1.packetOk n q
      let s2 := (s1.setQueue q { k with head := k.head + 1 })
      let s3 := { s2 with pool := { s2.pool with nodes := s2.pool.nodes ++ [n], accepted := s2.pool.accepted + 1, lastRead := q } }
      if ok then s3.readyUp else s3.completeNode n.handle causeBadpkt

def execPacketAccept (s : State) : Out := .next s.acceptPacket

/-! ## Placement (R289) -/

def Node.liveShares (n : Node) : List Share := n.shares.filter fun y => y.reported.isNone
/-- A share that is on a tile, or on its way to one. -/
def Share.sits (y : Share) : Bool := decide (y.phase = .placed ∨ y.phase = .handed ∨ y.phase = .loaded)
/-- The shares that a dispatch of the node places: those its supervisors do not hold (R376). -/
def Node.placing (n : Node) : List Share := n.liveShares.filter fun y => decide (y.phase ≠ .held) && !y.sits && !y.ended
/-- The tiles of the shares that a dispatch leaves where they are. -/
def Node.staying (n : Node) : List Nat :=
  (n.liveShares.filter fun y => (decide (y.phase = .held) || y.sits) && !y.ended).map fun y => y.tile.toNat

/-- NPOOL bytes of the shares placed in a cluster and not yet ended. -/
def State.poolUsed (s : State) (c : Nat) (freed : List Nat) : Nat :=
  (s.pool.live.map fun n => n.npool * n.liveShares.countP fun y =>
    !y.ended && (y.sits || decide (y.phase = .held)) && y.tile.toNat / 4 == c && !freed.contains y.tile.toNat).sum

/-- A tile whose place and capacity meet a node, at its die's point. -/
def State.tileFits (s : State) (n : Node) (t : Nat) : Bool :=
  let k : BitVec 6 := BitVec.ofNat 6 t
  n.allowsTile t && s.tileUsable k && decide (n.nrows ≤ s.rows 0 t) && decide (n.nacc ≤ s.rows 1 t)

/-- The tiles to which a pre-empted REPLAY node's shares must return (R289, R307). -/
def Node.fixedTiles (n : Node) : List (Nat × Nat) :=
  if n.preempted && !n.drains then
    n.placing.filterMap fun y => match y.home, y.savedBy with | some _, some t => some (y.index, t.toNat) | _, _ => none
  else []

/-- A tile that a placement of the node could use: any that fits, while some share of it may take any. -/
def State.couldUse (s : State) (n : Node) (t : Nat) : Bool :=
  s.tileFits n t && (decide (n.fixedTiles.length < n.placing.length) || n.fixedTiles.any fun e => e.2 == t)

/-- A tile is kept from the node: a ready node of higher current class, or one of equal class that reserved before it, could use it and
reserves (R290). -/
def State.keptFrom (s : State) (n : Node) (t : Nat) : Bool :=
  let before := s.pool.reserving.takeWhile fun h => h != n.handle
  s.pool.reserving.any fun h => match s.node? h with
    | some m => m.handle != n.handle && decide (m.phase = .ready) && s.couldUse m t &&
        (decide (m.cls.toNat < n.cls.toNat) || (m.cls == n.cls && before.contains h))
    | none => false

/-- An EMPTY tile that the pool may use now for the node. -/
def State.tileFree (s : State) (n : Node) (t : Nat) : Bool :=
  let k : BitVec 6 := BitVec.ofNat 6 t
  decide ((s.tile k).status = .empty) && wbit s.ready.tile t && wbit s.ready.mem (28 + t / 4) && !(s.die (tileDie k)).stepping &&
  !(s.pool.live.any fun m => m.liveShares.any fun y => decide (y.phase = .placed ∨ y.phase = .handed) && y.tile == k) &&
  !s.keptFrom n t

/-- The tiles of one group: the fixed ones first, then ascending, while the clusters' pools have room. -/
def State.pickFrom (s : State) (n : Node) (need : Nat) (fixed cands freed : List Nat) (fresh : Bool) : Option (List Nat) :=
  let order := fixed ++ cands.filter fun t => !fixed.contains t
  let picks := order.foldl (init := ([] : List Nat)) fun (a : List Nat) t =>
    let c := t / 4
    let room := s.rows 2 c * 1024 - (if fresh then 0 else s.poolUsed c freed)
    if a.length < need ∧ n.npool * (a.countP (fun u => u / 4 == c) + 1) ≤ room then a ++ [t] else a
  if picks.length = need ∧ fixed.all (fun t => picks.contains t && cands.contains t) then some picks else none

/-- Every group of tiles that DLEV allows, in ascending order: those that take in the shares which stay. -/
def Node.groups (n : Node) : List (List Nat) :=
  let all := match n.dlev with
    | 0 | 1 => (upto 16).map fun c => (upto 4).map fun t => 4 * c + t
    | 2 => (upto 4).map fun d => (upto 16).map fun t => 16 * d + t
    | _ => [upto 64]
  all.filter fun g => n.staying.all g.contains

/-- A placement of the node: a tile for each share. `exist` asks whether one can exist at the current points; `freed` are
tiles taken to be EMPTY. -/
def State.choose (s : State) (n : Node) (exist : Bool) (freed : List Nat) : Option (List (Nat × Nat)) :=
  let ok (t : Nat) : Bool := s.tileFits n t && (exist || (freed.contains t && !s.keptFrom n t) || s.tileFree n t)
  let fixed := n.fixedTiles
  let tiles := n.groups.findSome? fun g => s.pickFrom n n.placing.length (fixed.map (·.2)) (g.filter ok) freed exist
  tiles.map fun picks =>
    let rest := picks.filter fun t => !(fixed.any fun e => e.2 == t)
    let shares := (n.placing.map (·.index)).filter fun i => !(fixed.any fun e => e.1 == i)
    fixed ++ shares.zip rest

/-! ## Dispatch -/

/-- A domain number that no live node has (R297). -/
def State.freshDid (s : State) : W32 :=
  let used (k : Nat) : Bool := s.pool.live.any fun m => m.did.toNat == k
  BitVec.ofNat 32 (((upto (s.pool.live.length + 1)).find? fun k => !used (k + 1)).getD 0 + 1)

/-- A tile node's domain (R297). -/
def State.giveDomain (s : State) (n : Node) : State :=
  if n.did = 0 then s.onNode n.handle fun m =>
    { m with did := if bits (n.word 10) 31 0 = 0 then s.freshDid else BitVec.ofNat 32 (bits (n.word 10) 31 0) }
  else s

/-- What the first dispatch of a node takes, whatever its target (R350, R365, R368); none while it must wait (R357, R360, R361). -/
def State.begin_ (s : State) (n : Node) : Option State :=
  if n.mode = 1 ∧ n.snapshot.isNone then
    if s.versions.rebasing || !s.snapshotFree then none
    else
      let st := s.versions.clock.toNat
      let s1 := { s with versions := { s.versions with nodeSnaps := st :: s.versions.nodeSnaps } }
      some (s1.tick.onNode n.handle fun m => { m with snapshot := some st })
  else if n.mode = 2 ∧ n.tx.isNone then
    if s.versions.rebasing then none
    else (s.openTx n.handle none).map fun r => r.2.onNode n.handle fun m => { m with tx := some r.1 }
  else if n.ckpt ∧ n.turn = 0 then
    let g := s.freshTag
    some (g.2.onNode n.handle fun m => { m with tag := g.1, interval := 0, opened := s.time.ns.toNat })
  else some s

/-- The node takes its place in the order of dispatch. -/
def State.takeTurn (s : State) (h : W32) : State :=
  { s with pool := { s.pool with turns := s.pool.turns + 1 } }.onNode h fun m => { m with turn := s.pool.turns + 1 }

def State.dispatchTile (s : State) (n : Node) : Option State :=
  (s.choose n false []).bind fun picks => ((s.giveDomain n).begin_ n).map fun s1 =>
    let s2 := (s1.takeTurn n.handle).onNode n.handle fun m =>
      { m with
        phase := .running, start := s.time.ns.toNat, stopFor := none, counted := false
        shares := m.shares.map fun y => match picks.find? fun e => e.1 == y.index with
          | some e => if y.reported.isNone then { y with phase := .placed, tile := BitVec.ofNat 6 e.2 } else y
          | none => y }
    { s2 with pool := { s2.pool with reserving := s2.pool.reserving.filter fun h => h != n.handle } }

def State.nodeRuns (s : State) (h : W32) (op : Option Nat) : State :=
  (s.takeTurn h).onNode h fun m => { m with phase := .running, start := s.time.ns.toNat, op := op }

/-- Bytes of a record of the pool at a physical address; what an unusable one makes the node's cause (R291). -/
def State.poolRecord (s : State) (pa : Nat) : Res (Vector W64 8) := do
  need (s.storage pa && s.storage (pa + 63)) causeXlate
  need (!s.quarantined pa) causePerm
  let bs ← s.readChecked openLeaf .newest pa 64
  return Vector.ofFn fun j => BitVec.ofNat 64 (leNat ((bs.drop (8 * j.val)).take 8))

def State.poolFail (s : State) (n : Node) : Bad → Option State
  | .trap c _ => some ((s.nodeRuns n.handle none).completeNode n.handle c)
  | .consumed pa => some ((s.logError (some n.handle) causePoison (.consumed pa)).completeNode n.handle causePoison)
  | .lost d a => some ((s.logError (some n.handle) causePoison (.lost d a)).completeNode n.handle causePoison)
  | .integrity pa => some ((s.logError (some n.handle) causeIntegrity (.integrity pa)).completeNode n.handle causeIntegrity)
  | _ => none

/-- The die copy engine with the fewest copies queued, among the dies in AFFD (R291) whose point does not step (R389). -/
def State.leastEngine (s : State) (n : Node) : Option (BitVec 2 × BitVec 1) :=
  let all := (upto 8).filter fun k => bits n.affd (k / 2) (k / 2) == 1 && wbit s.ready.eng k && !(s.die (BitVec.ofNat 2 (k / 2))).failed &&
    !(s.die (BitVec.ofNat 2 (k / 2))).stepping
  let len (k : Nat) : Nat := ((s.die (BitVec.ofNat 2 (k / 2))).engine (BitVec.ofNat 1 k)).length
  (all.foldl (init := (none : Option Nat)) fun (b : Option Nat) k => match b with
    | none => some k
    | some j => if len k < len j then some k else some j).map fun k => (BitVec.ofNat 2 (k / 2), BitVec.ofNat 1 k)

/-- A copy node goes to a die copy engine (R291), once one is ready and the node may begin. -/
def State.dispatchCopy (s : State) (n : Node) : Option State :=
  match s.leastEngine n with
  | none => none
  | some (d, e) =>
    let t : BitVec 6 := BitVec.ofNat 6 (16 * d.toNat)
    let made : Res (CopyRecord × List Held × Option Nat) := do
      let r : CopyRecord ← s.poolRecord n.cimg
      need (CopyRecord.fieldsOk r) causeBfault
      need (bits (CopyRecord.word r 5) 15 0 == 0) causeBadpkt
      return (r, ← s.copyPins t n.root r)
    match made with
    | .error b => s.poolFail n b
    | .ok (r, pins, lw) => (s.begin_ n).map fun s0 =>
      let op : CopyOp :=
        { id := s.nextOp, tile := none, node := n.handle, record := r, pins := pins, lw := lw, running := false, denied := none
          performed := none, told := false }
      let s1 := (s0.onDie d fun x => x.setEngine e (x.engine e ++ [op])).nodeRuns n.handle (some s.nextOp)
      { s1 with nextOp := s.nextOp + 1 }

/-- A routing node's block is executed as rt.send (R291). While the bytes of its list at another package are asked for, and while the
status is FULL, it waits, and so while its die's point steps (R389). -/
def State.dispatchRouting (s : State) (n : Node) : State × Bool :=
  match (upto 4).find? fun d => bits n.affd d d == 1 with
  | none => (s, false)
  | some k =>
    let d : BitVec 2 := BitVec.ofNat 2 k
    let who : Asker := .operation (2 ^ 40 + n.handle.toNat)
    let told (o : Option State) : State × Bool := match o with | some s1 => (s1, true) | none => (s, false)
    if (s.die d).stepping then (s, false)
    else match s.poolRecord n.cimg with
    | .error b => told (s.poolFail n b)
    | .ok b => match s.makeSend (BitVec.ofNat 6 (16 * k)) n.root d none n.handle who b with
      | .error (.away gpa m k) => (s.ask d who .read gpa m k [BitVec.ofNat 8 m], false)
      | .error b => told (s.poolFail n b)
      | .ok (s1, st, _) =>
        if st = 0 then told ((s1.begin_ n).map fun s2 => (s2.dropAnswers who).nodeRuns n.handle (some s.nextOp))
        else if st = rtFull then (s, false)
        else (s.completeNode n.handle causeBadpkt, true)

/-- place and dispatch of one node (R289, R291), and whether it has been dispatched or is over. -/
def State.place? (s : State) (n : Node) : State × Bool :=
  let told (o : Option State) : State × Bool := match o with | some s1 => (s1, true) | none => (s, false)
  match n.tclass with
  | 0 => told (s.dispatchTile n)
  | 1 => s.dispatchRouting n
  | 2 => told (s.dispatchCopy n)
  | _ => told ((s.begin_ n).map fun s0 =>
    let s1 := s0.nodeRuns n.handle none
    { s1 with pool := { s1.pool with hdisp := s1.pool.hdisp ++ [BitVec.ofNat 32 n.number] } })

/-! ## Reservation, victims and slices (R290) -/

/-- Every EMPTY tile that n could use, now and later, is kept for it until n is placed. -/
def State.reserve (s : State) (n : Node) : State :=
  if s.pool.reserving.contains n.handle then s
  else { s with pool := { s.pool with reserving := s.pool.reserving ++ [n.handle] } }

/-- The stop of every tile of a node for another (R215, R290). Shares that no tile holds yet are taken back. -/
def State.requestStop (s : State) (h for_ : W32) : State :=
  match s.node? h with
  | none => s
  | some n =>
    let s1 := n.liveShares.foldl (init := s) fun (s : State) y =>
      if y.phase = .loaded then s.onTile y.tile fun x => if x.status = .run ∧ x.node = h then { x with status := .stopping } else x else s
    (s1.onNode h fun m =>
      { m with
        stopFor := some for_, stopAt := s.time.ns.toNat, counted := false
        shares := m.shares.map fun y =>
          if (y.phase = .placed ∨ y.phase = .handed) ∧ (s.tile y.tile).status = .empty then { y with phase := .unplaced } else y }).victimBack h

/-- The tiles that a running node's shares sit on. -/
def Node.tilesHeld (n : Node) : List Nat := (n.liveShares.filter Share.sits).map fun y => y.tile.toNat
/-- Those that a stop of the node would empty: a share that its own supervisor stopped is no victim (R376). -/
def Node.tilesYielded (n : Node) : List Nat := (n.liveShares.filter fun y => y.sits && !y.own).map fun y => y.tile.toNat

/-- Greatest current class first, then the most recently dispatched. -/
def insertVictim (n : Node) : List Node → List Node
  | [] => [n]
  | m :: r =>
    if m.cls.toNat < n.cls.toNat ∨ (m.cls = n.cls ∧ m.turn < n.turn) then n :: m :: r
    else m :: insertVictim n r

def State.running (s : State) : List Node := s.pool.live.filter fun m => decide (m.phase = .running) && m.tclass == 0

/-- choose_victims(n): nodes already stopping for n count as chosen; one that stops for another node can be chosen as well. -/
def State.chooseVictims (s : State) (n : Node) : State :=
  let reach (m : Node) : Bool := m.tilesYielded.any fun t => s.couldUse n t
  let mine (m : Node) : Bool := m.stopFor == some n.handle
  let asked := (s.running.filter fun m => mine m && reach m).flatMap Node.tilesYielded
  let free := (s.running.filter fun m => decide (n.cls.toNat < m.cls.toNat) && !m.timed && !mine m && reach m).foldl (init := ([] : List Node))
    fun (l : List Node) m => insertVictim m l
  let r := free.foldl (init := (s, asked)) fun (a : State × List Nat) m =>
    if (s.choose n false a.2).isSome then a
    else (if m.stopFor.isSome then a.1 else a.1.requestStop m.handle n.handle, a.2 ++ m.tilesYielded)
  r.1

/-- A stop that takes longer than the victim's PLAT counts as late for the queue that waits (R293, R300). -/
def State.countLate (s : State) : State :=
  (s.running.filter fun m => m.stopFor.isSome && !m.counted && decide (m.stopAt + m.plat * 1000 < s.time.ns.toNat)).foldl (init := s)
    fun (s : State) m =>
      let s1 := s.onNode m.handle fun m => { m with counted := true }
      match m.stopFor.bind fun w => s.pool.nodes.find? fun k => k.handle == w with
      | some k =>
        let q : Byte := BitVec.ofNat 8 k.queue
        let r := s.queue q
        s1.setQueue q { r with late := if r.late = 0xFFFF then r.late else r.late + 1 }
      | none => s1

/-! ## The dispatch pass (R288) -/

def State.headOf (s : State) (q c : Nat) : Option Node :=
  s.pool.nodes.find? fun n => decide (n.phase = .ready) && n.queue == q && n.cls.toNat == c

/-- One queue's turn in a class: dispatches while its deficit lasts. -/
def State.queueTurn (q : Byte) (c : Nat) : Nat → State × Bool → State × Bool
  | 0, a => a
  | f + 1, (s, stop) =>
    if stop ∨ (s.queue q).deficit ≤ 0 then (s, stop)
    else match s.headOf q.toNat c with
      | none => (s, stop)
      | some n =>
        let r := s.place? n
        if r.2 then State.queueTurn q c f ({ r.1 with pool := { r.1.pool with rr := r.1.pool.rr.set! c q } }, false)
        else (if n.tclass = 0 then (r.1.reserve n).chooseVictims n else r.1, true)

/-- D(q) counts in tile-ns: QUANTUM × W(q) is in tile-µs. -/
def State.topUp (s : State) (q : Byte) : State :=
  let r := s.queue q
  let full : Int := s.pool.quantum.toNat * r.weight.toNat * usNs
  if r.deficit ≤ 0 then s.setQueue q { r with deficit := min (r.deficit + full) full } else s

/-- The turns of one class; RR(c) is read anew at each, since a dispatch moves it. -/
def State.classTurn (s : State) (c : Nat) : State :=
  ((upto 256).foldl (init := (s, false)) fun (a : State × Bool) k =>
    let q : Byte := a.1.pool.rr[c]?.getD 255 + 1 + BitVec.ofNat 8 k
    if a.2 ∨ (a.1.headOf q.toNat c).isNone then a
    else State.queueTurn q c a.1.pool.nodes.length (a.1.topUp q, false)).1

/-- Tile nodes not yet dispatched that no placement can serve complete with CAPFAULT (R289). -/
def State.capFaults (s : State) : State :=
  (s.pool.nodes.filter fun n => decide (n.phase = .ready ∨ n.phase = .waiting) && n.tclass == 0 && (s.choose n true []).isNone).foldl (init := s)
    fun (s : State) n => s.completeNode n.handle causeCapfault

/-- Idle queues hold no deficit, and reservations of nodes that are no longer ready end. -/
def State.tidyQueues (s : State) : State :=
  let s1 := s.idleQueues
  { s1 with pool := { s1.pool with
    reserving := s.pool.reserving.filter fun h => s.pool.nodes.any fun n => n.handle == h && decide (n.phase = .ready) } }

def State.dispatchPass (s : State) : State :=
  if !s.poolReady then s
  else ((upto 4).foldl (init := s.readyUp.capFaults.tidyQueues) fun (s : State) c => s.classTurn c).takeEarly

def execDispatchPass (s : State) : Out := .next s.dispatchPass

/-! ## Aging, slices and time (R287, R288, R290) -/

/-- AGE(c) in µs; 0 disables. -/
def Pool.age (p : Pool) (c : Nat) : Nat :=
  match c with
  | 1 => p.age1.toNat
  | 2 => p.age2.toNat
  | 3 => p.age3.toNat
  | _ => 0

def execClassPromotion (h : W32) (s : State) : Out :=
  .next (match s.node? h with
    | some n =>
      let age := s.pool.age n.cls.toNat
      if n.phase = .ready ∧ age ≠ 0 ∧ n.since + age * usNs ≤ s.time.ns.toNat then
        s.onNode h fun n => { n with cls := n.cls - 1, since := n.since + age * usNs }
      else s
    | none => s)

/-- A node that has run SLICE stops for one of its class in another queue that reserves tiles (R290). -/
def execSliceExpiry (h : W32) (s : State) : Out :=
  .next (match s.node? h with
    | some m =>
      if m.phase = .running ∧ m.tclass = 0 ∧ !m.timed ∧ m.stopFor.isNone ∧ m.start + s.pool.slice.toNat * usNs ≤ s.time.ns.toNat then
        match s.pool.nodes.find? fun n => decide (n.phase = .ready) && n.cls == m.cls && n.queue != m.queue &&
            s.pool.reserving.contains n.handle && m.tilesYielded.any fun t => s.couldUse n t with
        | some n => s.requestStop h n.handle
        | none => s
      else s
    | none => s)

/-- Deficits fall by one for each tile a node runs on (R288). -/
def State.drainDeficits (s : State) (ns : Nat) : State :=
  s.running.foldl (init := s) fun (s : State) n =>
    let q : Byte := BitVec.ofNat 8 n.queue
    let r := s.queue q
    s.setQueue q { r with deficit := r.deficit - (n.tilesHeld.length * ns : Nat) }

/-! ## Timed nodes (R296) -/

def execTimedReady (h : W32) (s : State) : Out :=
  .next (match s.node? h with
    | some n => if n.timed && s.readyDue n then s.onNode h fun n => { n with phase := .ready, since := s.time.ns.toNat } else s
    | none => s)

def execTimedStart (h : W32) (s : State) : Out :=
  .next (match s.node? h with
    | some n =>
      if n.timed ∧ !n.timedOk ∧ n.tstamp ≤ s.time.ns.toNat then
        if n.phase = .running ∧ n.liveShares.all fun y => decide (y.phase = .loaded) && decide ((s.tile y.tile).status = .run) then
          s.onNode h fun n => { n with timedOk := true }
        else
          let s1 := n.shares.foldl (init := s) fun (s : State) y =>
            if y.phase = .loaded then s.onTile y.tile fun x =>
              if x.node = h ∧ (x.status = .ready ∨ x.status = .run ∨ x.status = .stopping) then x.stopAll.enter .done else x
            else s
          s1.completeNode h causeTlate
      else s
    | none => s)

/-! ## NODE_COMPLETE (R295, R365) -/

/-- The node is dispatched again from its packet with a new transaction (R365). -/
def State.retryTx (s : State) (n : Node) (slot : Byte) : State :=
  (s.releaseTx slot).onNode n.handle fun m =>
    { m with
      phase := .ready, since := s.time.ns.toNat, tx := none, cause := 0, preempted := false, start := 0, stopFor := none, hostDone := false, op := none
      shares := (upto n.tileCount).map Share.fresh, barriers := Vector.replicate 16 Barrier.fresh }

/-- The outcome of a transaction-mode node whose shares have all reported. -/
def State.endTxNode (s : State) (n : Node) (slot : Byte) : State :=
  let s1 := if n.cause = 0 then s.commitTx slot else s.abortTx slot
  match ((s1.tx? slot).bind Tx.status).map BitVec.toNat with
  | some 1 => s1.retryTx n slot
  | some 3 => (s1.onNode n.handle fun m => { m with cause := causeVerfull }).completeNode n.handle causeVerfull
  | some 5 => (s1.onNode n.handle fun m => { m with cause := causePoison }).completeNode n.handle causePoison
  | _ => s1.completeNode n.handle n.cause

/-- Every access of the node has been performed, its copies and routing operations included: the release of its last report (R275). -/
def State.nodeQuiet (s : State) (n : Node) : Bool :=
  n.shares.all fun y => decide (y.phase ≠ .loaded) || (!s.opsBusy y.tile && !s.streamsAsking y.tile)

/-- A rollback that waits comes first: it withdraws the reports of the interval (R226). -/
def execNodeComplete (h : W32) (s : State) : Out :=
  .next (match s.node? h with
    | some n =>
      if n.phase ≠ .running ∨ s.rollWaits h ∨ !(if n.tclass = 0 then (n.shares.all fun y => y.reported.isSome) && s.nodeQuiet n else n.hostDone) then s
      else match n.tx with
        | some slot => if n.mode = 2 then s.endTxNode n slot else s.completeNode h n.cause
        | none => s.completeNode h n.cause
    | none => s)

/-! ## The pool partition (R251) -/

def State.partitionDone (s : State) (d : BitVec 2) : State :=
  match (s.die d).partition with
  | none => s
  | some rows =>
    let old := (s.die d).scratch
    let base := scratchBase + d.toNat * 0x4000000
    let lo := min old rows
    ((s.clearRange (base + 1024 * lo) (1024 * (max old rows - lo))).onDie d fun x => { x with scratch := rows, partition := none }).retryHeld.redRetries

end Sys2Proof.Machine
end

