-- ==== Sys2Proof/Machine/Capacity.lean ====
section
/-!
DEFINITION. Sys2Proof/Machine/Capacity.lean: claims and doomed ranges (R222, R375, R383, R388), steps of a die's point
(R389, R391), rows and tiles that fail in service (R391 to R393), scrubbing (R395), HBM repair (R394), telemetry (R410)
and the failure of a die (R285, R336).
-/

namespace Sys2Proof.Machine

/-! ## Claims (R375, R383, R388) -/

/-- Units of an array on a die (R222). -/
def dieUnits (d : BitVec 2) (array : BitVec 2) : List Nat :=
  match array.toNat with
  | 0 | 1 => (upto 16).map fun i => 16 * d.toNat + i
  | 2 => (upto 4).map fun i => 4 * d.toNat + i
  | _ => [d.toNat]

/-- Every unit of a die, in the order of plan entries. -/
def allUnits (d : BitVec 2) : List (BitVec 2 × Nat) :=
  (upto 4).flatMap fun a => (dieUnits d (BitVec.ofNat 2 a)).map fun u => (BitVec.ofNat 2 a, u)

/-- Where the rows of an addressable unit begin in the map (R249). -/
def unitBase (array : BitVec 2) (unit : Nat) : Nat :=
  match array.toNat with
  | 0 => tileBase + unit * 0x400000
  | 2 => poolBase + unit * 0x800000
  | _ => scratchBase + unit * 0x4000000

/-- A context claims rows from the start of its load until its tile enters EMPTY. -/
def Tile.claims (x : Tile) : Bool := !(decide (x.status = .empty) || decide (x.status = .retired))

/-- A claim of the context on a tile on rows [lo, hi) of a unit. -/
def State.contextClaims (s : State) (array : BitVec 2) (unit lo hi : Nat) (t : Nat) : Bool :=
  let k : BitVec 6 := BitVec.ofNat 6 t
  match s.tileNode k with
  | none => false
  | some n =>
    match array.toNat with
    | 0 => t == unit && decide (lo < n.nrows)
    | 1 => t == unit && decide (lo < n.nacc)
    | 2 =>
      let a := ((s.cluster (tileCluster k)).cpalloc[t % 4]?.getD 0).toNat
      t / 4 == unit && decide (max lo (bits a 15 0) < min hi (bits a 15 0 + bits a 31 16))
    | _ => false

/-- Group ranges that the operations and pins of nodes reach, with the handles of the nodes (R388). -/
def State.reached (s : State) : List (W32 × (Nat × Nat)) :=
  let windows := s.tiles.toList.flatMap fun x => if x.claims then
      x.windows.toList.flatMap fun w => match w with | some w => w.pins.map (fun p => (x.node, (p.leaf.base, p.leaf.size))) | none => []
    else []
  let frag (h : W32) (pins : List Held) (l : List (Nat × Nat)) : List (W32 × (Nat × Nat)) :=
    (l.flatMap fun e => fragments pins (e.2 / 4096 + 2) e.1 e.2).map fun e => (h, e)
  let copies := s.dies.toList.flatMap fun d => d.engines.toList.flatMap fun q => q.flatMap fun o =>
    let r : CopyRecord := o.record
    frag o.node o.pins (CopyRecord.sources r ++ CopyRecord.destinations r ++ (if CopyRecord.lwa r = 0 then [] else [(CopyRecord.lwa r, 16)]))
  let buffers := s.dies.toList.flatMap fun d => d.recvs.toList.flatMap fun r =>
    if r.opened then frag r.node r.pins ([(r.buf.toNat, r.cap * r.slotu * 128)] ++ (if r.lwa = 0 then [] else [(r.lwa.toNat, 16)])) else []
  windows ++ copies ++ buffers

/-- Handles of the nodes that claim rows [lo, hi) of a unit. -/
def State.claimants (s : State) (array : BitVec 2) (unit lo hi : Nat) : List W32 :=
  let contexts := ((upto 64).filter (s.contextClaims array unit lo hi)).map fun t => (s.tile (BitVec.ofNat 6 t)).node
  let range := (s.group (unitBase array unit + 1024 * lo), 1024 * (hi - lo))
  let others := if array = 1 then [] else (s.reached.filter fun e => overlap e.2 range).map (·.1)
  contexts ++ others

/-- The scratch claim (R383). -/
def State.scratchClaims (s : State) (array : BitVec 2) (unit lo : Nat) : Bool :=
  array == 3 && decide (lo < (s.die (BitVec.ofNat 2 unit)).scratch)

/-- A doomed range: array, unit, bank, first row in the bank, rows, and the claiming node (R222). -/
structure Doomed where
  array : BitVec 2
  unit : Nat
  bank : Nat
  first : Nat
  count : Nat
  node : Option W32
deriving DecidableEq, Repr

/-- The ranges of one unit between two prefixes; the accumulator's are split by bank. -/
def State.unitDoomed (s : State) (array : BitVec 2) (unit lo hi : Nat) : List Doomed :=
  let one (bank a b off : Nat) : List Doomed :=
    if b ≤ a then []
    else
      let hs := s.claimants array unit a b
      let node := match hs with
        | [] => if s.scratchClaims array unit a then some 0xFFFFFFFE else none
        | h :: r => some (r.foldl (fun x y => if y < x then y else x) h)
      [{ array := array, unit := unit, bank := bank, first := a - off, count := b - a, node := node }]
  if array = 1 then (upto 3).flatMap fun k => one k (max lo (256 * k)) (min hi (256 * k + 256)) (256 * k)
  else one 0 lo hi 0

/-- Every doomed range of a step of the die to a point, in the order of R222. -/
def State.doomed (s : State) (d : BitVec 2) (target : Nat) : List Doomed :=
  let x := s.die d
  if target ≤ x.point.toNat then []
  else (allUnits d).flatMap fun e => s.unitDoomed e.1 e.2 (x.usable e.1 e.2 target) (x.usable e.1 e.2 x.point.toNat)

/-! ## Steps (R389) -/

/-- Rows [lo, hi) of a unit hold nothing any more. -/
def State.clearRows (s : State) (array : BitVec 2) (unit lo hi : Nat) : State :=
  if hi ≤ lo then s
  else if array = 1 then s.onTile (BitVec.ofNat 6 unit) fun x =>
    { x with banks := Vector.ofFn fun b =>
        { x.banks[b] with
          cells := x.banks[b].cells.filter fun e => !(decide (lo ≤ 256 * b.val + e.1 / 512) && decide (256 * b.val + e.1 / 512 < hi))
          bad := x.banks[b].bad.filter fun g => !(decide (lo ≤ 256 * b.val + g / 256) && decide (256 * b.val + g / 256 < hi)) } }
  else s.clearRange (unitBase array unit + 1024 * lo) (1024 * (hi - lo))

/-- Rows of a unit that have another physical row at another point. -/
def Die.movedRows (d : Die) (array : BitVec 2) (unit p q : Nat) : Nat :=
  let a := d.clearing array unit p
  let b := d.clearing array unit q
  (((a.2 ++ b.2).map (·.1)).eraseDups).countP fun l => decide (l < a.1) && decide (l < b.1) && physOf a.2 l != physOf b.2 l

/-- The pause of a step and its end: rows that go hold nothing, rows that come read zero (R384, R389). -/
def State.applyStep (s : State) (d : BitVec 2) (target : BitVec 3) : State :=
  let x := s.die d
  let old := x.point.toNat
  let moved := ((allUnits d).map fun e => x.movedRows e.1 e.2 old target.toNat).sum
  let s1 := (allUnits d).foldl (init := s) fun (s : State) e =>
    let a := x.usable e.1 e.2 old
    let b := x.usable e.1 e.2 target.toNat
    s.clearRows e.1 e.2 (min a b) (max a b)
  (s1.onDie d fun y => { y with point := target, stepping := false, target := 0 }).log d
    { ErrorRecord.blank with
      cls := 0x0E, sev := 0, src := 9, unit := d.setWidth 16, count := BitVec.ofNat 32 moved, oldOp := x.point.setWidth 8, newOp := target.setWidth 8 }

/-! ## Units that cannot meet their guarantee (R382, R391) -/

/-- The guaranteed prefix of an array at a point (R382); the accumulator counts its three banks. -/
def guarantee (array : BitVec 2) (p : Nat) : Nat :=
  match array.toNat, p with
  | 0, 3 => 3840
  | 0, 4 => 3584
  | 0, 5 => 3072
  | 1, 3 => 736
  | 1, 4 => 704
  | 1, 5 => 640
  | 2, 3 => 7168
  | 2, 4 => 6144
  | 2, 5 => 5120
  | 3, 3 => 45056
  | 3, 4 => 40960
  | 3, 5 => 32768
  | a, _ => regularRows (BitVec.ofNat 2 a)

/-- The context of a tile does not continue (R393): a rollable checkpointed share waits for its node's rollback (R226), any
other share faults with POISON, which becomes the node's cause. Its queued operations end with it. -/
def State.loseContext (s : State) (t : BitVec 6) : State :=
  let x := s.tile t
  match s.tileNode t with
  | none => s
  | some n =>
    let roll := n.ckpt && decide (n.phase ≠ .complete) && !n.unrollable
    let s1 := s.onTileShare t fun n y =>
      { y with
        phase := .held, dirtyA := x.dirtyA, dirtyB := x.dirtyB
        reported := if roll ∨ y.reported.isSome then y.reported else some causePoison
        ended := y.ended || !roll, endedIn := if roll ∨ y.ended then y.endedIn else n.interval }
    let s2 := if roll ∨ n.phase = .complete then s1 else s1.onNode n.handle fun m => { m with cause := if m.cause = 0 then causePoison else m.cause }
    let s3 := { s2 with dies := s2.dies.map fun (d : Die) =>
      { d with
        engines := d.engines.map fun (q : List CopyOp) => q.filter fun o => o.tile != some t
        closing := d.closing.filter fun y => y.tile != some t
        sends := d.sends.map fun (y : Option SendHandle) => match y with | some y => if y.tile = some t then none else some y | none => none } }
    (s3.victimBack n.handle).shootCheck

/-- A tile fails (R393): its physical tile retires, and the cluster's spare takes the number if there is one. -/
def State.failTile (s : State) (t : BitVec 6) : State :=
  if (s.tile t).status = .retired then s
  else
    let s1 := (s.loseContext t).replaceTile t 3
    s1.shootCheck

/-- R391 for a unit that breaks its guarantee at point p. A pool that retires is ready no more (R408). -/
def State.breakGuarantee (s : State) (d array : BitVec 2) (unit p : Nat) : State :=
  if 3 ≤ p then
    let m : BitVec 3 := BitVec.ofNat 3 (p - 1)
    let s1 := (s.onDie d fun x => { x with maxop := m }).log d
      { ErrorRecord.blank with cls := 0x12, sev := 3, src := array.setWidth 8, unit := BitVec.ofNat 16 unit, count := m.setWidth 32 }
    if m < (s1.die d).point then s1.applyStep d m else s1
  else if array = 0 ∨ array = 1 then s.failTile (BitVec.ofNat 6 unit)
  else
    let s0 := s.clearRows array unit 0 (regularRows array)
    let s1 := { s0 with ready := { s0.ready with mem := s0.ready.mem &&& ~~~ BitVec.twoPow 64 (if array = 2 then 12 + unit else 8 + unit) } }
    (s1.onDie d fun x => { x with retired := (array, BitVec.ofNat 6 unit) :: x.retired }).log d
      { ErrorRecord.blank with cls := 0x11, sev := 3, src := array.setWidth 8, unit := BitVec.ofNat 16 unit }

/-- The shallowest point at or above MAXOP at which the unit breaks its guarantee. -/
def State.judgeUnit (s : State) (d array : BitVec 2) (unit : Nat) : State :=
  let x := s.die d
  if x.retired.contains (array, BitVec.ofNat 6 unit) then s
  else match (upto (x.maxop.toNat + 1)).find? fun p => decide (x.usable array unit p < guarantee array p) with
    | some p => s.breakGuarantee d array unit p
    | none => s

/-! ## Rows that fail in service (R392) -/

/-- Spare rows of a unit that pass at the current point and hold nothing. -/
def Die.sparesLeft (d : Die) (array : BitVec 2) (unit : Nat) : Nat :=
  let p := d.point.toNat
  let c := d.clearing array unit p
  let fails := d.failing array unit p
  (upto (spareRows array)).countP fun i =>
    !fails.contains (regularRows array + i) && !heldRow c.2 c.1 (regularRows array + i)

def State.rowRecord (s : State) (d array : BitVec 2) (unit row : Nat) (cls flags : Byte) (count : Nat) : State :=
  let x := s.die d
  let c := x.clearing array unit x.point.toNat
  let l := (c.2.find? fun e => e.2 == row && decide (e.1 < c.1)).map (·.1) |>.getD (if row < c.1 ∧ (tget c.2 row).isNone then row else 0xFFFFFFFF)
  s.log d
    { ErrorRecord.blank with
      cls := cls, sev := 1, src := array.setWidth 8, flags := flags, unit := BitVec.ofNat 16 unit,
      sub := if array = 1 then BitVec.ofNat 16 (if l = 0xFFFFFFFF then 0 else l / 256) else 0,
      row := BitVec.ofNat 32 (if array = 1 ∧ l ≠ 0xFFFFFFFF then l % 256 else l), prow := BitVec.ofNat 32 row, count := BitVec.ofNat 32 count }

/-- A physical row of a unit is treated as failing at point p and deeper (R392). While the die steps, it is left for the step's end (R390);
a drop whose row is claimed waits, recorded once. -/
def State.failRow (s : State) (array : BitVec 2) (unit row : Nat) (p : BitVec 3) : State :=
  let d := unitDie array unit
  let x := s.die d
  let same (e : Shrink) : Bool := e.array == array && e.unit == BitVec.ofNat 6 unit && e.row == row
  let keep (pend : Bool) : State := s.onDie d fun y =>
    { y with shrinks := y.shrinks.filter (fun e => !same e) ++ [{ array := array, unit := BitVec.ofNat 6 unit, row := row, point := p, pend := pend }] }
  let told := x.shrinks.any fun e => same e && e.pend
  if x.stepping then if x.shrinks.any same then s else keep false
  else if x.retired.contains (array, BitVec.ofNat 6 unit) || !x.passes array unit row p.toNat then
    s.onDie d fun y => { y with shrinks := y.shrinks.filter fun e => !same e }
  else
    let bad : Die := { x with
      bad := x.bad ++ [{ array := array, unit := BitVec.ofNat 6 unit, row := row, point := p }], shrinks := x.shrinks.filter fun e => !same e }
    let now := x.point.toNat
    let u := x.usable array unit now
    if bad.usable array unit now = u then
      let s1 := if p ≤ x.point then s.rowRecord d array unit row 0x04 0 (bad.sparesLeft array unit) else s
      (s1.onDie d fun y => { y with bad := bad.bad, shrinks := bad.shrinks }).judgeUnit d array unit
    else
      let hs := s.claimants array unit (u - 1) u
      if hs.isEmpty && !s.scratchClaims array unit (u - 1) then
        let s1 := (s.rowRecord d array unit row 0x05 0 (u - 1)).clearRows array unit (u - 1) u
        (s1.onDie d fun y => { y with bad := bad.bad, shrinks := bad.shrinks }).judgeUnit d array unit
      else if told then s
      else
        let s1 := (keep true).rowRecord d array unit row 0x05 0x20 (u - 1)
        hs.eraseDups.foldl (init := s1) fun (s : State) h => match s.node? h with
          | some n => if n.timed ∨ n.phase ≠ .running then s else s.requestStop h 0xFFFFFFFF
          | none => s

/-- A row fails at its die's current point. -/
def State.rowFails (s : State) (array : BitVec 2) (unit row : Nat) : State := s.failRow array unit row (s.die (unitDie array unit)).point

/-- A row of an array has failed: it is moved at once in a step pause, or its unit shrinks (R392). -/
def execRowMovePause (a : BitVec 2) (u : BitVec 6) (r : BitVec 16) (s : State) : Out :=
  .next (if (dieUnits (unitDie a u.toNat) a).contains u.toNat ∧ r.toNat < regularRows a + spareRows a then s.rowFails a u.toNat r.toNat else s)

/-- A pending capacity drop takes place once its row is unclaimed (R392, step 2). -/
def execCapacityShrink (a : BitVec 2) (u : BitVec 6) (r : BitVec 16) (s : State) : Out :=
  .next (match (s.die (unitDie a u.toNat)).shrinks.find? fun e => e.array == a && e.unit == u && e.row == r.toNat with
    | some e => s.failRow a u.toNat r.toNat e.point
    | none => s)

/-- The end of a commanded step (R389): rd of the supervisor that waits, and failures met during the pause (R390). -/
def execOpStepComplete (d : BitVec 2) (s : State) : Out :=
  .next (
    let x := s.die d
    if !x.stepping then s
    else
      let s1 := s.applyStep d x.target
      let s2 := { s1 with clusters := Vector.ofFn fun i =>
        let k := s1.clusters[i]
        match k.wait with
        | some (.step rd) => if i.val / 4 = d.toNat then { k.setReg rd (x.target.setWidth 64 <<< 8) with wait := none } else k
        | _ => k }
      x.shrinks.foldl (init := s2) fun (s : State) e => s.failRow e.array e.unit.toNat e.row e.point)

def execTileFail (c : BitVec 4) (t : BitVec 2) (s : State) : Out := .next (s.failTile (clusterTile c t))

/-! ## Scrubbing, repair, telemetry (R394, R395, R397, R410) -/

/-- Where scrubbing and error events find accumulator rows, which no address of the map names (MODEL): tile t's element (row, column) of
its 768 rows at 2^47 + t × 2^21 + 2,048 × row + 4 × column. -/
def accPlace (pa : Nat) : Option (BitVec 6 × Nat × Nat) :=
  let x := pa - 2 ^ 47
  if 2 ^ 47 ≤ pa ∧ x < 64 * 2 ^ 21 ∧ x % 2 ^ 21 < 768 * 2048 then some (BitVec.ofNat 6 (x / 2 ^ 21), x % 2 ^ 21 / 2048, x % 2048 / 4) else none

/-- The array, unit and logical row of a place of SRAM. -/
def sramRow (pa : Nat) : Option (BitVec 2 × Nat × Nat) :=
  match place pa with
  | .tileStore t off => some (0, t.toNat, off / 1024)
  | .clusterPool c off => some (2, c.toNat, off / 1024)
  | .scratch d off => some (3, d.toNat, off / 1024)
  | _ => (accPlace pa).map fun e => (1, e.1.toNat, e.2.1)

/-- The unit and physical row of a place of SRAM at the current point. -/
def State.physicalRow (s : State) (pa : Nat) : Option (BitVec 2 × Nat × Nat) :=
  match sramRow pa with
  | some (array, unit, l) =>
    let d := s.die (unitDie array unit)
    (d.phys array unit d.point.toNat l).map fun r => (array, unit, r)
  | none => none

/-- A place that scrubbing reads: usable rows of SRAM, those of the die-pool cache among them, and lines of HBM (R395). -/
def State.scrubbed (s : State) (pa : Nat) : Bool :=
  match place pa with
  | .hbm => s.storage pa
  | .scratch d _ => wbit s.ready.mem (8 + d.toNat) && (s.physicalRow pa).isSome
  | .hole => (s.physicalRow pa).isSome
  | _ => s.storage pa

/-- The granule at a place is in error (R396). An error of a row that the cache of a die pool has is in no byte of the map. -/
def State.breakGranule (s : State) (pa : Nat) : State :=
  match accPlace pa with
  | some (t, row, col) => s.onTile t fun x =>
      let b : BitVec 2 := BitVec.ofNat 2 (row / 256)
      let k := x.bank b
      x.setBank b (if k.badAt (row % 256) col then k else { k with bad := (row % 256 * 512 + col) / 2 :: k.bad })
  | none => if s.storage pa then s.addPoison pa else s

/-- A corrected error is counted against its physical row; CETHR of them within 24 hours make the row fail (R392, R397). -/
def State.countCorrected (s : State) (pa : Nat) : State :=
  match s.physicalRow pa with
  | none => s
  | some (array, unit, row) =>
    let d := unitDie array unit
    let key := array.toNat * 2 ^ 32 + unit * 2 ^ 20 + row
    let now := s.time.ns.toNat
    let times := ((tval [] (s.die d).corrected key).filter fun t => decide (now ≤ t + dayNs)) ++ [now]
    let s1 := s.onDie d fun x => { x with corrected := tput x.corrected key times }
    let thr := (s.die d).cethr.toNat
    if thr = 0 ∨ times.length < thr then s1
    else
      let s2 := s1.rowRecord d array unit row 0x01 0 times.length
      (s2.onDie d fun x => { x with log := x.log.map fun r => if r.seq + 1 = x.logSeq ∧ r.cls = 0x01 then { r with sev := 0 } else r,
                                    corrected := tdrop x.corrected key }).rowFails array unit row

/-- A row at a place has yielded an uncorrectable error (R392). -/
def State.rowYields (s : State) (pa : Nat) : State :=
  match s.physicalRow pa with
  | some (array, unit, row) => s.rowFails array unit row
  | none => s

/-- The record of an uncorrectable error that a scrub finds (R402). -/
def State.scrubRecord (s : State) (pa : Nat) : State :=
  let rec_ : ErrorRecord := { ErrorRecord.blank with cls := 0x02, sev := 1, flags := 0x02 }
  let none_ : W32 := 0xFFFFFFFF
  match sramRow pa with
  | some (array, unit, l) =>
    s.log (unitDie array unit)
      { rec_ with
        src := array.setWidth 8, unit := BitVec.ofNat 16 unit, sub := if array = 1 then BitVec.ofNat 16 (l / 256) else 0,
        addr := if s.storage pa then BitVec.ofNat 64 (s.group (granuleOf pa)) else 0,
        row := BitVec.ofNat 32 (if array = 1 then l % 256 else l),
        prow := match s.physicalRow pa with | some (_, _, r) => BitVec.ofNat 32 r | none => none_ }
  | none =>
    let p := errorPlace pa
    s.log p.1
      { rec_ with src := p.2.1, unit := BitVec.ofNat 16 p.2.2, addr := BitVec.ofNat 64 (s.group (granuleOf pa)), row := none_, prow := none_ }

/-- Patrol scrubbing reads a row or a line (R395): k is 0 when it finds nothing, 1 for an error it corrects, 2 for one it
cannot correct, which poisons the granule without consuming it. -/
def execPatrolScrub (a : BitVec 48) (k : BitVec 2) (s : State) : Out :=
  .next (
    let pa := a.toNat
    if !s.scrubbed pa then s
    else match k.toNat with
      | 1 => s.countCorrected pa
      | 2 => ((s.breakGranule pa).scrubRecord pa).rowYields pa
      | _ => s)

/-- An access meets an error (R392, R395): one that is corrected is counted; another poisons the granule, which the access then consumes
and records (R398), and the row fails. -/
def State.upset (s : State) (pa : Nat) (bad : Bool) : State :=
  if !s.scrubbed pa then s else if bad then (s.breakGranule pa).rowYields pa else s.countCorrected pa

/-- HBM4 post-package repair of a row of a stack: n repairs are left; k says that they are spent (R394). -/
def execHbmRepair (u : BitVec 3) (n : W32) (k : Bool) (s : State) : Out :=
  .next (s.log (BitVec.ofNat 2 (u.toNat / 2))
    { ErrorRecord.blank with cls := 0x10, sev := 0, src := 4, flags := if k then 0x40 else 0, unit := u.setWidth 16, count := n })

/-- A sensor at or above a threshold, both in 1/16 °C as two's complement. -/
def atLeast (x thr : BitVec 16) : Bool := thr.sle x

/-- Telemetry of the last 1 ms (R410): energy, power, the core's hottest sensor and the die's two stacks. A sensor at
TCRIT drives THERMTRIP# and removes power. -/
def execTelemetryUpdate (d : BitVec 2) (e : W32) (w k a b : BitVec 16) (s : State) : Out :=
  .next (
    let s1 := s.onDie d fun x =>
      { x with
        tlmdie := BitVec.ofNat 64 (e.toNat * 2 ^ 32 + w.toNat * 2 ^ 16 + k.toNat), tlmhbm := BitVec.ofNat 32 (b.toNat * 2 ^ 16 + a.toNat),
        warn := x.warn || atLeast k x.twarn || atLeast a x.twarn || atLeast b x.twarn }
    let warn := s1.dies.toList.any (·.warn)
    let crit := atLeast k 0x06E0 || atLeast a 0x06E0 || atLeast b 0x06E0
    if crit then { s1.lostPower with mgmt := { State.reset.mgmt with thermtrip := true, resets := s.mgmt.resets } }
    else { s1 with mgmt := { s1.mgmt with alert := warn } })

/-! ## A die fails (R285, R336) -/

/-- Ready bits of a die's units; those of D0 take in the host bridge and the ready pool (R252, R285). -/
def dieReadyMem (d : Nat) : W64 :=
  BitVec.ofNat 64 (0x3 * 2 ^ (2 * d) + 2 ^ (8 + d) + 0xF * 2 ^ (12 + 4 * d) + 0xF * 2 ^ (28 + 4 * d))
def dieReadyEng (d : Nat) : W64 :=
  BitVec.ofNat 64 (0x3 * 2 ^ (2 * d) + 2 ^ (8 + d) + 2 ^ (12 + d) + 0xF * 2 ^ (16 + 4 * d) + (if d = 0 then 2 ^ 32 + 2 ^ 33 else if d = 1 then 2 ^ 34 else 0))

/-- A send of a pool node whose engine has gone ends with POISON (R336). -/
def State.loseSend (s : State) (x : SendHandle) : State :=
  match x.tile with
  | some _ => s
  | none => s.onNode x.node fun n => { n with op := none, hostDone := true, cause := if n.cause = 0 then causePoison else n.cause }

def State.failDie (s : State) (d : BitVec 2) : State :=
  if (s.die d).failed then s
  else
    let noSpare (k : Cluster) : Cluster := { k with phys := k.phys.map fun p => if p.state = 1 then { p with state := 3 } else p }
    let s1 := (upto 4).foldl (init := s) fun (s : State) i => s.onCluster (BitVec.ofNat 4 (4 * d.toNat + i)) noSpare
    let s2 := (upto 16).foldl (init := s1) fun (s : State) i => s.failTile (BitVec.ofNat 6 (16 * d.toNat + i))
    let x := s2.die d
    let s3 := (x.sends.toList.filterMap id ++ x.closing).foldl State.loseSend s2
    let copies := x.engines.toList.flatten.filter fun o => o.tile.isNone
    let s4 := copies.foldl (init := s3) fun (s : State) o =>
      s.onNode o.node fun n => { n with op := none, hostDone := true, cause := if n.cause = 0 then causePoison else n.cause }
    let s5 := s4.onDie d fun x =>
      { x with failed := true, sends := Vector.replicate 16 none, closing := [], engines := Vector.replicate 2 [], stepping := false }
    { s5 with
      ready := { s5.ready with mem := s5.ready.mem &&& ~~~ dieReadyMem d.toNat, eng := s5.ready.eng &&& ~~~ dieReadyEng d.toNat }
      pool := { s5.pool with mirror := s5.pool.mirror || decide (d = 0) } }

def execDieFailure (d : BitVec 2) (s : State) : Out := .next (s.failDie d)

end Sys2Proof.Machine
end

