-- ==== Sys2Proof/Machine/Supervisor.lean ====
section
/-!
DEFINITION. Sys2Proof/Machine/Supervisor.lean: the cluster supervisor (R208 to R213), its tile events (R210) and the
thirteen Ovrek instructions (R216 to R226).
-/

namespace Sys2Proof.Machine

/-! ## How a custom instruction ends (R209, R211, R212) -/

/-- Why a custom instruction does not end with status OK. -/
inductive SupStop where
  /-- A status other than OK, in the state given. -/
  | status (s : State) (n : Nat)
  /-- A RISC-V exception: the state with the record of a consumed error, the code and the address. -/
  | fault (s : State) (cause addr : Nat)
  /-- The instruction waits and is tried again: an access of it meets scratch whose partition changes (R251, R390). -/
  | stall
  /-- rd is written later. -/
  | waits (s : State) (w : SupWait)

/-- The state after an instruction and its VALUE, bits [63:8] of rd in place. -/
abbrev SupRes := Except SupStop (State × Nat)

def stBusy : Nat := 1
def stBadarg : Nat := 2
def stState : Nat := 3
def stEmpty : Nat := 4
def stClaimed : Nat := 5
def stTimed : Nat := 6
def stNoroll : Nat := 7
def stNotile : Nat := 8

/-- rd is written and the pc advances (R211). -/
def State.supEnd (s : State) (d : BitVec 5) (v : Nat) : State :=
  s.onCluster s.curCluster fun k => (k.setReg d (BitVec.ofNat 64 v)).retire 4

def State.supTrap (s : State) (cause : Nat) (val : W64) : State :=
  s.onCluster s.curCluster fun k => k.takeTrap false cause val

/-- A custom instruction in machine or supervisor mode; in user mode it is illegal (R209). -/
def State.custom (s : State) (d : BitVec 5) (r : SupRes) : State :=
  let k := s.cluster s.curCluster
  if k.mode = 0 then s.supTrap excIllegal (Config.illegalValue k.pc)
  else match r with
    | .ok (s1, v) => s1.supEnd d (v / 256 * 256)
    | .error .stall => s
    | .error (.status s1 n) => s1.supEnd d n
    | .error (.fault s1 c a) => s1.supTrap c (BitVec.ofNat 64 a)
    | .error (.waits s1 w) => s1.onCluster s.curCluster fun k => { k.retire 4 with wait := some w }

def State.supReg (s : State) (r : BitVec 5) : Nat := ((s.cluster s.curCluster).reg r).toNat

/-- A check of R212: the status when it does not hold. -/
def supNeed (s : State) (b : Bool) (n : Nat) : Except SupStop Unit := if b then .ok () else .error (.status s n)

/-- Step 2 of R212. -/
def State.supAddr (s : State) (a align n : Nat) : Bool :=
  let lo := poolBase + s.curCluster.toNat * 0x800000
  a % align == 0 && decide (a < 2 ^ 48) && (decide (a + n ≤ hbmEnd) || (decide (lo ≤ a) && decide (a + n ≤ lo + 0x800000)))

/-- The first byte of an operand that cannot be used: without storage, in a carve-out, in a quarantined frame. -/
def State.supUnusable (s : State) (a n : Nat) : Option Nat :=
  ((upto (ceilDiv n 256)).map (a + 256 * ·)).find? fun x => !s.storage x || s.carveOut x || s.quarantined x

/-- An operand that the instruction writes. -/
def State.supWritable (s : State) (a n : Nat) : Except SupStop Unit :=
  match s.supUnusable a n with
  | some x => .error (.fault s excStoreAccess x)
  | none => .ok ()

/-- Operand memory that the instruction reads; an uncorrectable error there is consumed (R212, R398). -/
def State.supReadable (s : State) (a n : Nat) : Except SupStop Unit :=
  match s.supUnusable a n with
  | some x => .error (.fault s excLoadAccess x)
  | none =>
    match s.poison.foldl (fun (m : Option Nat) g =>
      if g < a + n ∧ a < g + granuleSize g ∧ g < m.getD (g + 1) then some g else m) none with
    | some g => .error (.fault (s.logError none 0 (.consumed g)) excLoadAccess (max g a))
    | none => .ok ()

/-- Step 3 of R212: the tile, which is not RETIRED. -/
def State.supTile (s : State) (v : Nat) : Except SupStop (BitVec 6) :=
  let t := clusterTile s.curCluster (BitVec.ofNat 2 v)
  if (s.tile t).status = .retired then .error (.status s stNotile) else .ok t

/-- A share that this cluster holds and has not reported: handed out, on a tile, or saved (R216, R219, R376). -/
def Share.heldBy (y : Share) (c : BitVec 4) : Bool :=
  tileCluster y.tile == c && y.reported.isNone && decide (y.phase = .handed ∨ y.phase = .loaded ∨ y.phase = .held)

/-! ## Nodes (R219) -/

/-- The node that a take serves: the one dispatched first (R219). -/
def State.takeNode (s : State) (offered : Nat) : Option Node :=
  let c := s.curCluster
  let mine (n : Node) : Bool := decide (n.phase = .running) && n.liveShares.any fun y =>
    decide (y.phase = .placed) && tileCluster y.tile == c && offered.testBit (y.tile.toNat % 4)
  (s.pool.nodes.filter mine).foldl (init := (none : Option Node)) fun (b : Option Node) n => match b with
    | none => some n
    | some m => if n.turn < m.turn then some n else some m

def State.nodeTake (s : State) (a offered : Nat) : SupRes := do
  supNeed s (decide (offered < 16)) stBadarg
  supNeed s (s.supAddr a 256 256) stBadarg
  let s1 := s.dispatchPass
  match s1.takeNode offered with
  | none => .error (.status s1 stEmpty)
  | some n =>
    s.supWritable a 256
    let mine := n.liveShares.filter fun y => decide (y.phase = .placed) && tileCluster y.tile == s.curCluster && offered.testBit (y.tile.toNat % 4)
    let shareAt (t : Nat) : Byte := match mine.find? fun y => y.tile.toNat % 4 == t with | some y => BitVec.ofNat 8 y.index | none => 0xFF
    let copy := ((upto 15).flatMap fun j => leBytes 8 (n.word j)) ++ (upto 4).map shareAt ++ List.replicate 4 0 ++
      (upto 16).flatMap fun j => leBytes 8 (n.word (16 + j))
    let s2 := (s1.rawWrite a copy).onNode n.handle fun m =>
      { m with shares := m.shares.map fun y => if mine.any fun z => z.index == y.index then { y with phase := .handed } else y }
    let mask := (mine.map fun y => 2 ^ (y.tile.toNat % 4)).sum
    let first := mine.foldl (fun k y => min k y.index) 255
    let resume := n.preempted && mine.all fun y => y.home.isSome
    return (s2, mask * 2 ^ 8 + n.handle.toNat * 2 ^ 16 + first * 2 ^ 48 + b2n resume * 2 ^ 56)

def execOvNodeTake (b a d : BitVec 5) (s : State) : Out := .next (s.custom d (s.nodeTake (s.supReg a) (s.supReg b)))

def State.nodeDone (s : State) (h cause : Nat) : SupRes := do
  supNeed s (decide (h < 2 ^ 32) && decide (cause < 256)) stBadarg
  let hw : W32 := BitVec.ofNat 32 h
  match s.node? hw with
  | none => .error (.status s stBadarg)
  | some n =>
    let c := s.curCluster
    supNeed s (decide (n.phase ≠ .complete) && n.shares.any fun y => y.heldBy c) stBadarg
    let s1 := s.onNode hw fun m =>
      { m with
        cause := if m.cause = 0 then BitVec.ofNat 8 cause else m.cause
        shares := m.shares.map fun y =>
          if y.heldBy c then { y with reported := some (BitVec.ofNat 8 cause), ended := true, endedIn := if y.ended then y.endedIn else m.interval } else y }
    return (s1.victimBack hw, 0)

def execOvNodeDone (b a d : BitVec 5) (s : State) : Out := .next (s.custom d (s.nodeDone (s.supReg a) (s.supReg b)))

/-! ## Loads and saves (R216, R387) -/

/-- A load of the share is in progress on some tile. -/
def State.loadingShare (s : State) (n : Node) (i : Nat) : Bool :=
  (upto 64).any fun t =>
    let x := s.tile (BitVec.ofNat 6 t)
    decide (x.status = .loading) && x.node == n.handle && x.share == i

/-- The share that a load names, with its node: by handle and index, or by the image's header. -/
def State.loadTarget (s : State) (r : Nat) (pkt : Bool) (h : ImageHeader) : Option (Node × Share) :=
  let node := if pkt then s.node? (BitVec.ofNat 32 (bits r 47 16)) else s.pool.live.find? fun n => n.number == h.number
  match node with
  | none => none
  | some n => match n.share? (if pkt then bits r 15 8 else h.share) with
    | some y => if y.heldBy s.curCluster && decide (y.phase ≠ .loaded) && !s.loadingShare n y.index && !y.ended && decide (n.phase ≠ .complete) then some (n, y) else none
    | none => none

/-- The checks that read no operand memory come before those that do (R212). DESIGN CHOICE (log 88): the halt set is emptied here, so what
is recorded before the load is accepted does not outlive it (R308), and what is recorded in LOADING or READY applies from the next go (R221). -/
def State.tileLoad (s : State) (r a : Nat) : SupRes := do
  let pkt := bits r 2 2 == 1
  supNeed s (bits r 7 3 == 0 && bits r 63 48 == 0 && (pkt || bits r 47 8 == 0)) stBadarg
  supNeed s (s.supAddr a 4096 (if pkt then 2 * imageSize else imageSize)) stBadarg
  let t ← s.supTile r
  supNeed s (!(s.die (tileDie t)).stepping) stBusy
  supNeed s (decide ((s.tile t).status = .empty)) stState
  if !pkt then s.supReadable a 4096
  let hb := if pkt then [] else (s.rawRead a 4096).1
  supNeed s (pkt || imageHeaderOk hb) stBadarg
  let h := ImageHeader.of hb
  match s.loadTarget r pkt h with
  | none => .error (.status s stBadarg)
  | some (n, y) =>
    supNeed s (pkt || n.drains || h.tile == t.toNat) stBadarg
    let alloc := ((s.cluster s.curCluster).cpalloc[t.toNat % 4]?.getD 0).toNat
    let count := bits alloc 31 16
    supNeed s (decide (n.npool ≤ count * 1024) && (count == 0 || decide (bits alloc 15 0 + count ≤ s.rows 2 s.curCluster.toNat)) &&
      decide (n.nrows ≤ s.rows 0 t.toNat) && decide (n.nacc ≤ s.rows 1 t.toNat)) stBadarg
    if pkt then s.supReadable n.cimg n.clen else s.supReadable a 0x20000
    match (if pkt then none else s.supUnusable a imageSize) with
    | some x => .error (.fault s excLoadAccess x)
    | none =>
      let s1 := s.onTile t fun x =>
        { x with
          status := .loading, node := n.handle, share := y.index, halt := 0
          transfer := { addr := a, pkt := pkt, full := false, interval := false, trapped := false } }
      return (s1.onNode n.handle fun m => m.onShare y.index fun z => { z with tile := t }, 0)

def execOvTileLoad (b a d : BitVec 5) (s : State) : Out := .next (s.custom d (s.tileLoad (s.supReg a) (s.supReg b)))

def State.tileSave (s : State) (r a : Nat) : SupRes := do
  supNeed s (decide (r < 8)) stBadarg
  supNeed s (s.supAddr a 4096 imageSize) stBadarg
  let t ← s.supTile r
  let x := s.tile t
  supNeed s (decide (x.status = .stopped ∨ x.status = .faulted ∨ x.status = .done)) stState
  let n? := s.tileNode t
  let y? := n?.bind fun n => n.share? x.share
  let ckpt := match n? with | some n => n.ckpt | none => false
  let inPair := match y? with | some y => a == y.base || a == y.base + imageSize | none => true
  supNeed s (!ckpt || inPair) stBadarg
  let area := match n?, y? with
    | some n, some y => if n.ckpt then y.startArea (n.interval.toNat + 1) else a
    | _, _ => a
  s.supWritable area imageSize
  return (s.onTile t fun x =>
    { x with
      status := .saving
      transfer := { addr := area, pkt := false, full := bits r 2 2 == 1, interval := ckpt && decide (x.status = .stopped), trapped := decide (x.status = .faulted) } }, 0)

def execOvTileSave (b a d : BitVec 5) (s : State) : Out := .next (s.custom d (s.tileSave (s.supReg a) (s.supReg b)))

/-! ## Running, stopping, halting (R218, R220, R221) -/

def State.tileGo (s : State) (r : Nat) : SupRes := do
  let t ← s.supTile r
  let x := s.tile t
  supNeed s (decide (x.status = .ready ∨ x.status = .stopped) || (decide (x.status = .faulted) && resumable x.trap.cause)) stState
  if s.repinWaits t then .error .stall
  let s1 := s.startTile t
  let asked : Bool := match s.tileNode t with | some n => n.stopFor.isSome && decide (n.phase = .running) | none => false
  return (s1.onTile t fun x => if x.status = .run then { x.applyHalts with status := if asked then .stopping else .run } else x, 0)

def execOvTileGo (a d : BitVec 5) (s : State) : Out := .next (s.custom d (s.tileGo (s.supReg a)))

def State.tileStop (s : State) (r : Nat) : SupRes := do
  let t ← s.supTile r
  supNeed s (decide ((s.tile t).status = .run)) stState
  let timed : Bool := match s.tileNode t with | some n => n.timed | none => false
  supNeed s (!timed) stTimed
  return ((s.onTile t fun x => { x with status := .stopping }).onTileShare t fun _ y => { y with own := true }, 0)

def execOvTileStop (a d : BitVec 5) (s : State) : Out := .next (s.custom d (s.tileStop (s.supReg a)))

/-- The C stream stops at its boundary: a pause and a stall end without their instruction's effect (R73, R75, R221). -/
def Tile.haltControl (t : Tile) : Tile := { t with control := { t.control with pause := 0, stalled := false, wait := none } }

def State.tileHalt (s : State) (r m : Nat) : SupRes := do
  supNeed s (bits m 63 9 == 0 && bits m 7 5 == 0 && bits m 4 0 != 0) stBadarg
  let t ← s.supTile r
  let mask : BitVec 5 := BitVec.ofNat 5 m
  return (s.onTile t fun x =>
    if bits m 8 8 = 1 then
      let y := { x with halt := x.halt &&& ~~~ mask }
      y.onStreams fun b z => if mask.getLsbD (streamCode b + 1) then z.release y.tc else z
    else
      let y := { x with halt := x.halt ||| mask }
      if x.status = .run ∨ x.status = .stopping then (if mask.getLsbD 0 then y.haltControl else y).applyHalts else y, 0)

def execOvTileHalt (b a d : BitVec 5) (s : State) : Out := .next (s.custom d (s.tileHalt (s.supReg a) (s.supReg b)))

def statusCode : TileStatus → Nat
  | .empty => 0
  | .loading => 1
  | .ready => 2
  | .run => 3
  | .stopping => 4
  | .stopped => 5
  | .saving => 6
  | .faulted => 7
  | .done => 8
  | .retired => 9

/-- R218; the status NOTILE of a RETIRED tile goes with STATE 9. -/
def State.tileStat (s : State) (r : Nat) : SupRes :=
  let t := clusterTile s.curCluster (BitVec.ofNat 2 r)
  let x := s.tile t
  let s1 := s.onTile t fun x => { x with event := false }
  let holds := x.status ≠ .empty ∧ x.status ≠ .retired
  let v := (if holds then x.node.toNat else 0) * 2 ^ 32 + (if x.status = .faulted then x.trap.cause.toNat else 0) * 2 ^ 24 +
    x.halt.toNat * 2 ^ 12 + statusCode x.status * 2 ^ 8
  if x.status = .retired then .error (.status s1 (v + stNotile)) else .ok (s1, v)

def execOvTileStat (a d : BitVec 5) (s : State) : Out := .next (s.custom d (s.tileStat (s.supReg a)))

/-! ## Operating points and rows (R222 to R224, R389) -/

/-- A plan entry (R222). -/
def Doomed.bytes (e : Doomed) : List Byte :=
  leBytes 4 e.first ++ leBytes 4 e.count ++ leBytes 4 (e.node.getD 0xFFFFFFFF).toNat ++
    [e.array.setWidth 8, BitVec.ofNat 8 e.unit, BitVec.ofNat 8 e.bank, BitVec.ofNat 8 (b2n e.node.isSome)]

def State.opPlan (s : State) (r a : Nat) : SupRes := do
  supNeed s (s.supAddr a 4096 4096) stBadarg
  s.supWritable a 4096
  let d := clusterDie s.curCluster
  let zero := s.rawWrite a (List.replicate 4096 0)
  supNeed zero (decide (r < 6)) stBadarg
  supNeed zero (!(s.die d).stepping) stBusy
  let all := s.doomed d r
  let shown := all.take 256
  let body := shown.flatMap Doomed.bytes
  return (s.rawWrite a (body ++ List.replicate (4096 - body.length) 0),
    all.length % 2 ^ 16 * 2 ^ 8 + (shown.countP fun e => e.node.isSome) * 2 ^ 24)

def execOvOpPlan (b a d : BitVec 5) (s : State) : Out := .next (s.custom d (s.opPlan (s.supReg a) (s.supReg b)))

def State.opStep (s : State) (d : BitVec 5) (r : Nat) : SupRes := do
  supNeed s (decide (r < 8)) stBadarg
  let e := clusterDie s.curCluster
  let x := s.die e
  supNeed s (!x.stepping && x.partition.isNone) stBusy
  supNeed s (decide (r ≤ x.maxop.toNat)) stBadarg
  if r = x.point.toNat then return (s, r * 256)
  else do
    supNeed s ((s.doomed e r).all fun g => g.node.isNone) stClaimed
    supNeed s (!((upto 16).any fun i =>
      let t : BitVec 6 := BitVec.ofNat 6 (16 * e.toNat + i)
      (s.tile t).claims && decide ((s.tile t).status ≠ .loading) && (match s.tileNode t with | some n => n.timed | none => false))) stTimed
    .error (.waits (s.onDie e fun y => { y with stepping := true, target := BitVec.ofNat 3 r }) (.step d))

def execOvOpStep (a d : BitVec 5) (s : State) : Out := .next (s.custom d (s.opStep d (s.supReg a)))

def State.rowRd (s : State) (r q : Nat) : SupRes := do
  let array : BitVec 2 := BitVec.ofNat 2 r
  let unit := bits r 7 2
  let bank := bits r 9 8
  let p := bits q 2 0
  let row := bits q 31 16
  supNeed s (decide (r < 1024) && decide (q < 2 ^ 32) && bits q 15 3 == 0) stBadarg
  let units := match array.toNat with | 0 => 64 | 1 => 64 | 2 => 16 | _ => 4
  let rows := if array = 1 then 256 else regularRows array
  supNeed s (decide (unit < units) && decide (row < rows) && decide (p < 6) && (if array = 1 then decide (bank < 3) else bank == 0)) stBadarg
  let x := s.die (unitDie array unit)
  return (s, match x.phys array unit p (if array = 1 then 256 * bank + row else row) with
    | some k => k % 2 ^ 16 * 2 ^ 8 + 2 ^ 24 + b2n (decide (regularRows array ≤ k)) * 2 ^ 25
    | none => 0xFFFF * 2 ^ 8)

def execOvRowRd (b a d : BitVec 5) (s : State) : Out := .next (s.custom d (s.rowRd (s.supReg a) (s.supReg b)))

/-! ## The error log (R225, R401) -/

def ErrorRecord.toBytes (r : ErrorRecord) : List Byte :=
  leBytes 8 r.time.toNat ++ [r.cls, r.sev, r.src, r.flags] ++ leBytes 2 r.unit.toNat ++ leBytes 2 r.sub.toNat ++ leBytes 8 r.addr.toNat ++
  leBytes 4 r.row.toNat ++ leBytes 4 r.prow.toNat ++ leBytes 4 r.node.toNat ++ leBytes 4 r.count.toNat ++ [r.oldOp, r.newOp, r.cause] ++
  List.replicate 5 0 ++ leBytes 8 r.seq.toNat ++ List.replicate 8 0

def State.errPop (s : State) (a : Nat) : SupRes := do
  supNeed s (s.supAddr a 64 64) stBadarg
  let d := clusterDie s.curCluster
  match (s.die d).log with
  | [] => .error (.status s stEmpty)
  | r :: rest =>
    s.supWritable a 64
    return ((s.rawWrite a r.toBytes).onDie d fun x => { x with log := rest }, rest.length * 2 ^ 8)

def execOvErrPop (a d : BitVec 5) (s : State) : Out := .next (s.custom d (s.errPop (s.supReg a)))

/-! ## Rollback (R226) -/

def State.ckptRoll (s : State) (d : BitVec 5) (h : Nat) : SupRes := do
  supNeed s (decide (h < 2 ^ 32)) stBadarg
  let hw : W32 := BitVec.ofNat 32 h
  match s.node? hw with
  | none => .error (.status s stBadarg)
  | some n =>
    let granted (y : Share) : Bool := tileCluster y.tile == s.curCluster && decide (y.phase = .handed ∨ y.phase = .loaded ∨ y.phase = .held)
    supNeed s (n.shares.any granted) stBadarg
    supNeed s ((upto 64).all fun t =>
      let x := s.tile (BitVec.ofNat 6 t)
      !(x.claims && x.node == hw) || decide (x.status = .stopped ∨ x.status = .faulted ∨ x.status = .done)) stState
    supNeed s (n.ckpt && !n.unrollable) stNoroll
    if s.nodeBusy n then .error (.waits s (.roll d hw))
    else return (s.rollback n, n.interval.toNat * 2 ^ 8)

def execOvCkptRoll (a d : BitVec 5) (s : State) : Out := .next (s.custom d (s.ckptRoll d (s.supReg a)))

/-! ## Interrupts and stores of a supervisor (R208, R210, R401, R410) -/

/-- mip: local interrupts 16 to 18, a tile event, an error record held, a temperature warning; and the bits software sets. -/
def State.mip (s : State) (c : BitVec 4) : W64 :=
  let tile := (upto 4).any fun t => (s.tile (clusterTile c (BitVec.ofNat 2 t))).event
  let d := s.die (clusterDie c)
  BitVec.ofNat 64 (b2n tile * 2 ^ 16 + b2n (!d.log.isEmpty) * 2 ^ 17 + b2n d.warn * 2 ^ 18) ||| (s.cluster c).csr.soft

/-- The interrupt that the supervisor takes now: one for machine mode before one that is delegated, then the local ones, the highest
number first, then those of software (PRESUMED, log 9). -/
def State.supInterrupt (s : State) (c : BitVec 4) : Option Nat :=
  let k := s.cluster c
  let p := s.mip c &&& k.mie
  let order := [18, 17, 16, 9, 1, 5]
  match order.find? fun i => p.getLsbD i && !k.mideleg.getLsbD i && (decide (k.mode ≠ 3) || k.m.ie) with
  | some i => some i
  | none => order.find? fun i => p.getLsbD i && k.mideleg.getLsbD i && (decide (k.mode = 0) || (decide (k.mode = 1) && k.s.ie))

/-- An RV64A operation by the model's code: 1 swap, 2 add, 3 xor, 4 and, 5 or, 6 min, 7 max, 8 minu, 9 maxu. -/
def supAmo (o w old b : Nat) : Nat :=
  match o with
  | 1 => b
  | 2 => amoCombine 0 w old b
  | 3 => amoCombine 3 w old b
  | 4 => amoCombine 1 w old b
  | 5 => amoCombine 2 w old b
  | 6 => amoCombine 4 w old b
  | 7 => amoCombine 5 w old b
  | 8 => amoCombine 6 w old b
  | _ => amoCombine 7 w old b

end Sys2Proof.Machine
end

