-- ==== Sys2Proof/Machine/Fabric.lean ====
section
/-!
DEFINITION. Sys2Proof/Machine/Fabric.lean: Jaroc Link: requests of other packages performed at their home and the
responses to this one's (R326, R329), the host bridge (R274, R345 to R347), barrier messages (R330), the time base (R342
to R344), ports, lanes and paths (R324 to R329).
-/

namespace Sys2Proof.Machine

/-! ## Accesses of other packages, at their home (R250, R326, R329) -/

/-- What keeps an access of another package from being performed here: 1 an error (R400), 2 no storage, 3 refused (R251,
R252, R255). -/
def State.homeRefusal (s : State) (k : AccessKind) (leaf : Leaf) (pa n : Nat) : BitVec 2 :=
  if !spanAll pa n fun q => registerAt q || s.storage q then 2
  else if !spanAll pa n fun q => !registerAt q then
    (if k = .atomic || !(n == 4 || n == 8) || pa % n != 0 || isKeyReg (pa - regBase) then 3 else 0)
  else if leaf.ver && !s.inSpan pa then 2
  else if !spanAll pa n fun q => !s.quarantined q then 1
  else if (!spanAll pa n fun q => !s.carveOut q) || (leaf.sealed && !s.keyHeld leaf.key) then 3
  else 0

def noWriter : Writer := { node := none, tile := none }

/-- The answer to a message: its kind, the header's requester, ARG and TAG, and a code before the bytes. -/
def State.respond (s : State) (p : BitVec 4) (m : BitVec 128) (kind : Nat) (code : BitVec 2) (bytes : List Byte) : State :=
  s.send (BitVec.ofNat 2 (p.toNat / 4)) (headerSpkg m) kind (headerArg m) (headerTag m) ([code.setWidth 8] ++ bytes)

/-- A byte of a carve-out as it reads: the metadata of R354 and the records of R355 now, those of SEAL lines as the ciphertext of
their line (R255); other bytes as memory holds them. -/
def State.carveByte (s : State) (pa : Nat) (raw : Byte) : Byte :=
  let vs := s.versions.vsbase.toNat * 2 ^ 30
  let vm := s.versions.mbase.toNat * 2 ^ 30
  if !s.carveOut pa then raw
  else if vm ≤ pa ∧ pa < vm + s.versions.scount.toNat / 8 * 2 ^ 30 then
    let l := (s.versions.sfirst.toNat * 2 ^ 30) / 128 + (pa - vm) / 16
    let m := s.line l
    let v := b2n (s.undoOf l) * 2 ^ 119 + b2n m.tent * 2 ^ 118 + m.chain.length * 2 ^ 115 + m.intv.toNat * 2 ^ 91 +
      m.owner.toNat * 2 ^ 83 + (m.chain.head?.getD 0xFFFFFFFF) * 2 ^ 48 + m.stamp.toNat
    BitVec.ofNat 8 (v / 2 ^ (8 * ((pa - vm) % 16)))
  else
    let off := pa - vs
    if off < 128 * s.nrec then
      match s.record? (off / 128) with
      | some r => s.sealView openLeaf r.tag (s.group (lineAddr r.line + off % 128)) (r.data[off % 128]?.getD 0)
      | none => raw
    else
      let i := (off - 128 * s.nrec) / 16
      match s.record? i with
      | some r =>
        let chain := (s.line r.line).chain
        let next := (((chain.dropWhile (· != i)).drop 1).head?).getD 0xFFFFFFFF
        BitVec.ofNat 8 ((b2n (r.u && r.intv == (s.line r.line).intv) * 2 ^ 82 + r.kind.toNat * 2 ^ 80 + next * 2 ^ 48 + r.stamp.toNat) / 2 ^ (8 * ((off - 128 * s.nrec) % 16)))
      | none => raw

/-- Bytes read by an agent that uses local physical addresses, untranslated. -/
def State.physRead (s : State) (pa n : Nat) : List Byte × Bool :=
  let r := s.rawRead pa n
  (r.1.zipIdx.map fun e => s.carveByte (pa + e.2) e.1, r.2)

/-- The first line of bytes [pa, pa+n) whose tag fails, as a host read finds it: it uses no key slot, so a tag fails where a write without the
key has changed the line (R399; DEDUCED, log 87). -/
def State.hostTag (s : State) (pa n : Nat) : Option Nat :=
  ((pieces (n / 128 + 2) pa n).find? fun e => decide (e.1 < hbmEnd) && (tget s.seals (e.1 / 128)).any fun g => !g.good).map (·.1)

/-- Bytes of a host read: an uncorrectable error among them, or in either half of a sealed line, is consumed; then the tags are checked (R398,
R399). -/
def State.hostBytes (s : State) (pa n : Nat) : Res (List Byte) :=
  let sealedBad := (pieces (n / 128 + 2) pa n).find? fun e =>
    decide (e.1 < hbmEnd) && (tget s.seals (e.1 / 128)).isSome && s.anyPoison (lineAddr (e.1 / 128)) 128
  let r := s.physRead pa n
  if r.2 then .error (.consumed (s.firstBad pa n))
  else match sealedBad, s.hostTag pa n with
    | some e, _ => .error (.consumed (s.firstBad (lineAddr (e.1 / 128)) 128))
    | none, some a => .error (.integrity a)
    | none, none => .ok r.1

/-- A read performed at its home: the state after it, the code and the bytes; a failed tag (R399) answers code 1 with the byte 1. -/
def State.homeRead (s : State) (leaf : Leaf) (pa n : Nat) : Res (State × BitVec 2 × List Byte) :=
  let code := s.homeRefusal .read leaf pa n
  if code ≠ 0 then .ok (s, code, [])
  else if registerAt pa then let r := s.regRead (pa - regBase) n; .ok (r.1, 0, leBytes n r.2)
  else match s.readLocal leaf .newest pa n with
    | .ok r => .ok (s, if r.2 then 1 else 0, if r.2 then [] else r.1)
    | .error (.integrity a) => .ok (s.logError none 0 (.integrity a), 1, [1])
    | .error e => .error e

/-- A read for the host of another package, at its home (R399). -/
def State.homeHostRead (s : State) (pa n : Nat) : Res (State × BitVec 2 × List Byte) :=
  let code := s.homeRefusal .read openLeaf pa n
  if code ≠ 0 ∨ registerAt pa then s.homeRead openLeaf pa n
  else if s.scratchBusy pa then .error .stall
  else match s.hostBytes pa n with
    | .ok bs => .ok (s, 0, bs)
    | .error (.integrity a) => .ok (s.logError none 0 (.integrity a), 1, [1])
    | .error _ => .ok (s, 1, [])

/-- Bytes written at their home, line by line, each a stamp-taking step on a versioned line (R357). -/
def State.homeBytes (s : State) (leaf : Leaf) (pa : Nat) (bs : List Byte) : Res State :=
  (pieces (bs.length / 128 + 2) pa bs.length).foldlM (init := s) fun s e =>
    (if leaf.ver then s.tick else s).writeLocal noWriter leaf e.1 ((bs.drop (e.1 - pa)).take e.2) false

/-- A nibble written into its byte, as one access (R200). -/
def State.homeNibble (s : State) (leaf : Leaf) (pa : Nat) (high : Bool) (b : Nat) : Res State := do
  let r ← s.readLocal leaf .newest pa 1
  let old := leNat r.1
  s.homeBytes leaf pa [BitVec.ofNat 8 (if high then b / 16 * 16 + old % 16 else old / 16 * 16 + b % 16)]

/-- A write performed at its home, as its attributes say: an arrival (R81) or a node's completion (R295) at a landing word, a
register, a nibble, or bytes, poisoned where their source was in error (R95). -/
def State.homeWrite (s : State) (who : RegAgent) (k : BitVec 16) (pa : Nat) (bs : List Byte) : Res (State × BitVec 2) :=
  let leaf := attrLeaf k
  let landing := k.getLsbD 13 || k.getLsbD 14
  let code := s.homeRefusal .write leaf pa (if landing then 16 else bs.length)
  let marked := s.markUnrollable noWriter openLeaf (s.group pa)
  if code ≠ 0 then .ok (s, code)
  else if k.getLsbD 13 then .ok (marked.arrive 3 pa (leNat (bs.take 4)) (bs.getD 4 0 != 0), 0)
  else if k.getLsbD 14 then .ok (marked.arriveCompletion pa (bs.headD 0) none, 0)
  else if registerAt pa then .ok (s.regWrite who (pa - regBase) bs.length (leNat bs), 0)
  else match (if k.getLsbD 11 || k.getLsbD 12 then s.homeNibble leaf pa (k.getLsbD 12) (leNat bs) else s.homeBytes leaf pa bs) with
    | .ok s1 => .ok (if k.getLsbD 10 then s1.poisonRange pa bs.length else s1, 0)
    | .error (.integrity a) => .ok (s.logError none 0 (.integrity a), 1)
    | .error e => .error e

/-- What a message does at its home, and what answers it. It waits behind an earlier message of its flow (R328), for storage (R251), and
for a version record, at most up to the bound (R366). -/
def State.atHome {α : Type} (s : State) (i : Instr) (m : BitVec 128) (act : Res (State × α)) (reply : State → α → State)
    (failed : State → State) : State :=
  if s.behind i m then s.hold i
  else match act with
    | .ok (s1, x) => reply (s1.unawait i) x
    | .error (.denied a) => if s.late i then failed ((s.unawait i).logError none 0 (.denied a)) else s.await i
    | .error _ => s.hold i

/-- Width of an atomic of another package: BF16 reductions have 2 bytes (R204). -/
def homeWidth (op : Nat) (w : BitVec 1) : Nat := if 13 ≤ op then 2 else if w = 1 then 4 else 8

/-- What an atomic of another package leaves in memory: the codes of amo and cas, then the reductions of R204 that amo
has no code for. -/
def homeCombine (op w old v u : Nat) : Option Nat :=
  match op with
  | 11 => some (combine 0 1 old (v % 2 ^ 32))
  | 12 => some (combine 0 2 old (v % 2 ^ 32))
  | 13 => some (combine 1 0 old (v % 2 ^ 16))
  | 14 => some (combine 1 1 old (v % 2 ^ 16))
  | 15 => some (combine 1 2 old (v % 2 ^ 16))
  | _ => atomicNew op w old v u

/-- READ_REQUEST (R326): n bytes, answered with kind 0x02. -/
def execReadRequest (p : BitVec 4) (m : BitVec 128) (k : BitVec 16) (n : Byte) (s : State) : Out :=
  .next (s.arriving p m 0x01 (leBytes 2 k.toNat ++ [n]) fun s =>
    s.atHome (.readRequest p m k n) m
      (if k.getLsbD 15 then s.homeHostRead (localOf (headerArg m)) n.toNat else s.homeRead (attrLeaf k) (localOf (headerArg m)) n.toNat)
      (fun s r => s.respond p m 0x02 r.1 r.2) (fun s => s.respond p m 0x02 1 []))

/-- WRITE_REQUEST (R326): answered with kind 0x04. -/
def execWriteRequest (p : BitVec 4) (m : BitVec 128) (k : BitVec 16) (q : List Byte) (s : State) : Out :=
  .next (s.arriving p m 0x03 (leBytes 2 k.toNat ++ q) fun s =>
    s.atHome (.writeRequest p m k q) m (s.homeWrite .host k (localOf (headerArg m)) q)
      (fun s c => s.respond p m 0x04 c []) (fun s => s.respond p m 0x04 1 []))

/-- One indivisible access (R68), with its code and the old value. -/
def State.homeAtomic (s : State) (leaf : Leaf) (pa op w v u : Nat) : Res (State × BitVec 2 × Nat) := do
  let code := s.homeRefusal .atomic leaf pa w
  if code ≠ 0 then return (s, code, 0)
  let r ← s.homeRead leaf pa w
  let old := leNat r.2.2
  if r.2.1 ≠ 0 then return (r.1, r.2.1, leNat r.2.2)
  match homeCombine op w old v u with
  | none => return (r.1, 0, old)
  | some x =>
    let s1 ← r.1.homeBytes leaf pa (leBytes w x)
    return (s1, 0, old)

/-- ATOMIC_REQUEST (R326): performed indivisibly, answered with kind 0x06 and the old value. -/
def execAtomicRequest (p : BitVec 4) (m : BitVec 128) (k : BitVec 16) (o : BitVec 4) (w : BitVec 1) (v u : W64) (s : State) : Out :=
  .next (s.arriving p m 0x05 (leBytes 2 k.toNat ++ [o.setWidth 8, w.setWidth 8] ++ leBytes 8 v.toNat ++ leBytes 8 u.toNat) fun s =>
    s.atHome (.atomicRequest p m k o w v u) m
      (s.homeAtomic (attrLeaf k) (localOf (headerArg m)) o.toNat (homeWidth o.toNat w) v.toNat u.toNat)
      (fun s r => s.respond p m 0x06 r.1 (leBytes 8 r.2)) (fun s => s.respond p m 0x06 1 (leBytes 8 0)))

/-! ## The host bridge (R274, R345 to R347) -/

def State.hostOut (s : State) (x : HostOut) : State := { s with bridge := { s.bridge with out := s.bridge.out ++ [x] } }

/-- The bridge of a package that has booted is not ready (R408). -/
def State.hostShut (s : State) : Bool := !s.engReady 32 && s.mgmt.bootOk

/-- BAR0 slots map package control blocks, BAR2 windows group physical memory. BAR0 reads zero and ignores writes when
the boot has failed (R407). A bridge that is not ready answers nothing (R408). -/
def State.hostPlace (s : State) (bar : BitVec 1) (off : Nat) : HostPlace :=
  if s.hostShut then .unsupported
  else if bar = 0 then
    if off ≥ 2 ^ 28 then .unsupported
    else
      let slot := s.bridge.slots[off / 2 ^ 24]?.getD 0
      if !s.mgmt.bootOk || !wbit slot 63 then .zero else .at_ (wbits slot 9 0 * 2 ^ 48 + regBase + off % 2 ^ 24)
  else
    let win := s.bridge.wins[off / 2 ^ 32]?.getD 0
    if !s.mgmt.bootOk || !wbit win 63 then .zero else .at_ (wbits win 57 32 * 2 ^ 32 + off % 2 ^ 32)

/-- Every byte of a host access has storage that is not quarantined (R384, R400). -/
def State.hostReaches (s : State) (pa n : Nat) : Bool :=
  spanAll pa n fun q => s.storage q && !s.quarantined q

/-- A BAR0 access is one naturally aligned access of 4 or 8 bytes (R252). -/
def HostAccess.aligned (x : HostAccess) : Bool := (x.size == 4 || x.size == 8) && x.off % x.size == 0

/-- A host access at this package. A read that finds an error completes poisoned, which AER reports (R398, R399). -/
def State.hostLocal (s : State) (x : HostAccess) (pa : Nat) : State :=
  if x.bar = 0 then
    if !x.aligned then s.hostOut .unsupported
    else match x.write with
      | some bs => if isKeyReg (pa - regBase) then s else s.regWrite .host (pa - regBase) x.size (leNat bs)
      | none =>
        if isKeyReg (pa - regBase) then s.hostOut (.data (List.replicate x.size 0))
        else let r := s.regRead (pa - regBase) x.size; r.1.hostOut (.data (leBytes x.size r.2))
  else if !s.hostReaches pa x.size then s.hostOut .unsupported
  else match x.write with
    | some bs =>
      if (upto x.size).any fun i => s.carveOut (pa + i) then s
      else match s.writeLocal noWriter openLeaf pa bs with
        | .ok s' => s'
        | .error (.denied a) => (s.logError none 0 (.denied a)).hostOut .internalError
        | .error _ => s.hostOut .internalError
    | none =>
      match s.hostBytes pa x.size with
      | .ok bs => s.hostOut (.data bs)
      | .error e => ((s.logError none 0 e).hostOut .poisoned).hostOut .aer

/-- A host access is performed, or sent to the package it is for. A key register of another package too reads zero and ignores writes
(R414). -/
def State.hostPerform (s : State) (x : HostAccess) : State :=
  match x.place with
  | .zero => if x.write.isSome then s else s.hostOut (.data (List.replicate x.size 0))
  | .unsupported => s.hostOut .unsupported
  | .at_ gpa =>
    if s.ownPkg gpa then s.hostLocal x (localOf gpa)
    else if !s.reachable 0 (gpa / 2 ^ 48) || (x.bar == 0 && !x.aligned) then s.hostOut .unsupported
    else if keyRegAt (localOf gpa) then (if x.write.isSome then s else s.hostOut (.data (List.replicate x.size 0)))
    else match x.write with
      | some bs => (pieces (x.size / 128 + 2) gpa x.size).foldl (init := s) fun (s : State) e =>
          s.request 0 .unit .write e.1 e.2 0 ((bs.drop (e.1 - gpa)).take e.2)
      | none => (pieces (x.size / 128 + 2) gpa x.size).foldl (init := s) fun (s : State) e =>
          s.request 0 .unit .read e.1 e.2 markHost [BitVec.ofNat 8 e.2]

/-- The answers to the bridge's own requests, all of one host access: completed towards the host in one. -/
def State.hostAnswers (s : State) : State :=
  let mine := s.fabric.answers.filter fun a => a.who == .unit
  if mine.isEmpty || s.asking .unit then s
  else
    let s1 := s.dropAnswers .unit
    let reads := mine.filter fun a => a.kind == .read
    if mine.any fun a => 2 ≤ a.code.toNat then s1.hostOut .unsupported
    else if reads.isEmpty then (if mine.any Answer.err then s1.hostOut .internalError else s1)
    else if reads.any Answer.err then
      let s2 := match reads.find? fun a => a.err && !a.failedTag with
        | some a => s1.logError none 0 (.lost 0 a.addr)
        | none => s1
      (s2.hostOut .poisoned).hostOut .aer
    else s1.hostOut (.data (reads.flatMap (·.bytes)))

/-- A host access to the scratch of a die whose pool partition changes stalls (R251). -/
def State.hostStalls (s : State) (x : HostAccess) : Bool :=
  match x.place with
  | .at_ gpa => x.bar == 1 && s.ownPkg gpa && s.scratchBusy (localOf gpa)
  | _ => false

/-- Host accesses in their order: one is performed when those before it are (R274). -/
def State.hostDrain : Nat → State → State
  | 0, s => s
  | fuel + 1, s =>
    let s1 := s.hostAnswers
    if s1.asking .unit then s1
    else match s1.bridge.waiting with
      | [] => s1
      | x :: r => if s1.hostStalls x then s1 else State.hostDrain fuel ({ s1 with bridge := { s1.bridge with waiting := r } }.hostPerform x)

/-- A host access takes its place behind the earlier ones (R274). -/
def State.hostQueue (s : State) (x : HostAccess) : State :=
  let s1 := { s with bridge := { s.bridge with waiting := s.bridge.waiting ++ [x] } }
  s1.hostDrain (2 * s1.bridge.waiting.length + 2)

/-- The change of a die's pool partition is done (R251); host accesses that it stalled go on. -/
def execPoolPartitionChangeDone (d : BitVec 2) (s : State) : Out :=
  .next (match (s.die d).partition with
    | none => s
    | some _ =>
      let s1 := s.partitionDone d
      if s1.bridge.waiting.isEmpty then s1 else s1.hostDrain (2 * s1.bridge.waiting.length + 2))

/-- A host access arrives at the bridge, where the mappings of now place it (R347); on a package that does not bridge the port is held
in reset (R345). -/
def State.hostAccess (s : State) (bar : BitVec 1) (off : Nat) (write : Option (List Byte)) (size : Nat) : State :=
  if !s.bridge.hosten then s
  else s.hostQueue { bar := bar, off := off, place := s.hostPlace bar off, write := write, size := size }

def execHostWrite (b : BitVec 1) (a : BitVec 36) (q : List Byte) (s : State) : Out :=
  .next (s.hostAccess b a.toNat (some q) q.length)
def execHostRead (b : BitVec 1) (a : BitVec 36) (n : BitVec 13) (s : State) : Out :=
  .next (s.hostAccess b a.toNat none n.toNat)

/-- A host access to a register of this package by its offset in the register range, in the order of arrival (R252, R274), on a package
that bridges (R345) and has booted (R407). -/
def State.hostRegister (s : State) (off size : Nat) (write : Option Nat) : State :=
  let at_ : HostPlace := if s.hostShut then .unsupported else if !s.mgmt.bootOk then .zero else .at_ (s.group (regBase + off))
  if !s.bridge.hosten then s
  else s.hostQueue { bar := 0, off := off, place := at_, write := write.map (leBytes size), size := size }

/-- A register write by a supervisor, the host or the management plane (R8, R252). -/
def execRegisterWrite (w : BitVec 2) (a : BitVec 48) (n : Bool) (v : W64) (s : State) : Out :=
  let size := if n then 8 else 4
  .next (match place a.toNat with
    | .register off =>
      if off % size ≠ 0 then s
      else match w.toNat with
        | 0 => s.regWrite (.supervisor s.curCluster) off size v.toNat
        | 1 => s.hostRegister off size (some v.toNat)
        | _ => if isKeyReg off then s else s.regWrite .management off size v.toNat
    | _ => s)

/-- A host reads HDISP whole (R292): the value goes out and a valid entry is removed. -/
def execHdispRead (s : State) : Out := .next (s.hostRegister 0x1018 8 none)
def execHdoneWrite (v : W64) (s : State) : Out := .next (s.hostRegister 0x1020 8 (some v.toNat))
def execQtailWrite (q : Byte) (v : W64) (s : State) : Out := .next (s.hostRegister (0x100018 + 64 * q.toNat) 8 (some v.toNat))

/-- A configuration request to the bridge's function, which answers it whatever else is ready (R406). -/
def execConfigurationRequest (a : BitVec 12) (w : Bool) (v : W32) (s : State) : Out :=
  .next (if !s.bridge.hosten then s
    else if w then { s with bridge := { s.bridge with config := tput s.bridge.config a.toNat v } }.hostOut .configured
    else s.hostOut (.config (Config.pcieConfig s.bridge.config a)))

/-! ## Responses (R326, R329) -/

/-- The unfinished request a response names by its TAG. -/
def State.takeResponse (s : State) (m : BitVec 128) (kind : AskKind) (code : BitVec 2) (bytes : List Byte) : State :=
  match s.fabric.requests.find? fun r => r.tag.toNat == headerTag m && r.kind == kind && r.addr / 2 ^ 48 == headerSpkg m with
  | some r => let s1 := s.answered r code bytes; s1.hostDrain (2 * s1.bridge.waiting.length + 2)
  | none => s

def execReadResponse (p : BitVec 4) (m : BitVec 128) (e : BitVec 2) (q : List Byte) (s : State) : Out :=
  .next (s.arriving p m 0x02 ([e.setWidth 8] ++ q) fun s => s.takeResponse m .read e q)
def execWriteResponse (p : BitVec 4) (m : BitVec 128) (e : BitVec 2) (s : State) : Out :=
  .next (s.arriving p m 0x04 [e.setWidth 8] fun s => s.takeResponse m .write e [])
def execAtomicResponse (p : BitVec 4) (m : BitVec 128) (e : BitVec 2) (v : W64) (s : State) : Out :=
  .next (s.arriving p m 0x06 ([e.setWidth 8] ++ leBytes 8 v.toNat) fun s => s.takeResponse m .atomic e (leBytes 8 v.toNat))

/-! ## Barriers of group level (R330) -/

def execBarrierArrival (p : BitVec 4) (m : BitVec 128) (g : W32) (i : BitVec 4) (u : BitVec 20) (s : State) : Out :=
  .next (s.arriving p m 0x20 (leBytes 4 g.toNat ++ [i.setWidth 8] ++ leBytes 3 u.toNat) fun s =>
    s.takeArrival g i (headerSpkg m) u.toNat)

/-- The barrier unit takes the new phase: the arrivals of the phase before are done. -/
def execBarrierPhase (p : BitVec 4) (m : BitVec 128) (g : W32) (i : BitVec 4) (f : BitVec 31) (s : State) : Out :=
  .next (s.arriving p m 0x21 (leBytes 4 g.toNat ++ [i.setWidth 8] ++ leBytes 4 f.toNat) fun s =>
    { s with pool := { s.pool with nodes := s.pool.nodes.map fun n =>
      if n.did = g ∧ n.dlev = 4 then n.setBarrier i { phase := f, arrived := [] } else n } })

/-! ## The time base (R342 to R344) -/

/-- TIME of 64.16 fixed point. -/
def TimeBase.fixed (x : TimeBase) : Nat := x.ns.toNat * 65536 + x.frac.toNat

/-- n ns of the reference clock pass: TIME holds, then runs at its rate, at most 100 ppm away; what does not fill a unit of TIMEF is carried
over (R342, R344). -/
def TimeBase.pass (x : TimeBase) (n : Nat) : TimeBase :=
  let idle := min n x.hold.toNat
  let gone := (n - idle) * 65536 * (999900 + min x.rate.toNat 200) + x.rest
  let t := x.fixed + gone / 1000000
  { x with ns := BitVec.ofNat 64 (t / 65536), frac := BitVec.ofNat 16 t, hold := x.hold - BitVec.ofNat 64 idle, rest := gone % 1000000 }

/-- A Sync of the master's TIME v over h hops (R343, R344). The first one after EN steps forward or holds; later ones
change the rate. -/
def TimeBase.sync (x : TimeBase) (v : W64) (h : Byte) : TimeBase :=
  let y := { x with hops := if h = 255 then 255 else h + 1, offset := BitVec.ofNat 32 (x.ns - v).toNat, synced := true }
  if x.synced then
    { y with
      lock := x.hold == 0 && decide ((toSigned 64 (x.ns - v).toNat).natAbs ≤ 25)
      rate := Config.timeRate x.syncs y.offset
      syncs := x.syncs + 1 }
  else if x.ns.ult v then { y with ns := v, frac := 0, lock := false }
  else { y with hold := x.ns - v, lock := false }

/-- A time message leaves by a port, to the package at its far end: ARG is 0 for Sync, 2 for Pdelay_Req and 3 for Pdelay_Resp, the
message types of IEEE 1588 (PRESUMED, log 75). -/
def State.sendTime (s : State) (g arg tag : Nat) (v : W64) (n : Byte) : State :=
  let body := leBytes 8 v.toNat ++ [n]
  s.enqueue g 6 (messageHeader arg tag 0x28 (g / 4) s.fabric.pkg.toNat (s.port (BitVec.ofNat 4 g)).peerPkg.toNat body.length) body none

/-- The mean path delay of a port: half of what a delay request and its response took, less the turnaround. -/
def Port.measured (x : Port) (now : W64) (turnaround : W64) (tag : Nat) : Port :=
  match x.asked with
  | some t => if t.toNat % 2 ^ 23 = tag then { x with delay := (now.toNat - t.toNat - turnaround.toNat) / 2, asked := none } else x
  | none => x

/-- A time message (R343): a delay request is answered at once, a response measures the path, and a Sync, with the delay of its path,
is taken by a package that disciplines its time base and is not the grandmaster, from whatever port it comes (DESIGN CHOICE, log 88). -/
def execTime (p : BitVec 4) (m : BitVec 128) (v : W64) (n : Byte) (s : State) : Out :=
  .next (s.arriving p m 0x28 (leBytes 8 v.toNat ++ [n]) fun s =>
    match headerArg m with
    | 0 =>
      if s.time.en ∧ s.time.gm ≠ s.fabric.pkg then { s with time := s.time.sync (v + BitVec.ofNat 64 (s.port p).delay) n } else s
    | 2 => s.sendTime p.toNat 3 (headerTag m) 0 0
    | 3 => s.onPort p fun x => x.measured s.time.ns v (headerTag m)
    | _ => s)

/-- A Sync on every port that is UP, to the package at its far end (R343), and with it a request that measures the path (its interval is
a DESIGN CHOICE, log 75). -/
def execSyncSend (s : State) : Out :=
  .next ((upto 16).foldl (init := s) fun (s : State) g =>
    if (s.port (BitVec.ofNat 4 g)).up then
      let s1 := s.sendTime g 0 0 s.time.ns (if s.time.gm = s.fabric.pkg then 0 else s.time.hops)
      (s1.sendTime g 2 (s.time.ns.toNat % 2 ^ 23) 0 0).onPort (BitVec.ofNat 4 g) fun x => { x with asked := some s.time.ns }
    else s)

/-- A management message reaches the management endpoint (R326, R411). -/
def execManagement (p : BitVec 4) (m : BitVec 128) (q : List Byte) (s : State) : Out :=
  .next (s.arriving p m 0x30 q fun s => { s with mgmt := { s.mgmt with mgmtIn := s.mgmt.mgmtIn ++ [q] } })

/-! ## Paths (R328) -/

/-- Path entries have changed: messages of a flow wait for its requests that left by the old path (R328), the units of reduction windows whose flow they carry send again what they retain
(R341), and sends the tokens of such flows that no summary has covered (R336). -/
def State.afterPaths (s : State) : State :=
  let moved := s.fabric.moved
  if moved.isEmpty then s
  else
    let hit (d i pkg : Nat) : Bool := moved.any fun e => e.1 == 4 || (e.1 == d && e.2.1 == pkg && e.2.2 == i % 64)
    let left (r : Request) : Bool := !(s.fabric.txq.any fun k => headerSpkg k.header == s.fabric.pkg.toNat && headerTag k.header == r.tag.toNat)
    let drain := (s.fabric.requests.filter fun r => left r && hit r.die.toNat (bits r.addr 20 12) (r.addr / 2 ^ 48)).map (·.tag)
    let s1 := (upto 64).foldl (init := { s with fabric := { s.fabric with moved := [], drain := s.fabric.drain ++ drain } }) fun (s : State) i =>
      let ds := (upto 4).filter fun d => moved.any fun e => e.1 == 4 && d == 0 || (e.1 == d && e.2.2 == i)
      ds.foldl (init := s) fun (s : State) d => s.redResend (BitVec.ofNat 2 d) (BitVec.ofNat 6 i) fun pkg => hit d i pkg
    (upto 64).foldl (init := s1) fun (s : State) k =>
      s.resendFlows (BitVec.ofNat 2 (k / 16)) (BitVec.ofNat 4 k) fun pkg i => hit (k / 16) i pkg

/-! ## Ports and lanes (R325, R327, R329) -/

/-- Retired lanes of the nine, and the state they leave: the spare replaces the first, four lanes are kept after a
second, and fewer than four good lanes fail the port. -/
def lanesBad (bad : BitVec 9) : Nat := (upto 9).countP fun i => bad.getLsbD i
def laneState (bad : BitVec 9) : BitVec 3 :=
  if lanesBad bad = 0 ∨ bad = 0x100 then 2
  else if lanesBad bad = 1 then 3
  else if lanesBad bad ≤ 5 then 4
  else 5

/-- LINK: a lane retired, or a port retrained or failed; COUNT is the new state (R402). -/
def State.logLink (s : State) (p : BitVec 4) (lane : Nat) : State :=
  let x := s.port p
  s.log (BitVec.ofNat 2 (p.toNat / 4))
    { ErrorRecord.blank with
      cls := 0x0A, sev := if x.state = 5 then 3 else 1, src := 5, unit := p.setWidth 16, sub := BitVec.ofNat 16 lane
      count := x.state.setWidth 32 }

/-- A function sets its ready bit, at most once per power-up and only after every image has been verified (R407,
R408): register 0 is RDYMEM, 1 RDYENG, 2 RDYTILE. -/
def State.setReady (s : State) (m : BitVec 2) (b : Nat) : State :=
  let bit : W64 := BitVec.twoPow 64 b
  let r := s.ready
  let once := match m.toNat with | 0 => r.onceMem | 1 => r.onceEng | _ => r.onceTile
  if !s.mgmt.bootOk || once &&& bit != 0 then s
  else { s with ready := match m.toNat with
    | 0 => { r with mem := r.mem ||| bit, onceMem := r.onceMem ||| bit }
    | 1 => { r with eng := r.eng ||| bit, onceEng := r.onceEng ||| bit }
    | _ => { r with tile := r.tile ||| bit, onceTile := r.onceTile ||| bit } }

/-- The LINK ready bit of a port (R408): 1 when it reaches UP8 or UP4, 0 when it fails. -/
def State.linkReady (s : State) (p : BitVec 4) (up : Bool) : State :=
  if up then s.setReady 1 (16 + p.toNat)
  else { s with ready := { s.ready with eng := s.ready.eng &&& ~~~ BitVec.twoPow 64 (16 + p.toNat) } }

/-- A port has failed (R329): messages that wait there are lost, an access of this package that lost its request or its response completes
as a consumed uncorrectable error. -/
def State.portFailed (s : State) (p : BitVec 4) (lane : Nat) : State :=
  let s1 := ((s.onPort p fun x => { x with state := 5 }).linkReady p false).logLink p lane
  let gone := s1.fabric.txq.filter fun k => k.port == p.toNat
  let s2 := gone.foldl (fun (s : State) (k : Message) => s.linkLost p.toNat (headerKind k.header))
    { s1 with fabric := { s1.fabric with txq := s1.fabric.txq.filter fun k => k.port != p.toNat } }
  let unsent (r : Request) : Bool := gone.any fun k =>
    headerSpkg k.header == s1.fabric.pkg.toNat && headerTag k.header == r.tag.toNat && headerKind k.header == askCode r.kind
  let flown (r : Request) : Bool := !unsent r && Config.lostInFlight p r.tag s1.time.ns
  let s3 := (s2.fabric.requests.filter unsent).foldl (fun (s : State) r => s.answered r 1 []) s2
  let s4 := (s3.fabric.requests.filter flown).foldl (fun (s : State) r => (s.linkLost p.toNat (askCode r.kind)).answered r 1 []) s3
  (s4.hostDrain (2 * s4.bridge.waiting.length + 2)).setStops

/-- A CRC error asks for a replay from the flit after the last good SEQ (R325): REPLAY counts it, saturating, and no message is lost. -/
def execLinkReplay (p : BitVec 4) (s : State) : Out :=
  .next (if (s.port p).up then s.onPort p fun x => { x with replay := if x.replay = 255 then 255 else x.replay + 1, want := some (x.good + 1) }
    else s)

/-- A port trains (R327): r is the round trip it measures in flits, k and u the package and port at the far end, b the
lanes it finds bad. A round trip above 200 keeps it LONG. Traffic that a retrain held goes on (R329). -/
def execPortTraining (p : BitVec 4) (r : Byte) (k : BitVec 10) (u : BitVec 4) (b : BitVec 9) (s : State) : Out :=
  .next (
    let old := (s.port p).state
    let again := (s.port p).up || old == 5 || old == 1
    let state : BitVec 3 := if laneState b = 5 then 5 else if 200 < r.toNat then 6 else laneState b
    let s1 := s.onPort p fun x =>
      { x with rtt := r, high := BitVec.ofNat 8 (256 - r.toNat - 2), low := BitVec.ofNat 8 (256 - r.toNat - 2 - 32)
               peerPkg := k, peerPort := u, bad := b, state := state, stop := 0 }
    if state = 5 then s1.portFailed p 0
    else
      let s2 := s1.linkReady p (state != 6)
      (if again then s2.logLink p 0 else s2).pump)

/-- A lane is retired (R329): the spare replaces the first, and after a second the port retrains. -/
def execLaneRetire (p : BitVec 4) (l : BitVec 4) (s : State) : Out :=
  .next (let x := s.port p
    if !(x.up || x.state == 1) || decide (9 ≤ l.toNat) || x.bad.getLsbD l.toNat then s
    else
      let bad := x.bad ||| BitVec.twoPow 9 l.toNat
      let state : BitVec 3 := if laneState bad = 4 then 1 else laneState bad
      let s1 := s.onPort p fun x => { x with bad := bad, state := state }
      if state = 5 then s1.portFailed p l.toNat else s1.logLink p l.toNat)

def execPortFail (p : BitVec 4) (s : State) : Out := .next (if (s.port p).state = 5 then s else s.portFailed p 0)

/-- A flit carries the peer's STOP mask (R325, R327). -/
def execIdleFlit (p : BitVec 4) (k : Byte) (s : State) : Out := .next ((s.received p 1).onPort p fun x => { x with stop := k }).pump

end Sys2Proof.Machine
end

