-- ==== Sys2Proof/Machine/Platform.lean ====
section
/-!
DEFINITION. Sys2Proof/Machine/Platform.lean: power, reset and boot (R406, R407), readiness (R408), what firmware sets (R8),
the management endpoint and attestation (R411 to R413), freeze and the test port (R416).
-/

/-- The package state chain in the order that the scan map of the boot flash lists (R416): bit n, of a state that holds no key. -/
opaque Sys2Proof.Config.scanBit : Sys2Proof.Machine.State → Nat → Bool

namespace Sys2Proof.Machine

/-! ## Power and reset (R406, R407) -/

/-- An image of the boot flash passes (R407): the key that signs it has the fused digest, the signature is one of the image's SHA-384 digest,
and its security version is not below the fused counter. -/
def imageVerifies (reset : Nat) (x : Config.FlashImage) : Bool :=
  Config.sha384 x.key == Config.rootKeyDigest && Config.ecdsaVerifies x.key (Config.sha384 x.bytes) x.signature &&
  decide (Config.fusedVersion reset ≤ x.version)

/-- The boot ROM verifies the first image, which verifies the management firmware, which verifies the supervisor firmware (R407). -/
def bootVerifies (reset : Nat) : Bool := (upto 3).all fun i => imageVerifies reset (Config.bootFlash reset i)

/-- A package reset: every function starts anew, the strap is sampled (R345) and the boot ROM verifies the images (R407). -/
def State.packageReset (s : State) (hosten : Bool) : State :=
  { State.reset with
    agenda := s.agenda
    bridge := { State.reset.bridge with hosten := hosten }
    mgmt := { State.reset.mgmt with resets := s.mgmt.resets + 1, bootOk := bootVerifies (s.mgmt.resets + 1) } }

def execPowerOn (h : Bool) (s : State) : Out := .next (s.packageReset h)
def execReset (h : Bool) (s : State) : Out := .next (s.packageReset h)

/-- PWRGOOD or RESET# falls. -/
def execPowerLoss (s : State) : Out := .next { s.lostPower with mgmt := { State.reset.mgmt with resets := s.mgmt.resets } }

/-- PERST# resets only the host bridge: its configuration and the accesses in it. -/
def execPerst (s : State) : Out :=
  .next (if !s.bridge.hosten then s
    else { s with
      bridge := { s.bridge with config := [], waiting := [], out := [] }
      fabric := { s.fabric with
        requests := s.fabric.requests.filter fun r => r.who != .unit
        answers := s.fabric.answers.filter fun a => a.who != .unit } })

/-! ## Readiness (R408) -/

/-- The bit numbers of RDYMEM, RDYENG and RDYTILE that a self-test sets. The LINK bits belong to ports that have reached
UP8 or UP4, the HOST bit to a bridging package. -/
def State.readyBit (s : State) (m : BitVec 2) (b : Nat) : Bool :=
  match m.toNat with
  | 0 => decide (b ≤ 43)
  | 1 => decide (b ≤ 38) && (decide (b < 16 ∨ 32 ≤ b) || (s.port (BitVec.ofNat 4 (b - 16))).up) && (b != 32 || s.bridge.hosten)
  | 2 => true
  | _ => false

def execFunctionReady (m : BitVec 2) (b : BitVec 6) (s : State) : Out :=
  .next (if s.readyBit m b.toNat then s.setReady m b.toNat else s)

/-! ## What firmware sets (R8, R251, R254) -/

/-- No function of a die is ready yet. -/
def State.dieIdle (s : State) (d : BitVec 2) : Bool :=
  s.ready.mem &&& dieReadyMem d.toNat == 0 && s.ready.eng &&& dieReadyEng d.toNat == 0 && (s.ready.tile >>> (16 * d.toNat)).setWidth 16 == (0 : BitVec 16)

/-- Firmware sets a field of reset value fw that no register write reaches. The fields: 0 PKG of TILEID, 1 TOPO, 2 GM of
TBCTL, 3 VSBASE, 4 GIB, 5 SCOUNT, 6 SFIRST, 7 MBASE, 8 MAXOP and 9 OP of a die, 10 a tile's place in service (index
8 × cluster + physical tile; LOGICAL × 256 + STATE), 11 a row that fails its bring-up test on a die (point × 2^24 + array ×
2^22 + unit × 2^16 + row). Those of a die are set before any function of the die is ready: from then on only a step changes its point (R378,
R408). -/
def State.firmware (s : State) (field index : Nat) (v : W64) : State :=
  let n := v.toNat
  let d : BitVec 2 := BitVec.ofNat 2 index
  let ver (f : Versions → Versions) : State := { s with versions := f s.versions }
  match field with
  | 0 => { s with fabric := { s.fabric with pkg := BitVec.ofNat 10 n } }
  | 1 => s.regWrite .management 0x2800 8 n
  | 2 => { s with time := { s.time with gm := BitVec.ofNat 10 n } }
  | 3 => ver fun x => { x with vsbase := BitVec.ofNat 17 n }
  | 4 => ver fun x => { x with gib := BitVec.ofNat 10 n }
  | 5 => ver fun x => { x with scount := BitVec.ofNat 10 n }
  | 6 => ver fun x => { x with sfirst := BitVec.ofNat 9 n }
  | 7 => ver fun x => { x with mbase := BitVec.ofNat 9 n }
  | 8 => if n ≤ 5 ∧ s.dieIdle d then s.onDie d fun x => { x with maxop := BitVec.ofNat 3 n } else s
  | 9 => if n ≤ 5 ∧ s.dieIdle d then s.onDie d fun x => { x with point := BitVec.ofNat 3 n } else s
  | 10 => s.onCluster (BitVec.ofNat 4 (index / 8)) fun k => k.onPhys (index % 8) fun p =>
      { p with state := BitVec.ofNat 2 n, logical := BitVec.ofNat 8 (n / 256) }
  | 11 => if !s.dieIdle d then s else s.onDie d fun x => { x with bad := x.bad ++
      [{ array := BitVec.ofNat 2 (bits n 23 22), unit := BitVec.ofNat 6 (bits n 21 16), row := bits n 15 0, point := BitVec.ofNat 3 (bits n 26 24) }] }
  | _ => s

/-! ## Freeze (R416) -/

/-- Every clock stops: traffic in flight is abandoned, all other state is held. -/
def State.freeze (s : State) : State := { s with frozen := true, fabric := { s.fabric with outbox := [], txq := [] } }

def execFreeze (s : State) : Out := .next s.freeze

/-! ## The test access port (R416) -/

/-- Bits of a number, least significant first. -/
def bitsOf (n x : Nat) : List Bool := (upto n).map fun i => x.testBit i

/-- An instruction is in the TAP's instruction register and its data register shifts out. -/
def State.tapShift (s : State) (ir : BitVec 6) (out : List Bool) : State :=
  { s with mgmt := { s.mgmt with tapIr := ir, tapOut := s.mgmt.tapOut ++ out } }

/-- SCANOUT and MEMRD show state of a frozen package whose DBGEN fuse is 1. -/
def State.tapOpen (s : State) : Bool := s.frozen && Config.dbgen

/-- The state without its keys. -/
def State.withoutKeys (s : State) : State :=
  let bare (g : SealTag) : SealTag := { g with key := 0 }
  { s with
    keys := State.reset.keys, seals := s.seals.map fun e => (e.1, bare e.2)
    versions := { s.versions with records := s.versions.records.map fun e => (e.1, { e.2 with tag := e.2.tag.map bare }) } }

/-- The TAP takes another instruction code: it selects BYPASS. -/
def State.tapOther (s : State) (ir : BitVec 6) : State :=
  if ir = 0x01 ∨ ir = 0x10 ∨ ir = 0x11 ∨ ir = 0x12 then s else s.tapShift ir [false]

def execTapIdcode (s : State) : Out := .next (s.tapShift 0x01 (bitsOf 32 0x0C71A9F1))
def execTapFrzstat (s : State) : Out := .next (s.tapShift 0x10 [s.frozen])
/-- n bits of the package state chain, on which no key is (R414). -/
def execTapScanout (n : Nat) (s : State) : Out :=
  .next (s.tapShift 0x11 ((upto n).map fun i => s.tapOpen && Config.scanBit s.withoutKeys i))

/-- The 64 bits at a local physical address; zeros where nothing is stored. -/
def State.tapWord (s : State) (pa : Nat) : Nat :=
  match place pa with
  | .register off => if isKeyReg off then 0 else s.regWord (off / 8 * 8)
  | _ =>
    let r := s.physRead pa 8
    if !s.storage pa || !s.storage (pa + 7) then 0
    else leNat (r.1.zipIdx.map fun e => if s.poisoned (pa + e.2) then Config.brokenByte (pa + e.2) else
      (if r.2 then (s.rawRead (pa + e.2) 1).1.head?.getD 0 else e.1))

def execTapMemrd (a : BitVec 48) (s : State) : Out :=
  .next (s.tapShift 0x12 (if s.tapOpen then bitsOf 64 (s.tapWord a.toNat) else List.replicate 64 false))
def execTapBypass (s : State) : Out := .next (s.tapShift 0x3F [false])

/-! ## The management endpoint (R407, R411, R412) -/

def State.answer (s : State) (x : MgmtOut) : State := { s with mgmt := { s.mgmt with mgmtOut := s.mgmt.mgmtOut ++ [x] } }

/-- The endpoint and attestation are in use: ready, and every image verified. Before, it answers only MCTP control
messages and the vendor status message. -/
def State.endpointOpen (s : State) : Bool := s.mgmt.bootOk && s.engReady 38

def State.attest (s : State) (x : MgmtOut) : State := if s.endpointOpen then s.answer x else s

def execMctpControl (q : List Byte) (s : State) : Out := .next (s.answer (.mctp (Config.mctpAnswer q)))

/-- A vendor register access (R412): naturally aligned, of 4 or 8 bytes, in a control block; key registers are refused. -/
def vendorOffset (a : BitVec 48) (n : Bool) : Option Nat :=
  match place a.toNat with
  | .register off => if off % (if n then 8 else 4) = 0 ∧ !isKeyReg off then some off else none
  | _ => none

def execVendorRegisterRead (a : BitVec 48) (n : Bool) (s : State) : Out :=
  .next (if !s.endpointOpen then s
    else match vendorOffset a n with
      | some off => let r := s.regRead off (if n then 8 else 4); r.1.answer (.value (BitVec.ofNat 64 r.2))
      | none => s.answer .refused)

def execVendorRegisterWrite (a : BitVec 48) (n : Bool) (v : W64) (s : State) : Out :=
  .next (if !s.endpointOpen then s
    else match vendorOffset a n with
      | some off => (s.regWrite .management off (if n then 8 else 4) v.toNat).answer .done
      | none => s.answer .refused)

/-- BOOTFAIL and the readiness map; answered always. -/
def execVendorStatusQuery (s : State) : Out :=
  .next (s.answer (.status (!s.mgmt.bootOk) [s.ready.mem, s.ready.eng, s.ready.tile]))

def execVendorFreeze (s : State) : Out := .next (if s.endpointOpen then (s.answer .done).freeze else s)

/-! ## Attestation (R413) -/

/-- An SPDM request by its code: one that the device does not support is answered ERROR UnsupportedRequest. -/
def State.spdmOther (s : State) (code : Byte) : State :=
  if [0x81, 0x82, 0x83, 0x84, 0xE0, 0xE1, 0xE3].contains code.toNat then s else s.attest .unsupported

def execGetVersion (s : State) : Out := .next (s.attest (.version 1 3))
def execGetCapabilities (s : State) : Out := .next (s.attest (.capabilities true true true))
def execNegotiateAlgorithms (s : State) : Out := .next (s.attest .algorithms)
def execGetDigests (s : State) : Out := .next (s.attest (.digest 0 (Config.sha384 Config.certificate).toList))

/-- n bytes of the chain of slot 0 from byte o. -/
def execGetCertificate (o n : BitVec 16) (s : State) : Out :=
  .next (let rest := Config.certificate.drop o.toNat
    s.attest (.certificate (rest.take n.toNat) (rest.length - n.toNat)))

def execChallenge (n : BitVec 256) (s : State) : Out :=
  .next (s.attest (.signature n (Config.signature s.mgmt.mgmtOut.length n).toList))

/-- The measurements of R413, SHA-384 digests of what has been in use since a reset. -/
def measurement (reset k : Nat) : Vector Byte 48 :=
  Config.sha384 (match k with
    | 1 => Config.bootRom
    | 2 => (Config.bootFlash reset 1).bytes
    | 3 => (Config.bootFlash reset 2).bytes
    | _ => Config.fuseBytes (Config.fusedVersion reset) Config.dbgen)

/-- The measurement of an index, or all four with index 255 (SPDM); other indexes have none. -/
def State.measured (s : State) (i : Nat) : List (Nat × List Byte) :=
  let one (k : Nat) : Nat × List Byte := (k, (measurement s.mgmt.resets k).toList)
  if i = 255 then [one 1, one 2, one 3, one 4] else if 1 ≤ i ∧ i ≤ 4 then [one i] else []

def execGetMeasurements (i : Byte) (n : BitVec 256) (s : State) : Out :=
  .next (if i ≠ 0 ∧ (s.measured i.toNat).isEmpty then s.attest .unsupported
    else s.attest (.measurements (s.measured i.toNat) n (Config.signature s.mgmt.mgmtOut.length n).toList))

end Sys2Proof.Machine
end

