-- ==== Sys2Proof/Machine/RvDecode.lean ====
section
/-!
DEFINITION. Sys2Proof/Machine/RvDecode.lean: the instructions of RV64GC that a supervisor executes beside its thirteen custom ones
(R208), and how its words and 16-bit parcels encode them. The encodings are those of the RISC-V standard (PRESUMED, log 9).
-/

namespace Sys2Proof.Machine

/-- The second operand of an integer operation. -/
inductive RvSrc where
  | reg (b : BitVec 5)
  | imm (v : W64)
deriving DecidableEq, Repr

/-- An instruction of RV64GC. `f` is the minor opcode of the standard, `word` selects the 32-bit form, `dbl` the 64-bit one. -/
inductive Rv where
  | lui (d : BitVec 5) (v : W64)
  | auipc (d : BitVec 5) (v : W64)
  | jal (d : BitVec 5) (v : W64)
  | jalr (d a : BitVec 5) (v : W64)
  | branch (f : BitVec 3) (a b : BitVec 5) (v : W64)
  | load (f : BitVec 3) (d a : BitVec 5) (v : W64)
  | store (f : BitVec 3) (a b : BitVec 5) (v : W64)
  | alu (word : Bool) (f : BitVec 3) (alt : Bool) (d a : BitVec 5) (x : RvSrc)
  | mul (word : Bool) (f : BitVec 3) (d a b : BitVec 5)
  | fence
  | fenceI
  | ecall
  | ebreak
  | mret
  | sret
  | wfi
  | sfence
  | csr (f : BitVec 3) (d a : BitVec 5) (n : BitVec 12)
  | lr (dbl : Bool) (d a : BitVec 5)
  | sc (dbl : Bool) (d a b : BitVec 5)
  | amo (f : BitVec 5) (dbl : Bool) (d a b : BitVec 5)
  | fload (dbl : Bool) (d a : BitVec 5) (v : W64)
  | fstore (dbl : Bool) (a b : BitVec 5) (v : W64)
  | fma (o : BitVec 2) (dbl : Bool) (rm : BitVec 3) (d a b c : BitVec 5)
  | fop (f : BitVec 5) (dbl : Bool) (rm : BitVec 3) (d a b : BitVec 5)
deriving DecidableEq, Repr

/-- Bits [hi:lo] of a parcel. -/
def field (n hi lo : Nat) : Nat := n / 2 ^ lo % 2 ^ (hi + 1 - lo)
/-- An n-bit field as a signed 64-bit value. -/
def signed64 (n x : Nat) : W64 := (BitVec.ofNat n x).signExtend 64
def rvReg (n lo : Nat) : BitVec 5 := BitVec.ofNat 5 (n / 2 ^ lo)

/-! ## 32-bit words -/

def immI (n : Nat) : W64 := signed64 12 (field n 31 20)
def immS (n : Nat) : W64 := signed64 12 (field n 31 25 * 32 + field n 11 7)
def immB (n : Nat) : W64 :=
  signed64 13 (field n 31 31 * 4096 + field n 7 7 * 2048 + field n 30 25 * 32 + field n 11 8 * 2)
def immU (n : Nat) : W64 := signed64 32 (field n 31 12 * 4096)
def immJ (n : Nat) : W64 :=
  signed64 21 (field n 31 31 * 2 ^ 20 + field n 19 12 * 4096 + field n 20 20 * 2048 + field n 30 21 * 2)

def rvImmediate (word : Bool) (n : Nat) : Option Rv :=
  let f := field n 14 12
  let d := rvReg n 7
  let a := rvReg n 15
  let alu (alt : Bool) (v : W64) : Option Rv := some (.alu word (BitVec.ofNat 3 f) alt d a (.imm v))
  let top := if word then field n 31 25 else field n 31 26 * 2
  let shift := BitVec.ofNat 64 (if word then field n 24 20 else field n 25 20)
  match f with
  | 1 => if top = 0 then alu false shift else none
  | 5 => if top = 0 then alu false shift else if top = 0x20 then alu true shift else none
  | 0 => alu false (immI n)
  | _ => if word then none else alu false (immI n)

def rvRegister (word : Bool) (n : Nat) : Option Rv :=
  let f := field n 14 12
  let d := rvReg n 7
  let a := rvReg n 15
  let b := rvReg n 20
  let shifts := f == 0 || f == 1 || f == 5
  match field n 31 25 with
  | 0 => if !word || shifts then some (.alu word (BitVec.ofNat 3 f) false d a (.reg b)) else none
  | 0x20 => if f = 0 ∨ f = 5 then some (.alu word (BitVec.ofNat 3 f) true d a (.reg b)) else none
  | 1 => if !word || f == 0 || decide (4 ≤ f) then some (.mul word (BitVec.ofNat 3 f) d a b) else none
  | _ => none

def rvSystem (n : Nat) : Option Rv :=
  let f := field n 14 12
  if f = 0 then
    match n with
    | 0x00000073 => some .ecall
    | 0x00100073 => some .ebreak
    | 0x30200073 => some .mret
    | 0x10200073 => some .sret
    | 0x10500073 => some .wfi
    | _ => if field n 31 25 = 9 ∧ field n 11 7 = 0 then some .sfence else none
  else if f = 4 then none
  else some (.csr (BitVec.ofNat 3 f) (rvReg n 7) (rvReg n 15) (BitVec.ofNat 12 (field n 31 20)))

def rvAtomic (n : Nat) : Option Rv :=
  let f := field n 14 12
  let dbl := f == 3
  let d := rvReg n 7
  let a := rvReg n 15
  let b := rvReg n 20
  let o := field n 31 27
  if f ≠ 2 ∧ f ≠ 3 then none
  else if o = 2 then (if b = 0 then some (.lr dbl d a) else none)
  else if o = 3 then some (.sc dbl d a b)
  else if o % 4 = 0 ∨ o = 1 then some (.amo (BitVec.ofNat 5 o) dbl d a b)
  else none

/-- The floating-point operations of major opcode 0x53. -/
def rvFloat (n : Nat) : Option Rv :=
  let f := field n 31 27
  let fmt := field n 26 25
  let rm := field n 14 12
  let b := field n 24 20
  let ok : Bool := match f with
    | 0x00 | 0x01 | 0x02 | 0x03 => true
    | 0x0B => b == 0
    | 0x04 => decide (rm ≤ 2)
    | 0x05 => decide (rm ≤ 1)
    | 0x08 => (fmt == 0 && b == 1) || (fmt == 1 && b == 0)
    | 0x14 => decide (rm ≤ 2)
    | 0x18 | 0x1A => decide (b ≤ 3)
    | 0x1C => b == 0 && decide (rm ≤ 1)
    | 0x1E => b == 0 && rm == 0
    | _ => false
  if ok && decide (fmt ≤ 1) then
    some (.fop (BitVec.ofNat 5 f) (fmt == 1) (BitVec.ofNat 3 rm) (rvReg n 7) (rvReg n 15) (BitVec.ofNat 5 b))
  else none

/-- A 32-bit word of RV64IMAFD with Zicsr, Zifencei and the privileged instructions. -/
def rvDecode (w : W32) : Option Rv :=
  let n := w.toNat
  let f := field n 14 12
  let d := rvReg n 7
  let a := rvReg n 15
  let b := rvReg n 20
  let f3 : BitVec 3 := BitVec.ofNat 3 f
  let fma (o : Nat) : Option Rv :=
    if field n 26 25 ≤ 1 then some (.fma (BitVec.ofNat 2 o) (field n 26 25 == 1) f3 d a b (rvReg n 27)) else none
  match n % 128 with
  | 0x37 => some (.lui d (immU n))
  | 0x17 => some (.auipc d (immU n))
  | 0x6F => some (.jal d (immJ n))
  | 0x67 => if f = 0 then some (.jalr d a (immI n)) else none
  | 0x63 => if f = 2 ∨ f = 3 then none else some (.branch f3 a b (immB n))
  | 0x03 => if f = 7 then none else some (.load f3 d a (immI n))
  | 0x23 => if f ≤ 3 then some (.store f3 a b (immS n)) else none
  | 0x13 => rvImmediate false n
  | 0x1B => rvImmediate true n
  | 0x33 => rvRegister false n
  | 0x3B => rvRegister true n
  | 0x0F => if f = 0 then some .fence else if f = 1 then some .fenceI else none
  | 0x73 => rvSystem n
  | 0x2F => rvAtomic n
  | 0x07 => if f = 2 ∨ f = 3 then some (.fload (f == 3) d a (immI n)) else none
  | 0x27 => if f = 2 ∨ f = 3 then some (.fstore (f == 3) a b (immS n)) else none
  | 0x43 => fma 0
  | 0x47 => fma 1
  | 0x4B => fma 2
  | 0x4F => fma 3
  | 0x53 => rvFloat n
  | _ => none

/-! ## 16-bit parcels -/

/-- A register of the eight x8 to x15. -/
def rvShort (n lo : Nat) : BitVec 5 := BitVec.ofNat 5 (8 + field n (lo + 2) lo)
/-- The six-bit immediate of bits 12 and 6 to 2. -/
def imm6 (n : Nat) : Nat := field n 12 12 * 32 + field n 6 2
def immWord (n : Nat) : W64 := BitVec.ofNat 64 (field n 5 5 * 64 + field n 12 10 * 8 + field n 6 6 * 4)
def immDouble (n : Nat) : W64 := BitVec.ofNat 64 (field n 6 5 * 64 + field n 12 10 * 8)

def rvQuadrant0 (n : Nat) : Option Rv :=
  let d := rvShort n 2
  let a := rvShort n 7
  match field n 15 13 with
  | 0 =>
    let v := field n 10 7 * 64 + field n 12 11 * 16 + field n 5 5 * 8 + field n 6 6 * 4
    if v = 0 then none else some (.alu false 0 false d 2 (.imm (BitVec.ofNat 64 v)))
  | 1 => some (.fload true d a (immDouble n))
  | 2 => some (.load 2 d a (immWord n))
  | 3 => some (.load 3 d a (immDouble n))
  | 5 => some (.fstore true a d (immDouble n))
  | 6 => some (.store 2 a d (immWord n))
  | 7 => some (.store 3 a d (immDouble n))
  | _ => none

/-- Shifts, c.andi and the register operations of quadrant 1. -/
def rvArith (n : Nat) : Option Rv :=
  let d := rvShort n 7
  let b := rvShort n 2
  match field n 11 10 with
  | 0 => some (.alu false 5 false d d (.imm (BitVec.ofNat 64 (imm6 n))))
  | 1 => some (.alu false 5 true d d (.imm (BitVec.ofNat 64 (imm6 n))))
  | 2 => some (.alu false 7 false d d (.imm (signed64 6 (imm6 n))))
  | _ =>
    match field n 12 12 * 4 + field n 6 5 with
    | 0 => some (.alu false 0 true d d (.reg b))
    | 1 => some (.alu false 4 false d d (.reg b))
    | 2 => some (.alu false 6 false d d (.reg b))
    | 3 => some (.alu false 7 false d d (.reg b))
    | 4 => some (.alu true 0 true d d (.reg b))
    | 5 => some (.alu true 0 false d d (.reg b))
    | _ => none

def rvQuadrant1 (n : Nat) : Option Rv :=
  let d := rvReg n 7
  let v := signed64 6 (imm6 n)
  match field n 15 13 with
  | 0 => some (.alu false 0 false d d (.imm v))
  | 1 => if d = 0 then none else some (.alu true 0 false d d (.imm v))
  | 2 => some (.alu false 0 false d 0 (.imm v))
  | 3 =>
    if imm6 n = 0 then none
    else if d = 2 then
      some (.alu false 0 false 2 2 (.imm (signed64 10
        (field n 12 12 * 512 + field n 4 3 * 128 + field n 5 5 * 64 + field n 2 2 * 32 + field n 6 6 * 16))))
    else some (.lui d (signed64 18 (imm6 n * 4096)))
  | 4 => rvArith n
  | 5 =>
    some (.jal 0 (signed64 12 (field n 12 12 * 2048 + field n 8 8 * 1024 + field n 10 9 * 256 + field n 6 6 * 128 + field n 7 7 * 64 +
      field n 2 2 * 32 + field n 11 11 * 16 + field n 5 3 * 2)))
  | f =>
    some (.branch (BitVec.ofNat 3 (f - 6)) (rvShort n 7) 0 (signed64 9
      (field n 12 12 * 256 + field n 6 5 * 64 + field n 2 2 * 32 + field n 11 10 * 8 + field n 4 3 * 2)))

def rvQuadrant2 (n : Nat) : Option Rv :=
  let d := rvReg n 7
  let b := rvReg n 2
  let loadDouble := BitVec.ofNat 64 (field n 4 2 * 64 + field n 12 12 * 32 + field n 6 5 * 8)
  let loadWord := BitVec.ofNat 64 (field n 3 2 * 64 + field n 12 12 * 32 + field n 6 4 * 4)
  let storeDouble := BitVec.ofNat 64 (field n 9 7 * 64 + field n 12 10 * 8)
  let storeWord := BitVec.ofNat 64 (field n 8 7 * 64 + field n 12 9 * 4)
  match field n 15 13 with
  | 0 => some (.alu false 1 false d d (.imm (BitVec.ofNat 64 (imm6 n))))
  | 1 => some (.fload true d 2 loadDouble)
  | 2 => if d = 0 then none else some (.load 2 d 2 loadWord)
  | 3 => if d = 0 then none else some (.load 3 d 2 loadDouble)
  | 4 =>
    if field n 12 12 = 0 then
      (if b = 0 then (if d = 0 then none else some (.jalr 0 d 0)) else some (.alu false 0 false d 0 (.reg b)))
    else if b = 0 then (if d = 0 then some .ebreak else some (.jalr 1 d 0))
    else some (.alu false 0 false d d (.reg b))
  | 5 => some (.fstore true 2 b storeDouble)
  | 6 => some (.store 2 2 b storeWord)
  | _ => some (.store 3 2 b storeDouble)

/-- A 16-bit parcel of the C extension. -/
def rvCompressed (n : Nat) : Option Rv :=
  match n % 4 with
  | 0 => rvQuadrant0 n
  | 1 => rvQuadrant1 n
  | 2 => rvQuadrant2 n
  | _ => none

end Sys2Proof.Machine
end

