-- ==== Sys2Proof/Machine/RvFloat.lean ====
section
/-!
DEFINITION. Sys2Proof/Machine/RvFloat.lean: the F and D operations of a supervisor on encodings (R208), over the exact values of
Formats.lean: each result is rounded once in one of the five modes of RISC-V (PRESUMED, log 9).
-/

namespace Sys2Proof.Machine

def f64 : FloatFormat := ⟨64, 11, 52, 1023, true, true, 0x7FF8000000000000, 0x7FEFFFFFFFFFFFFF⟩
def rvFormat (dbl : Bool) : FloatFormat := if dbl then f64 else f32

/-- fflags, NX UF OF DZ NV from bit 0, of a set of sticky flags. -/
def rvFlags (f : Flags) : BitVec 5 :=
  BitVec.ofNat 5 (b2n (f.getLsbD 4) + 2 * b2n (f.getLsbD 3) + 4 * b2n (f.getLsbD 2) + 8 * b2n (f.getLsbD 1) + 16 * b2n (f.getLsbD 0))

/-- The mode in which addVal gives an exact zero its sign: downwards is 3 there. -/
def rvSumMode (rm : Nat) : Nat := if rm = 2 then 3 else 0

/-- A magnitude rounded at spacing 2^x in a mode: 0 to nearest even, 1 to zero, 2 down, 3 up, 4 to nearest, away from zero. -/
def rvCount (rm : Nat) (neg : Bool) (num den : Nat) (x : Int) : Nat × Bool :=
  let n := if 0 ≤ x then num else num * 2 ^ (-x).toNat
  let d := if 0 ≤ x then den * 2 ^ x.toNat else den
  let k := n / d
  let r := n % d
  let up := match rm with
    | 0 => decide (d < 2 * r) || (decide (2 * r = d) && k % 2 == 1)
    | 1 => false
    | 2 => neg && decide (r ≠ 0)
    | 3 => !neg && decide (r ≠ 0)
    | _ => decide (d ≤ 2 * r)
  (if up then k + 1 else k, decide (r ≠ 0))

/-- A value rounded once and encoded, with its flags; tininess is found after rounding. -/
def rvEncode (f : FloatFormat) (rm : Nat) (v : Val) : Nat × Flags :=
  match v with
  | .nan sig => (f.canonical, flagIf sig flagNV)
  | .inf neg => (f.infinity neg, 0)
  | .fin neg num den =>
    if num = 0 then (signBit f neg, 0)
    else
      let emin : Int := 1 - f.bias
      let g := floorLog2 num den
      let x : Int := max (g - f.man) (emin - f.man)
      let r := rvCount rm neg num den x
      let toInf := rm == 0 || rm == 4 || (rm == 2 && neg) || (rm == 3 && !neg)
      let tiny := decide (g < emin) && !(decide (g = emin - 1) && (rvCount rm neg num den (g - f.man)).1 == 2 ^ (f.man + 1))
      if f.exceeds r.1 x then (if toInf then f.infinity neg else signBit f neg + f.largest, flagOF ||| flagNX)
      else (f.pack neg r.1 x, flagIf r.2 flagNX ||| flagIf (tiny && r.2) flagUF)

/-- An integer of w bits from a value: clamped with NV, a NaN to the greatest. -/
def rvToInt (sg : Bool) (w rm : Nat) (v : Val) : Nat × Flags :=
  let lo : Int := if sg then -(2 ^ (w - 1) : Nat) else 0
  let hi : Int := if sg then (2 ^ (w - 1) : Nat) - 1 else (2 ^ w : Nat) - 1
  match v with
  | .nan _ => (ofSigned w hi, flagNV)
  | .inf neg => (ofSigned w (if neg then lo else hi), flagNV)
  | .fin neg num den =>
    let r := rvCount rm neg num den 0
    let x : Int := if neg then -(r.1 : Int) else r.1
    if x < lo then (ofSigned w lo, flagNV)
    else if hi < x then (ofSigned w hi, flagNV)
    else (ofSigned w x, flagIf r.2 flagNX)

/-- The exact square root of a value, or a value that rounds as it does. -/
def sqrtVal (v : Val) : Val × Flags :=
  match v with
  | .nan b => (.nan false, flagIf b flagNV)
  | .inf neg => if neg then (.nan false, flagNV) else (.inf false, 0)
  | .fin neg num den =>
    if num = 0 then (.fin neg 0 1, 0)
    else if neg then (.nan false, flagNV)
    else
      let s := 80 + (Nat.log2 den + 1) / 2
      let z := isqrt (num * 4 ^ s / den)
      (if z * z * den = num * 4 ^ s then .fin false z (2 ^ s) else between false z s, 0)

/-- The ten classes of fclass. -/
def rvClass (f : FloatFormat) (x : Nat) : Nat :=
  match f.value false x with
  | .nan sig => if sig then 2 ^ 8 else 2 ^ 9
  | .inf neg => if neg then 1 else 2 ^ 7
  | .fin neg num _ =>
    let sub := bits x (f.width - 2) f.man == 0
    if num = 0 then (if neg then 2 ^ 3 else 2 ^ 4)
    else if sub then (if neg then 2 ^ 2 else 2 ^ 5)
    else if neg then 2 else 2 ^ 6

/-- feq, flt and fle by their minor opcodes 2, 1 and 0. -/
def rvCompare (rm : Nat) (a b : Val) : Bool × Flags :=
  if a.isNan || b.isNan then (false, flagIf (rm != 2 || a.signals || b.signals) flagNV)
  else
    let lt := ltVal a b
    let gt := ltVal b a
    (match rm with
     | 2 => !lt && !gt
     | 1 => lt
     | _ => !gt, 0)

/-- fsgnj, fsgnjn and fsgnjx. -/
def rvSign (f : FloatFormat) (rm a b : Nat) : Nat :=
  let top := 2 ^ (f.width - 1)
  let sa := a / top % 2
  let sb := b / top % 2
  a % top + top * (match rm with | 0 => sb | 1 => 1 - sb | _ => (sa + sb) % 2)

/-- a × b + c, with the signs of the four forms: 0 fmadd, 1 fmsub, 2 fnmsub, 3 fnmadd. -/
def rvFma (f : FloatFormat) (o rm a b c : Nat) : Nat × Flags :=
  let va := f.value false a
  let x := if o = 2 ∨ o = 3 then va.flip else va
  let vc := f.value false c
  let y := if o = 1 ∨ o = 3 then vc.flip else vc
  let p := fmaVal (rvSumMode rm) x (f.value false b) y
  let e := rvEncode f rm p.1
  (e.1, p.2 ||| e.2)

/-- fadd, fsub, fmul, fdiv and fsqrt by their major functions. -/
def rvArithmetic (f : FloatFormat) (o rm a b : Nat) : Nat × Flags :=
  let x := f.value false a
  let y := f.value false b
  let r : Val × Flags := match o with
    | 0 => addVal (rvSumMode rm) x y
    | 1 => addVal (rvSumMode rm) x y.flip
    | 2 => mulVal x y
    | 3 => divVal x y
    | _ => sqrtVal x
  let e := rvEncode f rm r.1
  (e.1, r.2 ||| e.2)

/-- The value of an integer operand of fcvt: 0 W, 1 WU, 2 L, 3 LU. -/
def rvIntVal (k : Nat) (x : W64) : Val :=
  let v : Int := match k with
    | 0 => toSigned 32 (x.toNat % 2 ^ 32)
    | 1 => (x.toNat % 2 ^ 32 : Nat)
    | 2 => toSigned 64 x.toNat
    | _ => (x.toNat : Int)
  .fin (decide (v < 0)) v.natAbs 1

/-- The register a conversion to an integer writes: 32-bit results are sign-extended. -/
def rvIntResult (k rm : Nat) (v : Val) : W64 × Flags :=
  let w := if k < 2 then 32 else 64
  let r := rvToInt (k % 2 == 0) w rm v
  (if k < 2 then signed64 32 r.1 else BitVec.ofNat 64 r.1, r.2)

end Sys2Proof.Machine
end

