-- ==== Sys2Proof/Machine/RvSystem.lean ====
section
/-!
DEFINITION. Sys2Proof/Machine/RvSystem.lean: how a supervisor reaches memory and its control and status registers (R208): Bare and
Sv48 translation, fetches, loads, stores and atomics at local physical addresses (R251, R252, R273, R276, R354, R384, R400), and the
registers of the RISC-V privileged architecture (PRESUMED, log 9).
-/

namespace Sys2Proof.Machine

/-- What keeps an instruction of a supervisor from its effect: nothing now, it waits; or an exception in a state, with its cause and
value. -/
abbrev RvStop := Option (State × Nat × W64)
abbrev RvRes (α : Type) := Except RvStop α

def excBreakpoint : Nat := 3
def excLoadMisaligned : Nat := 4
def excFetchPage : Nat := 12
def excLoadPage : Nat := 13
def excStorePage : Nat := 15

/-- Why memory is reached. -/
inductive RvAccess where
  | fetch | load | store
deriving DecidableEq, Repr

def RvAccess.accessFault : RvAccess → Nat
  | .fetch => excFetchAccess
  | .load => excLoadAccess
  | .store => excStoreAccess
def RvAccess.pageFault : RvAccess → Nat
  | .fetch => excFetchPage
  | .load => excLoadPage
  | .store => excStorePage
def RvAccess.misaligned : RvAccess → Nat
  | .store => excStoreMisaligned
  | _ => excLoadMisaligned

def rvTrap {α : Type} (s : State) (cause : Nat) (val : W64) : RvRes α := .error (some (s, cause, val))

/-! ## Translation (R208) -/

/-- The mode whose rights an access has: that of MPP for loads and stores under MPRV. -/
def Cluster.accessMode (k : Cluster) (x : RvAccess) : Nat :=
  if x ≠ .fetch ∧ k.csr.mprv then k.m.pp.toNat else k.mode.toNat

/-- Accesses of the core are translated: Sv48 is chosen and the mode is not machine mode. -/
def Cluster.translates (k : Cluster) (x : RvAccess) : Bool := k.accessMode x != 3 && wbits k.csr.satp 63 60 == 9

/-- A page-table entry of the core. -/
def State.rvPte (s : State) (x : RvAccess) (va : W64) (a : Nat) : RvRes Nat :=
  if !spanAll a 8 fun q => s.storage q && !s.quarantined q then rvTrap s x.accessFault va
  else if s.scratchBusy a then .error none
  else if s.anyPoison a 8 then rvTrap (s.logError none 0 (.consumed a)) x.accessFault va
  else .ok (leNat (s.mem.bytes a 8))

/-- A leaf entry of Sv48 allows the access. A clear A bit, or D bit for a store, is a page fault. -/
def Cluster.leafAllows (k : Cluster) (x : RvAccess) (e : Nat) : Bool :=
  let user := bits e 4 4 == 1
  let mode := k.accessMode x
  (if mode = 0 then user else !user || (k.csr.sum && decide (x ≠ .fetch))) &&
  (match x with
   | .fetch => bits e 3 3 == 1
   | .load => bits e 1 1 == 1 || (k.csr.mxr && bits e 3 3 == 1)
   | .store => bits e 2 2 == 1 && bits e 7 7 == 1) && bits e 6 6 == 1

/-- The walk of Sv48 from a level downwards. -/
def State.rvWalk (s : State) (k : Cluster) (x : RvAccess) (va : W64) : Nat → Nat → RvRes Nat
  | 0, _ => rvTrap s x.pageFault va
  | lv + 1, table => do
    let e ← s.rvPte x va (table + 8 * bits va.toNat (9 * lv + 20) (9 * lv + 12))
    let size := 2 ^ (9 * lv + 12)
    if bits e 0 0 = 0 ∨ (bits e 1 1 = 0 ∧ bits e 2 2 = 1) ∨ bits e 63 54 ≠ 0 then rvTrap s x.pageFault va
    else if bits e 1 1 = 0 ∧ bits e 3 3 = 0 then
      if bits e 4 4 = 1 ∨ bits e 7 6 ≠ 0 then rvTrap s x.pageFault va else s.rvWalk k x va lv (bits e 53 10 * 4096)
    else if bits e 53 10 * 4096 % size ≠ 0 ∨ !k.leafAllows x e then rvTrap s x.pageFault va
    else return bits e 53 10 * 4096 + va.toNat % size

/-- The local physical address of an access of the core; key registers are for machine mode (R414). -/
def State.rvTranslate (s : State) (c : BitVec 4) (x : RvAccess) (va : W64) : RvRes Nat := do
  let k := s.cluster c
  let pa ← if !k.translates x then .ok va.toNat
    else if wbits va 63 47 ≠ 0 ∧ wbits va 63 47 ≠ 0x1FFFF then rvTrap s x.pageFault va
    else s.rvWalk k x va 4 (wbits k.csr.satp 43 0 * 4096)
  if 2 ^ 48 ≤ pa ∨ (keyRegAt pa ∧ k.accessMode x ≠ 3) then rvTrap s x.accessFault va else return pa

/-! ## Loads and stores at local physical addresses -/

/-- A load of w bytes: a register of the register range (R252), or memory, a carve-out as it stands now (R354). An error that is
consumed raises the load access fault (R398). -/
def State.supLoad (s : State) (x : RvAccess) (va : W64) (pa w : Nat) : RvRes (State × Nat) :=
  match place pa with
  | .register off =>
    if x = .load ∧ (w = 4 ∨ w = 8) ∧ pa % w = 0 ∧ registerAt pa then .ok (s.regRead off w) else rvTrap s x.accessFault va
  | _ =>
    if !spanAll pa w fun q => s.storage q && !s.quarantined q then rvTrap s x.accessFault va
    else if s.scratchBusy pa then .error none
    else
      let r := s.physRead pa w
      if r.2 then rvTrap (s.logError none 0 (.consumed (s.firstBad pa w))) x.accessFault va else .ok (s, leNat r.1)

/-- A store (o = 0) or an atomic of w bytes: the state after it, and the old value of an atomic. What no storage backs raises the store
access fault (R384, R400); a store to a carve-out is discarded (R354). -/
def State.supStore (s : State) (c : BitVec 4) (va : W64) (pa o w v : Nat) : RvRes (State × Nat) :=
  match place pa with
  | .register off =>
    if o = 0 ∧ (w = 4 ∨ w = 8) ∧ pa % w = 0 ∧ registerAt pa then .ok (s.regWrite (.supervisor c) off w v, 0) else rvTrap s excStoreAccess va
  | _ =>
    if o ≠ 0 ∧ pa % w ≠ 0 then rvTrap s excStoreMisaligned va
    else if !spanAll pa w fun q => s.storage q && !s.quarantined q then rvTrap s excStoreAccess va
    else if s.scratchBusy pa ∨ 9 < o then .error none
    else
      let r := s.physRead pa w
      if o ≠ 0 ∧ r.2 then rvTrap (s.logError none 0 (.consumed (s.firstBad pa w))) excLoadAccess va
      else
        let old := leNat r.1
        let s1 := if (upto w).any fun i => s.carveOut (pa + i) then s
          else s.rawWrite pa (leBytes w (if o = 0 then v else supAmo o w old (v % 2 ^ (8 * w))))
        .ok (s1, old)

/-- A store or an atomic of a supervisor at a local physical address; none while an instruction waits to write rd (R213). -/
def execSupervisorStore (c : BitVec 4) (a : BitVec 48) (o : BitVec 4) (n : BitVec 2) (v : W64) (s : State) : Out :=
  .next (
    if (s.cluster c).wait.isSome then s
    else if keyRegAt a.toNat ∧ (s.cluster c).mode ≠ 3 then s.onCluster c fun k => k.takeTrap false excStoreAccess (a.setWidth 64)
    else match s.supStore c (a.setWidth 64) a.toNat o.toNat (2 ^ n.toNat) v.toNat with
      | .ok r => r.1
      | .error none => s
      | .error (some (s1, e, va)) => s1.onCluster c fun k => k.takeTrap false e va)

/-- The address of a data access of w bytes: a misaligned one that crosses a page is a misaligned exception. -/
def State.rvAddr (s : State) (c : BitVec 4) (x : RvAccess) (va : W64) (w : Nat) : RvRes Nat :=
  if 4096 < va.toNat % 4096 + w then rvTrap s x.misaligned va else s.rvTranslate c x va

/-! ## Fetch -/

/-- A parcel of 16 bits at an address. -/
def State.rvParcel (s : State) (c : BitVec 4) (va : W64) : RvRes Nat := do
  let pa ← s.rvTranslate c .fetch va
  let r ← s.supLoad .fetch va pa 2
  return r.2

/-- The instruction at the pc and its length; bits [1:0] = 3 of the first parcel mean 32 bits. -/
def State.rvFetch (s : State) (c : BitVec 4) : RvRes (W32 × Nat) := do
  let pc := (s.cluster c).pc
  let lo ← s.rvParcel c pc
  if lo % 4 ≠ 3 then return (BitVec.ofNat 32 lo, 2)
  else
    let hi ← s.rvParcel c (pc + 2)
    return (BitVec.ofNat 32 (hi * 65536 + lo), 4)

/-! ## Control and status registers -/

def SupCsr.shared (x : SupCsr) : Nat :=
  x.fs.toNat * 2 ^ 13 + b2n x.sum * 2 ^ 18 + b2n x.mxr * 2 ^ 19 + 2 ^ 33 + b2n (x.fs == 3) * 2 ^ 63

/-- mstatus and sstatus. -/
def Cluster.sstatus (k : Cluster) : Nat :=
  k.csr.shared + b2n k.s.ie * 2 + b2n k.s.pie * 32 + k.s.pp.toNat % 2 * 256
def Cluster.mstatus (k : Cluster) : Nat :=
  k.sstatus + b2n k.m.ie * 8 + b2n k.m.pie * 128 + k.m.pp.toNat * 2 ^ 11 + b2n k.csr.mprv * 2 ^ 17 + b2n k.csr.tvm * 2 ^ 20 +
  b2n k.csr.tw * 2 ^ 21 + b2n k.csr.tsr * 2 ^ 22 + 2 ^ 35

def Cluster.setSstatus (k : Cluster) (v : Nat) : Cluster :=
  { k with
    s := { k.s with ie := bits v 1 1 == 1, pie := bits v 5 5 == 1, pp := BitVec.ofNat 2 (bits v 8 8) }
    csr := { k.csr with fs := BitVec.ofNat 2 (bits v 14 13), sum := bits v 18 18 == 1, mxr := bits v 19 19 == 1 } }
def Cluster.setMstatus (k : Cluster) (v : Nat) : Cluster :=
  let y := k.setSstatus v
  { y with
    m := { k.m with ie := bits v 3 3 == 1, pie := bits v 7 7 == 1, pp := if bits v 12 11 = 2 then k.m.pp else BitVec.ofNat 2 (bits v 12 11) }
    csr := { y.csr with mprv := bits v 17 17 == 1, tvm := bits v 20 20 == 1, tw := bits v 21 21 == 1, tsr := bits v 22 22 == 1 } }

/-- Interrupts that can be enabled, delegated to supervisor mode, and set by software. -/
def mieMask : W64 := 0x70AAA
def midelegMask : W64 := 0x70222
def softMask : W64 := 0x222
/-- Exceptions that can be delegated. -/
def medelegMask : W64 := 0xB3FF

/-- A trap vector: modes 0 and 1 are the only ones. -/
def tvecOf (old v : W64) : W64 := if 2 ≤ v.toNat % 4 then old else v
/-- misa of RV64 with A, C, D, F, I, M, S and U. -/
def misaValue : Nat := 2 ^ 63 + 0x14112D

/-- The counter enables allow a counter in the current mode. -/
def Cluster.counterOpen (k : Cluster) (i : Nat) : Bool :=
  (decide (k.mode = 3) || k.csr.mcounteren.getLsbD i) && (decide (k.mode ≠ 0) || k.csr.scounteren.getLsbD i)

/-- The floating-point registers are on. -/
def Cluster.fpOn (k : Cluster) : Bool := k.csr.fs != 0
def Cluster.fpDirty (k : Cluster) : Cluster := { k with csr := { k.csr with fs := 3 } }

/-- What a register reads as; none for a number that is no register of the core, or that the mode may not reach. -/
def State.csrRead (s : State) (c : BitVec 4) (n : Nat) : Option W64 :=
  let k := s.cluster c
  let x := k.csr
  let nat (v : Nat) : Option W64 := some (BitVec.ofNat 64 v)
  if k.mode.toNat < n / 256 % 4 then none
  else if 0xB03 ≤ n ∧ n < 0xB20 ∨ 0x323 ≤ n ∧ n < 0x340 then nat 0
  else if 0xC03 ≤ n ∧ n < 0xC20 then (if k.counterOpen (n - 0xC00) then nat 0 else none)
  else match n with
    | 0x001 => if k.fpOn then nat (k.fcsr.toNat % 32) else none
    | 0x002 => if k.fpOn then nat (k.fcsr.toNat / 32) else none
    | 0x003 => if k.fpOn then nat k.fcsr.toNat else none
    | 0x100 => nat k.sstatus
    | 0x104 => some (k.mie &&& k.mideleg)
    | 0x105 => some k.s.vec
    | 0x106 => nat x.scounteren.toNat
    | 0x10A => nat (b2n x.sfiom)
    | 0x140 => some x.sscratch
    | 0x141 => some k.s.epc
    | 0x142 => some k.s.cause
    | 0x143 => some k.s.val
    | 0x144 => some (s.mip c &&& k.mideleg)
    | 0x180 => if k.mode = 1 ∧ x.tvm then none else some x.satp
    | 0x300 => nat k.mstatus
    | 0x301 => nat misaValue
    | 0x302 => some k.medeleg
    | 0x303 => some k.mideleg
    | 0x304 => some k.mie
    | 0x305 => some k.m.vec
    | 0x306 => nat x.mcounteren.toNat
    | 0x30A => nat (b2n x.mfiom)
    | 0x320 => nat 0
    | 0x340 => some x.mscratch
    | 0x341 => some k.m.epc
    | 0x342 => some k.m.cause
    | 0x343 => some k.m.val
    | 0x344 => some (s.mip c)
    | 0xB00 => some (Config.cycleCount c x.instret)
    | 0xB02 => some x.instret
    | 0xC00 => if k.counterOpen 0 then some (Config.cycleCount c x.instret) else none
    | 0xC01 => if k.counterOpen 1 then some s.time.ns else none
    | 0xC02 => if k.counterOpen 2 then some x.instret else none
    | 0xF11 | 0xF12 | 0xF13 | 0xF15 => nat 0
    | 0xF14 => nat c.toNat
    | _ => none

/-- A write of a register whose number and mode have been judged. Fields without a place keep what they are, and a write of mcycle is
dropped, as the model counts no cycles (DESIGN CHOICE, log 88). -/
def Cluster.csrWrite (k : Cluster) (n : Nat) (v : W64) : Cluster :=
  let x := k.csr
  let under (mask old : W64) : W64 := (v &&& mask) ||| (old &&& ~~~mask)
  let epc : W64 := v &&& ~~~1
  match n with
  | 0x001 => { k with fcsr := BitVec.ofNat 8 (k.fcsr.toNat / 32 * 32 + v.toNat % 32) }.fpDirty
  | 0x002 => { k with fcsr := BitVec.ofNat 8 (v.toNat % 8 * 32 + k.fcsr.toNat % 32) }.fpDirty
  | 0x003 => { k with fcsr := BitVec.ofNat 8 v.toNat }.fpDirty
  | 0x100 => k.setSstatus v.toNat
  | 0x104 => { k with mie := under (k.mideleg &&& mieMask) k.mie }
  | 0x105 => { k with s := { k.s with vec := tvecOf k.s.vec v } }
  | 0x106 => { k with csr := { x with scounteren := BitVec.ofNat 32 v.toNat } }
  | 0x10A => { k with csr := { x with sfiom := v.getLsbD 0 } }
  | 0x140 => { k with csr := { x with sscratch := v } }
  | 0x141 => { k with s := { k.s with epc := epc } }
  | 0x142 => { k with s := { k.s with cause := v } }
  | 0x143 => { k with s := { k.s with val := v } }
  | 0x144 => { k with csr := { x with soft := under (k.mideleg &&& 2) x.soft } }
  | 0x180 => if wbits v 63 60 = 0 ∨ wbits v 63 60 = 9 then { k with csr := { x with satp := v } } else k
  | 0x300 => k.setMstatus v.toNat
  | 0x302 => { k with medeleg := v &&& medelegMask }
  | 0x303 => { k with mideleg := v &&& midelegMask }
  | 0x304 => { k with mie := v &&& mieMask }
  | 0x305 => { k with m := { k.m with vec := tvecOf k.m.vec v } }
  | 0x306 => { k with csr := { x with mcounteren := BitVec.ofNat 32 v.toNat } }
  | 0x30A => { k with csr := { x with mfiom := v.getLsbD 0 } }
  | 0x340 => { k with csr := { x with mscratch := v } }
  | 0x341 => { k with m := { k.m with epc := epc } }
  | 0x342 => { k with m := { k.m with cause := v } }
  | 0x343 => { k with m := { k.m with val := v } }
  | 0x344 => { k with csr := { x with soft := under softMask x.soft } }
  | 0xB02 => { k with csr := { x with instret := v - 1 } }
  | _ => k

end Sys2Proof.Machine
end

