-- ==== Sys2Proof/Machine/RvExec.lean ====
section
/-!
DEFINITION. Sys2Proof/Machine/RvExec.lean: what an instruction of RV64GC does on a supervisor (R208, R213, R276). Accesses are performed
whole and in program order, so that FENCE, FENCE.I and SFENCE.VMA and the aq and rl bits order what is in order already; WFI ends at
once (PRESUMED, log 9).
-/

namespace Sys2Proof.Machine

/-! ## Integer operations -/

/-- The operations of OP and OP-IMM on n-bit operands. -/
def rvAlu (n : Nat) (f : BitVec 3) (alt : Bool) (a b : BitVec n) : BitVec n :=
  let h := b.toNat % n
  match f.toNat with
  | 0 => if alt then a - b else a + b
  | 1 => a <<< h
  | 2 => if a.slt b then 1 else 0
  | 3 => if a.ult b then 1 else 0
  | 4 => a ^^^ b
  | 5 => if alt then a.sshiftRight h else a >>> h
  | 6 => a ||| b
  | _ => a &&& b

/-- The quotient and the remainder towards zero, with the results of RISC-V for a zero divisor. -/
def rvQuotient (a b : Int) : Int := if b = 0 then -1 else Int.tdiv a b
def rvRemainder (a b : Int) : Int := if b = 0 then a else Int.tmod a b

/-- The M extension on n-bit operands. -/
def rvMul (n : Nat) (f : BitVec 3) (a b : BitVec n) : BitVec n :=
  let wrap (v : Int) : BitVec n := BitVec.ofInt n v
  match f.toNat with
  | 0 => a * b
  | 1 => wrap (a.toInt * b.toInt / (2 ^ n : Nat))
  | 2 => wrap (a.toInt * (b.toNat : Int) / (2 ^ n : Nat))
  | 3 => BitVec.ofNat n (a.toNat * b.toNat / 2 ^ n)
  | 4 => wrap (rvQuotient a.toInt b.toInt)
  | 5 => if b.toNat = 0 then BitVec.allOnes n else BitVec.ofNat n (a.toNat / b.toNat)
  | 6 => wrap (rvRemainder a.toInt b.toInt)
  | _ => if b.toNat = 0 then a else BitVec.ofNat n (a.toNat % b.toNat)

/-- The condition of a branch. -/
def rvTaken (f : BitVec 3) (a b : W64) : Bool :=
  match f.toNat with
  | 0 => a == b
  | 1 => a != b
  | 4 => a.slt b
  | 5 => !a.slt b
  | 6 => a.ult b
  | _ => !a.ult b

/-- The value of a load: sign-extended, or with f ≥ 4 zero-extended. -/
def rvExtend (f : Nat) (v : Nat) : W64 :=
  if f < 4 then signed64 (8 * 2 ^ f) v else BitVec.ofNat 64 v

/-- The model's code of an RV64A operation by its funct5. -/
def rvAmoCode (f : BitVec 5) : Nat :=
  match f.toNat with
  | 1 => 1
  | 0 => 2
  | 4 => 3
  | 12 => 4
  | 8 => 5
  | 16 => 6
  | 20 => 7
  | 24 => 8
  | _ => 9

/-! ## Floating-point registers -/

/-- A single-precision operand: the canonical NaN unless it is boxed. -/
def Cluster.fpReg (k : Cluster) (dbl : Bool) (r : BitVec 5) : Nat :=
  let v := k.f[r.toNat].toNat
  if dbl then v else if v / 2 ^ 32 = 2 ^ 32 - 1 then v % 2 ^ 32 else f32.canonical
def Cluster.setFp (k : Cluster) (dbl : Bool) (r : BitVec 5) (v : Nat) : Cluster :=
  { k with f := k.f.set r.toNat (BitVec.ofNat 64 (if dbl then v else (2 ^ 32 - 1) * 2 ^ 32 + v % 2 ^ 32)) }.fpDirty
/-- Flags accumulate in fflags. -/
def Cluster.fpRaise (k : Cluster) (f : Flags) : Cluster := { k with fcsr := k.fcsr ||| (rvFlags f).setWidth 8 }.fpDirty

/-- The rounding mode of an operation: 7 is that of frm, and 5 and 6 are none. -/
def Cluster.rounding (k : Cluster) (rm : BitVec 3) : Option Nat :=
  let m := if rm = 7 then k.fcsr.toNat / 32 else rm.toNat
  if m ≤ 4 then some m else none

/-- A floating-point operation of major opcode 0x53; none where its rounding mode is illegal. -/
def Cluster.fpOp (k : Cluster) (f : BitVec 5) (dbl : Bool) (rm : BitVec 3) (d a b : BitVec 5) : Option Cluster :=
  let fmt := rvFormat dbl
  let x := k.fpReg dbl a
  let y := k.fpReg dbl b
  let vx := fmt.value false x
  let fp (r : Nat × Flags) : Cluster := (k.setFp dbl d r.1).fpRaise r.2
  let int (r : W64 × Flags) : Cluster := (k.setReg d r.1).fpRaise r.2
  let raw := k.f[a.toNat].toNat
  match f.toNat with
  | 0x04 => some (k.setFp dbl d (rvSign fmt rm.toNat x y))
  | 0x05 => some (fp (minMax (rm == 1) vx (fmt.value false y) x y fmt.canonical))
  | 0x08 => (k.rounding rm).map fun m => fp (rvEncode fmt m ((rvFormat !dbl).value false (k.fpReg (!dbl) a)))
  | 0x14 => let r := rvCompare rm.toNat vx (fmt.value false y); some (int (BitVec.ofNat 64 (b2n r.1), r.2))
  | 0x18 => (k.rounding rm).map fun m => int (rvIntResult b.toNat m vx)
  | 0x1A => (k.rounding rm).map fun m => fp (rvEncode fmt m (rvIntVal b.toNat (k.reg a)))
  | 0x1C =>
    some (if rm = 1 then k.setReg d (BitVec.ofNat 64 (rvClass fmt x))
      else k.setReg d (if dbl then BitVec.ofNat 64 raw else signed64 32 raw))
  | 0x1E => some (k.setFp dbl d (k.reg a).toNat)
  | 0x0B => (k.rounding rm).map fun m => fp (rvArithmetic fmt 4 m x y)
  | o => (k.rounding rm).map fun m => fp (rvArithmetic fmt o m x y)

/-! ## One instruction -/

def State.rvIllegal {α : Type} (s : State) (c : BitVec 4) : RvRes α := rvTrap s excIllegal (Config.illegalValue (s.cluster c).pc)

/-- csrrw, csrrs, csrrc and their immediate forms: a set or clear of x0 or 0 writes nothing. -/
def State.rvCsr (s : State) (c : BitVec 4) (f : BitVec 3) (d a : BitVec 5) (n : Nat) : RvRes State :=
  let k := s.cluster c
  let src : W64 := if f.getLsbD 2 then a.setWidth 64 else k.reg a
  let kind := f.toNat % 4
  let writes := kind = 1 ∨ a ≠ 0
  match s.csrRead c n with
  | none => s.rvIllegal c
  | some old =>
    if writes ∧ 3 ≤ n / 1024 then s.rvIllegal c
    else
      let v := if kind = 1 then src else if kind = 2 then old ||| src else old &&& ~~~src
      .ok (s.onCluster c fun k => (if writes then k.csrWrite n v else k).setReg d old)

/-- mret and sret. -/
def Cluster.mret (k : Cluster) : Cluster :=
  { k with pc := k.m.epc, mode := k.m.pp, m := { k.m with ie := k.m.pie, pie := true, pp := 0 }, csr := { k.csr with mprv := k.csr.mprv && k.m.pp == 3 } }
def Cluster.sret (k : Cluster) : Cluster :=
  { k with pc := k.s.epc, mode := k.s.pp, s := { k.s with ie := k.s.pie, pie := true, pp := 0 }, csr := { k.csr with mprv := false } }

/-- The effect of an instruction of len bytes, but for its retirement: the pc after it goes len bytes on from here. -/
def State.rvRun (s : State) (c : BitVec 4) (i : Rv) (len : Nat) : RvRes State :=
  let k := s.cluster c
  let size : W64 := BitVec.ofNat 64 len
  let on (f : Cluster → Cluster) : RvRes State := .ok (s.onCluster c f)
  let jump (y : Cluster) (target : W64) : Cluster := { y with pc := target - size }
  let fp (r : RvRes State) : RvRes State := if k.fpOn then r else s.rvIllegal c
  match i with
  | .lui d v => on fun k => k.setReg d v
  | .auipc d v => on fun k => k.setReg d (k.pc + v)
  | .jal d v => on fun k => jump (k.setReg d (k.pc + size)) (k.pc + v)
  | .jalr d a v => on fun y => jump (y.setReg d (y.pc + size)) ((k.reg a + v) &&& ~~~1)
  | .branch f a b v => on fun k => if rvTaken f (k.reg a) (k.reg b) then jump k (k.pc + v) else k
  | .load f d a v => do
    let va := k.reg a + v
    let w := 2 ^ (f.toNat % 4)
    let pa ← s.rvAddr c .load va w
    let r ← s.supLoad .load va pa w
    return r.1.onCluster c fun k => k.setReg d (rvExtend f.toNat r.2)
  | .store f a b v => do
    let va := k.reg a + v
    let w := 2 ^ f.toNat
    let pa ← s.rvAddr c .store va w
    let r ← s.supStore c va pa 0 w (k.reg b).toNat
    return r.1
  | .alu word f alt d a x =>
    let b := match x with | .reg b => k.reg b | .imm v => v
    on fun k => k.setReg d (if word then (rvAlu 32 f alt ((k.reg a).setWidth 32) (b.setWidth 32)).signExtend 64 else rvAlu 64 f alt (k.reg a) b)
  | .mul word f d a b =>
    on fun k => k.setReg d (if word then (rvMul 32 f ((k.reg a).setWidth 32) ((k.reg b).setWidth 32)).signExtend 64 else rvMul 64 f (k.reg a) (k.reg b))
  | .fence | .fenceI | .wfi => .ok s
  | .ecall => rvTrap s (8 + k.mode.toNat) 0
  | .ebreak => rvTrap s excBreakpoint (Config.illegalValue k.pc)
  | .mret => if k.mode = 3 then on fun k => jump k.mret k.mret.pc else s.rvIllegal c
  | .sret => if k.mode = 3 ∨ (k.mode = 1 ∧ !k.csr.tsr) then on fun k => jump k.sret k.sret.pc else s.rvIllegal c
  | .sfence => if k.mode = 3 ∨ (k.mode = 1 ∧ !k.csr.tvm) then .ok s else s.rvIllegal c
  | .csr f d a n => s.rvCsr c f d a n.toNat
  | .lr dbl d a => do
    let va := k.reg a
    let w := if dbl then 8 else 4
    if va.toNat % w ≠ 0 then rvTrap s excLoadMisaligned va
    else
      let pa ← s.rvTranslate c .load va
      if registerAt pa then rvTrap s excLoadAccess va
      else
        let r ← s.supLoad .load va pa w
        return { r.1.onCluster c fun k => k.setReg d (rvExtend (if dbl then 3 else 2) r.2) with
          reservations := tput r.1.reservations c.toNat (pa, w) }
  | .sc dbl d a b => do
    let va := k.reg a
    let w := if dbl then 8 else 4
    if va.toNat % w ≠ 0 then rvTrap s excStoreMisaligned va
    else
      let pa ← s.rvTranslate c .store va
      if registerAt pa then rvTrap s excStoreAccess va
      else
        let held := match tget s.reservations c.toNat with | some (p, n) => decide (p ≤ pa) && decide (pa + w ≤ p + n) | none => false
        let s1 := { s with reservations := tdrop s.reservations c.toNat }
        if held then do
          let r ← s1.supStore c va pa 0 w (k.reg b).toNat
          return r.1.onCluster c fun k => k.setReg d 0
        else return s1.onCluster c fun k => k.setReg d 1
  | .amo f dbl d a b => do
    let va := k.reg a
    let w := if dbl then 8 else 4
    if va.toNat % w ≠ 0 then rvTrap s excStoreMisaligned va
    else
      let pa ← s.rvTranslate c .store va
      let r ← s.supStore c va pa (rvAmoCode f) w (k.reg b).toNat
      return r.1.onCluster c fun k => k.setReg d (rvExtend (if dbl then 3 else 2) r.2)
  | .fload dbl d a v => fp do
    let va := k.reg a + v
    let w := if dbl then 8 else 4
    let pa ← s.rvAddr c .load va w
    let r ← s.supLoad .load va pa w
    return r.1.onCluster c fun k => k.setFp dbl d r.2
  | .fstore dbl a b v => fp do
    let va := k.reg a + v
    let w := if dbl then 8 else 4
    let pa ← s.rvAddr c .store va w
    let r ← s.supStore c va pa 0 w k.f[b.toNat].toNat
    return r.1
  | .fma o dbl rm d a b e =>
    fp (match k.rounding rm with
      | none => s.rvIllegal c
      | some m =>
        let r := rvFma (rvFormat dbl) o.toNat m (k.fpReg dbl a) (k.fpReg dbl b) (k.fpReg dbl e)
        on fun k => (k.setFp dbl d r.1).fpRaise r.2)
  | .fop f dbl rm d a b =>
    fp (match k.fpOp f dbl rm d a b with
      | none => s.rvIllegal c
      | some y => on fun _ => y)

/-- What becomes of an instruction: it retires, it waits, or its exception is taken. -/
def State.rvEnd (s : State) (c : BitVec 4) (len : Nat) (r : RvRes State) : State :=
  match r with
  | .ok s1 => s1.onCluster c fun k => k.retire len
  | .error none => s
  | .error (some (s1, e, v)) => s1.onCluster c fun k => k.takeTrap false e v

/-- A word of RV64GC, or one that is none: the illegal-instruction exception (R18). -/
def State.rvStep (s : State) (c : BitVec 4) (w : W32) (len : Nat) : State :=
  match (if len = 4 then rvDecode w else rvCompressed w.toNat) with
  | some i => s.rvEnd c len (s.rvRun c i len)
  | none => s.rvEnd c len (s.rvIllegal c)

end Sys2Proof.Machine
end

