-- ==== Sys2Proof/Machine/Issue.lean ====
section
/-!
DEFINITION. Sys2Proof/Machine/Issue.lean: what a stream issues next: the fetch of a word, arrivals (R298), boundaries (R299),
awaits, ring slots and retirements of block streams (R229 to R237), interrupts of a supervisor (R210), the end of a stall of
the C stream (R75, R92), and what passes with time.
-/

namespace Sys2Proof.Machine

/-! ## The C stream -/

/-- What the stalled instruction does when it is tried again (R75): its whole effect, or nothing. -/
def retryInstr (i : Instr) (s : State) : Out :=
  match i with
  | .winSet a1 a2 => execWinSet a1 a2 s
  | .winRel a1 => execWinRel a1 s
  | .rtOpen a1 a2 => execRtOpen a1 a2 s
  | .rtSend a1 a2 => execRtSend a1 a2 s
  | .rtRoute a1 a2 => execRtRoute a1 a2 s
  | .rtStat a1 a2 => execRtStat a1 a2 s
  | .rtClose a1 a2 => execRtClose a1 a2 s
  | .blkGo a1 a2 => execBlkGo a1 a2 s
  | .blkStop a1 => execBlkStop a1 s
  | .blkPatch a1 a2 a3 a4 => execBlkPatch a1 a2 a3 a4 s
  | .txOpen a1 => execTxOpen a1 s
  | .txCommit a1 a2 => execTxCommit a1 a2 s
  | .txAbort a1 => execTxAbort a1 s
  | .txStamp a1 a2 => execTxStamp a1 a2 s
  | .txRelease a1 => execTxRelease a1 s
  | .ckptClose => execCkptClose s
  | .cpGo a1 a2 a3 => execCpGo a1 a2 a3 s
  | .ld a1 a2 a3 a4 => execLd a1 a2 a3 a4 s
  | .st a1 a2 a3 a4 => execSt a1 a2 a3 a4 s
  | .ldo a1 a2 a3 a4 a5 a6 => execLdo a1 a2 a3 a4 a5 a6 s
  | .sto a1 a2 a3 a4 a5 a6 => execSto a1 a2 a3 a4 a5 a6 s
  | .amoAdd a1 a2 a3 a4 a5 a6 => execAmoAdd a1 a2 a3 a4 a5 a6 s
  | .amoAnd a1 a2 a3 a4 a5 a6 => execAmoAnd a1 a2 a3 a4 a5 a6 s
  | .amoOr a1 a2 a3 a4 a5 a6 => execAmoOr a1 a2 a3 a4 a5 a6 s
  | .amoXor a1 a2 a3 a4 a5 a6 => execAmoXor a1 a2 a3 a4 a5 a6 s
  | .amoMin a1 a2 a3 a4 a5 a6 => execAmoMin a1 a2 a3 a4 a5 a6 s
  | .amoMax a1 a2 a3 a4 a5 a6 => execAmoMax a1 a2 a3 a4 a5 a6 s
  | .amoMinn a1 a2 a3 a4 a5 a6 => execAmoMinn a1 a2 a3 a4 a5 a6 s
  | .amoMaxn a1 a2 a3 a4 a5 a6 => execAmoMaxn a1 a2 a3 a4 a5 a6 s
  | .amoSwap a1 a2 a3 a4 a5 a6 => execAmoSwap a1 a2 a3 a4 a5 a6 s
  | .amoFadd32 a1 a2 a3 a4 a5 => execAmoFadd32 a1 a2 a3 a4 a5 s
  | .cas a1 a2 a3 a4 a5 a6 => execCas a1 a2 a3 a4 a5 a6 s
  | .semWait a1 a2 a3 a4 => execSemWait a1 a2 a3 a4 s
  | .lwArm a1 a2 => execLwArm a1 a2 s
  | .lwGet a1 a2 a3 => execLwGet a1 a2 a3 s
  | .lwTest a1 a2 a3 => execLwTest a1 a2 a3 s
  | .lwWait a1 a2 => execLwWait a1 a2 s
  | .barArrive a1 a2 => execBarArrive a1 a2 s
  | .barWait a1 a2 => execBarWait a1 a2 s
  | .barTest a1 a2 a3 => execBarTest a1 a2 a3 s
  | .fmtPush a1 => execFmtPush a1 s
  | .fqPop a1 => execFqPop a1 s
  | .waiteSem a1 a2 a3 => execWaiteSem a1 a2 a3 s
  | .waiteVote a1 a2 => execWaiteVote a1 a2 s
  | .waiteStream a1 a2 a3 => execWaiteStream a1 a2 a3 s
  | _ => .next s

/-- The ring awaits of exposed blocks that are judged by tc now, in the order V, M, L, S. -/
def State.dueAwaits (s : State) (t : BitVec 6) (now : Nat) : State :=
  [BStream.v, .m, .l, .s].foldl (init := s) fun s x =>
    let y := (s.tile t).stream x
    if y.exposedRun && decide (y.nextTc ≤ now) then s.ringGrant t x else s

/-- The C stream takes a tc for its word: all raises of that tc come before it, but for a sem.raise, and for sem.read the awaits too (R16, R79,
R417). -/
def State.controlTc (s : State) (t : BitVec 6) (i : Instr) : State :=
  let s1 := s.onTile t Tile.tick
  let now := (s1.tile t).portNow
  match i with
  | .semRaise _ _ _ => s1.raisesOf t (now - 1)
  | .semRead _ _ => (s1.raisesOf t now).dueAwaits t now
  | _ => s1.raisesOf t now

/-- A stalled C-stream instruction finds its condition true (R75). -/
def execCStallResolve (t : BitVec 6) (s : State) : Out :=
  let x := s.tile t
  if !x.controlLive || !x.control.stalled then .next s
  else match Decode.control (x.codeWord x.control.pc.toNat) with
    | .ok i =>
      let s1 := { s with cur := .control t }.controlTc t i
      if (s1.tile t).controlLive then retryInstr i s1 else .next s1
    | .error _ => .next s

/-- The timeout of waite expires (R92): its tc have passed, and cd tells whether the event is true in the last. A timeout of 0 never
expires. -/
def execWaiteTimeout (t : BitVec 6) (s : State) : Out :=
  .next (
    let x := s.tile t
    match x.control.wait, Decode.control (x.codeWord x.control.pc.toNat) with
    | some n, .ok i =>
      if !x.controlLive || decide (n = 0) || (x.waiteEvent i).isNone then s
      else match x.countPast x.control.since n with
        | none => s
        | some y =>
          let s1 := (s.setTile t y).raisesOf t y.portNow
          match (s1.tile t).waiteEvent i with
          | some (c, ev) =>
            if (s1.tile t).controlLive then s1.onTile t fun u => { u with control := (u.control.setCond c ev).finish } else s1
          | none => s1
    | _, _ => s)

/-- What an agent does next: nothing more than a change of state, or an instruction in a state. -/
inductive Next where
  | done (s : State)
  | run (i : Instr) (s : State)
deriving DecidableEq, Repr

/-- The word at the C stream's pc: an instruction, or ILLEGAL (R18, R19). -/
def State.fetchControl (s : State) (t : BitVec 6) : Next :=
  let x := s.tile t
  if 0x10000 ≤ x.control.pc.toNat then .done (s.cTrap causeCtlint 0)
  else match Decode.control (x.codeWord x.control.pc.toNat) with
    | .ok i =>
      let s1 := s.controlTc t i
      if (s1.tile t).controlLive then .run i s1 else .done s1
    | .error _ => .run .illegalWord s

/-- A timed node's context waits for TSTAMP (R296). -/
def State.timedWait (s : State) (t : BitVec 6) : Bool :=
  match s.tileNode t with
  | some n => n.timed && !n.timedOk
  | none => false

/-- The open interval of the node closes at the next kernel arrival (R368). -/
def State.timerClose (s : State) (t : BitVec 6) : Bool :=
  match s.tileNode t with
  | some n => decide (n.closing = .timer)
  | none => false

/-- The next issue of a C stream: a requested break first (R311), which ends a pause (R73), then arrivals with their boundary
(R298, R299). -/
def State.issueControl (s0 : State) (t : BitVec 6) : Next :=
  let s := { s0 with cur := .control t }
  let x := s.tile t
  if !x.controlLive || s.timedWait t then .done s
  else if x.debug then .run (.debugBreakTaken t) s
  else if x.control.pause != 0 then .done s
  else if s.boundaryDue t then .run (.kernelBoundary t) s
  else match s.arrivalOf t with
    | .excess => .done (s.cTrap causeCtlint 0)
    | .kernel =>
      if s.timerClose t then .done (s.onCtl fun k => { k with closing := true })
      else (s.onCtl fun k => { k with iter := k.iter + 1, arrived := true }).fetchControl t
    | .epilogue => (s.onCtl fun k => { k with arrived := true }).fetchControl t
    | .plain => s.fetchControl t

/-! ## Block streams -/

/-- Of the exposed blocks in RUN of a tile, the one that acts first; of equal tc the first of V, M, L, S. -/
def Tile.firstExposed (t : Tile) : Option BStream :=
  (([BStream.v, .m, .l, .s].filter fun x => (t.stream x).exposedRun).foldl (fun (b : Option (BStream × Nat)) x =>
    match t.nextTime x, b with
    | some n, some (y, m) => if n < m then some (x, n) else some (y, m)
    | some n, none => some (x, n)
    | none, b => b) none).map (·.1)

/-- The two-bit code of a stream. -/
def streamBits (x : BStream) : BitVec 2 := BitVec.ofNat 2 (streamCode x)

/-- The next word names a ring window whose raise is still due (R186). -/
def Tile.namesDue (t : Tile) (x : BStream) (y : Stream) : Bool :=
  (upto 32).any fun k => y.ringDue.getLsbD k && namesAt x y.record y.body.toNat (BitVec.ofNat 5 k) && (t.ringOf (BitVec.ofNat 5 k)).isSome

/-- As a stream's next tc begins, the tile's port takes what has reached it before (R417). An interlocked block acts in a tc after that. -/
def State.beginTc (s : State) (t : BitVec 6) (x : BStream) : State :=
  let tl := s.tile t
  s.takePort t (if (tl.stream x).exposed then max tl.tc ((tl.nextTime x).getD tl.tc) else tl.tc + 1)

/-- The next step of a stream in RUN: ring raises, results, retirement, ring awaits, or the word at its position. -/
def State.issueRun (s0 : State) (t : BitVec 6) (x : BStream) : Next :=
  let s := { s0 with cur := .block t x }.beginTc t x
  let tl := s.tile t
  let y := tl.stream x
  if y.state ≠ .run then .done s
  else if y.ringDue ≠ 0 ∧ (!s.asking (streamAsker t x) ∨ y.nestDone ∨ tl.namesDue x y) then .run (.ringRaise t (streamBits x)) s
  else if y.nestDone then
    if tl.pending.any fun p => p.stream == x then .run (.exposedResultWrite t) s else .run (.blockRetire t (streamBits x)) s
  else if !(tl.ringNeeds x y).isEmpty then .run (.ringAwaitGrant t (streamBits x)) s
  else match Decode.block x (recBody y.record y.body.toNat) with
    | .ok i => .run i s
    | .error _ => .done (s.blockFail t x causeIllegal y.body .stall)

/-- The next step of a block stream. While exposed blocks of the tile run, the one that acts first goes first (R146). -/
def State.issueBlock (s0 : State) (t : BitVec 6) (x : BStream) : Next :=
  let s := { s0 with cur := .block t x }.onTile t fun u => if u.live then u.applyStops.applyHalts else u
  let tl := s.tile t
  if !tl.live || s.timedWait t then .done s
  else match (tl.stream x).state with
    | .await => .run (.blockAwaitGrant t (streamBits x)) s
    | .run =>
      if (tl.stream x).exposed then
        (match tl.firstExposed with
         | some y => s.issueRun t y
         | none => s.issueRun t x)
      else s.issueRun t x
    | _ => .done s

/-! ## Supervisors -/

/-- A word of the extension's major opcodes custom-0 and custom-1 (R31). -/
def isCustom (w : W32) : Bool := w.toNat % 128 == 0x0B || w.toNat % 128 == 0x2B

/-- The next step of a supervisor: none while an instruction waits to write rd (R223, R226), else a pending interrupt
(R210), else the instruction at its pc: a custom one, or one of RV64GC (R18, R208). -/
def State.issueSupervisor (s0 : State) (c : BitVec 4) : Next :=
  let s := { s0 with cur := .supervisor c }
  if (s.cluster c).wait.isSome then .done s
  else match s.supInterrupt c with
    | some i => .done (s.onCluster c fun k => k.takeTrap true i 0)
    | none =>
      match s.rvFetch c with
      | .error e => .done (s.rvEnd c 0 (.error e))
      | .ok (w, len) =>
        if len = 4 ∧ isCustom w then
          (match Decode.supervisor w with
           | .ok i => .run i s
           | .error _ => .done (s.rvEnd c 4 (s.rvIllegal c)))
        else .done (s.rvStep c w len)

/-! ## A word put where an agent fetches it -/

/-- A tile whose context may run: nothing holds its streams. -/
def Tile.running (t : Tile) : Tile :=
  { t with status := .run, boundary := false, ending := false, debug := false, halt := 0, trapping := none }

/-- A record of one body word in an interlocked block (R32). -/
def oneWordBlock (w : W32) : List W32 := [0xB1100000, 0, 0, 0, 0, 0, w]

/-- The block stream stands in RUN at the only word of its block. -/
def Stream.atWord (y : Stream) (w : W32) : Stream :=
  { y with state := .run, record := oneWordBlock w, idx := Vector.replicate 6 0, body := 0, ring := 0, ringDue := 0, stopDue := false }

/-- The C stream stands at its pc, whose four bytes are the word; it is no arrival at KER or EPI. -/
def Tile.atCode (t : Tile) (w : W32) : Tile :=
  let pc := t.control.pc.toNat % 0x10000 / 4 * 4
  { t with
    code := (upto 4).foldl (fun c i => tset 0 c (pc + i) (BitVec.ofNat 8 (w.toNat / 2 ^ (8 * i)))) t.code
    control := { t.control with pc := BitVec.ofNat 17 pc, arrived := true, pause := 0, closing := false } }

/-- A word where the next step of an agent fetches it. -/
def State.place (s : State) (a : Agent) (w : W32) : State :=
  match a with
  | .control t => (s.onTile t fun u => u.running.atCode w).onNode (s.tile t).node fun n => { n with timedOk := true }
  | .block t x =>
    (s.onTile t fun u => u.running.onStream x fun y => y.atWord w).onNode (s.tile t).node fun n => { n with timedOk := true }
  | .supervisor c =>
    let pa := (s.cluster c).pc.toNat
    let s1 := s.onCluster c fun k => { k with wait := none, mie := 0, csr := { k.csr with satp := 0 } }
    { s1 with
      mem := s1.mem.setBytes pa (leBytes 4 w.toNat)
      ready := { s1.ready with mem := s1.ready.mem ||| BitVec.twoPow 64 (homeStack pa) } }

/-! ## What the agenda brings (MODEL) -/

/-- The next step of an agent. -/
def State.issue (s : State) (a : Agent) : Next :=
  match a with
  | .control t => s.issueControl t
  | .block t x => s.issueBlock t x
  | .supervisor c => s.issueSupervisor c

/-- ns of the package's reference clock pass (R288, R342). -/
def State.elapse (s : State) (n : Nat) : State := ({ s.drainDeficits n with time := s.time.pass n }).countLate

/-- The failure of a die of another package is known here (R336). -/
def State.dieLost (s : State) (pkg : BitVec 10) (die : BitVec 2) : State :=
  if s.dieGone pkg die then s else { s with fabric := { s.fabric with lostDies := (pkg.toNat, die.toNat) :: s.fabric.lostDies } }

/-- A cluster TLB keeps what a walk gives, at most 4,096 entries (R1, R256). -/
def State.tlbFill (s : State) (c : BitVec 4) (root va : Nat) : State :=
  match s.walk root (va % 2 ^ 57) with
  | .ok page =>
    let h : Held := { root := root, va := page.1, leaf := page.2, stale := false }
    s.onCluster c fun k => { k with tlb := (h :: k.tlb.filter fun g => !(g.root == h.root && g.va == h.va && g.leaf.size == h.leaf.size)).take 4096 }
  | .error _ => s

/-- Firmware starts a change of a die's pool partition (R251) to n units of 4 MiB of scratch, at most the 48 MiB of the pool
(R1, R249): its scratch stalls until the change is done. -/
def State.startPartition (s : State) (d : BitVec 2) (n : BitVec 4) : State :=
  if (s.die d).partition.isSome ∨ (s.die d).stepping ∨ 12 < n.toNat then s else s.onDie d fun x => { x with partition := some (n.toNat * 4096) }

/-- The test port works whatever the clocks do, and power and reset come from outside (R406, R416). -/
def isOutside (i : Instr) : Bool :=
  match i with
  | .tapIdcode | .tapFrzstat | .tapScanout _ | .tapMemrd _ | .tapBypass | .powerOn _ | .reset _ | .powerLoss => true
  | _ => false

/-- The package without power takes nothing but power and reset; a frozen one also the test port. -/
def State.takes (s : State) (i : Instr) : Bool :=
  if !s.powered then (match i with | .powerOn _ | .reset _ => true | _ => false)
  else !s.frozen || isOutside i

/-- n tc of a tile's clock pass, and its port takes what has reached it (R417). -/
def State.clockTile (s : State) (t : BitVec 6) (n : Nat) : State :=
  let s1 := s.onTile t fun u => if u.frozenAt u.tc then u else u.elapse n
  s1.takePort t (s1.tile t).portNow

/-- What an entry of the agenda does. -/
def State.perform (s : State) (a : Activity) : Next :=
  match a with
  | .event i => if s.takes i then .run i s else .done s
  | .issue g => if s.frozen ∨ !s.powered then .done s else s.issue g
  | .tap ir => .done (if s.powered then s.tapOther ir else s)
  | other =>
    if s.frozen ∨ !s.powered then .done s
    else .done (match other with
      | .elapse n => s.elapse n
      | .clock t n => s.clockTile t n
      | .late t => { s with lateNext := some t }
      | .operandLate t => s.onTile t fun u => { u with operandLate := true }
      | .portBusy t => s.onTile t fun u => { u with portBusy := true }
      | .partition d n => s.startPartition d n
      | .firmware f i v => s.firmware f i v
      | .tlbFill c root va => s.tlbFill c root va
      | .dieLost k d => if k = s.fabric.pkg then s else s.dieLost k d
      | .replay p q => s.replayFrom p q
      | .spdm code => s.spdmOther code
      | .upset pa bad => s.upset pa bad
      | _ => s)

end Sys2Proof.Machine
end

