-- ==== Sys2Proof/Machine/Vector.lean ====
section
/-!
DEFINITION. Sys2Proof/Machine/Vector.lean: the V stream on registers, predicates and queues (R141 to R169,
R178 to R180): queue effects, governance, draws, and every element-wise, conversion, function, reduction and
rearrangement instruction.
-/

namespace Sys2Proof.Machine

/-! ## Elements (R111, R143) -/

/-- Element e of width w. -/
def elem (w : Nat) (v : VReg) (e : Nat) : Nat := v.toNat / 2 ^ (w * e) % 2 ^ w
/-- A register from its elements in order. -/
def ofElems (w : Nat) (l : List Nat) : VReg := BitVec.ofNat 2048 (l.foldr (fun x acc => acc * 2 ^ w + x % 2 ^ w) 0)
def countOf (w : Nat) : Nat := 2048 / w
/-- Element e of width w is governed (R14, R143). -/
def governed (p : PReg) (w e : Nat) : Bool := p.getLsbD (e * w / 4)
/-- Lane j as n32. -/
def laneOf (v : VReg) (j : Nat) : Nat := elem 32 v j

/-- Width of a type code. -/
def tyWidth (t : BitVec 4) : Nat := WellFormed.width t
/-- Class F of R142. -/
def isFloatTy (t : BitVec 4) : Bool := decide (t.toNat ≤ 2)
def floatOf (t : BitVec 4) : FloatFormat := match t.toNat with | 0 => f32 | 1 => bf16 | _ => f16
def isSignedTy (t : BitVec 4) : Bool := decide (6 ≤ t.toNat ∧ t.toNat ≤ 8)

/-! ## Queues (R15, R144, R145, R238) -/

/-- The queue that a vector field names. -/
def queueOf (r : BitVec 5) : Option (BitVec 3) := if 24 ≤ r.toNat then some (BitVec.ofNat 3 (r.toNat - 24)) else none
def queuesOf (rs : List (BitVec 5)) : List (BitVec 3) := (rs.filterMap queueOf).eraseDups

/-- A vector source: a register, or the head of a queue. -/
def Tile.vread (t : Tile) (r : BitVec 5) : VReg :=
  match queueOf r with
  | some q => (t.queue q).entries.head?.getD 0
  | none => t.vreg r
/-- The old destination value; a queue has none, so its ungoverned elements are zero bits. -/
def Tile.vold (t : Tile) (r : BitVec 5) : VReg := if (queueOf r).isSome then 0 else t.vreg r

/-- A qfill of the queue has issued whose data has not been pushed (R203, R238). -/
def Tile.fillDue (t : Tile) (q : BitVec 3) : Bool := t.pending.any fun p => p.stream == .l && p.what.queue? == some q

/-- The V stream waits at a queue whose other side is stream o: a stall in an interlocked block, in an exposed one a freeze, or BFAULT when
o would never end it, which is decided when the freeze would begin (R238). A halted stream resumes, so a freeze that it alone can
end is no fault (R312). -/
def Tile.vWaits (t : Tile) (q : BitVec 3) (o : Stream) (coming : Bool) : Bad :=
  if !t.v.exposed then .stall
  else if t.v.queued ≠ some q ∧ o.exposed ∧ !coming ∧ o.state ≠ .halted then .trap causeBfault 0
  else .queue q

/-- Whether the head of a queue can be popped or peeked by the V stream. -/
def Tile.canPop (t : Tile) (q : BitVec 3) : Res Unit :=
  let x := t.queue q
  if x.bound = 2 then .error (.trap causeQunf 0)
  else if !x.entries.isEmpty then .ok ()
  else if x.bound = 0 then .error (.trap causeQunf 0)
  else .error (t.vWaits q t.l (t.fillDue q))

/-- Whether the V stream can push, own pops taken. -/
def Tile.canPush (t : Tile) (q : BitVec 3) (pops : List (BitVec 3)) : Res Unit :=
  let x := t.queue q
  let have_ := x.entries.length + t.pushesDue q - (if pops.contains q then 1 else 0)
  if x.bound = 1 then .error (.trap causeQovf 0)
  else if have_ < 4 then .ok ()
  else if x.bound = 0 then .error (.trap causeQovf 0)
  else .error (t.vWaits q t.s false)

def Tile.popQueue (t : Tile) (q : BitVec 3) : Tile :=
  let x := t.queue q
  t.setQueue q { x with entries := x.entries.tail, head := x.head + 1 }

/-- All queue checks of an instruction, then its pops: the tile after them. -/
def Tile.takeSources (t : Tile) (peek : Bool) (srcs dsts : List (BitVec 5)) : Res Tile := do
  let qs := queuesOf srcs
  qs.forM t.canPop
  let pops := if peek then [] else qs
  (queuesOf dsts).forM fun q => t.canPush q pops
  return pops.foldl Tile.popQueue t

/-- The write of a vector destination. -/
def toDest (d : BitVec 5) (v : VReg) : Late :=
  match queueOf d with
  | some q => .push q v
  | none => .vreg d v

/-! ## Issue and results (R141, R146, R147) -/

/-- Results of an instruction of the stream: at once in an interlocked block, at the end of their tc in an
exposed one, its flags with them. -/
def Tile.results (t : Tile) (x : BStream) (l : Nat) (ws : List Late) (f : Flags) : Tile :=
  let y := t.stream x
  let ws := if f = 0 then ws else ws ++ [.flags f]
  if y.exposed then
    ws.foldl (fun t w => t.addPending { due := y.nextTc + l - 1, stream := x, landed := true, load := false, what := w, kept := none }) t
  else ws.foldl Tile.applyLate t

/-- What an instruction of the V stream does to its tile: the tile after pops and draws, its results and flags. -/
abbrev VEffect := Tile × List Late × Flags

/-- An instruction that touches only its tile. `f` sees the tile at issue and whether subnormals are flushed. -/
def State.vIssue (s : State) (c l : Nat) (f : Tile → Bool → Res VEffect) : State :=
  s.blockIssue c l fun t x s => do
    let tl := s.tile t
    let r ← f tl (tl.stream x).exposed
    return s.setTile t (r.1.results x l r.2.1 r.2.2)

/-- Elements 0 to n − 1 of a destination: governed ones computed in ascending order, under SR each with a draw of
the lane that holds it (R124), the others kept. -/
def mapElems (n w : Nat) (sr : Bool) (gov : Nat → Bool) (old : Nat → Nat) (f : Nat → Nat → Nat × Flags)
    (seeds : Vector W32 64) : List Nat × Flags × Vector W32 64 :=
  let r := (upto n).foldl (init := (([] : List Nat), (0 : Flags), seeds)) fun acc e =>
    if gov e then
      let d := if sr then drawLane acc.2.2 (w * e / 32) else (acc.2.2, 0)
      let y := f e d.2
      (y.1 :: acc.1, acc.2.1 ||| y.2, d.1)
    else (old e :: acc.1, acc.2.1, acc.2.2)
  (r.1.reverse, r.2.1, r.2.2)

/-- A predicated element-wise instruction over elements of width w of d. -/
def Tile.vmap (t : Tile) (peek : Bool) (srcs : List (BitVec 5)) (d : BitVec 5) (w : Nat) (sr : Bool) (gov : Nat → Bool)
    (f : Nat → Nat → Nat × Flags) : Res VEffect := do
  let t1 ← t.takeSources peek srcs [d]
  let old := t.vold d
  let r := mapElems (countOf w) w sr gov (elem w old) f t.seeds
  return ({ t1 with seeds := r.2.2 }, [toDest d (ofElems w r.1)], r.2.1)

def pk (k : BitVec 1) : Bool := k == 1

/-! ## Arithmetic (R150 to R152) -/

/-- Clamp of an exact integer to a width and signedness, with ST (R150). -/
def clampInt (sg : Bool) (w : Nat) (x : Int) : Nat × Flags := intToInt sg w true x

inductive VArith where
  | add | sub | mul | fma | fms
deriving DecidableEq, Repr

def arithFloat (op : VArith) (mode : Nat) (a b d : Val) : Val × Flags :=
  match op with
  | .add => addVal mode a b
  | .sub => addVal mode a b.flip
  | .mul => mulVal a b
  | .fma => fmaVal mode a b d
  | .fms => fmaVal mode a.flip b d

def arithInt (op : VArith) (a b d : Int) : Int :=
  match op with
  | .add => a + b
  | .sub => a - b
  | .mul => a * b
  | .fma => a * b + d
  | .fms => d - a * b

/-- One element of R150. -/
def arithElem (op : VArith) (t m : BitVec 4) (flush : Bool) (draw a b d : Nat) : Nat × Flags :=
  let mode := m.toNat % 8
  if isFloatTy t then
    let f := floatOf t
    let v := arithFloat op mode (f.value flush a) (f.value flush b) (f.value flush d)
    let r := f.convert mode false flush draw v.1
    (r.1, v.2 ||| r.2)
  else
    let sg := isSignedTy t
    let w := tyWidth t
    let x := arithInt op (intValue sg w a) (intValue sg w b) (intValue sg w d)
    if mode = 0 then (ofSigned w x, 0) else clampInt sg w x

def State.vArith (s : State) (op : VArith) (l : Nat) (d a b : BitVec 5) (p : BitVec 3) (t m : BitVec 4) : State :=
  s.vIssue 1 l fun tl flush =>
    let w := tyWidth t
    tl.vmap (m.getLsbD 3) [a, b] d w (isFloatTy t && m.toNat % 8 == 2) (governed (tl.preg p) w) fun e draw =>
      arithElem op t m flush draw (elem w (tl.vread a) e) (elem w (tl.vread b) e) (elem w (tl.vold d) e)

/-- Latency of R148 for the forms that differ by class. -/
def addLatency (t : BitVec 4) : Nat := if isFloatTy t then 4 else 2

def execVadd (d a b : BitVec 5) (p : BitVec 3) (t m : BitVec 4) (s : State) : Out := .next (s.vArith .add (addLatency t) d a b p t m)
def execVsub (d a b : BitVec 5) (p : BitVec 3) (t m : BitVec 4) (s : State) : Out := .next (s.vArith .sub (addLatency t) d a b p t m)
def execVmul (d a b : BitVec 5) (p : BitVec 3) (t m : BitVec 4) (s : State) : Out := .next (s.vArith .mul 4 d a b p t m)
def execVfma (d a b : BitVec 5) (p : BitVec 3) (t m : BitVec 4) (s : State) : Out := .next (s.vArith .fma 5 d a b p t m)
def execVfms (d a b : BitVec 5) (p : BitVec 3) (t m : BitVec 4) (s : State) : Out := .next (s.vArith .fms 5 d a b p t m)

/-- A subnormal encoding read as a zero of its sign (R132). -/
def FloatFormat.flushed (f : FloatFormat) (flush : Bool) (x : Nat) : Nat :=
  if flush && bits x (f.width - 2) f.man == 0 then bits x (f.width - 1) (f.width - 1) * 2 ^ (f.width - 1) else x

/-- One element of R151. -/
def minMaxElem (isMax : Bool) (t : BitVec 4) (flush : Bool) (a b : Nat) : Nat × Flags :=
  if isFloatTy t then
    let f := floatOf t
    minMax isMax (f.value flush a) (f.value flush b) (f.flushed flush a) (f.flushed flush b) f.canonical
  else
    let sg := isSignedTy t
    let w := tyWidth t
    (if decide (intValue sg w a < intValue sg w b) = isMax then b else a, 0)

def State.vMinMax (s : State) (isMax : Bool) (d a b : BitVec 5) (p : BitVec 3) (t : BitVec 4) (k : BitVec 1) : State :=
  s.vIssue 1 (addLatency t) fun tl flush =>
    let w := tyWidth t
    tl.vmap (pk k) [a, b] d w false (governed (tl.preg p) w) fun e _ =>
      minMaxElem isMax t flush (elem w (tl.vread a) e) (elem w (tl.vread b) e)

def execVmin (d a b : BitVec 5) (p : BitVec 3) (t : BitVec 4) (k : BitVec 1) (s : State) : Out := .next (s.vMinMax false d a b p t k)
def execVmax (d a b : BitVec 5) (p : BitVec 3) (t : BitVec 4) (k : BitVec 1) (s : State) : Out := .next (s.vMinMax true d a b p t k)

/-- A predicated instruction of one source that raises what `f` says; no draw. -/
def State.vUnary (s : State) (l : Nat) (d a : BitVec 5) (p : BitVec 3) (t : BitVec 4) (k : BitVec 1) (f : Nat → Nat × Flags) : State :=
  s.vIssue 1 l fun tl _ =>
    let w := tyWidth t
    tl.vmap (pk k) [a] d w false (governed (tl.preg p) w) fun e _ => f (elem w (tl.vread a) e)

/-- The same of two sources, flagless. -/
def State.vBinary (s : State) (d a b : BitVec 5) (p : BitVec 3) (t : BitVec 4) (k : BitVec 1) (f : Nat → Nat → Nat) : State :=
  s.vIssue 1 2 fun tl _ =>
    let w := tyWidth t
    tl.vmap (pk k) [a, b] d w false (governed (tl.preg p) w) fun e _ => (f (elem w (tl.vread a) e) (elem w (tl.vread b) e), 0)

/-- One element of R152: an exact result wrapped or saturated; float forms only touch the sign bit. -/
def absNegElem (isNeg : Bool) (t : BitVec 4) (sat : Bool) (x : Nat) : Nat × Flags :=
  let w := tyWidth t
  if isFloatTy t then (if isNeg then x ^^^ 2 ^ (w - 1) else x % 2 ^ (w - 1), 0)
  else
    let sg := isSignedTy t
    let v := intValue sg w x
    intToInt sg w sat (if isNeg then -v else v.natAbs)

def execVabs (d a : BitVec 5) (p : BitVec 3) (t : BitVec 4) (k u : BitVec 1) (s : State) : Out :=
  .next (s.vUnary 2 d a p t k (absNegElem false t (u == 1)))
def execVneg (d a : BitVec 5) (p : BitVec 3) (t : BitVec 4) (k u : BitVec 1) (s : State) : Out :=
  .next (s.vUnary 2 d a p t k (absNegElem true t (u == 1)))

/-! ## Comparison, selection, logic, shifts (R153 to R156) -/

/-- The relation cc of R153 with its flag. -/
def cmpElem (t : BitVec 4) (cc : Nat) (flush : Bool) (a b : Nat) : Bool × Flags :=
  if isFloatTy t then
    let f := floatOf t
    let x := f.value flush a
    let y := f.value flush b
    let un := x.isNan || y.isNan
    let lt := ltVal x y
    let gt := ltVal y x
    let r := match cc with
      | 0 => !un && !lt && !gt
      | 1 => un || lt || gt
      | 2 => !un && lt
      | 3 => !un && !gt
      | 4 => !un && gt
      | 5 => !un && !lt
      | _ => un
    let ordered := decide (2 ≤ cc ∧ cc ≤ 5)
    (r, flagIf (if ordered then un else x.signals || y.signals) flagNV)
  else
    let sg := isSignedTy t
    let w := tyWidth t
    let x := intValue sg w a
    let y := intValue sg w b
    let r := match cc with
      | 0 => decide (x = y)
      | 1 => decide (x ≠ y)
      | 2 => decide (x < y)
      | 3 => decide (x ≤ y)
      | 4 => decide (y < x)
      | _ => decide (y ≤ x)
    (r, 0)

def execVcmp (d : BitVec 3) (a b : BitVec 5) (p : BitVec 3) (t : BitVec 4) (k : BitVec 1) (c : BitVec 3) (s : State) : Out :=
  .next (s.vIssue 1 3 fun tl flush => do
    let t1 ← tl.takeSources (pk k) [a, b] []
    let w := tyWidth t
    let r := mapElems (countOf w) w false (governed (tl.preg p) w) (fun _ => 0) (fun e _ =>
      let y := cmpElem t c.toNat flush (elem w (tl.vread a) e) (elem w (tl.vread b) e)
      (if y.1 then 2 ^ (w / 4) - 1 else 0, y.2)) tl.seeds
    let m := r.1.foldr (fun x acc => acc * 2 ^ (w / 4) + x) 0
    return (t1, [.preg d (BitVec.ofNat 512 m)], r.2.1))

/-- vsel is unpredicated (R154). -/
def execVsel (d a b : BitVec 5) (p : BitVec 3) (t : BitVec 4) (k : BitVec 1) (s : State) : Out :=
  .next (s.vIssue 1 2 fun tl _ =>
    let w := tyWidth t
    tl.vmap (pk k) [a, b] d w false (fun _ => true) fun e _ =>
      (if governed (tl.preg p) w e then elem w (tl.vread a) e else elem w (tl.vread b) e, 0))

def execVand (d a b : BitVec 5) (p : BitVec 3) (t : BitVec 4) (k : BitVec 1) (s : State) : Out := .next (s.vBinary d a b p t k (· &&& ·))
def execVor (d a b : BitVec 5) (p : BitVec 3) (t : BitVec 4) (k : BitVec 1) (s : State) : Out := .next (s.vBinary d a b p t k (· ||| ·))
def execVxor (d a b : BitVec 5) (p : BitVec 3) (t : BitVec 4) (k : BitVec 1) (s : State) : Out := .next (s.vBinary d a b p t k (· ^^^ ·))
def execVandn (d a b : BitVec 5) (p : BitVec 3) (t : BitVec 4) (k : BitVec 1) (s : State) : Out :=
  .next (s.vBinary d a b p t k fun x y => x - (x &&& y))
def execVnot (d a : BitVec 5) (p : BitVec 3) (t : BitVec 4) (k : BitVec 1) (s : State) : Out :=
  .next (s.vUnary 2 d a p t k fun x => (2 ^ tyWidth t - 1 - x, 0))

inductive VShift where
  | sll | srl | sra
deriving DecidableEq, Repr

/-- One element of R156. -/
def shiftElem (op : VShift) (w h x : Nat) : Nat :=
  match op with
  | .sll => if h ≥ w then 0 else x * 2 ^ h % 2 ^ w
  | .srl => if h ≥ w then 0 else x / 2 ^ h
  | .sra => ofSigned w (toSigned w x / (2 ^ (min h w) : Nat))

/-- With IM = 1 the vb field is the amount and names no register. -/
def State.vShift (s : State) (op : VShift) (d a b : BitVec 5) (p : BitVec 3) (t : BitVec 4) (k i : BitVec 1) : State :=
  s.vIssue 1 2 fun tl _ =>
    let w := tyWidth t
    tl.vmap (pk k) (if i = 1 then [a] else [a, b]) d w false (governed (tl.preg p) w) fun e _ =>
      let h := if i = 1 then b.toNat else elem w (tl.vread b) e % 32
      (shiftElem op w h (elem w (tl.vread a) e), 0)

def execVsll (d a b : BitVec 5) (p : BitVec 3) (t : BitVec 4) (k i : BitVec 1) (s : State) : Out := .next (s.vShift .sll d a b p t k i)
def execVsrl (d a b : BitVec 5) (p : BitVec 3) (t : BitVec 4) (k i : BitVec 1) (s : State) : Out := .next (s.vShift .srl d a b p t k i)
def execVsra (d a b : BitVec 5) (p : BitVec 3) (t : BitVec 4) (k i : BitVec 1) (s : State) : Out := .next (s.vShift .sra d a b p t k i)

/-! ## Conversion, quantisation, block scales (R157 to R160) -/

/-- An unpredicated instruction that writes elements [base, base + n) of width w of d. -/
def Tile.vslice (t : Tile) (srcs : List (BitVec 5)) (d : BitVec 5) (w base n : Nat) (sr : Bool) (f : Nat → Nat → Nat × Flags) : Res VEffect :=
  t.vmap false srcs d w sr (fun e => decide (base ≤ e ∧ e < base + n)) fun e draw => f (e - base) draw

def execVcvt (d a : BitVec 5) (u : BitVec 4) (z : BitVec 1) (p : BitVec 3) (t : BitVec 4) (r : BitVec 3) (s : State) : Out :=
  .next (s.vIssue 1 4 fun tl flush =>
    let ws := tyWidth u
    let wd := tyWidth t
    let n := 2048 / max ws wd
    let narrow := decide (wd ≤ ws)
    tl.vslice [a] d wd (if narrow then p.toNat * n else 0) n (r == 2) fun i draw =>
      convertElem (elemOf u.toNat) (elemOf t.toNat) r.toNat (z == 1) flush draw
        (elem ws (tl.vread a) (if narrow then i else p.toNat * n + i)))

/-- A value converted to a destination format (R131). -/
def quantise (dst : Elem) (mode : Nat) (sat flush : Bool) (draw : Nat) (v : Val) : Nat × Flags :=
  match dst with
  | .float f => f.convert mode sat flush draw v
  | .int sg w => floatToInt sg w mode draw v
  | _ => (0, 0)

def execVq (d a b : BitVec 5) (p : BitVec 3) (t : BitVec 4) (u : BitVec 1) (r : BitVec 3) (s : State) : Out :=
  .next (s.vIssue 1 4 fun tl flush =>
    tl.vslice [a, b] d (tyWidth t) (p.toNat * 64) 64 (r == 2) fun i draw =>
      let q := divVal (f32.value flush (laneOf (tl.vread a) i)) (f32.value flush (laneOf (tl.vread b) i))
      let y := quantise (elemOf t.toNat) r.toNat (u == 1) flush draw q.1
      (y.1, q.2 ||| y.2))

def execVdq (d a b : BitVec 5) (p : BitVec 3) (t : BitVec 4) (r : BitVec 3) (s : State) : Out :=
  .next (s.vIssue 1 4 fun tl flush =>
    let ws := tyWidth t
    tl.vslice [a, b] d 32 0 64 (r == 2) fun i draw =>
      let q := mulVal ((elemOf t.toNat).value flush (elem ws (tl.vread a) (p.toNat * 64 + i))) (f32.value flush (laneOf (tl.vread b) i))
      let y := f32.convert r.toNat false flush draw q.1
      (y.1, q.2 ||| y.2))

/-- The value of a scale code of a kind (R117, R118). -/
def scaleVal (kind code : Nat) : Val :=
  match kind with
  | 1 => if code = 255 then .nan false else dyadic false 1 ((code : Int) - 127)
  | 2 => if 127 ≤ code then .nan false else e4m3.value false code
  | _ => .fin false 1 1

/-- Lmax and emax of a target (R160). -/
def scaleLimit (t : BitVec 4) : Nat × Nat :=
  match t.toNat with
  | 2 => (65504, 15)
  | 3 => (448, 8)
  | 4 => (57344, 15)
  | 5 => (6, 2)
  | 7 => (32767, 14)
  | 8 => (127, 6)
  | _ => (7, 2)

/-- The scale code of one block of 16 values, and its flags (R160). -/
def blockScale (t : BitVec 4) (kind : Nat) (xs : List Val) : Nat × Flags :=
  let lim := scaleLimit t
  if xs.any fun v => v.isNan || v.isInf then (if kind = 1 then 0xFF else 0x7F, flagNV)
  else
    let m : Nat × Nat := xs.foldl (fun m v =>
      match v with | .fin _ n d => if m.1 * d < n * m.2 then (n, d) else m | _ => m) (0, 1)
    if m.1 = 0 then (if kind = 1 then 0x7F else 0x38, 0)
    else if kind = 1 then
      let c := floorLog2 m.1 m.2 - lim.2 + 127
      if c < 1 then (1, 0) else if c > 254 then (254, flagST) else (c.toNat, 0)
    else
      let r := e4m3.round 4 false m.1 (m.2 * lim.1) 0
      if e4m3.exceeds r.count r.exp then (0x7E, flagST) else (e4m3.pack false r.count r.exp, 0)

/-- The four codes of a register, and their flags. -/
def blockScales (t : BitVec 4) (kind : Nat) (flush : Bool) (v : VReg) : List Nat × Flags :=
  let l := (upto 4).map fun b => blockScale t kind ((upto 16).map fun i => f32.value flush (laneOf v (16 * b + i)))
  (l.map (·.1), l.foldl (fun f x => f ||| x.2) 0)

def execVbs (d a : BitVec 5) (t : BitVec 4) (k : BitVec 2) (s : State) : Out :=
  .next (s.vIssue 2 6 fun tl flush => do
    let t1 ← tl.takeSources false [a] [d]
    let c := blockScales t k.toNat flush (tl.vread a)
    let l := (upto 64).map fun e => (f32.convert 0 false flush 0 (scaleVal k.toNat (c.1[e / 16]?.getD 0))).1
    return (t1, [toDest d (ofElems 32 l)], c.2))

def execVbsCode (d a : BitVec 5) (p : BitVec 3) (t : BitVec 4) (k : BitVec 2) (s : State) : Out :=
  .next (s.vIssue 2 6 fun tl flush => do
    let t1 ← tl.takeSources false [a] [d]
    let c := blockScales t k.toNat flush (tl.vread a)
    let old := tl.vold d
    let l := (upto 256).map fun e => if 4 * p.toNat ≤ e ∧ e < 4 * p.toNat + 4 then c.1[e - 4 * p.toNat]?.getD 0 else elem 8 old e
    return (t1, [toDest d (ofElems 8 l)], c.2))

/-! ## Functions and reductions (R161, R162) -/

def execVsfu (d a : BitVec 5) (p : BitVec 3) (k : BitVec 1) (f : BitVec 3) (s : State) : Out :=
  .next (s.vIssue 4 14 fun tl flush =>
    tl.vmap (pk k) [a] d 32 false (governed (tl.preg p) 32) fun e _ =>
      let v := sfuVal f.toNat (f32.value flush (laneOf (tl.vread a) e))
      let r := f32.convert 0 false flush 0 v.1
      (r.1, v.2 ||| r.2))

/-- The 32-bit type that vred widens a type to. -/
def wideTy (t : BitVec 4) : BitVec 4 := if isFloatTy t then 0 else if isSignedTy t then 6 else 9

/-- The identity of a reduction over a 32-bit type (R162). -/
def redIdentity (t : BitVec 4) (o : Nat) : Nat :=
  if isFloatTy t then (match o with | 0 => 0x80000000 | 1 => 0xFF800000 | _ => 0x7F800000)
  else if isSignedTy t then (match o with | 0 => 0 | 1 => 0x80000000 | _ => 0x7FFFFFFF)
  else (match o with | 0 => 0 | 1 => 0 | _ => 0xFFFFFFFF)

def redComb (t : BitVec 4) (o : Nat) (flush : Bool) (a b : Nat) : Nat × Flags :=
  if o = 0 then arithElem .add (wideTy t) 0 flush 0 a b 0 else minMaxElem (o == 1) (wideTy t) flush a b

/-- One level of the tree of R162. -/
def redLevel (t : BitVec 4) (o : Nat) (flush : Bool) : List Nat → List Nat × Flags
  | a :: b :: r =>
    let c := redComb t o flush a b
    let y := redLevel t o flush r
    (c.1 :: y.1, c.2 ||| y.2)
  | l => (l, 0)

def redTree (t : BitVec 4) (o : Nat) (flush : Bool) : Nat → List Nat × Flags → List Nat × Flags
  | 0, x => x
  | k + 1, x => if x.1.length ≤ 1 then x else
      let y := redLevel t o flush x.1
      redTree t o flush k (y.1, x.2 ||| y.2)

def execVred (d a : BitVec 5) (p : BitVec 3) (t : BitVec 4) (k : BitVec 1) (o : BitVec 2) (s : State) : Out :=
  .next (s.vIssue 2 16 fun tl flush => do
    let t1 ← tl.takeSources (pk k) [a] [d]
    let w := tyWidth t
    let src := tl.vread a
    let xs := (upto (countOf w)).map fun e =>
      if governed (tl.preg p) w e then convertElem (elemOf t.toNat) (elemOf (wideTy t).toNat) 0 false flush 0 (elem w src e)
      else (redIdentity t o.toNat, (0 : Flags))
    let r := redTree t o.toNat flush 10 (xs.map (·.1), xs.foldl (fun f x => f ||| x.2) 0)
    return (t1, [toDest d (BitVec.ofNat 2048 (r.1.headD 0))], r.2))

/-! ## Rearrangement and constants (R163 to R169) -/

def execVperm (d a b : BitVec 5) (p : BitVec 3) (t : BitVec 4) (k : BitVec 1) (s : State) : Out :=
  .next (s.vIssue 1 3 fun tl _ =>
    let w := tyWidth t
    tl.vmap (pk k) [a, b] d w false (governed (tl.preg p) w) fun e _ =>
      let j := elem w (tl.vread b) e
      (if j < countOf w then elem w (tl.vread a) j else 0, 0))

def execVzip (d a b : BitVec 5) (p : BitVec 3) (t : BitVec 4) (k h : BitVec 1) (s : State) : Out :=
  .next (s.vIssue 1 2 fun tl _ =>
    let w := tyWidth t
    let m := countOf w / 2
    tl.vmap (pk k) [a, b] d w false (governed (tl.preg p) w) fun e _ =>
      (elem w (if e % 2 = 0 then tl.vread a else tl.vread b) (h.toNat * m + e / 2), 0))

def execVunzip (d a b : BitVec 5) (p : BitVec 3) (t : BitVec 4) (k h : BitVec 1) (s : State) : Out :=
  .next (s.vIssue 1 2 fun tl _ =>
    let w := tyWidth t
    let m := countOf w / 2
    tl.vmap (pk k) [a, b] d w false (governed (tl.preg p) w) fun e _ =>
      (if e < m then elem w (tl.vread a) (2 * e + h.toNat) else elem w (tl.vread b) (2 * (e - m) + h.toNat), 0))

/-- The transpose of R165: r rows of r elements of width w, four rows a register. -/
def Tile.transpose (t : Tile) (d a : BitVec 5) (r w : Nat) : List Late :=
  let src (y x : Nat) : Nat := elem w (t.vreg (a + BitVec.ofNat 5 (y / 4))) (r * (y % 4) + x)
  (upto (r / 4)).map fun j =>
    .vreg (d + BitVec.ofNat 5 j) (ofElems w ((upto (4 * r)).map fun e => src (e % r) (4 * j + e / r)))

/-- vtr.h: 8 registers, 32 × 32 elements of 16 bits. -/
def execVtrH (d a : BitVec 5) (s : State) : Out := .next (s.vIssue 8 10 fun tl _ => .ok (tl, tl.transpose d a 32 16, 0))
/-- vtr.w: 4 registers, 16 × 16 elements of 32 bits. -/
def execVtrW (d a : BitVec 5) (s : State) : Out := .next (s.vIssue 4 8 fun tl _ => .ok (tl, tl.transpose d a 16 32, 0))

def execVbc (d a k : BitVec 5) (p : BitVec 3) (t j : BitVec 4) (s : State) : Out :=
  .next (s.vIssue 1 2 fun tl _ =>
    let w := tyWidth t
    tl.vmap false [a] d w false (governed (tl.preg p) w) fun _ _ => (elem w (tl.vread a) (k.toNat * 16 + j.toNat), 0))

def execVmov (d a : BitVec 5) (p : BitVec 3) (t : BitVec 4) (k : BitVec 1) (s : State) : Out :=
  .next (s.vUnary 2 d a p t k fun x => (x, 0))

def execVmovVp (d : BitVec 5) (a : BitVec 3) (s : State) : Out :=
  .next (s.vIssue 1 2 fun tl _ => do
    let t1 ← tl.takeSources false [] [d]
    return (t1, [toDest d ((tl.preg a).setWidth 2048)], 0))

def execVmovPv (d : BitVec 3) (a : BitVec 5) (k : BitVec 1) (s : State) : Out :=
  .next (s.vIssue 1 2 fun tl _ => do
    let t1 ← tl.takeSources (pk k) [a] []
    return (t1, [.preg d ((tl.vread a).setWidth 512)], 0))

def execVnop (n : BitVec 5) (s : State) : Out := .next (s.vIssue (n.toNat + 1) (n.toNat + 1) fun tl _ => .ok (tl, [], 0))

def execViota (d a : BitVec 5) (p : BitVec 3) (t : BitVec 4) (k : BitVec 1) (s : State) : Out :=
  .next (s.vIssue 1 2 fun tl _ =>
    let w := tyWidth t
    tl.vmap (pk k) [a] d w false (governed (tl.preg p) w) fun e _ => ((elem w (tl.vread a) 0 + e) % 2 ^ w, 0))

/-- Governed elements whose predicate bit of `x` is 1. -/
def countTrue (x g : PReg) (w : Nat) : Nat := (upto (countOf w)).countP fun e => governed g w e && governed x w e

def execVpop (d : BitVec 5) (a p : BitVec 3) (t : BitVec 4) (s : State) : Out :=
  .next (s.vIssue 1 3 fun tl _ => do
    let t1 ← tl.takeSources false [] [d]
    return (t1, [toDest d (BitVec.ofNat 2048 (countTrue (tl.preg a) (tl.preg p) (tyWidth t)))], 0))

/-! ## Votes, seeds, patches (R178 to R180) -/

/-- Votes in the queue and on their way to it. -/
def Tile.voteCount (t : Tile) : Nat :=
  t.votes.length + t.pending.countP fun p => match p.what with | .vote _ => true | _ => false

/-- A vote to a full queue stalls the stream: a named stall of an exposed block (R146, R178). -/
def State.vVote (s : State) (f : Tile → Bool) : State :=
  match s.block? with
  | none => s
  | some (t, x) =>
    let tl := s.tile t
    let y := tl.stream x
    if y.exposed && !tl.frozenAt y.nextTc && decide (16 ≤ tl.voteCount) then s.onTile t fun u => u.namedStall x
    else s.vIssue 1 2 fun tl _ => if 16 ≤ tl.voteCount then .error .stall else .ok (tl, [.vote (f tl)], 0)

def execVvoteAny (a p : BitVec 3) (t : BitVec 4) (s : State) : Out :=
  .next (s.vVote fun tl => decide (countTrue (tl.preg a) (tl.preg p) (tyWidth t) ≠ 0))
def execVvoteAll (a p : BitVec 3) (t : BitVec 4) (s : State) : Out :=
  .next (s.vVote fun tl =>
    (upto (countOf (tyWidth t))).all fun e => !governed (tl.preg p) (tyWidth t) e || governed (tl.preg a) (tyWidth t) e)

/-- vpatch (R179): the record offset is lane 1, the value lane 0. -/
def execVpatch (a : BitVec 5) (i k : BitVec 4) (s : State) : Out :=
  .next (s.blockIssue 1 1 fun t x s => do
    let tl := s.tile t
    let t1 ← tl.takeSources false [a] []
    let v := tl.vread a
    (s.setTile t t1).doPatch t (some x) (laneOf v 1) (laneOf v 0) k.toNat i.toNat)

def execVseed (a : BitVec 5) (p : BitVec 3) (s : State) : Out :=
  .next (s.vIssue 1 1 fun tl _ => do
    let t1 ← tl.takeSources false [a] []
    let m : BitVec 64 := BitVec.ofNat 64 (((upto 64).map fun i => if governed (tl.preg p) 32 i then 2 ^ i else 0).sum)
    return (t1, [.seeds (tl.vread a) m], 0))

end Sys2Proof.Machine
end

