-- ==== Sys2Proof/Machine/VectorMem.lean ====
section
/-!
DEFINITION. Sys2Proof/Machine/VectorMem.lean: the V stream through windows (R170 to R176) and to the
accumulator (R177).
-/

namespace Sys2Proof.Machine

/-! ## Bytes along dimension 0 from the cursor (R170, R184) -/

/-- The address the window gives for the block's current loop indices. -/
def Use.curAddr (u : Use) : Int := u.addr (u.c 0) (u.c 1) (u.c 2)

/-- The byte at cur + o lies in an element in bounds. -/
def Use.byteIn (u : Use) (o : Int) : Bool :=
  u.image.inBounds (u.c 0 + 8 * o / fmtWidth u.image.fmt) (u.c 1) (u.c 2)

/-- The in-bounds bytes among n from offset o: the first and their number. They are contiguous. -/
def Use.clip (u : Use) (o : Int) (n : Nat) : Nat × Nat :=
  let l := (upto n).filter fun (i : Nat) => u.byteIn (o + i)
  (l.headD 0, l.length)

/-- [a, a + n) cut at 4 KiB boundaries of the virtual address. -/
def pageSpans : Nat → Int → Nat → List (Int × Nat)
  | 0, _, _ => []
  | fuel + 1, a, n =>
    if n = 0 then []
    else
      let k := min n (4096 - vaOf a % 4096)
      (a, k) :: pageSpans fuel (a + k) (n - k)

/-- Bytes through a window that consume errors (R175). -/
def State.winWhole (s : State) (t : BitVec 6) (x : BStream) (u : Use) (a : Int) (n : Nat) : Res (List Byte) :=
  (pageSpans (n / 4096 + 2) a n).foldlM (init := []) fun acc e =>
    match pinPa u.pins (vaOf e.1) with
    | none => .error (.trap causeXlate 0)
    | some (leaf, gpa) => do
      need (!s.refused gpa) causePerm
      let r ← s.readWhole (streamAsker t x) leaf (s.winView t u.image) gpa e.2
      return acc ++ r

def State.winStore (s : State) (t : BitVec 6) (x : BStream) (u : Use) (a : Int) (bs : List Byte) : Res State :=
  (pageSpans (bs.length / 4096 + 2) a bs.length).foldlM (init := s) fun s e =>
    s.winWrite t x u e.1 ((bs.drop (e.1 - a).toNat).take e.2)

/-- n bytes at cur + o; those out of bounds read as zero. -/
def State.readRow (s : State) (t : BitVec 6) (x : BStream) (u : Use) (o : Int) (n : Nat) : Res (List Byte) := do
  let c := u.clip o n
  let bs ← s.winWhole t x u (u.curAddr + o + c.1) c.2
  return List.replicate c.1 0 ++ bs ++ List.replicate (n - c.1 - c.2) 0

/-- Where readRow reads. -/
def Use.keptRow (u : Use) (n : BitVec 5) (o : Int) (len : Nat) : Kept :=
  let c := u.clip o len
  { window := n, pieces := [(c.1, u.curAddr + o + c.1, c.2)] }

/-- Bytes written at cur + o; those out of bounds are dropped. -/
def State.writeRow (s : State) (t : BitVec 6) (x : BStream) (u : Use) (o : Int) (bs : List Byte) : Res State :=
  let c := u.clip o bs.length
  s.winStore t x u (u.curAddr + o + c.1) ((bs.drop c.1).take c.2)

/-- The window of a V memory form: installed, and no plane window (R110, R175). -/
def Tile.vWindow (t : Tile) (x : BStream) (n : BitVec 5) (writer : Bool) : Res Use := do
  let u ← t.useWindow n (t.stream x).idxAt writer
  need (!isIntn u.image.fmt) causeBfault
  return u

/-- The bytes of a register, and back. -/
def regBytes (v : VReg) : List Byte := leBytes 256 v.toNat
def regOf (bs : List Byte) : VReg := BitVec.ofNat 2048 (leNat bs)

/-! ## Landing entries (R236) -/

/-- Results of a load with arrival arr: at once in an interlocked block, through the landing buffer in an exposed
one. An issue that would hold more than 32 entries is BFAULT. -/
def State.landResults (s : State) (t : BitVec 6) (x : BStream) (arr : Nat) (ws : List (Late × Kept)) : Res State :=
  let tl := s.tile t
  let y := tl.stream x
  if !y.exposed then .ok (s.setTile t (ws.foldl (fun tl w => tl.applyLate w.1) tl))
  else if 32 < (tl.pending.countP fun p => p.load) + ws.length then .error (.trap causeBfault 0)
  else
    let late := s.lateNext == some t
    let tl' := ws.foldl (init := if late then tl else tl.performAll x) fun tl w =>
      tl.addPending { due := y.nextTc + arr - 1, stream := x, landed := !late, load := true, what := w.1, kept := some w.2 }
    .ok { s.setTile t tl' with lateNext := none }

/-! ## Loads and stores (R171 to R174) -/

def execVld (d w : BitVec 5) (o r : BitVec 8) (s : State) : Out :=
  .next (s.blockIssue 1 r.toNat fun t x s => do
    let tl ← (s.tile t).takeSources false [] [d]
    let u ← (s.tile t).vWindow x w false
    let off := o.toInt * 256
    need (decide ((u.curAddr + off) % 4 = 0)) causeAlign
    let bs ← s.readRow t x u off 256
    (s.setTile t tl).landResults t x r.toNat [(toDest d (regOf bs), u.keptRow w off 256)])

/-- vldm of 2, 4 or 8 registers: all are written, or on a fault none. -/
def execVldm (d w : BitVec 5) (k : BitVec 2) (o : BitVec 6) (r : BitVec 8) (s : State) : Out :=
  .next (s.blockIssue (2 ^ (k.toNat + 1)) r.toNat fun t x s => do
    let u ← (s.tile t).vWindow x w false
    need (decide ((u.curAddr + o.toInt * 256) % 4 = 0)) causeAlign
    let ws ← (upto (2 ^ (k.toNat + 1))).mapM fun (j : Nat) => do
      let bs ← s.readRow t x u ((o.toInt + j) * 256) 256
      return (Late.vreg (d + BitVec.ofNat 5 j) (regOf bs), u.keptRow w ((o.toInt + j) * 256) 256)
    s.landResults t x r.toNat ws)

def execVst (d w : BitVec 5) (o _r : BitVec 8) (s : State) : Out :=
  .next (s.blockIssue 1 1 fun t x s => do
    let tl := s.tile t
    let tl1 ← tl.takeSources false [d] []
    let u ← tl.vWindow x w true
    let off := o.toInt * 256
    need (decide ((u.curAddr + off) % 4 = 0)) causeAlign
    u.writable
    (s.setTile t tl1).writeRow t x u off (regBytes (tl.vread d)))

/-- The element width of an indexed form (R174). -/
def Use.indexWidth (u : Use) : Res Nat := do
  let w := fmtWidth u.image.fmt
  need (w == 8 || w == 16 || w == 32) causeBfault
  return w

def execVgx (d w xr : BitVec 5) (p : BitVec 3) (r : BitVec 8) (s : State) : Out :=
  .next (s.blockIssue 4 r.toNat fun t x s => do
    let tl := s.tile t
    let tl1 ← tl.takeSources false [xr] [d]
    let u ← tl.vWindow x w false
    let wd ← u.indexWidth
    need (decide (u.curAddr % (wd / 8 : Nat) = 0)) causeAlign
    let old := tl.vold d
    let es ← (upto (countOf wd)).mapM fun (e : Nat) =>
      if e < 64 && governed (tl.preg p) wd e then do
        let k : Int := u.c 0 + laneOf (tl.vread xr) e
        if u.image.inBounds k (u.c 1) (u.c 2) then do
          let bs ← s.winWhole t x u (u.addr k (u.c 1) (u.c 2)) (wd / 8)
          return leNat bs
        else return 0
      else return elem wd old e
    let kept : List (Nat × Int × Nat) := (upto (countOf wd)).filterMap fun (e : Nat) =>
      let k : Int := u.c 0 + laneOf (tl.vread xr) e
      if e < 64 && governed (tl.preg p) wd e && u.image.inBounds k (u.c 1) (u.c 2) then
        some (e * (wd / 8), u.addr k (u.c 1) (u.c 2), wd / 8)
      else none
    (s.setTile t tl1).landResults t x r.toNat [(toDest d (ofElems wd es), { window := w, pieces := kept })])

def execVsx (d w xr : BitVec 5) (p : BitVec 3) (_r : BitVec 8) (s : State) : Out :=
  .next (s.blockIssue 4 4 fun t x s => do
    let tl := s.tile t
    let tl1 ← tl.takeSources false [d, xr] []
    let u ← tl.vWindow x w true
    let wd ← u.indexWidth
    need (decide (u.curAddr % (wd / 8 : Nat) = 0)) causeAlign
    u.writable
    (upto 64).foldlM (init := s.setTile t tl1) fun s (e : Nat) =>
      let k : Int := u.c 0 + laneOf (tl.vread xr) e
      if governed (tl.preg p) wd e && u.image.inBounds k (u.c 1) (u.c 2) then
        s.winStore t x u (u.addr k (u.c 1) (u.c 2)) (leBytes (wd / 8) (elem wd (tl.vread d) e))
      else .ok s)

/-! ## The accumulator (R177) -/

/-- A row at or above the bank's usable rows is XLATE. -/
def State.bankRowOk (s : State) (t : BitVec 6) (b : BitVec 2) (row : Nat) : Res Unit :=
  need (decide (row < s.bankRows t b)) causeXlate

def execVacr (d : BitVec 5) (g : BitVec 3) (b : BitVec 2) (o _r : BitVec 8) (s : State) : Out :=
  .next (s.blockIssue 1 3 fun t x s => do
    let tl := s.tile t
    let tl1 ← tl.takeSources false [] [d]
    s.bankRowOk t b o.toNat
    if (upto 64).any fun j => (tl.bank b).badAt o.toNat (64 * g.toNat + j) then .error (.acc t (256 * b.toNat + o.toNat))
    let v := ofElems 32 ((upto 64).map fun j => ((tl.bank b).get o.toNat (64 * g.toNat + j)).toNat)
    return s.setTile t (tl1.results x 3 [toDest d v] 0))

def execVacw (d : BitVec 5) (g : BitVec 3) (b : BitVec 2) (o _r : BitVec 8) (s : State) : Out :=
  .next (s.blockIssue 1 2 fun t x s => do
    let tl := s.tile t
    let tl1 ← tl.takeSources false [d] []
    s.bankRowOk t b o.toNat
    return s.setTile t (tl1.results x 2 [.acc b o.toNat g.toNat (tl.vread d)] 0))

end Sys2Proof.Machine
end

