-- ==== Sys2Proof/Machine/Matrix.lean ====
section
/-!
DEFINITION. Sys2Proof/Machine/Matrix.lean: the M stream: format words (R190, R191), operand shapes (R192), block
sums (R119, R120, R133 to R137), the plane layout (R189) and the matrix and accumulator commands (R193 to R199).
-/

namespace Sys2Proof.Machine

/-! ## The format word (R190) -/

structure FormatWord where
  raw : Nat
deriving DecidableEq, Repr

def FormatWord.afmt (w : FormatWord) : Nat := bits w.raw 3 0
def FormatWord.bfmt (w : FormatWord) : Nat := bits w.raw 7 4
def FormatWord.ask (w : FormatWord) : Nat := bits w.raw 9 8
def FormatWord.bsk (w : FormatWord) : Nat := bits w.raw 11 10
def FormatWord.plane (w : FormatWord) : Nat := bits w.raw 12 12
def FormatWord.pcnt (w : FormatWord) : Nat := bits w.raw 15 13
def FormatWord.acc (w : FormatWord) : Bool := bits w.raw 16 16 == 1
def FormatWord.iacc (w : FormatWord) : Bool := bits w.raw 17 17 == 1
/-- The format code that DFMT names (R192). -/
def FormatWord.dfmt (w : FormatWord) : Nat := if bits w.raw 20 18 = 7 then 8 else bits w.raw 20 18
def FormatWord.drnd (w : FormatWord) : Nat := bits w.raw 22 21
def FormatWord.dsat (w : FormatWord) : Bool := bits w.raw 23 23 == 1
def FormatWord.raxis (w : FormatWord) : Bool := bits w.raw 24 24 == 1

def isWordFmt (f : Nat) : Bool := [1, 2, 3, 4, 5, 8, 11, 14].contains f
def isIntFmt (f : Nat) : Bool := [8, 11, 12, 14].contains f
def isFloatFmt (f : Nat) : Bool := decide (f ≤ 5)

inductive MatOp where
  | mm | mmp | mmag | mmr
deriving DecidableEq, Repr

/-- The limits of R191 and R136. -/
def FormatWord.ok (w : FormatWord) (op : MatOp) : Bool :=
  bits w.raw 31 25 == 0 &&
  (match op with
   | .mmr => decide (w.afmt ≤ 2) && w.bfmt == 9 && w.ask == 0 && w.bsk == 0 && w.plane == 0 && w.pcnt == 0 && !w.acc && w.iacc
   | .mmp => w.afmt == 8 && (w.bfmt == 12 || (w.bfmt == 13 && w.pcnt == 0)) && decide (w.ask ≤ 2) && decide (w.bsk ≤ 2) &&
      w.plane == 1
   | .mm => isWordFmt w.afmt && isWordFmt w.bfmt && decide (w.ask ≤ 2) && decide (w.bsk ≤ 2) && w.plane == 0 && w.pcnt == 0 &&
      isFloatFmt w.afmt == isFloatFmt w.bfmt
   | .mmag => isWordFmt w.afmt && isWordFmt w.bfmt && decide (w.ask ≤ 2) && w.bsk == 0 && w.plane == 0 && w.pcnt == 0 &&
      isFloatFmt w.afmt == isFloatFmt w.bfmt) &&
  (op == .mmr || !w.iacc || (w.ask == 0 && w.bsk == 0 && isIntFmt w.afmt && isIntFmt w.bfmt))

/-- The oldest format word present at the start of the command's tc; FMTUNF when there is none (R16, R199). -/
def Tile.format (t : Tile) : Res FormatWord :=
  match (if t.m.exposed then t.formatsAt t.m.nextTc else t.formats) with
  | [] => .error (.trap causeFmtunf 0)
  | w :: _ => .ok { raw := w.toNat }

def Tile.popFormat (t : Tile) : Tile := { t with formats := t.formats.tail }

/-! ## Operands -/

/-- An operand window used by the M stream (R188, R192). -/
def State.mWindow (s : State) (t : BitVec 6) (n : BitVec 5) (writer : Bool) : Res Use :=
  (s.tile t).useWindow n (s.tile t).m.idxAt writer

/-- Format and box of an operand window (R192). -/
def Use.shape (u : Use) (fmt e0 e1 : Nat) : Res Unit :=
  need (u.image.extent 2 == 1 && u.image.fmt == fmt && u.image.extent 0 == e0 && u.image.extent 1 == e1) causeBfault

/-! ## Errors that a transfer consumes without a fault (R197, R396, R398) -/

/-- The error met in n bytes at an address of a window: its granule, or its place in another package. -/
def State.badAt (s : State) (t : BitVec 6) (u : Use) (a : Int) (n : Nat) : Bad :=
  match pinPa u.pins (vaOf a) with
  | some (leaf, gpa) =>
    if s.ownPkg gpa then .consumed (granuleOf (s.granuleInError leaf (s.winView t u.image) (localOf gpa) n)) else .lost (tileDie t) gpa
  | none => .stall
/-- The same for one element of a window. -/
def State.badElem (s : State) (t : BitVec 6) (u : Use) (a : Int) : Bad := s.badAt t u a (max 1 (fmtWidth u.image.fmt / 8))

/-- Every consumption writes a record (R398). -/
def State.logBads (s : State) (t : BitVec 6) (bads : List Bad) : State :=
  bads.eraseDups.foldl (fun s b => s.logError (s.tileWriter t).node causePoison b) s

/-- Poison the destination granules of bytes written through a window (R396). -/
def State.poisonWin (s : State) (u : Use) (a : Int) (n : Nat) : State :=
  match pinPa u.pins (vaOf a) with
  | some (_, gpa) => if s.ownPkg gpa then s.poisonRange (localOf gpa) n else s
  | none => s

/-- What a position of an operand window supplies: none when out of bounds; `bad` is the error consumed. -/
structure Cell where
  raw : Option Nat
  bad : Option Bad
deriving DecidableEq, Repr

def Cell.absent : Cell := { raw := none, bad := none }
def rowBads (rows : List (List Cell)) : List Bad := rows.flatMap fun r => r.filterMap (·.bad)

/-- The value bits of an INTN element (R189): bit p is plane p. -/
def State.planeBits (s : State) (t : BitVec 6) (u : Use) (n : Nat) (k0 k1 k2 : Int) : Res Cell :=
  if !u.image.inBounds k0 k1 k2 then .ok Cell.absent
  else do
    let r ← (upto n).mapM fun (p : Nat) => s.winRead t .m u (u.rowAddr k1 k2 + (p * (u.image.bound 0 / 8) : Nat) + k0 / 8) 1
    let bit (b : List Byte × Bool) : Nat := leNat b.1 / 2 ^ (k0 % 8).toNat % 2
    return { raw := some ((r.zipIdx.map fun e => bit e.1 * 2 ^ e.2).sum)
             bad := (r.zipIdx.find? fun e => e.1.2).map fun e => s.badAt t u (u.rowAddr k1 k2 + (e.2 * (u.image.bound 0 / 8) : Nat) + k0 / 8) 1 }

/-- Element at coordinates of an operand window: raw bits, of n planes for INTN. -/
def State.cell (s : State) (t : BitVec 6) (u : Use) (n : Nat) (k0 k1 k2 : Int) : Res Cell :=
  if isIntn u.image.fmt then s.planeBits t u n k0 k1 k2
  else do
    match ← s.readElem t .m u k0 k1 k2 with
    | some (v, b) => return { raw := some v, bad := if b then some (s.badElem t u (u.addr k0 k1 k2)) else none }
    | none => return Cell.absent

/-- A row of w cells at box position (x0, ·), x0 = 0 … w − 1, of box row x1. -/
def State.cellRow (s : State) (t : BitVec 6) (u : Use) (n w : Nat) (x1 : Int) : Res (List Cell) :=
  (upto w).mapM fun (x0 : Nat) => s.cell t u n (u.c 0 + x0) (u.c 1 + x1) (u.c 2)

/-- The exact value of an operand element (R116, R189, R193). -/
def operandVal (fmt n : Nat) (raw : Nat) : Val :=
  if isIntn fmt then
    let v : Int := if n = 1 then (if raw = 0 then 1 else -1) else toSigned n raw
    .fin (decide (v < 0)) v.natAbs 1
  else (elemOf fmt).value false raw

/-- One element under its scale (R120); elements that are not there are +0 whatever the scale (R119). -/
def scaledVal (kind : Nat) (scale : Option Nat) (v : Val) : Val × Flags :=
  match scale with
  | none => (v, 0)
  | some code =>
    if kind = 0 then (v, 0)
    else match scaleVal kind code, v with
      | .nan _, _ => (.nan false, flagNV)
      | _, .nan b => (.nan b, 0)
      | .fin _ 0 _, .inf _ => (.nan false, flagNV)
      | .fin _ 0 _, .fin neg _ _ => (.fin neg 0 1, 0)
      | _, .inf neg => (.inf neg, 0)
      | .fin _ n d, .fin neg n' d' => (.fin neg (n * n') (d * d'), 0)
      | _, .fin neg n' d' => (.fin neg n' d', 0)

/-- The raw bits at a place of a line. -/
def rawAt (l : List Cell) (i : Nat) : Option Nat := (l[i]?).bind Cell.raw

/-- A line of an operand along K, its blocks of sixteen scaled values, with the flags of scaling; none is an element that R119
supplies. -/
def operandLine (fmt n kind : Nat) (line scales : List Cell) : List (List (Option Val)) × Flags :=
  let blocks := (upto (ceilDiv line.length 16)).map fun kb =>
    (upto 16).map fun i => match rawAt line (16 * kb + i) with
      | some raw => let v := scaledVal kind (rawAt scales kb) (operandVal fmt n raw)
                    (some v.1, v.2)
      | none => (none, (0 : Flags))
  (blocks.map fun b => b.map (·.1), blocks.foldl (fun f b => b.foldl (fun f x => f ||| x.2) f) 0)

/-! ## Block sums (R134 to R136) -/

/-- A sum of exact dyadic fractions. -/
def addFrac (a b : Int × Nat) : Int × Nat :=
  let m := max a.2 b.2
  (a.1 * (m / a.2 : Nat) + b.1 * (m / b.2 : Nat), m)

/-- A product of R134. An element that R119 supplies is exact +0, so an infinity or NaN against it follows R135 (DEDUCED, log 35). -/
def mulOpt (a b : Option Val) : Val × Flags := mulVal (a.getD (.fin false 0 1)) (b.getD (.fin false 0 1))

/-- S of R134 for one block, with the special values of R135. -/
def blockSum (a b : List (Option Val)) : Val × Flags :=
  let ps := List.zipWith mulOpt a b
  let fl : Flags := ps.foldl (fun f p => f ||| p.2) 0
  let vs := ps.map (·.1)
  let pos := vs.any fun v => v == .inf false
  let neg := vs.any fun v => v == .inf true
  if pos && neg then (.nan false, fl ||| flagNV)
  else if vs.any Val.isNan then (.nan false, fl)
  else if pos || neg then (.inf neg, fl)
  else
    let t := vs.foldl (fun acc v => addFrac acc v.frac) ((0 : Int), 1)
    if t.1 = 0 then (.fin (vs.all fun v => v.neg && v.isZero) 0 1, fl)
    else (.fin (decide (t.1 < 0)) t.1.natAbs t.2, fl)

def rne32 (v : Val) : Nat × Flags := f32.convert 0 false false 0 v

/-- acc after all blocks of one element (R134). -/
def accumulate (acc : Bool) (old : Nat) (a b : List (List (Option Val))) : Nat × Flags :=
  let r := (List.zip a b).zipIdx.foldl (init := (old, (0 : Flags))) fun st e =>
    let sum := blockSum e.1.1 e.1.2
    let v := if e.2 = 0 ∧ !acc then (sum.1, (0 : Flags)) else addVal 0 (f32.value false st.1) sum.1
    let y := rne32 v.1
    (y.1, st.2 ||| sum.2 ||| v.2 ||| y.2)
  r

/-- The same with integer accumulation (R136): wraps, and sets no flag. -/
def accumulateInt (acc : Bool) (old : Nat) (a b : List (List (Option Val))) : Nat :=
  let s : Int := ((List.zip a b).map fun e =>
    ((List.zipWith (fun x y => (mulOpt x y).1.frac.1) e.1 e.2).foldl (· + ·) 0)).foldl (· + ·) 0
  ofSigned 32 ((if acc then (old : Int) else 0) + s)

/-! ## Writing the bank -/

/-- Rows of a bank replaced from column 0, and marked dirty. -/
def Tile.putRows (t : Tile) (b : BitVec 2) (row : Nat) (rows : List (List Nat)) : Tile :=
  rows.zipIdx.foldl (init := t) fun t r =>
    let bank := r.1.zipIdx.foldl (fun bk e => bk.put (row + r.2) e.2 (BitVec.ofNat 32 e.1)) ((t.bank b).clean (row + r.2) 0 r.1.length)
    (t.setBank b bank).markAcc b (row + r.2)

def Tile.onBank (t : Tile) (b : BitVec 2) (f : Bank → Bank) : Tile := t.setBank b (f (t.bank b))

/-- The marker of a bank write in flight, for the bubble of R198. -/
def Tile.bankDue (t : Tile) (b : BitVec 2) (l : Nat) : Tile :=
  if t.m.exposed then
    t.addPending { due := t.m.nextTc + l - 1, stream := .m, landed := true, load := false, what := .bank b, kept := none }
  else t

/-- Issue of an accumulating or loading command. -/
def State.mIssue (s : State) (b : BitVec 2) (c l : Nat) (f : BitVec 6 → State → Res State) : State :=
  s.blockIssue c l fun t _ s => do
    let s1 ← f t s
    return s1.onTile t fun u => u.bankDue b l

/-- Issue of a command that drains a bank: not before the bank's writes in flight (R198). -/
def State.mDrain (s : State) (b : BitVec 2) (c : Nat) (f : BitVec 6 → State → Res State) : State :=
  match s.block? with
  | none => s
  | some (t, x) =>
    let tl := s.tile t
    let y := tl.stream x
    let due := tl.pending.foldl (fun m p => if p.what = .bank b then max m (p.due + 1) else m) 0
    if y.exposed && !tl.frozenAt y.nextTc && decide (y.nextTc < due) then
      s.onTile t fun u => u.onStream x fun y => { y with nextTc := due }
    else s.blockIssue c c fun t _ s => f t s

/-! ## mm, mmp, mmag (R193, R194) -/

/-- E0, E1 of a window as the command will read them at its issue. -/
def State.mExtent (s : State) (n : BitVec 5) (d : Nat) : Nat :=
  match s.block? with
  | some (t, _) => match (s.tile t).window n with
    | some w => w.image.extent d
    | none => 1
  | none => 1

/-- P of R198. -/
def mmRate (w : FormatWord) : Nat :=
  if w.plane = 1 then (if w.bfmt = 13 then 512 else 2048 / (w.pcnt + 1))
  else
    let m := max (fmtWidth w.afmt) (fmtWidth w.bfmt)
    if m = 16 then 128 else if m = 8 then 256 else 512

def State.mmCost (s : State) (op : MatOp) (a b : BitVec 5) : Nat :=
  let w : FormatWord := match s.block? with
    | some (t, _) => { raw := ((s.tile t).formats.headD 0).toNat }
    | none => { raw := 0 }
  let k16 := 16 * ceilDiv (s.mExtent a 0) 16
  let p := mmRate w
  let c := max 8 (if w.plane = 1 ∧ w.bfmt = 12 then ceilDiv (s.mExtent b 0 * k16 * (w.pcnt + 1)) 2048 else ceilDiv (s.mExtent b 0 * k16) p)
  if op = .mmag then c + 16 else c

/-- Rows 16o … 16o + m − 1 lie in the bank's usable rows (R192, R199). -/
def State.mRows (s : State) (t : BitVec 6) (b : BitVec 2) (o m : Nat) : Res Unit :=
  need (decide (16 * o + m ≤ s.bankRows t b)) causeXlate

/-- The columns of B for a row offset: blocks and flags by column. -/
def State.bColumns (s : State) (t : BitVec 6) (w : FormatWord) (ub : Use) (us : Option Use) (n k koff : Nat) :
    Res (List (List (List (Option Val))) × Flags × List Bad) := do
  let planes := w.pcnt + 1
  let rows ← (upto k).mapM fun (i : Nat) => s.cellRow t ub planes n ((koff + i : Nat) : Int)
  let scales ← match us with
    | some u => (upto (ceilDiv k 16)).mapM fun (i : Nat) => s.cellRow t u 1 n (i : Int)
    | none => .ok []
  let cols := (upto n).map fun j =>
    operandLine w.bfmt planes w.bsk (rows.map fun r => r[j]?.getD Cell.absent)
      (scales.map fun r => r[j]?.getD Cell.absent)
  return (cols.map (·.1), cols.foldl (fun f c => f ||| c.2) 0, rowBads (rows ++ scales))

/-- A scale window, when its kind says it is accessed. -/
def State.scaleUse (s : State) (t : BitVec 6) (kind : Nat) (n : BitVec 5) (e0 e1 : Nat) : Res (Option Use) :=
  if kind = 0 then .ok none
  else do
    let u ← s.mWindow t n false
    u.shape 11 e0 e1
    return some u

/-- A use of an INTN window needs c0 to be a multiple of 8 (R189). -/
def Use.planeOk (u : Use) : Res Unit := need (!isIntn u.image.fmt || decide (u.c 0 % 8 = 0)) causeBfault

/-- A line without the elements that mmag gives no B row: they contribute nothing (R194). -/
def maskLine (outside : Nat → Bool) (l : List (List (Option Val)) × Flags) : List (List (Option Val)) × Flags :=
  (l.1.zipIdx.map fun b => b.1.zipIdx.map fun e => if outside (16 * b.2 + e.2) then none else e.1, l.2)

/-- mm, mmp and mmag (R193). A row of mmag whose adapter lies outside the bounds gets no contribution and no flag (R194). -/
def State.matMul (s : State) (op : MatOp) (t : BitVec 6) (k : BitVec 2) (a b sa sb : BitVec 5) (o : BitVec 4) : Res State := do
  let w ← (s.tile t).format
  need (w.ok op) causeBfault
  let ua ← s.mWindow t a false
  let ub ← s.mWindow t b false
  let kk := ua.image.extent 0
  let m := ua.image.extent 1
  let n := ub.image.extent 0
  ua.shape w.afmt kk m
  ub.shape w.bfmt n kk
  ub.planeOk
  let usa ← s.scaleUse t w.ask sa (ceilDiv kk 16) m
  let usb ← s.scaleUse t w.bsk sb n (ceilDiv kk 16)
  let ux : Option Use ← if op = .mmag then do
      let u ← s.mWindow t sb false
      need (u.image.fmt == 10 || u.image.fmt == 9) causeBfault
      u.shape u.image.fmt m 1
      pure (some u)
    else pure none
  need (decide (16 * o.toNat + m ≤ 256) && decide (n ≤ 512)) causeBfault
  s.mRows t k o.toNat m
  let arows ← (upto m).mapM fun (i : Nat) => s.cellRow t ua 1 kk (i : Int)
  let ascale ← match usa with
    | some u => (upto m).mapM fun (i : Nat) => s.cellRow t u 1 (ceilDiv kk 16) (i : Int)
    | none => .ok []
  let xs ← match ux with
    | some u => s.cellRow t u 1 m 0
    | none => .ok []
  let shared ← if op = .mmag then .ok ([], (0 : Flags), []) else s.bColumns t w ub usb n kk 0
  let bank := (s.tile t).bank k
  let rows ← (upto m).mapM fun (i : Nat) => do
    let x := match xs[i]? with | some c => c.raw.getD 0xFFFFFFFF | none => 0
    let cols ← if op = .mmag then s.bColumns t w ub none n kk (kk * x) else .ok shared
    let outside (j : Nat) : Bool := op == .mmag && !(decide (0 ≤ ub.c 1 + (kk * x + j : Nat)) && decide (ub.c 1 + (kk * x + j : Nat) < ub.image.bound 1))
    let alone := op == .mmag && (upto kk).all outside
    let line := maskLine outside (operandLine w.afmt 1 w.ask (arows[i]?.getD []) (ascale[i]?.getD []))
    let vals := cols.1.zipIdx.map fun c =>
      let old := (bank.get (16 * o.toNat + i) c.2).toNat
      if w.iacc then (accumulateInt w.acc old line.1 c.1, (0 : Flags)) else accumulate w.acc old line.1 c.1
    let fl := if alone then (0 : Flags) else vals.foldl (fun f v => f ||| v.2) (if w.iacc then (0 : Flags) else line.2 ||| cols.2.1)
    return (vals.map (·.1), fl, cols.2.2)
  let accBads := if w.acc then (bank.badRows (16 * o.toNat) m n).map fun r => Bad.acc t (256 * k.toNat + r) else []
  let bads := shared.2.2 ++ rowBads (xs :: arows ++ ascale) ++ rows.flatMap (·.2.2) ++ accBads
  let fl : Flags := rows.foldl (fun f r => f ||| r.2.1) 0
  return (s.logBads t bads).onTile t fun u =>
    ((u.popFormat).putRows k (16 * o.toNat) (rows.map (·.1))).onBank k fun bk =>
      { bk with flags := bk.flags ||| fl, poison := bk.poison || !bads.isEmpty }

def State.mmIssue (s : State) (op : MatOp) (k : BitVec 2) (a b sa sb : BitVec 5) (o : BitVec 4) : State :=
  let c := s.mmCost op a b
  s.mIssue k c (c + 24) fun t s => s.matMul op t k a b sa sb o

def execMm (k : BitVec 2) (a b sa sb : BitVec 5) (o : BitVec 4) (s : State) : Out := .next (s.mmIssue .mm k a b sa sb o)
def execMmp (k : BitVec 2) (a b sa sb : BitVec 5) (o : BitVec 4) (s : State) : Out := .next (s.mmIssue .mmp k a b sa sb o)
def execMmag (k : BitVec 2) (a b sa sb : BitVec 5) (o : BitVec 4) (s : State) : Out := .next (s.mmIssue .mmag k a b sa sb o)

/-! ## mmr (R195) -/

/-- before(x, y) for scores with their indices. -/
def scoreBefore (x : Val) (i : Nat) (y : Val) (j : Nat) : Bool :=
  match x.isNan, y.isNan with
  | true, true => decide (i < j)
  | true, false => false
  | false, true => true
  | false, false => ltVal y x || (!ltVal x y && decide (i < j))

def rankOf (xs : List Val) (i : Nat) : Nat :=
  xs.zipIdx.countP fun e => scoreBefore e.1 e.2 (xs[i]?.getD (.nan false)) i

/-- The rank word of one score among its axis. -/
def rankWord (xs : List Val) (i kk : Nat) : Nat :=
  let r := rankOf xs i
  r + (if r < kk then 2 ^ 31 else 0)

def State.rank (s : State) (t : BitVec 6) (k : BitVec 2) (a b : BitVec 5) (o : BitVec 4) : Res State := do
  let w ← (s.tile t).format
  need (w.ok .mmr) causeBfault
  let ua ← s.mWindow t a false
  let uk ← s.mWindow t b false
  let n := ua.image.extent 0
  let m := ua.image.extent 1
  ua.shape w.afmt n m
  uk.shape 9 (if w.raxis then n else m) 1
  need (decide (16 * o.toNat + m ≤ 256) && decide (n ≤ 512)) causeBfault
  s.mRows t k o.toNat m
  let cells ← (upto m).mapM fun (i : Nat) => s.cellRow t ua 1 n (i : Int)
  let ks ← s.cellRow t uk 1 (if w.raxis then n else m) 0
  let flush := (s.tile t).m.exposed
  let vals := cells.map fun r => r.map fun c => match c.raw with
    | some v => (elemOf w.afmt).value flush v
    | none => .nan false
  let kOf (i : Nat) : Nat := match ks[i]? with | some c => c.raw.getD 0 | none => 0
  let rows := if w.raxis then
      (upto m).map fun i => (upto n).map fun j => rankWord (vals.map fun r => r[j]?.getD (.nan false)) i (kOf j)
    else vals.zipIdx.map fun r => (upto n).map fun j => rankWord r.1 j (kOf r.2)
  let sig := vals.any fun r => r.any Val.signals
  let bads := rowBads (ks :: cells)
  return (s.logBads t bads).onTile t fun u =>
    ((u.popFormat).putRows k (16 * o.toNat) rows).onBank k fun bk =>
      { bk with flags := bk.flags ||| flagIf sig flagNV, poison := bk.poison || !bads.isEmpty }

def execMmr (k : BitVec 2) (a b : BitVec 5) (o : BitVec 4) (s : State) : Out :=
  .next (let c := max 8 (2 * max (s.mExtent a 1) (s.mExtent a 0))
    s.mIssue k c (c + 16) fun t s => s.rank t k a b o)

/-! ## The accumulator commands (R196) -/

def execAcz (k : BitVec 2) (s : State) : Out :=
  .next (s.mIssue k 2 4 fun t s => .ok (s.onTile t fun u =>
    (upto 256).foldl (fun u r => u.markAcc k r) (u.onBank k fun bk => { bk with cells := [], poison := false, bad := [] })))

/-- Box limits of acl and acs (R192). -/
def Use.accShape (u : Use) (o : Nat) : Res Unit :=
  need (u.image.extent 2 == 1 && decide (u.image.extent 0 ≤ 512) && decide (u.image.extent 1 + 16 * o ≤ 256)) causeBfault

def execAcl (k : BitVec 2) (a : BitVec 5) (o : BitVec 4) (s : State) : Out :=
  .next (let c := max 1 (s.mExtent a 1)
    s.mIssue k c (c + 6) fun t s => do
      let u ← s.mWindow t a false
      need (u.image.fmt == 0 || u.image.fmt == 6 || u.image.fmt == 9) causeBfault
      u.accShape o.toNat
      s.mRows t k o.toNat (u.image.extent 1)
      let rows ← (upto (u.image.extent 1)).mapM fun (i : Nat) => s.cellRow t u 1 (u.image.extent 0) (i : Int)
      let bads := rowBads rows
      return (s.logBads t bads).onTile t fun tl =>
        (tl.putRows k (16 * o.toNat) (rows.map fun r => r.map fun c => c.raw.getD 0)).onBank k fun bk =>
          { bk with poison := !bads.isEmpty })

/-- One drained value: bits and flags (R133, R196). -/
def drainElem (w : FormatWord) (exposed : Bool) (draw x : Nat) : Nat × Flags :=
  let dst := elemOf w.dfmt
  if w.iacc then
    if w.dfmt = 6 then (x, 0) else convertElem (.int true 32) dst w.drnd w.dsat exposed draw x
  else
    let tiny := exposed && bits x 30 23 == 0 && bits x 22 0 != 0
    let y := if tiny then x / 2 ^ 31 * 2 ^ 31 else x
    let f := flagIf tiny (flagUF ||| flagNX)
    if w.dfmt = 0 then (y, f)
    else
      let r := convertElem (.float f32) dst w.drnd w.dsat exposed draw y
      (r.1, f ||| r.2)

/-- Every element of a box in bounds lies where the destination window may be written: check 5 of R199. -/
def State.boxWritable (s : State) (u : Use) (ps : List (Nat × Nat × Nat)) : Res Unit := do
  u.writable
  need (ps.all fun p =>
    !u.image.inBounds (u.c 0 + p.1) (u.c 1 + p.2.1) (u.c 2 + p.2.2) ||
    (match pinPa u.pins (vaOf (u.addr (u.c 0 + p.1) (u.c 1 + p.2.1) (u.c 2 + p.2.2))) with
     | some (leaf, gpa) => leaf.w && !s.refused gpa
     | none => true)) causePerm

/-- acs (R196). All its draws fall at its issue tc, the V position of that tc before them (R125; DEDUCED, log 35). -/
def State.drain (s : State) (t : BitVec 6) (k : BitVec 2) (a : BitVec 5) (o : BitVec 4) : Res State := do
  let w ← (s.tile t).format
  need (bits w.raw 31 25 == 0) causeBfault
  let u ← s.mWindow t a true
  need (u.image.fmt == w.dfmt) causeBfault
  u.accShape o.toNat
  s.mRows t k o.toNat (u.image.extent 1)
  s.boxWritable u u.image.positions
  let tl := s.tile t
  let bads := ((tl.bank k).badRows (16 * o.toNat) (u.image.extent 1) (u.image.extent 0)).map fun r => Bad.acc t (256 * k.toNat + r)
  let bank := { tl.bank k with poison := (tl.bank k).poison || !bads.isEmpty }
  let r ← u.image.positions.foldlM (init := (s.logBads t bads, tl.seeds, (0 : Flags))) fun acc p =>
    if !u.image.inBounds (u.c 0 + p.1) (u.c 1 + p.2.1) (u.c 2 + p.2.2) then .ok acc
    else do
      let d := if w.drnd = 2 then drawLane acc.2.1 (p.1 % 64) else (acc.2.1, 0)
      let y := drainElem w tl.m.exposed d.2 (bank.get (16 * o.toNat + p.2.1) p.1).toNat
      let s' ← acc.1.writeBox t .m u p y.1 bank.poison
      let a := u.addr (u.c 0 + p.1) (u.c 1 + p.2.1) (u.c 2 + p.2.2)
      return (if bank.poison then s'.1.poisonWin u a s'.2 else s'.1, d.1, acc.2.2 ||| y.2)
  let sound := if bank.poison then [] else
    (u.image.positions.filter fun p => u.image.inBounds (u.c 0 + p.1) (u.c 1 + p.2.1) (u.c 2 + p.2.2)).map fun p =>
      u.addr (u.c 0 + p.1) (u.c 1 + p.2.1) (u.c 2 + p.2.2)
  return (r.1.clearPieces u.image.pieceBytes (s.ownPlaces u sound)).onTile t fun tl =>
    let tl := ({ tl.popFormat with seeds := r.2.1 }).onBank k fun bk => { bk.raiseFlags r.2.2 with poison := bank.poison }
    if bank.poison then tl.onStream .m fun y => { y with consumed := true } else tl

def execAcs (k : BitVec 2) (a : BitVec 5) (o : BitVec 4) (s : State) : Out :=
  .next (s.mDrain k (max 1 (ceilDiv (s.mExtent a 0 * s.mExtent a 1) 256)) fun t s => s.drain t k a o)

def execAcf (k : BitVec 2) (a : BitVec 5) (s : State) : Out :=
  .next (s.mDrain k 1 fun t s => do
    let u ← s.mWindow t a true
    need (u.image.fmt == 9) causeBfault
    s.boxWritable u [(0, 0, 0)]
    let bank := (s.tile t).bank k
    if !u.image.inBounds (u.c 0) (u.c 1) (u.c 2) then return s
    else do
      let s' ← s.writeBox t .m u (0, 0, 0) (b2n bank.poison * 2 ^ 31 + bank.flags.toNat)
      return s'.1.onTile t fun u => u.onBank k fun bk => { bk with flags := 0 })

end Sys2Proof.Machine
end

