-- ==== Sys2Proof/Machine/Transfer.lean ====
section
/-!
DEFINITION. Sys2Proof/Machine/Transfer.lean: the L and S streams (R200 to R207): copies of boxes, gather and
scatter, queue fills and drains, reductions, broadcast and plane packing.
-/

namespace Sys2Proof.Machine

/-! ## Running transfers -/

/-- What a transfer has done so far: the state, the addresses of the elements it wrote, the errors consumed, and the
addresses it wrote without error. -/
structure Moved where
  st : State
  at_ : List Int
  bads : List Bad
  sound : List Int

def Moved.start (s : State) (bads : List Bad) : Moved := { st := s, at_ := [], bads := bads, sound := [] }
/-- The state after all its writes (R396). -/
def Moved.settle (m : Moved) (u : Use) : State := m.st.clearPieces u.image.pieceBytes (m.st.ownPlaces u m.sound)

/-- The element width of an L- or S-stream window; INTN is accepted only where an entry says so (R110). -/
def Use.plainWidth (u : Use) : Res Nat := do
  need (!isIntn u.image.fmt) causeBfault
  return fmtWidth u.image.fmt

/-- Bytes that elements of width w at these addresses take: the two nibbles of a byte are one byte. -/
def bytesAt (w : Nat) (l : List Int) : Nat := if w = 4 then l.eraseDups.length else l.length * (w / 8)

/-- Box size in bytes (R206); the planes of an INTN box are n. -/
def Image.boxBytes (w : Image) (n : Nat) : Nat := ceilDiv (w.boxCount * (if isIntn w.fmt then n else fmtWidth w.fmt)) 8

/-- Issue cost of R206 for two window fields. -/
def State.xferCost (s : State) (d x : BitVec 5) (n : Nat) : Nat :=
  match s.block? with
  | none => 1
  | some (t, _) =>
    let size (k : BitVec 5) : Nat := match (s.tile t).window k with | some w => Image.boxBytes w.image n | none => 0
    max 1 (ceilDiv (max (size d) (size x)) 256)

def State.xWindow (s : State) (t : BitVec 6) (x : BStream) (n : BitVec 5) (writer : Bool) : Res Use :=
  (s.tile t).useWindow n ((s.tile t).stream x).idxAt writer

/-- The source element at coordinates. -/
def State.xCell (s : State) (t : BitVec 6) (x : BStream) (u : Use) (k0 k1 k2 : Int) : Res Cell := do
  match ← s.readElem t x u k0 k1 k2 with
  | some (v, b) => return { raw := some v, bad := if b then some (s.badElem t u (u.addr k0 k1 k2)) else none }
  | none => return Cell.absent

/-- Write one element of the destination, poisoned when its source was in error (R396). -/
def Moved.write (m : Moved) (t : BitVec 6) (x : BStream) (u : Use) (k0 k1 k2 : Int) (v : Nat) (bad : Option Bad) : Res Moved := do
  let r ← m.st.writeElem t x u k0 k1 k2 v bad.isSome
  let a := u.addr k0 k1 k2
  let s1 := if bad.isSome then r.1.poisonWin u a r.2 else r.1
  return { st := s1
           at_ := if r.2 = 0 then m.at_ else a :: m.at_
           bads := match bad with | some b => b :: m.bads | none => m.bads
           sound := if r.2 = 0 ∨ bad.isSome then m.sound else a :: m.sound }

/-- An arrival that the S stream of a tile delivers at a landing word of tile o: at once in its own store, at the port of another
tile, behind its writes in another package (R187, R417). -/
def State.arriveFrom (s : State) (t o : BitVec 6) (gpa n : Nat) (e : Bool) : State :=
  if s.ownPkg gpa ∧ o = t then s.takeLanding (localOf gpa) n e
  else s.arriveAt (s.tileWriter t) (tileDie t) (streamAsker t .s) 3 gpa n e

/-- What follows a transfer: the records of its errors, the mark that the block consumed one (R197), and the arrival of
a tagged S-stream write of n bytes (R187). -/
def State.xEnd (s : State) (t : BitVec 6) (x : BStream) (u : Use) (n : Nat) (bads : List Bad) : State :=
  let s1 := s.logBads t bads
  let s2 := if bads.isEmpty then s1 else s1.onTile t fun tl => tl.onStream x fun y => { y with consumed := true }
  match x, u.landing with
  | .s, some (gpa, o) => if n = 0 then s2 else s2.arriveFrom t o gpa n (!bads.isEmpty)
  | _, _ => s2

/-! ## cpy, cpyz, lwr, bcst (R201) -/

inductive CopyKind where
  | cpy | cpyz | lwr | bcst
deriving DecidableEq, Repr

/-- Equal numbers of positions, formats of one width, neither INTN. -/
def copyShape (d x : Use) : Res Unit := do
  let wd ← d.plainWidth
  let wx ← x.plainWidth
  need (wd == wx && d.image.boxCount == x.image.boxCount) causeBfault

/-- The usable tiles of a tile's cluster other than itself. -/
def State.neighbours (s : State) (t : BitVec 6) : List (BitVec 6) :=
  ((upto 4).map fun j => clusterTile (tileCluster t) (BitVec.ofNat 2 j)).filter fun u => u != t && s.tileUsable u

/-- One element of width w at a store offset of another tile of the cluster; dropped where the offset names no storage. -/
def State.writeNeighbour (s : State) (t o : BitVec 6) (leaf : Leaf) (off w : Nat) (high : Bool) (v : Nat) : Res State :=
  let pa := storeAddr o off
  if !s.storage pa then .ok s
  else if w = 4 then
    let old := (s.byte pa).toNat
    s.writeLocal (s.tileWriter t) leaf pa [BitVec.ofNat 8 (if high then v % 16 * 16 + old % 16 else old / 16 * 16 + v % 16)]
  else s.writeLocal (s.tileWriter t) leaf pa (leBytes (w / 8) v)

/-- Tile o stores a broadcast element that tile t has at an address of its window. -/
def State.storedAt (s : State) (t o : BitVec 6) (u : Use) (a : Int) : Bool :=
  match pinPa u.pins (vaOf a) with
  | some (_, gpa) => s.storage (storeAddr o (localOf gpa - storeAddr t 0))
  | none => false

/-- The same element in every other usable tile of the cluster. -/
def Moved.spread (m : Moved) (t : BitVec 6) (u : Use) (k0 k1 k2 : Int) (v : Nat) (bad : Option Bad) : Res Moved :=
  if !u.image.inBounds k0 k1 k2 then .ok m
  else match pinPa u.pins (vaOf (u.addr k0 k1 k2)) with
    | none => .ok m
    | some (leaf, gpa) => do
      let off := localOf gpa - storeAddr t 0
      let w := fmtWidth u.image.fmt
      let s' ← (m.st.neighbours t).foldlM (init := m.st) fun s o => do
        let s1 ← s.writeNeighbour t o leaf off w (k0 % 2 != 0) v
        return if bad.isSome && s.storage (storeAddr o off) then s1.poisonRange (storeAddr o off) (max 1 (w / 8)) else s1
      return { m with st := s' }

def State.copyBox (s : State) (kind : CopyKind) (t : BitVec 6) (x : BStream) (wd ws : BitVec 5) : Res State := do
  let d ← s.xWindow t x wd true
  let u ← s.xWindow t x ws false
  copyShape d u
  need (kind != .lwr || d.image.lwt) causeBfault
  need (kind != .bcst || reachStore d.pins d.image.reach == some (s.fabric.pkg.toNat, t)) causeBfault
  d.writable
  let m ← (d.image.positions.zip u.image.positions).foldlM (init := Moved.start s []) fun m p => do
    let c ← m.st.xCell t x u (u.c 0 + p.2.1) (u.c 1 + p.2.2.1) (u.c 2 + p.2.2.2)
    let v : Option Nat := if kind = .cpy then c.raw else some (c.raw.getD 0)
    match v with
    | none => return m
    | some v =>
      let m1 ← m.write t x d (d.c 0 + p.1.1) (d.c 1 + p.1.2.1) (d.c 2 + p.1.2.2) v c.bad
      if kind = .bcst then m1.spread t d (d.c 0 + p.1.1) (d.c 1 + p.1.2.1) (d.c 2 + p.1.2.2) v c.bad else return m1
  let n := if kind = .lwr then d.image.boxBytes 0 else bytesAt (fmtWidth d.image.fmt) m.at_
  let spread := if kind = .bcst then m.st.neighbours t else []
  let s0 := spread.foldl (init := m.settle d) fun (s : State) o =>
    s.clearPieces d.image.pieceBytes ((s.ownPlaces d m.sound).map fun p => p - storeAddr t 0 + storeAddr o 0)
  let s1 := s0.xEnd t x d n m.bads
  if kind = .bcst ∧ d.image.lwt then
    return (m.st.neighbours t).foldl (fun s o =>
      let k := bytesAt (fmtWidth d.image.fmt) (m.at_.filter (s.storedAt t o d))
      if k = 0 then s else s.arriveFrom t o (s.group (storeAddr o (d.image.lwtag * 16))) k (!m.bads.isEmpty)) s1
  else return s1

def State.copyIssue (s : State) (kind : CopyKind) (d x : BitVec 5) : State :=
  let c := s.xferCost d x 0
  s.blockIssue c c fun t y s => s.copyBox kind t y d x

def execCpy (d x : BitVec 5) (s : State) : Out := .next (s.copyIssue .cpy d x)
def execCpyz (d x : BitVec 5) (s : State) : Out := .next (s.copyIssue .cpyz d x)
def execBcst (d x : BitVec 5) (s : State) : Out := .next (s.copyIssue .bcst d x)
def execLwr (d x : BitVec 5) (s : State) : Out := .next (s.copyIssue .lwr d x)

/-! ## gath and scat (R202) -/

/-- Index y of an index window of r elements, in linear order. -/
def State.indexCells (s : State) (t : BitVec 6) (x : BStream) (u : Use) (r : Nat) : Res (List Cell) := do
  need ((u.image.fmt == 10 || u.image.fmt == 9) && u.image.boxCount == r) causeBfault
  u.image.positions.mapM fun p => s.xCell t x u (u.c 0 + p.1) (u.c 1 + p.2.1) (u.c 2 + p.2.2)

def State.rowMove (s : State) (gather : Bool) (t : BitVec 6) (x : BStream) (wd ws wx : BitVec 5) : Res State := do
  let d ← s.xWindow t x wd true
  let u ← s.xWindow t x ws false
  let k ← s.xWindow t x wx false
  let w1 ← d.plainWidth
  let w2 ← u.plainWidth
  need (w1 == w2 && d.image.extent 0 == u.image.extent 0) causeBfault
  let side := if gather then d else u
  let rows := side.image.extent 1 * side.image.extent 2
  let xs ← s.indexCells t x k rows
  d.writable
  let e0 := d.image.extent 0
  let m ← (xs.zipIdx).foldlM (init := Moved.start s (rowBads [xs])) fun m r =>
    let y1 : Int := (r.2 % side.image.extent 1 : Nat)
    let y2 : Int := (r.2 / side.image.extent 1 : Nat)
    (upto e0).foldlM (init := m) fun m (x0 : Nat) =>
      match gather, r.1.raw with
      | true, none => m.write t x d (d.c 0 + x0) (d.c 1 + y1) (d.c 2 + y2) 0 none
      | true, some i => do
        let c ← m.st.xCell t x u (u.c 0 + x0) (u.c 1 + i) (u.c 2)
        m.write t x d (d.c 0 + x0) (d.c 1 + y1) (d.c 2 + y2) (c.raw.getD 0) c.bad
      | false, none => .ok m
      | false, some i => do
        let c ← m.st.xCell t x u (u.c 0 + x0) (u.c 1 + y1) (u.c 2 + y2)
        let open_ := (Config.openResult 202 x0 (r.2 + 2 ^ 20 * i)).toNat
        m.write t x d (d.c 0 + x0) (d.c 1 + i) (d.c 2) (c.raw.getD open_) c.bad
  return (m.settle d).xEnd t x d (bytesAt w1 m.at_) m.bads

def execGath (d x i : BitVec 5) (s : State) : Out :=
  .next (let c := s.xferCost d x 0
    s.blockIssue c c fun t y s => s.rowMove true t y d x i)
def execScat (d x i : BitVec 5) (s : State) : Out :=
  .next (let c := s.xferCost d x 0
    s.blockIssue c c fun t y s => s.rowMove false t y d x i)

/-! ## qfill and qdrain (R203, R238) -/

/-- The V stream is in an exposed block, or has faulted in it in this tc (R243). -/
def Tile.vExposed (t : Tile) : Bool :=
  t.v.exposedRun || (decide (t.v.state = .faulted) && t.v.exposed && (t.trapping.map (·.2)) == some t.tc)

/-- Wait at a bound queue whose other side is the V stream: a stall in an interlocked block, in an exposed one a freeze, or BFAULT when V is
in an exposed block, which is decided when the freeze would begin (R203, R238). -/
def Tile.queueWait (t : Tile) (x : BStream) (q : BitVec 3) : Bad :=
  if !(t.stream x).exposed then .stall
  else if (t.stream x).queued ≠ some q ∧ t.vExposed then .trap causeBfault 0
  else .queue q

/-- 256 bytes along dimension 0 from the cursor, with the errors among them; out-of-bounds bytes are zero. -/
def State.fillBytes (s : State) (t : BitVec 6) (x : BStream) (u : Use) : Res (List Byte × List Bad) := do
  let c := u.clip 0 256
  let a := u.curAddr + c.1
  let r ← (pageSpans 3 a c.2).foldlM (init := (([] : List Byte), ([] : List Bad))) fun acc e =>
    (pieces 4 (vaOf e.1) e.2).foldlM (init := acc) fun acc p => do
      let b ← s.winRead t x u p.1 p.2
      return (acc.1 ++ b.1, if b.2 then acc.2 ++ [s.badAt t u p.1 p.2] else acc.2)
  return (List.replicate c.1 0 ++ r.1 ++ List.replicate (256 - c.1 - c.2) 0, r.2)

def execQfill (q : BitVec 3) (x : BitVec 5) (s : State) : Out :=
  .next (s.blockIssue 1 1 fun t y s => do
    let tl := s.tile t
    let u ← s.xWindow t y x false
    let _ ← u.plainWidth
    if (tl.queue q).entries.length + tl.pushesDue q ≥ 4 then .error (tl.queueWait y q)
    else do
      let r ← s.fillBytes t y u
      let push := Late.push q (regOf r.1)
      let late := (tl.stream y).exposed && (s.lateNext == some t || tl.pushesDue q != 0)
      let p : Pending := { due := (tl.stream y).nextTc, stream := y, landed := false, load := false, what := push, kept := some (u.keptRow x 0 256) }
      let s1 := s.onTile t fun u => if late then u.addPending p else u.applyLate push
      let s2 := if late then { s1 with lateNext := none } else s1
      return s2.xEnd t y u 0 r.2)

/-- Landed data of the oldest read enters its queue, whether or not the tile is frozen (R203, R237), but not while its stream is
halted (R312). -/
def Tile.lateFill (t : Tile) (p : Pending) : Bool := !p.load && !p.landed && decide ((t.stream p.stream).state ≠ .halted)

def execQfillDataLand (t : BitVec 6) (s : State) : Out :=
  .next (s.dataLands t (s.tile t).lateFill fun p u =>
    ({ u with pending := changeFirst (s.tile t).lateFill (fun _ => none) u.pending }).applyLate p.what)

def execQdrain (d : BitVec 5) (q : BitVec 3) (s : State) : Out :=
  .next (s.blockIssue 1 1 fun t y s => do
    let tl := s.tile t
    let u ← s.xWindow t y d true
    let _ ← u.plainWidth
    match (tl.queue q).entries with
    | [] => .error (tl.queueWait y q)
    | v :: _ => do
      u.writable
      let s1 ← (s.setTile t (tl.popQueue q)).writeRow t y u 0 (regBytes v)
      return s1.xEnd t y u (u.clip 0 256).2 [])

/-! ## red (R204, R338) -/

/-- The atomic code of a combination for another package: amo codes where they agree, else 11 to 15. -/
def redCode (fmt op : Nat) : Nat :=
  match fmt, op with
  | 0, 0 => 9
  | 0, 1 => 11
  | 0, _ => 12
  | 1, 0 => 13
  | 1, 1 => 14
  | 1, _ => 15
  | _, 0 => 0
  | 6, 1 => 5
  | 6, _ => 4
  | _, 1 => 7
  | _, _ => 6

/-- What a red has done so far, and its contributions to reduction windows, which the fabric takes one by one. -/
structure Reduced where
  moved : Moved
  left : List (Int × Nat × Bool)

/-- One element combined at its home, as one access, or checked as a contribution (R338). -/
def Reduced.combineAt (z : Reduced) (t : BitVec 6) (x : BStream) (u : Use) (op : Nat) (k0 k1 k2 : Int) (v : Nat) (bad : Option Bad) :
    Res Reduced :=
  let m := z.moved
  let s := m.st
  let a := u.addr k0 k1 k2
  let nb := fmtWidth u.image.fmt / 8
  let bads := match bad with | some b => b :: m.bads | none => m.bads
  match pinPa u.pins (vaOf a) with
  | none => .error (.trap causeXlate 0)
  | some (leaf, gpa) => do
    need (leaf.w && !s.refused gpa) causePerm
    match s.redFind gpa with
    | some i =>
      let w := s.redWindow i
      need (w.fmt.toNat == u.image.fmt && w.op.toNat == op && (s.redIndex w).isSome) causeBfault
      return { moved := { m with bads := bads }, left := z.left ++ [(a, v, bad.isSome)] }
    | none =>
      if s.ownPkg gpa then do
        let old ← s.winRead t x u a nb
        let m1 : Moved := { m with bads := if old.2 then s.badElem t u a :: bads else bads }
        let m2 ← m1.write t x u k0 k1 k2 (combine u.image.fmt op (leNat old.1) v) (if old.2 then some (s.badElem t u a) else bad)
        return { z with moved := m2 }
      else
        let who := streamAsker t x
        let body := [BitVec.ofNat 8 (redCode u.image.fmt op), BitVec.ofNat 8 (b2n (nb == 4))] ++ leBytes 8 v ++ leBytes 8 0
        let s1 := (s.markUnrollable (s.tileWriter t) leaf gpa).request (tileDie t) who .atomic gpa nb leaf.attr body
        let s2 := match s.heldBytes who gpa nb with
          | some old => s1.forward who gpa (leBytes nb (combine u.image.fmt op (leNat old) v))
          | none => s1
        return { z with moved := { st := s2, at_ := a :: m.at_, bads := bads, sound := m.sound } }

/-- One position of a red: its source element, combined at the destination. -/
def Reduced.reduceAt (z : Reduced) (t : BitVec 6) (x : BStream) (d u : Use) (op : Nat) (p : (Nat × Nat × Nat) × (Nat × Nat × Nat)) :
    Res Reduced := do
  let k0 := d.c 0 + p.1.1
  let k1 := d.c 1 + p.1.2.1
  let k2 := d.c 2 + p.1.2.2
  let c ← z.moved.st.xCell t x u (u.c 0 + p.2.1) (u.c 1 + p.2.2.1) (u.c 2 + p.2.2.2)
  match c.raw with
  | none => return z
  | some v => if d.image.inBounds k0 k1 k2 then z.combineAt t x d op k0 k1 k2 v c.bad else return z

/-- A red but for its contributions (R204): every check, every source and every element outside the reduction windows, so that a fault
leaves no effect (R10). Answers the contributions that are to follow. -/
def State.reduce (s : State) (op : Nat) (t : BitVec 6) (x : BStream) (wd ws : BitVec 5) : Res (State × List (Int × Nat × Bool)) := do
  let d ← s.xWindow t x wd true
  let u ← s.xWindow t x ws false
  need (d.image.fmt == u.image.fmt && redFormat d.image.fmt && d.image.boxCount == u.image.boxCount) causeBfault
  d.writable
  let z ← (d.image.positions.zip u.image.positions).foldlM (init := ({ moved := Moved.start s [], left := [] } : Reduced)) fun z p =>
    z.reduceAt t x d u op p
  let m := z.moved
  return ((m.settle d).xEnd t x d (bytesAt (fmtWidth d.image.fmt) m.at_) m.bads, z.left)

/-- Contributions taken by the link unit one after another, until one of a third open epoch has to wait (R338). Each makes the interval of
its node unrollable (R371). -/
def State.contributeAll (s : State) (t : BitVec 6) (pins : List Held) : List (Int × Nat × Bool) → State × List (Int × Nat × Bool)
  | [] => (s, [])
  | (a, v, bad) :: r =>
    match pinPa pins (vaOf a) with
    | none => s.contributeAll t pins r
    | some (leaf, gpa) => match s.redFind gpa with
      | none => s.contributeAll t pins r
      | some i => match (s.spoil (s.tileWriter t)).contribute (tileDie t) i gpa v leaf.attr bad with
        | .ok s1 => s1.contributeAll t pins r
        | .error .stall => (s, (a, v, bad) :: r)
        | .error _ => s.contributeAll t pins r

/-- red: the scope orders the block's raise, which follows every write here. Its contributions stay made while a third open epoch stalls
the rest; the stall counts no active cycle (R146, R338). -/
def State.redIssue (s : State) (op : Nat) (d x : BitVec 5) : State :=
  let c := s.xferCost d x 0
  match s.block? with
  | none => s
  | some (t, y) =>
    let st := (s.tile t).stream y
    if st.exposed && (s.tile t).frozenAt st.nextTc then s
    else
      let s1 := s.onTile t fun u => u.atIssue y
      let first : Res (State × List (Int × Nat × Bool)) := match st.redLeft with
        | some l => .ok (s1, l)
        | none => s1.reduce op t y d x
      match first with
      | .error e => s1.blockBad t y st.body e
      | .ok (s2, l) =>
        let pins : List Held := match (s2.tile t).window d with | some w => w.pins | none => []
        let r := s2.contributeAll t pins l
        let left (o : Option (List (Int × Nat × Bool))) (u : Tile) : Tile := u.onStream y fun z => { z with redLeft := o }
        if r.2.isEmpty then (r.1.dropReads (streamAsker t y)).onTile t fun u => (left none u).issued y c c
        else r.1.onTile t fun u => (left (some r.2) u).namedStall y

def execRed (d x : BitVec 5) (o : BitVec 2) (_p : BitVec 3) (s : State) : Out := .next (s.redIssue o.toNat d x)

/-! ## plane (R205) -/

/-- The n-bit pattern of a value. -/
def planePattern (sat : Bool) (n : Nat) (v : Int) : Nat :=
  if n = 1 then (if v < 0 then 1 else 0)
  else
    let lo : Int := -(2 ^ (n - 1) : Nat)
    let hi : Int := (2 ^ (n - 1) : Nat) - 1
    ofSigned n (if sat then max lo (min hi v) else v)

def State.planePack (s : State) (sat : Bool) (n : Nat) (t : BitVec 6) (x : BStream) (wd ws : BitVec 5) : Res State := do
  let d ← s.xWindow t x wd true
  let u ← s.xWindow t x ws false
  let e0 := d.image.extent 0
  let rows := d.image.extent 1 * d.image.extent 2
  need (isIntn d.image.fmt && (u.image.fmt == 8 || u.image.fmt == 14) && u.image.extent 0 == e0 &&
    u.image.extent 1 * u.image.extent 2 == rows && e0 % 8 == 0 && decide (d.c 0 % 8 = 0)) causeBfault
  d.writable
  let m ← (upto rows).foldlM (init := Moved.start s []) fun m (y : Nat) => do
    let s1 : Int := (y % u.image.extent 1 : Nat)
    let s2 : Int := (y / u.image.extent 1 : Nat)
    let k1 : Int := d.c 1 + (y % d.image.extent 1 : Nat)
    let k2 : Int := d.c 2 + (y / d.image.extent 1 : Nat)
    let cells ← (upto e0).mapM fun (x0 : Nat) => m.st.xCell t x u (u.c 0 + x0) (u.c 1 + s1) (u.c 2 + s2)
    let pats := cells.map fun c => match c.raw with
      | some v => planePattern sat n (intValue true (fmtWidth u.image.fmt) v)
      | none => 0
    let m1 : Moved := { m with bads := m.bads ++ rowBads [cells] }
    (upto n).foldlM (init := m1) fun m (p : Nat) =>
      (upto (e0 / 8)).foldlM (init := m) fun m (j : Nat) =>
        let k0 : Int := d.c 0 + 8 * j
        if !d.image.inBounds k0 k1 k2 then .ok m
        else do
          let a := d.rowAddr k1 k2 + (p * (d.image.bound 0 / 8) : Nat) + k0 / 8
          let b := ((upto 8).map fun i => (pats[8 * j + i]?.getD 0) / 2 ^ p % 2 * 2 ^ i).sum
          let bad := ((cells.drop (8 * j)).take 8).any fun c => c.bad.isSome
          let s' ← m.st.winWrite t x d a [BitVec.ofNat 8 b] bad
          return { m with st := if bad then s'.poisonWin d a 1 else s', sound := if bad then m.sound else a :: m.sound }
  return (m.settle d).xEnd t x d 0 m.bads

def execPlane (d x : BitVec 5) (u : BitVec 1) (n : BitVec 3) (s : State) : Out :=
  .next (let c := s.xferCost d x (n.toNat + 1)
    s.blockIssue c c fun t y s => s.planePack (u == 1) (n.toNat + 1) t y d x)

end Sys2Proof.Machine
end

