-- ==== Sys2Proof/Machine/Dispatch.lean ====
section
/-!
DEFINITION. Sys2Proof/Machine/Dispatch.lean: the meaning of every row of the table of operations and events, one arm each.
-/

namespace Sys2Proof.Machine

def exec (i : Instr) (s : State) : Host.Outcome State Fault Refusal :=
  match i with
  | .add a1 a2 a3 => Sys2Proof.Machine.execAdd a1 a2 a3 s
  | .sub a1 a2 a3 => Sys2Proof.Machine.execSub a1 a2 a3 s
  | .and a1 a2 a3 => Sys2Proof.Machine.execAnd a1 a2 a3 s
  | .or a1 a2 a3 => Sys2Proof.Machine.execOr a1 a2 a3 s
  | .xor a1 a2 a3 => Sys2Proof.Machine.execXor a1 a2 a3 s
  | .andn a1 a2 a3 => Sys2Proof.Machine.execAndn a1 a2 a3 s
  | .sll a1 a2 a3 => Sys2Proof.Machine.execSll a1 a2 a3 s
  | .srl a1 a2 a3 => Sys2Proof.Machine.execSrl a1 a2 a3 s
  | .sra a1 a2 a3 => Sys2Proof.Machine.execSra a1 a2 a3 s
  | .mul a1 a2 a3 => Sys2Proof.Machine.execMul a1 a2 a3 s
  | .mulh a1 a2 a3 => Sys2Proof.Machine.execMulh a1 a2 a3 s
  | .mulhn a1 a2 a3 => Sys2Proof.Machine.execMulhn a1 a2 a3 s
  | .div a1 a2 a3 => Sys2Proof.Machine.execDiv a1 a2 a3 s
  | .divn a1 a2 a3 => Sys2Proof.Machine.execDivn a1 a2 a3 s
  | .rem a1 a2 a3 => Sys2Proof.Machine.execRem a1 a2 a3 s
  | .remn a1 a2 a3 => Sys2Proof.Machine.execRemn a1 a2 a3 s
  | .min a1 a2 a3 => Sys2Proof.Machine.execMin a1 a2 a3 s
  | .max a1 a2 a3 => Sys2Proof.Machine.execMax a1 a2 a3 s
  | .minn a1 a2 a3 => Sys2Proof.Machine.execMinn a1 a2 a3 s
  | .maxn a1 a2 a3 => Sys2Proof.Machine.execMaxn a1 a2 a3 s
  | .clz a1 a2 => Sys2Proof.Machine.execClz a1 a2 s
  | .ctz a1 a2 => Sys2Proof.Machine.execCtz a1 a2 s
  | .pop a1 a2 => Sys2Proof.Machine.execPop a1 a2 s
  | .add32 a1 a2 a3 => Sys2Proof.Machine.execAdd32 a1 a2 a3 s
  | .sub32 a1 a2 a3 => Sys2Proof.Machine.execSub32 a1 a2 a3 s
  | .rol a1 a2 a3 => Sys2Proof.Machine.execRol a1 a2 a3 s
  | .ror a1 a2 a3 => Sys2Proof.Machine.execRor a1 a2 a3 s
  | .addi a1 a2 a3 => Sys2Proof.Machine.execAddi a1 a2 a3 s
  | .andi a1 a2 a3 => Sys2Proof.Machine.execAndi a1 a2 a3 s
  | .ori a1 a2 a3 => Sys2Proof.Machine.execOri a1 a2 a3 s
  | .xori a1 a2 a3 => Sys2Proof.Machine.execXori a1 a2 a3 s
  | .slli a1 a2 a3 => Sys2Proof.Machine.execSlli a1 a2 a3 s
  | .srli a1 a2 a3 => Sys2Proof.Machine.execSrli a1 a2 a3 s
  | .srai a1 a2 a3 => Sys2Proof.Machine.execSrai a1 a2 a3 s
  | .rori a1 a2 a3 => Sys2Proof.Machine.execRori a1 a2 a3 s
  | .li a1 a2 => Sys2Proof.Machine.execLi a1 a2 s
  | .lik a1 a2 a3 => Sys2Proof.Machine.execLik a1 a2 a3 s
  | .cmp a1 a2 a3 a4 => Sys2Proof.Machine.execCmp a1 a2 a3 a4 s
  | .cmpi a1 a2 a3 a4 => Sys2Proof.Machine.execCmpi a1 a2 a3 a4 s
  | .sel a1 a2 a3 a4 => Sys2Proof.Machine.execSel a1 a2 a3 a4 s
  | .cand a1 a2 a3 => Sys2Proof.Machine.execCand a1 a2 a3 s
  | .cor a1 a2 a3 => Sys2Proof.Machine.execCor a1 a2 a3 s
  | .cxor a1 a2 a3 => Sys2Proof.Machine.execCxor a1 a2 a3 s
  | .candn a1 a2 a3 => Sys2Proof.Machine.execCandn a1 a2 a3 s
  | .cnot a1 a2 => Sys2Proof.Machine.execCnot a1 a2 s
  | .cset a1 => Sys2Proof.Machine.execCset a1 s
  | .cclr a1 => Sys2Proof.Machine.execCclr a1 s
  | .btSet a1 a2 => Sys2Proof.Machine.execBtSet a1 a2 s
  | .btReg a1 a2 => Sys2Proof.Machine.execBtReg a1 a2 s
  | .br a1 a2 => Sys2Proof.Machine.execBr a1 a2 s
  | .brN a1 a2 => Sys2Proof.Machine.execBrN a1 a2 s
  | .brA a1 => Sys2Proof.Machine.execBrA a1 s
  | .call a1 a2 => Sys2Proof.Machine.execCall a1 a2 s
  | .ret a1 => Sys2Proof.Machine.execRet a1 s
  | .ld a1 a2 a3 a4 => Sys2Proof.Machine.execLd a1 a2 a3 a4 s
  | .st a1 a2 a3 a4 => Sys2Proof.Machine.execSt a1 a2 a3 a4 s
  | .ldo a1 a2 a3 a4 a5 a6 => Sys2Proof.Machine.execLdo a1 a2 a3 a4 a5 a6 s
  | .sto a1 a2 a3 a4 a5 a6 => Sys2Proof.Machine.execSto a1 a2 a3 a4 a5 a6 s
  | .amoAdd a1 a2 a3 a4 a5 a6 => Sys2Proof.Machine.execAmoAdd a1 a2 a3 a4 a5 a6 s
  | .amoAnd a1 a2 a3 a4 a5 a6 => Sys2Proof.Machine.execAmoAnd a1 a2 a3 a4 a5 a6 s
  | .amoOr a1 a2 a3 a4 a5 a6 => Sys2Proof.Machine.execAmoOr a1 a2 a3 a4 a5 a6 s
  | .amoXor a1 a2 a3 a4 a5 a6 => Sys2Proof.Machine.execAmoXor a1 a2 a3 a4 a5 a6 s
  | .amoMin a1 a2 a3 a4 a5 a6 => Sys2Proof.Machine.execAmoMin a1 a2 a3 a4 a5 a6 s
  | .amoMax a1 a2 a3 a4 a5 a6 => Sys2Proof.Machine.execAmoMax a1 a2 a3 a4 a5 a6 s
  | .amoMinn a1 a2 a3 a4 a5 a6 => Sys2Proof.Machine.execAmoMinn a1 a2 a3 a4 a5 a6 s
  | .amoMaxn a1 a2 a3 a4 a5 a6 => Sys2Proof.Machine.execAmoMaxn a1 a2 a3 a4 a5 a6 s
  | .amoSwap a1 a2 a3 a4 a5 a6 => Sys2Proof.Machine.execAmoSwap a1 a2 a3 a4 a5 a6 s
  | .amoFadd32 a1 a2 a3 a4 a5 => Sys2Proof.Machine.execAmoFadd32 a1 a2 a3 a4 a5 s
  | .cas a1 a2 a3 a4 a5 a6 => Sys2Proof.Machine.execCas a1 a2 a3 a4 a5 a6 s
  | .fence a1 a2 => Sys2Proof.Machine.execFence a1 a2 s
  | .qmark => Sys2Proof.Machine.execQmark s
  | .semRaise a1 a2 a3 => Sys2Proof.Machine.execSemRaise a1 a2 a3 s
  | .semWait a1 a2 a3 a4 => Sys2Proof.Machine.execSemWait a1 a2 a3 a4 s
  | .semTry a1 a2 a3 a4 => Sys2Proof.Machine.execSemTry a1 a2 a3 a4 s
  | .semSet a1 a2 a3 => Sys2Proof.Machine.execSemSet a1 a2 a3 s
  | .semRead a1 a2 => Sys2Proof.Machine.execSemRead a1 a2 s
  | .semRing a1 a2 a3 => Sys2Proof.Machine.execSemRing a1 a2 a3 s
  | .barArrive a1 a2 => Sys2Proof.Machine.execBarArrive a1 a2 s
  | .barWait a1 a2 => Sys2Proof.Machine.execBarWait a1 a2 s
  | .barTest a1 a2 a3 => Sys2Proof.Machine.execBarTest a1 a2 a3 s
  | .lwArm a1 a2 => Sys2Proof.Machine.execLwArm a1 a2 s
  | .lwGet a1 a2 a3 => Sys2Proof.Machine.execLwGet a1 a2 a3 s
  | .lwTest a1 a2 a3 => Sys2Proof.Machine.execLwTest a1 a2 a3 s
  | .lwWait a1 a2 => Sys2Proof.Machine.execLwWait a1 a2 s
  | .blkGo a1 a2 => Sys2Proof.Machine.execBlkGo a1 a2 s
  | .blkStop a1 => Sys2Proof.Machine.execBlkStop a1 s
  | .blkStatus a1 a2 => Sys2Proof.Machine.execBlkStatus a1 a2 s
  | .blkPatch a1 a2 a3 a4 => Sys2Proof.Machine.execBlkPatch a1 a2 a3 a4 s
  | .fmtPush a1 => Sys2Proof.Machine.execFmtPush a1 s
  | .winSet a1 a2 => Sys2Proof.Machine.execWinSet a1 a2 s
  | .winRel a1 => Sys2Proof.Machine.execWinRel a1 s
  | .winRead a1 a2 a3 => Sys2Proof.Machine.execWinRead a1 a2 a3 s
  | .fqPop a1 => Sys2Proof.Machine.execFqPop a1 s
  | .txOpen a1 => Sys2Proof.Machine.execTxOpen a1 s
  | .txCommit a1 a2 => Sys2Proof.Machine.execTxCommit a1 a2 s
  | .txAbort a1 => Sys2Proof.Machine.execTxAbort a1 s
  | .txStamp a1 a2 => Sys2Proof.Machine.execTxStamp a1 a2 s
  | .txRelease a1 => Sys2Proof.Machine.execTxRelease a1 s
  | .ckptClose => Sys2Proof.Machine.execCkptClose s
  | .ckptMark a1 => Sys2Proof.Machine.execCkptMark a1 s
  | .sysRd a1 a2 => Sys2Proof.Machine.execSysRd a1 a2 s
  | .sysWr a1 a2 => Sys2Proof.Machine.execSysWr a1 a2 s
  | .trapEcall => Sys2Proof.Machine.execTrapEcall s
  | .trapRaise a1 => Sys2Proof.Machine.execTrapRaise a1 s
  | .trapEbreak => Sys2Proof.Machine.execTrapEbreak s
  | .uret => Sys2Proof.Machine.execUret s
  | .waiteSem a1 a2 a3 => Sys2Proof.Machine.execWaiteSem a1 a2 a3 s
  | .waiteVote a1 a2 => Sys2Proof.Machine.execWaiteVote a1 a2 s
  | .waiteStream a1 a2 a3 => Sys2Proof.Machine.execWaiteStream a1 a2 a3 s
  | .cpGo a1 a2 a3 => Sys2Proof.Machine.execCpGo a1 a2 a3 s
  | .cpStatus a1 a2 => Sys2Proof.Machine.execCpStatus a1 a2 s
  | .rtOpen a1 a2 => Sys2Proof.Machine.execRtOpen a1 a2 s
  | .rtSend a1 a2 => Sys2Proof.Machine.execRtSend a1 a2 s
  | .rtRoute a1 a2 => Sys2Proof.Machine.execRtRoute a1 a2 s
  | .rtStat a1 a2 => Sys2Proof.Machine.execRtStat a1 a2 s
  | .rtClose a1 a2 => Sys2Proof.Machine.execRtClose a1 a2 s
  | .segCnt a1 a2 => Sys2Proof.Machine.execSegCnt a1 a2 s
  | .segSig a1 a2 => Sys2Proof.Machine.execSegSig a1 a2 s
  | .segLast a1 a2 => Sys2Proof.Machine.execSegLast a1 a2 s
  | .nop => Sys2Proof.Machine.execNop s
  | .pause a1 => Sys2Proof.Machine.execPause a1 s
  | .prefetch a1 a2 => Sys2Proof.Machine.execPrefetch a1 a2 s
  | .vadd a1 a2 a3 a4 a5 a6 => Sys2Proof.Machine.execVadd a1 a2 a3 a4 a5 a6 s
  | .vsub a1 a2 a3 a4 a5 a6 => Sys2Proof.Machine.execVsub a1 a2 a3 a4 a5 a6 s
  | .vmul a1 a2 a3 a4 a5 a6 => Sys2Proof.Machine.execVmul a1 a2 a3 a4 a5 a6 s
  | .vfma a1 a2 a3 a4 a5 a6 => Sys2Proof.Machine.execVfma a1 a2 a3 a4 a5 a6 s
  | .vfms a1 a2 a3 a4 a5 a6 => Sys2Proof.Machine.execVfms a1 a2 a3 a4 a5 a6 s
  | .vmin a1 a2 a3 a4 a5 a6 => Sys2Proof.Machine.execVmin a1 a2 a3 a4 a5 a6 s
  | .vmax a1 a2 a3 a4 a5 a6 => Sys2Proof.Machine.execVmax a1 a2 a3 a4 a5 a6 s
  | .vabs a1 a2 a3 a4 a5 a6 => Sys2Proof.Machine.execVabs a1 a2 a3 a4 a5 a6 s
  | .vneg a1 a2 a3 a4 a5 a6 => Sys2Proof.Machine.execVneg a1 a2 a3 a4 a5 a6 s
  | .vcmp a1 a2 a3 a4 a5 a6 a7 => Sys2Proof.Machine.execVcmp a1 a2 a3 a4 a5 a6 a7 s
  | .vsel a1 a2 a3 a4 a5 a6 => Sys2Proof.Machine.execVsel a1 a2 a3 a4 a5 a6 s
  | .vand a1 a2 a3 a4 a5 a6 => Sys2Proof.Machine.execVand a1 a2 a3 a4 a5 a6 s
  | .vor a1 a2 a3 a4 a5 a6 => Sys2Proof.Machine.execVor a1 a2 a3 a4 a5 a6 s
  | .vxor a1 a2 a3 a4 a5 a6 => Sys2Proof.Machine.execVxor a1 a2 a3 a4 a5 a6 s
  | .vandn a1 a2 a3 a4 a5 a6 => Sys2Proof.Machine.execVandn a1 a2 a3 a4 a5 a6 s
  | .vnot a1 a2 a3 a4 a5 => Sys2Proof.Machine.execVnot a1 a2 a3 a4 a5 s
  | .vsll a1 a2 a3 a4 a5 a6 a7 => Sys2Proof.Machine.execVsll a1 a2 a3 a4 a5 a6 a7 s
  | .vsrl a1 a2 a3 a4 a5 a6 a7 => Sys2Proof.Machine.execVsrl a1 a2 a3 a4 a5 a6 a7 s
  | .vsra a1 a2 a3 a4 a5 a6 a7 => Sys2Proof.Machine.execVsra a1 a2 a3 a4 a5 a6 a7 s
  | .vcvt a1 a2 a3 a4 a5 a6 a7 => Sys2Proof.Machine.execVcvt a1 a2 a3 a4 a5 a6 a7 s
  | .vq a1 a2 a3 a4 a5 a6 a7 => Sys2Proof.Machine.execVq a1 a2 a3 a4 a5 a6 a7 s
  | .vdq a1 a2 a3 a4 a5 a6 => Sys2Proof.Machine.execVdq a1 a2 a3 a4 a5 a6 s
  | .vbs a1 a2 a3 a4 => Sys2Proof.Machine.execVbs a1 a2 a3 a4 s
  | .vbsCode a1 a2 a3 a4 a5 => Sys2Proof.Machine.execVbsCode a1 a2 a3 a4 a5 s
  | .vsfu a1 a2 a3 a4 a5 => Sys2Proof.Machine.execVsfu a1 a2 a3 a4 a5 s
  | .vred a1 a2 a3 a4 a5 a6 => Sys2Proof.Machine.execVred a1 a2 a3 a4 a5 a6 s
  | .vperm a1 a2 a3 a4 a5 a6 => Sys2Proof.Machine.execVperm a1 a2 a3 a4 a5 a6 s
  | .vzip a1 a2 a3 a4 a5 a6 a7 => Sys2Proof.Machine.execVzip a1 a2 a3 a4 a5 a6 a7 s
  | .vunzip a1 a2 a3 a4 a5 a6 a7 => Sys2Proof.Machine.execVunzip a1 a2 a3 a4 a5 a6 a7 s
  | .vtrH a1 a2 => Sys2Proof.Machine.execVtrH a1 a2 s
  | .vtrW a1 a2 => Sys2Proof.Machine.execVtrW a1 a2 s
  | .vbc a1 a2 a3 a4 a5 a6 => Sys2Proof.Machine.execVbc a1 a2 a3 a4 a5 a6 s
  | .vld a1 a2 a3 a4 => Sys2Proof.Machine.execVld a1 a2 a3 a4 s
  | .vst a1 a2 a3 a4 => Sys2Proof.Machine.execVst a1 a2 a3 a4 s
  | .vldm a1 a2 a3 a4 a5 => Sys2Proof.Machine.execVldm a1 a2 a3 a4 a5 s
  | .vgx a1 a2 a3 a4 a5 => Sys2Proof.Machine.execVgx a1 a2 a3 a4 a5 s
  | .vsx a1 a2 a3 a4 a5 => Sys2Proof.Machine.execVsx a1 a2 a3 a4 a5 s
  | .vacr a1 a2 a3 a4 a5 => Sys2Proof.Machine.execVacr a1 a2 a3 a4 a5 s
  | .vacw a1 a2 a3 a4 a5 => Sys2Proof.Machine.execVacw a1 a2 a3 a4 a5 s
  | .vvoteAny a1 a2 a3 => Sys2Proof.Machine.execVvoteAny a1 a2 a3 s
  | .vvoteAll a1 a2 a3 => Sys2Proof.Machine.execVvoteAll a1 a2 a3 s
  | .vpatch a1 a2 a3 => Sys2Proof.Machine.execVpatch a1 a2 a3 s
  | .vmov a1 a2 a3 a4 a5 => Sys2Proof.Machine.execVmov a1 a2 a3 a4 a5 s
  | .vmovVp a1 a2 => Sys2Proof.Machine.execVmovVp a1 a2 s
  | .vmovPv a1 a2 a3 => Sys2Proof.Machine.execVmovPv a1 a2 a3 s
  | .vnop a1 => Sys2Proof.Machine.execVnop a1 s
  | .vseed a1 a2 => Sys2Proof.Machine.execVseed a1 a2 s
  | .vpop a1 a2 a3 a4 => Sys2Proof.Machine.execVpop a1 a2 a3 a4 s
  | .viota a1 a2 a3 a4 a5 => Sys2Proof.Machine.execViota a1 a2 a3 a4 a5 s
  | .mm a1 a2 a3 a4 a5 a6 => Sys2Proof.Machine.execMm a1 a2 a3 a4 a5 a6 s
  | .mmp a1 a2 a3 a4 a5 a6 => Sys2Proof.Machine.execMmp a1 a2 a3 a4 a5 a6 s
  | .mmr a1 a2 a3 a4 => Sys2Proof.Machine.execMmr a1 a2 a3 a4 s
  | .mmag a1 a2 a3 a4 a5 a6 => Sys2Proof.Machine.execMmag a1 a2 a3 a4 a5 a6 s
  | .acz a1 => Sys2Proof.Machine.execAcz a1 s
  | .acl a1 a2 a3 => Sys2Proof.Machine.execAcl a1 a2 a3 s
  | .acs a1 a2 a3 => Sys2Proof.Machine.execAcs a1 a2 a3 s
  | .acf a1 a2 => Sys2Proof.Machine.execAcf a1 a2 s
  | .cpy a1 a2 => Sys2Proof.Machine.execCpy a1 a2 s
  | .cpyz a1 a2 => Sys2Proof.Machine.execCpyz a1 a2 s
  | .gath a1 a2 a3 => Sys2Proof.Machine.execGath a1 a2 a3 s
  | .scat a1 a2 a3 => Sys2Proof.Machine.execScat a1 a2 a3 s
  | .qfill a1 a2 => Sys2Proof.Machine.execQfill a1 a2 s
  | .qdrain a1 a2 => Sys2Proof.Machine.execQdrain a1 a2 s
  | .red a1 a2 a3 a4 => Sys2Proof.Machine.execRed a1 a2 a3 a4 s
  | .bcst a1 a2 => Sys2Proof.Machine.execBcst a1 a2 s
  | .plane a1 a2 a3 a4 => Sys2Proof.Machine.execPlane a1 a2 a3 a4 s
  | .lwr a1 a2 => Sys2Proof.Machine.execLwr a1 a2 s
  | .ovNodeTake a1 a2 a3 => Sys2Proof.Machine.execOvNodeTake a1 a2 a3 s
  | .ovNodeDone a1 a2 a3 => Sys2Proof.Machine.execOvNodeDone a1 a2 a3 s
  | .ovTileLoad a1 a2 a3 => Sys2Proof.Machine.execOvTileLoad a1 a2 a3 s
  | .ovTileSave a1 a2 a3 => Sys2Proof.Machine.execOvTileSave a1 a2 a3 s
  | .ovTileGo a1 a2 => Sys2Proof.Machine.execOvTileGo a1 a2 s
  | .ovTileStop a1 a2 => Sys2Proof.Machine.execOvTileStop a1 a2 s
  | .ovTileHalt a1 a2 a3 => Sys2Proof.Machine.execOvTileHalt a1 a2 a3 s
  | .ovTileStat a1 a2 => Sys2Proof.Machine.execOvTileStat a1 a2 s
  | .ovOpPlan a1 a2 a3 => Sys2Proof.Machine.execOvOpPlan a1 a2 a3 s
  | .ovOpStep a1 a2 => Sys2Proof.Machine.execOvOpStep a1 a2 s
  | .ovRowRd a1 a2 a3 => Sys2Proof.Machine.execOvRowRd a1 a2 a3 s
  | .ovErrPop a1 a2 => Sys2Proof.Machine.execOvErrPop a1 a2 s
  | .ovCkptRoll a1 a2 => Sys2Proof.Machine.execOvCkptRoll a1 a2 s
  | .tapIdcode => Sys2Proof.Machine.execTapIdcode s
  | .tapFrzstat => Sys2Proof.Machine.execTapFrzstat s
  | .tapScanout a1 => Sys2Proof.Machine.execTapScanout a1 s
  | .tapMemrd a1 => Sys2Proof.Machine.execTapMemrd a1 s
  | .tapBypass => Sys2Proof.Machine.execTapBypass s
  | .cStallResolve a1 => Sys2Proof.Machine.execCStallResolve a1 s
  | .pauseEnd a1 => Sys2Proof.Machine.execPauseEnd a1 s
  | .waiteTimeout a1 => Sys2Proof.Machine.execWaiteTimeout a1 s
  | .blockAwaitGrant a1 a2 => Sys2Proof.Machine.execBlockAwaitGrant a1 a2 s
  | .ringAwaitGrant a1 a2 => Sys2Proof.Machine.execRingAwaitGrant a1 a2 s
  | .ringRaise a1 a2 => Sys2Proof.Machine.execRingRaise a1 a2 s
  | .exposedResultWrite a1 => Sys2Proof.Machine.execExposedResultWrite a1 s
  | .loadDataLand a1 => Sys2Proof.Machine.execLoadDataLand a1 s
  | .qfillDataLand a1 => Sys2Proof.Machine.execQfillDataLand a1 s
  | .blockRetire a1 a2 => Sys2Proof.Machine.execBlockRetire a1 a2 s
  | .kernelBoundary a1 => Sys2Proof.Machine.execKernelBoundary a1 s
  | .tileStopped a1 => Sys2Proof.Machine.execTileStopped a1 s
  | .contextDone a1 => Sys2Proof.Machine.execContextDone a1 s
  | .debugBreakTaken a1 => Sys2Proof.Machine.execDebugBreakTaken a1 s
  | .tileLoadComplete a1 => Sys2Proof.Machine.execTileLoadComplete a1 s
  | .tileSaveComplete a1 => Sys2Proof.Machine.execTileSaveComplete a1 s
  | .ckptRollComplete a1 => Sys2Proof.Machine.execCkptRollComplete a1 s
  | .opStepComplete a1 => Sys2Proof.Machine.execOpStepComplete a1 s
  | .copyStart a1 a2 => Sys2Proof.Machine.execCopyStart a1 a2 s
  | .landingWordArrival a1 a2 a3 => Sys2Proof.Machine.execLandingWordArrival a1 a2 a3 s
  | .copyComplete a1 a2 => Sys2Proof.Machine.execCopyComplete a1 a2 s
  | .rtHeaderForm a1 a2 => Sys2Proof.Machine.execRtHeaderForm a1 a2 s
  | .routeHeader a1 a2 a3 a4 a5 a6 => Sys2Proof.Machine.execRouteHeader a1 a2 a3 a4 a5 a6 s
  | .summarySend a1 a2 a3 a4 => Sys2Proof.Machine.execSummarySend a1 a2 a3 a4 s
  | .summary a1 a2 a3 a4 a5 a6 a7 => Sys2Proof.Machine.execSummary a1 a2 a3 a4 a5 a6 a7 s
  | .bounce a1 a2 a3 a4 a5 => Sys2Proof.Machine.execBounce a1 a2 a3 a4 a5 s
  | .routeResend a1 a2 a3 => Sys2Proof.Machine.execRouteResend a1 a2 a3 s
  | .reductionContribution a1 a2 a3 a4 a5 a6 a7 a8 => Sys2Proof.Machine.execReductionContribution a1 a2 a3 a4 a5 a6 a7 a8 s
  | .epochAck a1 a2 a3 a4 a5 => Sys2Proof.Machine.execEpochAck a1 a2 a3 a4 a5 s
  | .reductionTimeout a1 => Sys2Proof.Machine.execReductionTimeout a1 s
  | .readRequest a1 a2 a3 a4 => Sys2Proof.Machine.execReadRequest a1 a2 a3 a4 s
  | .writeRequest a1 a2 a3 a4 => Sys2Proof.Machine.execWriteRequest a1 a2 a3 a4 s
  | .atomicRequest a1 a2 a3 a4 a5 a6 a7 => Sys2Proof.Machine.execAtomicRequest a1 a2 a3 a4 a5 a6 a7 s
  | .readResponse a1 a2 a3 a4 => Sys2Proof.Machine.execReadResponse a1 a2 a3 a4 s
  | .writeResponse a1 a2 a3 => Sys2Proof.Machine.execWriteResponse a1 a2 a3 s
  | .atomicResponse a1 a2 a3 a4 => Sys2Proof.Machine.execAtomicResponse a1 a2 a3 a4 s
  | .barrierArrival a1 a2 a3 a4 a5 => Sys2Proof.Machine.execBarrierArrival a1 a2 a3 a4 a5 s
  | .barrierPhase a1 a2 a3 a4 a5 => Sys2Proof.Machine.execBarrierPhase a1 a2 a3 a4 a5 s
  | .time a1 a2 a3 a4 => Sys2Proof.Machine.execTime a1 a2 a3 a4 s
  | .management a1 a2 a3 => Sys2Proof.Machine.execManagement a1 a2 a3 s
  | .linkReplay a1 => Sys2Proof.Machine.execLinkReplay a1 s
  | .portTraining a1 a2 a3 a4 a5 => Sys2Proof.Machine.execPortTraining a1 a2 a3 a4 a5 s
  | .laneRetire a1 a2 => Sys2Proof.Machine.execLaneRetire a1 a2 s
  | .portFail a1 => Sys2Proof.Machine.execPortFail a1 s
  | .syncSend => Sys2Proof.Machine.execSyncSend s
  | .packetAccept => Sys2Proof.Machine.execPacketAccept s
  | .dispatchPass => Sys2Proof.Machine.execDispatchPass s
  | .classPromotion a1 => Sys2Proof.Machine.execClassPromotion a1 s
  | .sliceExpiry a1 => Sys2Proof.Machine.execSliceExpiry a1 s
  | .timedReady a1 => Sys2Proof.Machine.execTimedReady a1 s
  | .timedStart a1 => Sys2Proof.Machine.execTimedStart a1 s
  | .nodeComplete a1 => Sys2Proof.Machine.execNodeComplete a1 s
  | .xictlGo a1 => Sys2Proof.Machine.execXictlGo a1 s
  | .shootdownTlbDone => Sys2Proof.Machine.execShootdownTlbDone s
  | .hdispRead => Sys2Proof.Machine.execHdispRead s
  | .hdoneWrite a1 => Sys2Proof.Machine.execHdoneWrite a1 s
  | .qtailWrite a1 a2 => Sys2Proof.Machine.execQtailWrite a1 a2 s
  | .tbinitWrite a1 => Sys2Proof.Machine.execTbinitWrite a1 s
  | .rwcfgWrite a1 a2 => Sys2Proof.Machine.execRwcfgWrite a1 a2 s
  | .keyLoad a1 => Sys2Proof.Machine.execKeyLoad a1 s
  | .keyClear a1 => Sys2Proof.Machine.execKeyClear a1 s
  | .clrlost a1 => Sys2Proof.Machine.execClrlost a1 s
  | .dbgreqBreak a1 a2 => Sys2Proof.Machine.execDbgreqBreak a1 a2 s
  | .pttestRun a1 a2 => Sys2Proof.Machine.execPttestRun a1 a2 s
  | .pttestRet a1 a2 => Sys2Proof.Machine.execPttestRet a1 a2 s
  | .selfTestComplete a1 a2 a3 => Sys2Proof.Machine.execSelfTestComplete a1 a2 a3 s
  | .registerWrite a1 a2 a3 a4 => Sys2Proof.Machine.execRegisterWrite a1 a2 a3 a4 s
  | .rebase => Sys2Proof.Machine.execRebase s
  | .versionStallTimeout a1 a2 => Sys2Proof.Machine.execVersionStallTimeout a1 a2 s
  | .coppicePass => Sys2Proof.Machine.execCoppicePass s
  | .ckptIntervalTimer a1 => Sys2Proof.Machine.execCkptIntervalTimer a1 s
  | .ckptIntervalClose a1 => Sys2Proof.Machine.execCkptIntervalClose a1 s
  | .patrolScrub a1 a2 => Sys2Proof.Machine.execPatrolScrub a1 a2 s
  | .rowMovePause a1 a2 a3 => Sys2Proof.Machine.execRowMovePause a1 a2 a3 s
  | .capacityShrink a1 a2 a3 => Sys2Proof.Machine.execCapacityShrink a1 a2 a3 s
  | .tileFail a1 a2 => Sys2Proof.Machine.execTileFail a1 a2 s
  | .hbmRepair a1 a2 a3 => Sys2Proof.Machine.execHbmRepair a1 a2 a3 s
  | .telemetryUpdate a1 a2 a3 a4 a5 a6 => Sys2Proof.Machine.execTelemetryUpdate a1 a2 a3 a4 a5 a6 s
  | .hostWrite a1 a2 a3 => Sys2Proof.Machine.execHostWrite a1 a2 a3 s
  | .hostRead a1 a2 a3 => Sys2Proof.Machine.execHostRead a1 a2 a3 s
  | .powerOn a1 => Sys2Proof.Machine.execPowerOn a1 s
  | .reset a1 => Sys2Proof.Machine.execReset a1 s
  | .powerLoss => Sys2Proof.Machine.execPowerLoss s
  | .perst => Sys2Proof.Machine.execPerst s
  | .functionReady a1 a2 => Sys2Proof.Machine.execFunctionReady a1 a2 s
  | .freeze => Sys2Proof.Machine.execFreeze s
  | .mctpControl a1 => Sys2Proof.Machine.execMctpControl a1 s
  | .getVersion => Sys2Proof.Machine.execGetVersion s
  | .getCapabilities => Sys2Proof.Machine.execGetCapabilities s
  | .negotiateAlgorithms => Sys2Proof.Machine.execNegotiateAlgorithms s
  | .getDigests => Sys2Proof.Machine.execGetDigests s
  | .getCertificate a1 a2 => Sys2Proof.Machine.execGetCertificate a1 a2 s
  | .challenge a1 => Sys2Proof.Machine.execChallenge a1 s
  | .getMeasurements a1 a2 => Sys2Proof.Machine.execGetMeasurements a1 a2 s
  | .vendorRegisterRead a1 a2 => Sys2Proof.Machine.execVendorRegisterRead a1 a2 s
  | .vendorRegisterWrite a1 a2 a3 => Sys2Proof.Machine.execVendorRegisterWrite a1 a2 a3 s
  | .vendorStatusQuery => Sys2Proof.Machine.execVendorStatusQuery s
  | .vendorFreeze => Sys2Proof.Machine.execVendorFreeze s
  | .illegalWord => Sys2Proof.Machine.execIllegalWord s
  | .dieFailure a1 => Sys2Proof.Machine.execDieFailure a1 s
  | .poolPartitionChangeDone a1 => Sys2Proof.Machine.execPoolPartitionChangeDone a1 s
  | .operandByteArrival a1 => Sys2Proof.Machine.execOperandByteArrival a1 s
  | .exposedAccessAccept a1 => Sys2Proof.Machine.execExposedAccessAccept a1 s
  | .idleFlit a1 a2 => Sys2Proof.Machine.execIdleFlit a1 a2 s
  | .configurationRequest a1 a2 a3 => Sys2Proof.Machine.execConfigurationRequest a1 a2 a3 s
  | .supervisorStore a1 a2 a3 a4 a5 => Sys2Proof.Machine.execSupervisorStore a1 a2 a3 a4 a5 s

end Sys2Proof.Machine
end

