-- ==== Sys2Proof/Machine/Step.lean ====
section
/-!
DEFINITION. Sys2Proof/Machine/Step.lean: one step of the package: the next entry of the agenda, or, when it is empty, the next
step of the agent in focus; and where a word is put so that the next step runs it.
-/

namespace Sys2Proof.Machine

/-- What an agent's next step gives, with what follows from it at once. -/
def Next.outcome : Next → Host.Outcome State Fault Refusal
  | .done s => .next s.afterPaths
  | .run i s => match exec i s with
    | .next s' => .next s'.afterPaths
    | .fault r => .fault r
    | .refused r => .refused r

/-- One step. -/
def step (s : State) : Host.Outcome State Fault Refusal :=
  match s.agenda with
  | [] => if s.frozen ∨ !s.powered then .fault .stopped else (s.issue s.focus).outcome
  | a :: r => ({ s with agenda := r }.perform a).outcome

/-- The word stands for this agent's instruction; a word that is none is put into a C stream. -/
def wordAgent (nbits w : Nat) : Agent :=
  if nbits ≤ 32 ∧ 0 < nbits ∧ w < 2 ^ 32 then
    match tableReader (BitVec.ofNat 32 w) with
    | some (a, _) => a
    | none => .control 0
  else .control 0

/-- s with a word where the next step fetches it: the code store, a block of one word in RUN, or the supervisor's memory. -/
def State.withFetchWord (s : State) (nbits w : Nat) : State :=
  (({ s with agenda := [], focus := wordAgent nbits w, powered := true, frozen := false }).place (wordAgent nbits w)
    (BitVec.ofNat 32 w))

end Sys2Proof.Machine
end

