-- ==== Sys2Proof/Safety.lean ====
section
/-!
DEFINITION. Sys2Proof/Safety.lean: the words in which statements about the machine are put: how far a next state may differ
from the state before it, and where the C stream stands after a word.
-/

namespace Sys2Proof.Machine

/-! ## How far two states may differ -/

/-- t differs from s at most in one tile. -/
def State.OnlyTile (s t : State) (x : BitVec 6) : Prop := t = { s with tiles := s.tiles.set x.toNat (t.tile x) }

/-- t differs from s at most in one tile's C stream. -/
def State.OnlyControl (s t : State) (x : BitVec 6) : Prop :=
  s.OnlyTile t x ∧ t.tile x = { s.tile x with control := (t.tile x).control }

/-- t differs from s at most in one cluster. -/
def State.OnlyCluster (s t : State) (c : BitVec 4) : Prop := t = { s with clusters := s.clusters.set c.toNat (t.cluster c) }

/-- t differs from s at most in one die. -/
def State.OnlyDie (s t : State) (d : BitVec 2) : Prop := t = { s with dies := s.dies.set d.toNat (t.die d) }

/-- Every byte of memory outside [a, a + n) reads as before. -/
def State.SameBytesBut (s t : State) (a n : Nat) : Prop := ∀ p, p < a ∨ a + n ≤ p → t.byte p = s.byte p

/-- Every byte of memory reads as before. -/
def State.SameBytes (s t : State) : Prop := ∀ p, t.byte p = s.byte p

/-! ## Where the C stream stands after a word -/

/-- The word at pc has been executed (R54): after delay slot 2 the pending target follows, else the next word; after delay
slot 1 the second one. A word that is done neither waits nor repeats an arrival. -/
def Control.next (k : Control) : Control :=
  { k with
    pc := if k.slot = 2 then k.target else k.pc + 4
    slot := if k.slot = 1 then 2 else if k.slot = 2 then 0 else k.slot
    target := if k.slot = 2 then 0 else k.target
    stalled := false
    wait := none
    arrived := false
    denied := none }

/-- A transfer has issued (R54): its two delay slots follow, then the target. -/
def Control.jumps (k : Control) (target : BitVec 17) : Control :=
  { k with pc := k.pc + 4, slot := 1, target := target, stalled := false, wait := none, arrived := false }

/-- The C stream of the current tile ends its word with v in gd, discarded when gd is g0 (R12, R44), and nothing else of
the package differs. -/
def State.CRegister (s t : State) (d : BitVec 5) (v : W64) : Prop :=
  t.g d = (if d = 0 then 0 else v) ∧ (∀ r, r ≠ d → t.g r = s.g r) ∧
  s.OnlyControl t s.curTile ∧ t.ctl = { s.ctl.next with g := t.ctl.g } ∧ s.SameBytes t

/-- The C stream of the current tile ends its word with v in cd, and nothing else of the package differs. -/
def State.CCondition (s t : State) (d : BitVec 3) (v : Bool) : Prop :=
  t.c d = v ∧ (∀ r, r ≠ d → t.c r = s.c r) ∧
  s.OnlyControl t s.curTile ∧ t.ctl = { s.ctl.next with c := t.ctl.c } ∧ s.SameBytes t

/-- The C stream of the current tile ends its word, and nothing else of the package differs. -/
def State.CEnds (s t : State) : Prop := s.OnlyControl t s.curTile ∧ t.ctl = s.ctl.next ∧ s.SameBytes t

/-- The current tile becomes x, and nothing else of the package differs. -/
def State.CBecomes (s t : State) (x : Tile) : Prop := s.OnlyTile t s.curTile ∧ t.tile s.curTile = x ∧ s.SameBytes t

/-- No trap of the tile is being taken, no exposed block runs in it, and no stream has yet to stop: a trap stops its streams at once
(R237, R243). -/
def Tile.stopsAtOnce (u : Tile) : Prop :=
  u.trapping = none ∧ ∀ x, (u.stream x).exposedRun = false ∧ (u.stream x).stopDue = false

/-- The word of the C stream takes a trap to the supervisor (R243, R303, R310). Where the tile's streams stop at once, the tile is
FAULTED with the record of the word, its streams in AWAIT or RUN are stopped, and the C stream stands at the word with its registers,
delay slot and target as before; else the trap is taken, and the tile is FAULTED once they have stopped (R237, R243). Nothing else
differs. -/
def State.CTraps (s t : State) (cause : Byte) (val : W64) : Prop :=
  t.tile s.curTile = (s.tile s.curTile).controlTrap cause val ∧ s.OnlyTile t s.curTile ∧ s.SameBytes t ∧
  ((s.tile s.curTile).stopsAtOnce →
  (t.tile s.curTile).status = .faulted ∧ (t.tile s.curTile).event = true ∧
  (t.tile s.curTile).trap =
    { cause := cause, stream := 0, idx := BitVec.ofNat 8 s.ctl.slot.toNat, addr := BitVec.ofNat 32 s.ctl.pc.toNat, val := val,
      tgt := if s.ctl.slot = 0 then 0 else BitVec.ofNat 32 s.ctl.target.toNat } ∧
  (∀ x, ((t.tile s.curTile).stream x).state =
    if ((s.tile s.curTile).stream x).state = .await ∨ ((s.tile s.curTile).stream x).state = .run then .stopped
    else ((s.tile s.curTile).stream x).state) ∧
  t.ctl = { s.ctl with stalled := false, pause := 0, wait := none, arrived := true })

/-- The word of the C stream has had no effect and is tried again (R75). -/
def State.CWaits (s t : State) : Prop := s.CBecomes t { s.tile s.curTile with control := { s.ctl with stalled := true } }

/-- The current stream is the C stream of a tile in RUN (R214). -/
def State.cRuns (s : State) : Prop := s.cur = .control s.curTile ∧ (s.tile s.curTile).status = .run

/-- No answer from another package waits for the C stream of the current tile. -/
def State.noAnswer (s : State) : Prop := ∀ a ∈ s.fabric.answers, a.who ≠ .stream s.curTile 0

/-- An access of the C stream that passes ALIGN, XLATE and PERM (R45), in storage of the own package, through a page without
VER, CKPT and SEAL, within one line, with no request of the stream to another package answered or open. -/
structure State.PlainAccess (s : State) (k : AccessKind) (ea : W64) (n : Nat) (leaf : Leaf) (pa : Nat) : Prop where
  reach : s.cReach k ea n = .ok (leaf, s.group pa)
  below : pa < 2 ^ 48
  store : ∀ o, Machine.place pa ≠ Place.register o
  plain : leaf.ver = false ∧ leaf.ckpt = false ∧ leaf.sealed = false
  tag : tget s.seals (pa / 128) = none
  open_ : s.scratchBusy pa = false
  line : pa % 128 + n ≤ 128
  alone : s.noAnswer

/-- An access of the C stream that passes its checks (R45), within one line of HBM of the own package, through a page of any attributes, with
no request of the stream to another package answered or open. -/
structure State.LineAccess (s : State) (k : AccessKind) (ea : W64) (n : Nat) (leaf : Leaf) (pa : Nat) : Prop where
  reach : s.cReach k ea n = .ok (leaf, s.group pa)
  below : pa < 2 ^ 39
  line : pa % 128 + n ≤ 128
  alone : s.noAnswer

/-- A write of w to line l logs its old value for an open interval (R370). -/
def State.logsUndo (s : State) (w : Writer) (leaf : Leaf) (l : Nat) : Bool :=
  leaf.ckpt && match s.writerNode w with
    | some n => n.ckpt && !(s.undoOf l && (s.line l).intv == n.tag)
    | none => false

/-- A write to line l keeps its old version for a live snapshot (R358). -/
def State.keepsOld (s : State) (leaf : Leaf) (l : Nat) : Bool :=
  leaf.ver && (s.line l).stamp != s.versions.clock &&
    s.liveSnaps.any fun y => decide ((s.line l).stamp.toNat ≤ y ∧ y < s.versions.clock.toNat)

/-- The record of the old version of line l, which has no tag. -/
def State.oldVersion (s : State) (w : Writer) (leaf : Leaf) (l : Nat) : Record :=
  { line := l
    data := s.mem.bytes (128 * l) 128
    stamp := (s.line l).stamp
    kind := if s.keepsOld leaf l = true then 0 else 2
    u := s.logsUndo w leaf l
    poison := s.linePoison l
    tag := none
    viaCkpt := false
    viaPlain := false
    intv := if s.logsUndo w leaf l = true then (match s.writerNode w with | some n => n.tag | none => 0) else 0 }

/-- Line l has room for one more record once its reclaimable records are gone (R366). -/
def State.recordRoom (s : State) (l : Nat) : Prop :=
  ((s.reclaimLine l).line l).chain.length < 7 ∧ (s.reclaimLine l).freeRecords ≠ 0

/-- What a write of w through a page without SEAL leaves of line l's versions (R358, R370): the stamp of a VER write, the undo mark of a
logged one, and the old version as the newest record where a snapshot or an interval needs it. -/
structure State.VersionWritten (s t : State) (w : Writer) (leaf : Leaf) (l : Nat) : Prop where
  stamp : (t.line l).stamp = if leaf.ver = true then s.versions.clock else (s.line l).stamp
  undo : if s.logsUndo w leaf l = true then (t.line l).undo = true ∧ some (t.line l).intv = (s.writerNode w).map Node.tag
    else (t.line l).undo = (s.line l).undo ∧ (t.line l).intv = (s.line l).intv
  kept : s.keepsOld leaf l = true ∨ s.logsUndo w leaf l = true → ∃ j, (t.records l).head? = some (j, s.oldVersion w leaf l)
  same : s.keepsOld leaf l = false → s.logsUndo w leaf l = false → t.records l = s.records l
  others : ∀ q, q ≠ l → t.line q = s.line q

/-- No raise of an exposed block is due by tc now, and nothing has reached the port of the tile before it (R16, R417). -/
def State.noRaises (s : State) (t : BitVec 6) (now : Nat) : Prop :=
  (∀ e ∈ (s.tile t).port, now ≤ e.1) ∧ ∀ x, s.raiseDue t now x = false

/-- n bytes at pa hold v, and nothing else of the package differs but the C stream of the current tile, the poison of the
granules covered whole (R396), the reservations of the bytes (R276), the dirty marks of a tile store (R301) and the mark of an
interval that can no longer be rolled back (R371). -/
def State.CStores (s t : State) (leaf : Leaf) (pa n v : Nat) : Prop :=
  leNat (t.mem.bytes pa n) = v % 2 ^ (8 * n) ∧ s.SameBytesBut t pa n ∧
  (∀ g, g ∈ t.poison ↔ g ∈ s.poison ∧ ¬(pa ≤ g ∧ g + granuleSize g ≤ pa + n)) ∧
  (∀ u, t.tile u = { s.tile u with
    control := (t.tile u).control, dirtyA := (t.tile u).dirtyA, dirtyB := (t.tile u).dirtyB }) ∧
  (∀ u, u ≠ s.curTile → (t.tile u).control = (s.tile u).control) ∧
  t = { s with
    mem := t.mem, poison := t.poison, tiles := t.tiles, pool := (s.markUnrollable s.curWriter leaf (s.group pa)).pool
    reservations := (s.unreserve pa n).reservations }

/-- A landing word that the lw forms may use (R82): in the current tile's own store, without an uncorrectable error. -/
structure State.LandingWord (s : State) (write : Bool) (ea : W64) (leaf : Leaf) (pa : Nat) : Prop where
  reach : s.lwReach write ea = .ok (leaf, pa)
  sound : s.anyPoison pa 16 = false
  store : ∃ off, Machine.place pa = Place.tileStore s.curTile off ∧ Machine.place (pa + 12) = Place.tileStore s.curTile (off + 12)
  plain : leaf.sealed = false ∧ pa % 128 + 16 ≤ 128
  alone : s.noAnswer

/-- n bytes at a virtual address under pins lie in sound storage of the own package, in one line of one page without VER, CKPT
and SEAL, that the page's rights and the quarantine table let an engine use. -/
structure State.PlainPin (s : State) (pins : List Held) (va n : Nat) (leaf : Leaf) (pa : Nat) : Prop where
  pin : pinPa pins (va % 2 ^ 57) = some (leaf, s.group pa)
  below : pa < 2 ^ 48
  plain : leaf.ver = false ∧ leaf.ckpt = false ∧ leaf.sealed = false
  tag : tget s.seals (pa / 128) = none
  open_ : s.scratchBusy pa = false ∧ s.quarantined pa = false
  line : va % 128 + n ≤ 128 ∧ pa % 128 + n ≤ 128

/-! ## Where a block stream stands after a word -/

/-- Block stream x of tile tn is at a word: it is the current agent, its clock is not frozen (R146, R236), and no answer of
another package waits for it. -/
structure State.BlockTurn (s : State) (tn : BitVec 6) (x : BStream) : Prop where
  cur : s.cur = .block tn x
  clock : ((s.tile tn).stream x).exposed = false ∨ (s.tile tn).frozenAt ((s.tile tn).stream x).nextTc = false
  alone : ∀ a ∈ s.fabric.answers, a.who ≠ streamAsker tn x

/-- Block stream x ends its word of cost c and latency l (R146, R231, R239): the tile is u with the stream moved on, and nothing
else of the package differs. -/
def State.BlockEnds (s t : State) (tn : BitVec 6) (x : BStream) (c l : Nat) (u : Tile) : Prop :=
  s.OnlyTile t tn ∧ t.tile tn = u.issued x c l ∧ s.SameBytes t

/-- A word of the V stream ends: from the tile u after its pops and draws, the results ws and the flags f are written, at once in
an interlocked block and at the end of their tc in an exposed one (R146, R147), and nothing else of the package differs. -/
def State.VGives (s t : State) (tn : BitVec 6) (c l : Nat) (u : Tile) (ws : List Late) (f : Flags) : Prop :=
  s.BlockEnds t tn .v c l (u.results .v l ws f)

/-- A word of a block stream faults (R149, R242, R243): the tile stands as before the word, its own results in flight are written,
the stream is FAULTED with the cause and the body index, and the tile takes the trap. Nothing else of the package differs. -/
def State.BlockFaults (s t : State) (tn : BitVec 6) (x : BStream) (cause : Byte) (idx : BitVec 4) : Prop :=
  s.OnlyTile t tn ∧ t.tile tn = ((s.tile tn).atIssue x).blockFault x cause idx ∧ s.SameBytes t

/-- Elements 0 to n − 1 of a register of width w: f where the element is governed, else as in the old destination (R143). -/
def governedBy (w : Nat) (p : PReg) (old : VReg) (f : Nat → Nat) : VReg :=
  ofElems w ((List.range (2048 / w)).map fun e => if p.getLsbD (e * w / 4) = true then f e else elem w old e)

/-- Some governed element of width w meets c. -/
def someGoverned (w : Nat) (p : PReg) (c : Nat → Bool) : Bool :=
  (List.range (2048 / w)).any fun e => p.getLsbD (e * w / 4) && c e

/-- The flags that the governed elements of width w raise together. -/
def flagsOf (w : Nat) (p : PReg) (f : Nat → Flags) : Flags :=
  (List.range (2048 / w)).foldl (fun fl e => if p.getLsbD (e * w / 4) = true then fl ||| f e else fl) 0

/-- An element-wise form of the V stream: its word, whether it peeks, its vector sources, its latency (R148), and what it gives a
governed element, with the flags of that element. -/
structure VForm where
  instr : Instr
  peek : Bool
  sources : List (BitVec 5)
  latency : Nat
  value : Nat → Nat × Flags

/-- An element-wise word writes d of width w under the predicate p, once its queues admit it; its draws leave the seeds. -/
def State.VElements (s : State) (tn : BitVec 6) (d : BitVec 5) (w : Nat) (p : BitVec 3) (seeds : Vector W32 64) (q : VForm) : Prop :=
  let tl := (s.tile tn).atIssue .v
  ∀ taken, tl.takeSources q.peek q.sources [d] = .ok taken → ∃ t, exec q.instr s = .next t ∧
    s.VGives t tn 1 q.latency { taken with seeds := seeds }
      [toDest d (governedBy w (tl.preg p) (tl.vold d) fun e => (q.value e).1)] (flagsOf w (tl.preg p) fun e => (q.value e).2)

/-- Elements [base, base + n) of width w get f, counted from base; the others stay as in the old destination. -/
def sliceOf (w base n : Nat) (old : VReg) (f : Nat → Nat) : VReg :=
  ofElems w ((List.range (2048 / w)).map fun e => if base ≤ e ∧ e < base + n then f (e - base) else elem w old e)

/-- The step of a lane seed (R123). -/
def nextSeed (x : W32) : W32 :=
  let x0 := if x = 0 then 0x6D2B79F5 else x
  let x1 := x0 ^^^ (x0 <<< 13)
  let x2 := x1 ^^^ (x1 >>> 17)
  x2 ^^^ (x2 <<< 5)

/-- How many of the first n elements of width w are written and lie in lane j. -/
def drawsIn (w : Nat) (written : Nat → Bool) (n j : Nat) : Nat :=
  ((List.range n).filter fun e => written e && e * w / 32 == j).length

/-- What element e draws under SR: the elements written draw in ascending order, each from its lane (R124). -/
def drawOf (w : Nat) (written : Nat → Bool) (seeds : Vector W32 64) (e : Nat) : Nat :=
  (nextSeed^[drawsIn w written (e + 1) (e * w / 32)] seeds[e * w / 32 % 64]).toNat / 65536

/-- The seeds after every written element has drawn once. -/
def seedsAfter (w : Nat) (written : Nat → Bool) (seeds : Vector W32 64) : Vector W32 64 :=
  Vector.ofFn fun (j : Fin 64) => nextSeed^[drawsIn w written (2048 / w) j] seeds[j]

/-- The binary tree of R162 over x 0 to x (2^k − 1), with the flags of all its nodes. -/
def pairTree (comb : Nat → Nat → Nat × Flags) : Nat → (Nat → Nat × Flags) → Nat → Nat × Flags
  | 0, x, i => x i
  | k + 1, x, i =>
    let a := pairTree comb k x (2 * i)
    let b := pairTree comb k x (2 * i + 1)
    ((comb a.1 b.1).1, a.2 ||| b.2 ||| (comb a.1 b.1).2)

/-- The rational that a value stands for; an infinity or a NaN stands for none. -/
def Val.rat (v : Val) : Option Rat :=
  match v with
  | .fin n a b => if b = 0 then none else some ((if n then -1 else 1) * (a : Rat) / b)
  | _ => none

/-! ## Memory through a window -/

/-- Those of n bytes at virtual address a that are used lie at pa, in storage of the own package, through pinned pages of one
leaf without VER, CKPT and SEAL that the quarantine table lets a window use. -/
structure State.PlainBytes (s : State) (pins : List Held) (a : Int) (n : Nat) (used : Nat → Bool) (leaf : Leaf) (pa : Nat) : Prop where
  pin : ∀ i < n, used i = true → pinPa pins (vaOf (a + i)) = some (leaf, s.group (pa + i))
  store : ∀ i < n, used i = true → pa + i < 2 ^ 48 ∧ tget s.seals ((pa + i) / 128) = none ∧ s.scratchBusy (pa + i) = false ∧
    s.quarantined (pa + i) = false
  plain : leaf.ver = false ∧ leaf.ckpt = false ∧ leaf.sealed = false

/-- Window n of a stream's word, with the cursor of the iteration (R183, R188). -/
def Tile.useOf (t : Tile) (x : BStream) (w : Window) (writer : Bool) : Use :=
  { image := w.image, pins := w.pins, cur := w.image.cursor (t.stream x).idxAt, ringoff := w.image.ringOffset writer }

/-- A load of the V stream ends: its registers are written at once in an interlocked block; in an exposed one they stand in the
landing buffer until the end of tc arr − 1 (R146, R236), landed unless the data come late. A load whose data come at once leaves no earlier
one of its stream to be performed (R265). -/
def State.VLands (s t : State) (tn : BitVec 6) (c arr : Nat) (u : Tile) (ws : List (Late × Kept)) : Prop :=
  let y := u.stream .v
  let wait (k : Tile) (w : Late × Kept) : Tile :=
    k.addPending { due := y.nextTc + arr - 1, stream := .v, landed := s.lateNext != some tn, load := true, what := w.1, kept := some w.2 }
  t = { s with
    tiles := s.tiles.set tn.toNat (t.tile tn)
    lateNext := if y.exposed = true then none else s.lateNext } ∧
  t.tile tn = (if y.exposed = true then ws.foldl wait (if s.lateNext = some tn then u else u.performAll .v) else ws.foldl (fun k w => k.applyLate w.1) u).issued .v c arr

/-- No load of the stream in flight waits for data that a snapshot would ask for again (R264, R307). -/
def Tile.noLateLoad (t : Tile) (x : BStream) : Prop := ∀ p ∈ t.pending, p.stream = x → p.landed = true ∨ p.kept = none

/-- An M command finds the oldest format word: the push of it is of an earlier tc (R16). -/
def Tile.formatDue (t : Tile) : Prop := t.m.exposed = false ∨ t.fmtAt < t.m.nextTc

/-- A store of a block stream through a page of that leaf changes memory with its poison marks (R396), the mark of an interval
that can no longer be rolled back (R371), reservations that it ends (R276), and the tiles to u but for their dirty marks (R301); nothing
else of the package. -/
def State.StoresOnly (s t : State) (leaf : Leaf) (u : BitVec 6 → Tile) : Prop :=
  t = { s with mem := t.mem, poison := t.poison, tiles := t.tiles, pool := t.pool, reservations := t.reservations } ∧
  (∀ r ∈ t.reservations, r ∈ s.reservations) ∧
  (leaf.ckpt = true ∨ (∀ n ∈ s.pool.nodes, n.ckpt = false) → t.pool = s.pool) ∧ (∀ p ∈ t.poison, p ∈ s.poison) ∧
  ∀ z, t.tile z = { u z with dirtyA := (t.tile z).dirtyA, dirtyB := (t.tile z).dirtyB }

/-- The box [0, w) × [row, row + h) of an operand window, from its cursor, gives f without an error. -/
def State.Operand (s : State) (tn : BitVec 6) (u : Use) (planes row w h : Nat) (f : Nat → Nat → Option Nat) : Prop :=
  ∀ x < w, ∀ y < h, s.cell tn u planes (u.c 0 + x) (u.c 1 + (row + y : Nat)) (u.c 2) = .ok { raw := f x y, bad := none }

/-- Every element in bounds of the window in use lies at `place`, in sound storage of the own package. -/
def State.PlainWindow (s : State) (u : Use) (leaf : Leaf) (place : Nat → Nat → Nat → Nat) : Prop :=
  ∀ i < u.image.bound 0, ∀ j < u.image.bound 1, ∀ k < u.image.bound 2,
    s.PlainBytes u.pins (u.addr i j k) ((fmtWidth u.image.fmt + 7) / 8) (fun _ => true) leaf (place i j k) ∧
    s.anyPoison (place i j k) ((fmtWidth u.image.fmt + 7) / 8) = false

/-- An element put somewhere: its virtual address, its place, which nibble of its byte it is when it has four bits, and its bits. -/
structure Put where
  va : Int
  place : Nat
  odd : Nat
  value : Nat
deriving DecidableEq, Repr

/-- What an element of width w puts into nibble h of the byte at q. -/
def Put.nibble (w : Nat) (p : Put) (q h : Nat) : Option Nat :=
  if w = 4 then (if q = p.place ∧ h = p.odd then some (p.value % 16) else none)
  else if p.place ≤ q ∧ q < p.place + w / 8 then some (p.value / 16 ^ (2 * (q - p.place) + h) % 16) else none

/-- Outside the landing words of `arrivals`, every nibble of memory holds what the last of the elements put there, else what it
held. -/
def State.Puts (s t : State) (w : Nat) (l : List Put) (arrivals : List Nat) : Prop :=
  ∀ q, (∀ a ∈ arrivals, q < a ∨ a + 16 ≤ q) → ∀ h < 2, (t.byte q).toNat / 16 ^ h % 16 =
    (l.reverse.findSome? fun p => p.nibble w q h).getD ((s.byte q).toNat / 16 ^ h % 16)

/-! ## Messages -/

/-- A message that R326 lets through arrives, and its package is this one. -/
structure State.ForUs (s : State) (m : BitVec 128) (kind : Nat) : Prop where
  header : headerOk m kind = true
  here : headerDpkg m = s.fabric.pkg.toNat

/-- s once the flits of a message that comes at port p have been counted; those of one that waited here were counted when it came (R325). -/
def State.counted (s : State) (p : BitVec 4) (m : BitVec 128) : State :=
  if ∃ w ∈ s.versions.waiting, messageIn w.2 = some (p, m) then s
  else s.onPort p fun x => { x with good := x.good + BitVec.ofNat 8 (m.toNat / 2 ^ 32 % 2 ^ 9), want := none }

/-- A message comes at port p, and the event that brings it ends in t; s is the state with its flits counted. -/
def State.Comes (s : State) (p : BitVec 4) (m : BitVec 128) (i : Instr) (t : State) : Prop :=
  ∀ s0 : State, s0.counted p m = s → exec i s0 = .next t

/-- What a message says beside its source. -/
structure Letter where
  pkg : Nat
  kind : Nat
  arg : Nat
  tag : Nat
  body : List Byte
deriving DecidableEq, Repr

/-- s after messages of die d have been sent, oldest first (R326, R328). -/
def State.mailed (s : State) (d : BitVec 2) (l : List Letter) : State :=
  l.foldl (fun s x => s.send d x.pkg x.kind x.arg x.tag x.body) s

end Sys2Proof.Machine
end

