-- ==== Sys2Proof/Certificates/Slice0/Obligations.lean ====
section
/-!
DEFINITION. Sys2Proof/Certificates/Slice0/Obligations.lean: the statements about the machine, one for each group of rules.
A statement about an instruction of a stream says what the next state is: the result, and that nothing else differs.
-/

open Sys2Proof Sys2Proof.Machine

/-! ## The C stream: integers, conditions, transfers -/

/-- R46: the ALU forms of the C stream give gd the value of the table, and change nothing else. -/
def Obligations.AluForms : Prop :=
  ∀ (s : State) (d ra rb : BitVec 5),
    let a := s.g ra
    let b := s.g rb
    let sh := b.toNat % 64
    ∀ p ∈ ([(.add d ra rb, BitVec.ofInt 64 (a.toInt + b.toInt)),
            (.sub d ra rb, BitVec.ofInt 64 (a.toInt - b.toInt)),
            (.and d ra rb, a &&& b),
            (.or d ra rb, a ||| b),
            (.xor d ra rb, a ^^^ b),
            (.andn d ra rb, a &&& ~~~b),
            (.sll d ra rb, BitVec.ofNat 64 (a.toNat * 2 ^ sh)),
            (.srl d ra rb, BitVec.ofNat 64 (a.toNat / 2 ^ sh)),
            (.sra d ra rb, BitVec.ofInt 64 (a.toInt / 2 ^ sh)),
            (.rol d ra rb, BitVec.ofNat 64 (a.toNat * 2 ^ sh % 2 ^ 64 + a.toNat / 2 ^ (64 - sh))),
            (.ror d ra rb, BitVec.ofNat 64 (a.toNat / 2 ^ sh + a.toNat * 2 ^ (64 - sh) % 2 ^ 64)),
            (.mul d ra rb, BitVec.ofInt 64 (a.toInt * b.toInt)),
            (.mulh d ra rb, BitVec.ofInt 64 (a.toInt * b.toInt / 2 ^ 64)),
            (.mulhn d ra rb, BitVec.ofNat 64 (a.toNat * b.toNat / 2 ^ 64)),
            (.min d ra rb, BitVec.ofInt 64 (min a.toInt b.toInt)),
            (.max d ra rb, BitVec.ofInt 64 (max a.toInt b.toInt)),
            (.minn d ra rb, BitVec.ofNat 64 (min a.toNat b.toNat)),
            (.maxn d ra rb, BitVec.ofNat 64 (max a.toNat b.toNat)),
            (.clz d ra, a.clz),
            (.ctz d ra, a.ctz),
            (.pop d ra, a.cpop),
            (.add32 d ra rb, ((BitVec.extractLsb' 0 32 a) + (BitVec.extractLsb' 0 32 b)).signExtend 64),
            (.sub32 d ra rb, ((BitVec.extractLsb' 0 32 a) - (BitVec.extractLsb' 0 32 b)).signExtend 64)] : List (Instr × W64)),
      ∃ t, exec p.1 s = .next t ∧ s.CRegister t d p.2

/-- R47: quotient and remainder of the four forms, with no trap for a zero divisor and the one signed overflow. -/
def Obligations.DivisionForms : Prop :=
  ∀ (s : State) (d ra rb : BitVec 5),
    let a := s.g ra
    let b := s.g rb
    let zero (x y : W64) : W64 := if b = 0 then x else y
    ∀ p ∈ ([(.div d ra rb, zero (BitVec.allOnes 64) (BitVec.ofInt 64 (Int.tdiv a.toInt b.toInt))),
            (.rem d ra rb, zero a (BitVec.ofInt 64 (Int.tmod a.toInt b.toInt))),
            (.divn d ra rb, zero (BitVec.allOnes 64) (BitVec.ofNat 64 (a.toNat / b.toNat))),
            (.remn d ra rb, zero a (BitVec.ofNat 64 (a.toNat % b.toNat)))] : List (Instr × W64)),
      (∃ t, exec p.1 s = .next t ∧ s.CRegister t d p.2) ∧
      (a = 0x8000000000000000 → b = BitVec.allOnes 64 →
        (∃ t, exec (.div d ra rb) s = .next t ∧ s.CRegister t d a) ∧ ∃ t, exec (.rem d ra rb) s = .next t ∧ s.CRegister t d 0)

/-- R48, R49, R51: the immediate forms, li, lik and sel. lik keeps the 48 bits outside its chunk. -/
def Obligations.ImmediateForms : Prop :=
  ∀ (s : State) (d ra rb : BitVec 5) (i : BitVec 16) (n : BitVec 6) (m : BitVec 21) (c : BitVec 3),
    let a := s.g ra
    let z := BitVec.ofNat 64 i.toNat
    (∀ p ∈ ([(.addi d ra i, BitVec.ofInt 64 (a.toInt + i.toInt)),
            (.andi d ra i, a &&& z),
            (.ori d ra i, a ||| z),
            (.xori d ra i, a ^^^ z),
            (.slli d ra n, BitVec.ofNat 64 (a.toNat * 2 ^ n.toNat)),
            (.srli d ra n, BitVec.ofNat 64 (a.toNat / 2 ^ n.toNat)),
            (.srai d ra n, BitVec.ofInt 64 (a.toInt / 2 ^ n.toNat)),
            (.rori d ra n, BitVec.ofNat 64 (a.toNat / 2 ^ n.toNat + a.toNat * 2 ^ (64 - n.toNat) % 2 ^ 64)),
            (.li d m, BitVec.ofInt 64 m.toInt),
            (.sel d ra rb c, if s.c c = true then a else s.g rb)] : List (Instr × W64)),
      ∃ t, exec p.1 s = .next t ∧ s.CRegister t d p.2) ∧
    ∀ k : BitVec 2, ∃ t, exec (.lik d k i) s = .next t ∧ s.CRegister t d (t.g d) ∧
      (d ≠ 0 → ∀ j < 64, (t.g d).getLsbD j =
        if 16 * k.toNat ≤ j ∧ j < 16 * k.toNat + 16 then i.getLsbD (j - 16 * k.toNat) else (s.g d).getLsbD j)

/-- R50, R52: comparisons and condition logic give cd one bit. -/
def Obligations.ConditionForms : Prop :=
  ∀ (s : State) (d ca cb : BitVec 3) (ra rb : BitVec 5) (i : BitVec 16),
    let a := s.g ra
    let b := s.g rb
    let im := BitVec.ofInt 64 i.toInt
    ∀ p ∈ ([(.cmp d ra rb 0, decide (a = b)), (.cmp d ra rb 1, decide (a ≠ b)),
            (.cmp d ra rb 2, decide (a.toInt < b.toInt)), (.cmp d ra rb 3, decide (a.toInt ≤ b.toInt)),
            (.cmp d ra rb 4, decide (a.toInt > b.toInt)), (.cmp d ra rb 5, decide (a.toInt ≥ b.toInt)),
            (.cmp d ra rb 6, decide (a.toNat < b.toNat)), (.cmp d ra rb 7, decide (a.toNat ≤ b.toNat)),
            (.cmp d ra rb 8, decide (a.toNat > b.toNat)), (.cmp d ra rb 9, decide (a.toNat ≥ b.toNat)),
            (.cmpi 0 d ra i, decide (a = im)), (.cmpi 1 d ra i, decide (a ≠ im)),
            (.cmpi 2 d ra i, decide (a.toInt < i.toInt)), (.cmpi 3 d ra i, decide (a.toNat < i.toNat)),
            (.cand d ca cb, s.c ca && s.c cb), (.cor d ca cb, s.c ca || s.c cb), (.cxor d ca cb, s.c ca != s.c cb),
            (.candn d ca cb, s.c ca && !s.c cb), (.cnot d ca, !s.c ca), (.cset d, true), (.cclr d, false)] : List (Instr × Bool)),
      ∃ t, exec p.1 s = .next t ∧ s.CCondition t d p.2

/-- R55 to R58: the transfers. Their two delay slots follow, then the target; x + 12 when br is not taken. In a delay slot
each of them is CTLINT. -/
def Obligations.Transfers : Prop :=
  ∀ (s : State) (n : BitVec 2) (c : BitVec 3) (d a : BitVec 5), s.cRuns →
    let b := s.ctl.b[n.toNat].setWidth 17
    let past := s.ctl.pc + 12
    let goes (i : Instr) (k : Control) := ∃ t, exec i s = .next t ∧ s.CBecomes t { s.tile s.curTile with control := k }
    let traps (i : Instr) := ∃ t, exec i s = .next t ∧ s.CTraps t 0x05 0
    (s.ctl.slot = 0 →
      goes (.br n c) (s.ctl.jumps (if s.c c = true then b else past)) ∧
      goes (.brN n c) (s.ctl.jumps (if s.c c = true then past else b)) ∧
      goes (.brA n) (s.ctl.jumps b) ∧
      (s.ctl.shadow.length < 64 →
        let link := s.ctl.pc.toNat + 12
        goes (.call d n) { s.ctl.jumps b with
          shadow := BitVec.ofNat 16 link :: s.ctl.shadow
          g := if d = 0 then s.ctl.g else s.ctl.g.set d.toNat (BitVec.ofNat 64 link) }) ∧
      (64 ≤ s.ctl.shadow.length → traps (.call d n)) ∧
      (∀ top rest, s.ctl.shadow = top :: rest → (s.g a).toNat = top.toNat → top.toNat % 4 = 0 →
        goes (.ret a) { s.ctl.jumps (top.setWidth 17) with shadow := rest })) ∧
    (s.ctl.shadow = [] ∨ (∃ top rest, s.ctl.shadow = top :: rest ∧ (s.g a).toNat ≠ top.toNat) ∨ (s.g a).toNat % 4 ≠ 0 →
      traps (.ret a)) ∧
    (s.ctl.slot ≠ 0 → traps (.br n c) ∧ traps (.brN n c) ∧ traps (.brA n) ∧ traps (.call d n) ∧ traps (.ret a))

/-- R54: both delay slots execute in order, then control passes to the target that the transfer fixed, whatever a slot
writes into the branch-target register. Here slot 1 writes it and slot 2 is a nop. -/
def Obligations.DelaySlots : Prop :=
  ∀ (s : State) (n : BitVec 2) (c : BitVec 3) (a : BitVec 5), s.cRuns → s.ctl.slot = 0 →
    (s.g a).toNat ≤ 0xFFFC → (s.g a).toNat % 4 = 0 →
    ∃ t1, exec (.br n c) s = .next t1 ∧ t1.ctl.pc = s.ctl.pc + 4 ∧
    ∃ t2, exec (.btReg n a) t1 = .next t2 ∧ t2.ctl.pc = s.ctl.pc + 8 ∧ t2.ctl.b[n.toNat].toNat = (s.g a).toNat ∧
    ∃ t3, exec .nop t2 = .next t3 ∧
      t3.ctl.pc = (if s.c c = true then s.ctl.b[n.toNat].setWidth 17 else s.ctl.pc + 12) ∧ t3.ctl.slot = 0 ∧
      ∀ r, t3.g r = s.g r

/-- R53: a target in 0x0000 to 0xFFFC that is a multiple of 4 is placed in bn; any other is CTLINT. -/
def Obligations.BranchTargets : Prop :=
  ∀ (s : State) (n : BitVec 2) (a : BitVec 5) (i : BitVec 21), s.cRuns →
    s.noAnswer →
    ∀ p ∈ ([(.btSet n i, (s.ctl.pc.toNat : Int) + i.toInt * 4), (.btReg n a, ((s.g a).toNat : Int))] : List (Instr × Int)),
      (0 ≤ p.2 → p.2 ≤ 0xFFFC → p.2 % 4 = 0 → ∃ t, exec p.1 s = .next t ∧
        s.CBecomes t { s.tile s.curTile with
          control := { s.ctl.next with b := s.ctl.b.set n.toNat (BitVec.ofInt 16 p.2) } }) ∧
      (p.2 < 0 ∨ 0xFFFC < p.2 ∨ p.2 % 4 ≠ 0 → ∃ t, exec p.1 s = .next t ∧ s.CTraps t 0x05 0)

/-- R69 to R74: fence, qmark, nop, pause and prefetch change no register and no byte; pause keeps the count for which the
stream issues nothing. -/
def Obligations.HintsAndMarkers : Prop :=
  ∀ (s : State) (k : BitVec 2) (q : BitVec 3) (a : BitVec 5) (n : BitVec 4) (c : BitVec 12),
    (∀ i ∈ ([.fence k q, .qmark, .nop, .prefetch a n] : List Instr), ∃ t, exec i s = .next t ∧ s.CEnds t) ∧
    ∃ t, exec (.pause c) s = .next t ∧
      s.CBecomes t { s.tile s.curTile with control := { s.ctl.next with pause := c.toNat, since := (s.tile s.curTile).tc } }

/-! ## The C stream: memory -/

/-- R59 to R61, R64: a load gives gd the bytes at its address, least significant first, sign-extended for the i forms and
zero-extended for the n forms. R353, R359, R362, R374, R399: through VER, CKPT and SEAL pages it gives those of the version that it
sees, in place or in a record; a sealed line whose tag fails is INTEGRITY and quarantines its frame. A block stream reads through a
SNAP window at the snapshot of its node. -/
def Obligations.Loads : Prop :=
  (∀ (s : State) (d a b : BitVec 5) (z : BitVec 3) (i : BitVec 11) (o : BitVec 1) (q : BitVec 3) (leaf : Leaf) (pa : Nat),
    z ≠ 7 →
    let n := 2 ^ (z.toNat % 4)
    let x := leNat (s.mem.bytes pa n)
    let v : W64 := if z.toNat < 4 then BitVec.ofInt 64 (BitVec.ofNat (8 * n) x).toInt else BitVec.ofNat 64 x
    s.anyPoison pa n = false →
    (s.PlainAccess .read (s.g a + BitVec.ofInt 64 i.toInt) n leaf pa →
      ∃ t, exec (.ld d a z i) s = .next t ∧ s.CRegister t d v) ∧
    (s.PlainAccess .read (s.g a + s.g b) n leaf pa →
      ∃ t, exec (.ldo d a b z o q) s = .next t ∧ s.CRegister t d v)) ∧
  ∀ (s : State) (d a b : BitVec 5) (z : BitVec 3) (i : BitVec 11) (o : BitVec 1) (q : BitVec 3) (leaf : Leaf) (pa : Nat) (k : Byte) (x : Tx)
    (g : SealTag) (j : Nat) (r : Record), z ≠ 7 →
    let n := 2 ^ (z.toNat % 4)
    let l := pa / 128
    let value (x : Nat) : W64 := if z.toNat < 4 then BitVec.ofInt 64 (BitVec.ofNat (8 * n) x).toInt else BitVec.ofNat 64 x
    let inPlace := leNat (s.mem.bytes pa n)
    let recorded := leNat ((r.data.drop (pa % 128)).take n)
    let sound := s.anyPoison pa n = false ∧ tget s.seals l = none
    let whole := r.poison = 0 ∧ r.tag = none
    let older (st : Nat) := (s.records l).find? fun e => e.2.kind == 0 && decide (e.2.stamp.toNat ≤ st)
    (∀ p ∈ ([(.ld d a z i, s.g a + BitVec.ofInt 64 i.toInt), (.ldo d a b z o q, s.g a + s.g b)] : List (Instr × W64)),
      s.LineAccess .read p.2 n leaf pa →
      let gives (y : Nat) : Prop := ∃ t, exec p.1 s = .next t ∧ s.CRegister t d (value y)
      (leaf.sealed = false → sound → leaf.ver = false ∨ s.openSlot s.curTile = none → gives inPlace) ∧
      (leaf.sealed = false → leaf.ver = true → s.openSlot s.curTile = some k → tget s.versions.txs k.toNat = some x →
        (s.tentative l k = some (j, r) → whole → gives recorded) ∧
        (s.tentative l k = none → (s.line l).stamp.toNat ≤ x.snapshot → sound → gives inPlace) ∧
        (s.tentative l k = none → x.snapshot < (s.line l).stamp.toNat → older x.snapshot = some (j, r) → whole → gives recorded)) ∧
      (leaf.sealed = true → leaf.ver = false ∨ s.openSlot s.curTile = none → s.anyPoison (128 * l) 128 = false → tget s.seals l = some g →
        (g.good = true → g.key = s.key leaf.key → gives inPlace) ∧
        (g.good = false ∨ g.key ≠ s.key leaf.key → ∃ t, exec p.1 s = .next t ∧ s.SameBytes t ∧
          t.tile s.curTile = (s.tile s.curTile).controlTrap 0x0F p.2 ∧
          ((∃ e : Fin 256, s.qtab[e].getLsbD 63 = false) → t.quarantined pa = true)))) ∧
    ∀ (tn : BitVec 6) (y : BStream) (u : Use) (va : Int) (m st : Nat), u.image.snap = true → s.nodeSnapshot tn = some st →
      pinPa u.pins (vaOf va) = some (leaf, s.group pa) → leaf.ver = true → leaf.sealed = false → pa < 2 ^ 39 → pa % 128 + m ≤ 128 → 0 < m →
      s.quarantined pa = false →
      ((s.line l).stamp.toNat ≤ st → s.anyPoison pa m = false → tget s.seals l = none → s.winRead tn y u va m = .ok (s.mem.bytes pa m, false)) ∧
      (st < (s.line l).stamp.toNat → older st = some (j, r) → whole → r.data.length = 128 →
        s.winRead tn y u va m = .ok ((r.data.drop (pa % 128)).take m, false))

/-- R59, R60, R62, R64: a store changes exactly the bytes at its address. R353 to R358, R366, R370: through VER and CKPT pages it keeps the
old version of the line where a live snapshot or an open interval needs it, waits for a record where there is none, and is VERFULL once it
has waited for BOUND; so does a write of a block stream. R362: in an open transaction it goes to the line's tentative version, and no byte in
place changes. R374: through a SEAL page it gives the line a tag, or leaves a failed one failed. -/
def Obligations.Stores : Prop :=
  (∀ (s : State) (d a b : BitVec 5) (z : BitVec 2) (i : BitVec 11) (o : BitVec 1) (q : BitVec 3) (leaf : Leaf) (pa : Nat),
    let n := 2 ^ z.toNat
    (s.PlainAccess .write (s.g a + BitVec.ofInt 64 i.toInt) n leaf pa →
      ∃ t, exec (.st d a z i) s = .next t ∧ s.CStores t leaf pa n (s.g d).toNat ∧ t.ctl = s.ctl.next) ∧
    (s.PlainAccess .write (s.g a + s.g b) n leaf pa →
      ∃ t, exec (.sto d a b z o q) s = .next t ∧ s.CStores t leaf pa n (s.g d).toNat ∧ t.ctl = s.ctl.next)) ∧
  ∀ (s : State) (d a b : BitVec 5) (z : BitVec 2) (i : BitVec 11) (o : BitVec 1) (q : BitVec 3) (leaf : Leaf) (pa : Nat) (k : Byte) (y : Tx)
    (g : SealTag) (j : Nat) (r : Record),
    let n := 2 ^ z.toNat
    let v := (s.g d).toNat
    let l := pa / 128
    let m := s.line l
    let w := s.curWriter
    let written (bs : List Byte) : List Byte := bs.take (pa % 128) ++ leBytes n v ++ bs.drop (pa % 128 + n)
    let waits := { s.ctl with stalled := true, denied := some (s.ctl.denied.getD s.time.ns.toNat) }
    (∀ p ∈ ([(.st d a z i, s.g a + BitVec.ofInt 64 i.toInt), (.sto d a b z o q, s.g a + s.g b)] : List (Instr × W64)),
      s.LineAccess .write p.2 n leaf pa →
      let ends (f : State → Prop) : Prop := ∃ t, exec p.1 s = .next t ∧ t.ctl = s.ctl.next ∧ f t
      let stored (t : State) : Prop := leNat (t.mem.bytes pa n) = v % 2 ^ (8 * n) ∧ s.SameBytesBut t pa n
      (leaf.ver = false ∨ s.openSlot s.curTile = none →
        (leaf.sealed = false → tget s.seals l = none → leaf.ver = false ∨ s.versions.rebasing = false →
          (s.keepsOld leaf l = false ∧ s.logsUndo w leaf l = false ∨ s.recordRoom l → ends fun t => stored t ∧ s.VersionWritten t w leaf l) ∧
          (s.keepsOld leaf l = true ∨ s.logsUndo w leaf l = true → ¬s.recordRoom l → ∃ t, exec p.1 s = .next t ∧
            (s.overdue s.ctl.denied = false → s.CBecomes t { s.tile s.curTile with control := waits }) ∧
            (s.overdue s.ctl.denied = true → s.SameBytes t ∧
              t.tile s.curTile = { s.tile s.curTile with control := { s.ctl with denied := none } }.controlTrap 0x14 p.2))) ∧
        (leaf.ver = true → s.versions.rebasing = true → ∃ t, exec p.1 s = .next t ∧ s.CWaits t) ∧
        (leaf.sealed = true → leaf.ver = false → leaf.ckpt = false →
          (tget s.seals l = some g → ends fun t => stored t ∧ tget t.seals l =
            some (if g.good = true ∧ g.key = s.key leaf.key then { g with stamp := m.stamp } else { g with good := false })) ∧
          (tget s.seals l = none → ends fun t => leNat (t.mem.bytes pa n) = v % 2 ^ (8 * n) ∧
            (∀ e, e / 128 ≠ l → t.byte e = s.byte e) ∧
            (∀ e, e / 128 = l → e < pa ∨ pa + n ≤ e → t.byte e = Config.unsealedByte (s.key leaf.key) (s.group e)) ∧
            tget t.seals l = some { key := s.key leaf.key, stamp := m.stamp, good := true }))) ∧
      (leaf.ver = true → leaf.sealed = false → s.openSlot s.curTile = some k → tget s.versions.txs k.toNat = some y →
        let holds (t : State) (y : Tx) := tget t.versions.txs k.toNat = some y
        (y.status ≠ none → ∃ t, exec p.1 s = .next t ∧ s.CEnds t) ∧
        (y.status = none →
          (m.tent = true → m.owner ≠ k → ends fun t => s.SameBytes t ∧ holds t { y with status := some 1, lines := [] }) ∧
          (s.tentative l k = some (j, r) → r.tag = none → ends fun t => s.SameBytes t ∧ holds t y ∧
            t.tentative l k = some (j, { r with
              data := written r.data, viaCkpt := r.viaCkpt || leaf.ckpt, viaPlain := r.viaPlain || !leaf.ckpt })) ∧
          (m.tent = false → 65536 ≤ y.lines.length → ends fun t => s.SameBytes t ∧ holds t { y with status := some 2, lines := [] }) ∧
          (m.tent = false → y.lines.length < 65536 →
            (s.recordRoom l → (s.versionAt l y.snapshot).2.2 = none → ends fun t => s.SameBytes t ∧ holds t { y with lines := y.lines ++ [l] } ∧
              (t.line l).tent = true ∧ (t.line l).owner = k ∧
              (t.tentative l k).map (fun e => e.2.data) = some (written (s.versionAt l y.snapshot).1)) ∧
            (¬s.recordRoom l → s.overdue s.ctl.denied = false → ∃ t, exec p.1 s = .next t ∧
              s.CBecomes t { s.tile s.curTile with control := waits }) ∧
            (¬s.recordRoom l → s.overdue s.ctl.denied = true → ends fun t => s.SameBytes t ∧ holds t { y with status := some 3, lines := [] }))))) ∧
    ∀ (tn : BitVec 6) (x : BStream) (u : Use) (va : Int) (bs : List Byte), u.image.snap = false → leaf.w = true → leaf.sealed = false →
      pinPa u.pins (vaOf va) = some (leaf, s.group pa) → pa < 2 ^ 39 → pa % 128 + bs.length ≤ 128 → 0 < bs.length → s.quarantined pa = false →
      tget s.seals l = none → (s.tile tn).noLateLoad x → leaf.ver = false ∨ s.versions.rebasing = false →
      let w := s.tileWriter tn
      (s.keepsOld leaf l = false ∧ s.logsUndo w leaf l = false ∨ s.recordRoom l → ∃ t, s.winWrite tn x u va bs = .ok t ∧
        t.mem.bytes pa bs.length = bs ∧ s.SameBytesBut t pa bs.length ∧ s.VersionWritten t w leaf l) ∧
      (s.keepsOld leaf l = true ∨ s.logsUndo w leaf l = true → ¬s.recordRoom l → s.winWrite tn x u va bs = .error (.denied (128 * l)))

/-- R65 to R68: an atomic gives gd the old value (sign-extended when it is 4 bytes wide, but for fadd32) and leaves its
combination in memory; cas writes only when the old value equals gd. A NaN operand of fadd32 gives 0x7FC0_0000 (R66). -/
def Obligations.Atomics : Prop :=
  ∀ (s : State) (d a b : BitVec 5) (w : BitVec 1) (o : BitVec 2) (q : BitVec 3) (leaf : Leaf) (pa : Nat),
    let n := if w = 1 then 8 else 4
    let k := 8 * n
    let old := leNat (s.mem.bytes pa n)
    let v := (s.g b).toNat % 2 ^ k
    let sold := (BitVec.ofNat k old).toInt
    let sv := (BitVec.ofNat k v).toInt
    let back : W64 := BitVec.ofInt 64 sold
    s.anyPoison pa n = false → s.PlainAccess .atomic (s.g a) n leaf pa →
    let ends (t : State) (r : W64) := t.ctl = { s.ctl.next with g := if d = 0 then s.ctl.g else s.ctl.g.set d.toNat r }
    (∀ p ∈ ([(.amoAdd d a b w o q, old + v), (.amoAnd d a b w o q, old &&& v), (.amoOr d a b w o q, old ||| v),
             (.amoXor d a b w o q, old ^^^ v), (.amoMin d a b w o q, if sv < sold then v else old),
             (.amoMax d a b w o q, if sold < sv then v else old), (.amoMinn d a b w o q, min old v),
             (.amoMaxn d a b w o q, max old v), (.amoSwap d a b w o q, v)] : List (Instr × Nat)),
      ∃ t, exec p.1 s = .next t ∧ s.CStores t leaf pa n p.2 ∧ ends t back) ∧
    (old = (s.g d).toNat % 2 ^ k → ∃ t, exec (.cas d a b w o q) s = .next t ∧ s.CStores t leaf pa n v ∧ ends t back) ∧
    (old ≠ (s.g d).toNat % 2 ^ k → ∃ t, exec (.cas d a b w o q) s = .next t ∧ s.CRegister t d back) ∧
    (w = 0 →
      let sum := fadd32 (BitVec.ofNat 32 old) (BitVec.ofNat 32 v)
      (∃ t, exec (.amoFadd32 d a b o q) s = .next t ∧ s.CStores t leaf pa 4 sum.toNat ∧ ends t (BitVec.ofNat 64 old)) ∧
      ((0x7F800000 < old % 2 ^ 31 ∨ 0x7F800000 < v % 2 ^ 31) → sum = 0x7FC00000))

/-- R45, R60: an effective address that is no multiple of the access size is ALIGN, before every other check, and the
access does not happen. -/
def Obligations.Misaligned : Prop :=
  ∀ (s : State) (d a b : BitVec 5) (z : BitVec 3) (y : BitVec 2) (i : BitVec 11) (w : BitVec 1) (o1 : BitVec 1) (o : BitVec 2)
    (q : BitVec 3), s.cRuns →
    let im := BitVec.ofInt 64 i.toInt
    ∀ p ∈ ([(.ld d a z i, s.g a + im, 2 ^ (z.toNat % 4)), (.st d a y i, s.g a + im, 2 ^ y.toNat),
            (.ldo d a b z o1 q, s.g a + s.g b, 2 ^ (z.toNat % 4)), (.sto d a b y o1 q, s.g a + s.g b, 2 ^ y.toNat),
            (.amoAdd d a b w o q, s.g a, if w = 1 then 8 else 4), (.amoAnd d a b w o q, s.g a, if w = 1 then 8 else 4),
            (.amoOr d a b w o q, s.g a, if w = 1 then 8 else 4), (.amoXor d a b w o q, s.g a, if w = 1 then 8 else 4),
            (.amoMin d a b w o q, s.g a, if w = 1 then 8 else 4), (.amoMax d a b w o q, s.g a, if w = 1 then 8 else 4),
            (.amoMinn d a b w o q, s.g a, if w = 1 then 8 else 4), (.amoMaxn d a b w o q, s.g a, if w = 1 then 8 else 4),
            (.amoSwap d a b w o q, s.g a, if w = 1 then 8 else 4), (.amoFadd32 d a b o q, s.g a, 4),
            (.cas d a b w o q, s.g a, if w = 1 then 8 else 4), (.lwArm a b, s.g a, 16), (.lwGet d a b, s.g a, 16),
            (.lwTest q a b, s.g a, 16), (.lwWait a b, s.g a, 16)] : List (Instr × W64 × Nat)),
      p.2.1.toNat % p.2.2 ≠ 0 → ∃ t, exec p.1 s = .next t ∧ s.CTraps t 0x04 p.2.1

/-! ## The C stream: semaphores, landing words, barriers, queues -/

/-- R78: the sem forms. A raise past 65,535 and an operand above it are SEMOVF with no effect. -/
def Obligations.Semaphores : Prop :=
  ∀ (s : State) (a d : BitVec 5) (c : BitVec 3) (n k : BitVec 6), s.cRuns →
    let v := (s.g a + BitVec.ofNat 64 k.toNat).toNat
    let tl := s.tile s.curTile
    let x := tl.sem n
    let goes (i : Instr) (y : Tile) := ∃ t, exec i s = .next t ∧ s.CBecomes t y
    let cond (b : Bool) : Control := { s.ctl.next with c := (s.ctl.setCond c b).c }
    let less : Sem := { x with count := x.count - BitVec.ofNat 16 v }
    (v ≤ 65535 →
      (x.count.toNat + v ≤ 65535 →
        goes (.semRaise a n k) { tl.setSem n { x with count := x.count + BitVec.ofNat 16 v } with control := s.ctl.next }) ∧
      (65535 < x.count.toNat + v → ∃ t, exec (.semRaise a n k) s = .next t ∧ s.CTraps t 0x0A 0) ∧
      (x.poison = true → goes (.semWait c a n k) { tl with control := cond true } ∧
        goes (.semTry c a n k) { tl with control := cond false }) ∧
      (x.poison = false → v ≤ x.count.toNat →
        goes (.semWait c a n k) { tl.setSem n less with control := cond false } ∧
        goes (.semTry c a n k) { tl.setSem n less with control := cond true }) ∧
      (x.poison = false → x.count.toNat < v →
        (∃ t, exec (.semWait c a n k) s = .next t ∧ s.CWaits t) ∧ goes (.semTry c a n k) { tl with control := cond false }) ∧
      goes (.semSet a n k) { tl.setSem n { count := BitVec.ofNat 16 v, poison := false } with control := s.ctl.next } ∧
      goes (.semRing a n k) { (tl.setSem n { count := 0, poison := false }).setSem (n + 1)
        { count := BitVec.ofNat 16 v, poison := false } with control := s.ctl.next }) ∧
    (65535 < v → ∀ i ∈ ([.semRaise a n k, .semWait c a n k, .semTry c a n k, .semSet a n k, .semRing a n k] : List Instr),
      ∃ t, exec i s = .next t ∧ s.CTraps t 0x0A 0) ∧
    ∃ t, exec (.semRead d n) s = .next t ∧
      s.CRegister t d (BitVec.ofNat 64 (x.count.toNat + if x.poison = true then 65536 else 0))

/-- R82: the lw forms. lw.arm changes the landing word and what follows every store alone; the others read it. A word is reached when it is
armed and its GEN is at or past the generation; lw.wait waits for that, and lw.get waits, in the user handler too, or, when the user
handler takes it, is NOTREADY. -/
def Obligations.LandingWords : Prop :=
  ∀ (s : State) (d a b : BitVec 5) (c : BitVec 3) (leaf : Leaf) (pa : Nat), s.cRuns →
    let v := (s.g b).toNat % 2 ^ 32
    let l := s.landing pa
    let reached := l.armed = true ∧ v ≤ l.gen
    (s.LandingWord true (s.g a) leaf pa → ∃ t, exec (.lwArm a b) s = .next t ∧ t.ctl = s.ctl.next ∧ s.SameBytesBut t pa 16 ∧
      t.landing pa = (if v = 0 then { l with armed := false }
        else { l with target := v, count := 0, gen := 0, err := false, ovr := false, armed := true }) ∧
      (∀ u, t.tile u = { s.tile u with
        control := (t.tile u).control, dirtyA := (t.tile u).dirtyA, dirtyB := (t.tile u).dirtyB }) ∧
      (∀ u, u ≠ s.curTile → (t.tile u).control = (s.tile u).control) ∧
      t = { s with
        mem := t.mem
        tiles := t.tiles
        pool := (s.markUnrollable s.curWriter leaf (s.group pa)).pool
        reservations := ((s.unreserve pa 12).unreserve (pa + 12) 1).reservations }) ∧
    (s.LandingWord false (s.g a) leaf pa →
      (∃ t, exec (.lwTest c a b) s = .next t ∧ s.CCondition t c (decide reached)) ∧
      (reached →
        (∃ t, exec (.lwGet d a b) s = .next t ∧ s.CRegister t d (BitVec.ofNat 64 (l.gen + (if l.err = true then 2 ^ 32 else 0) +
          (if l.ovr = true then 2 ^ 33 else 0) + 2 ^ 34))) ∧
        ∃ t, exec (.lwWait a b) s = .next t ∧ s.CEnds t) ∧
      (¬reached →
        (∃ t, exec (.lwWait a b) s = .next t ∧ s.CWaits t) ∧
        ((s.tile s.curTile).user.nren = false ∨ (s.tile s.curTile).user.inHandler = true →
          ∃ t, exec (.lwGet d a b) s = .next t ∧ s.CWaits t) ∧
        ((s.tile s.curTile).user.nren = true → (s.tile s.curTile).user.inHandler = false →
          ∃ t, exec (.lwGet d a b) s = .next t ∧ s.OnlyTile t s.curTile ∧ s.SameBytes t ∧
            (t.tile s.curTile).user.ucause = 0x0C ∧ (t.tile s.curTile).user.utval = s.g a ∧
            (t.tile s.curTile).user.inHandler = true ∧ t.ctl.pc.toNat = (s.tile s.curTile).user.utvec.toNat * 4)))

/-- R83, R84: the domain barriers of a node whose domain lies in the package. The last arrival of a phase starts the next one
and empties the set of arrivals; a second arrival in a phase waits; wait and test compare phases. -/
def Obligations.Barriers : Prop :=
  ∀ (s : State) (d a : BitVec 5) (c : BitVec 3) (i : BitVec 4) (n : Node), s.cRuns →
    s.tileNode s.curTile = some n → s.barrierReady = true → n.dlev ≠ 4 →
    let b := n.barriers[i.toNat]
    let me := (s.tile s.curTile).share
    let passed := b.phase.toNat ≠ (s.g a).toNat % 2 ^ 31
    (me ∉ b.arrived → ∃ t, exec (.barArrive d i) s = .next t ∧
      t.pool = (s.onNode n.handle fun m => m.setBarrier i
        (if n.tileCount ≤ b.arrived.length + 1 then { phase := b.phase + 1, arrived := [] }
         else { b with arrived := me :: b.arrived })).pool ∧
      t = { s with pool := t.pool, tiles := t.tiles } ∧
      (∀ u, u ≠ s.curTile → t.tile u = s.tile u) ∧
      t.tile s.curTile = { s.tile s.curTile with control := { s.ctl.next with
        g := if d = 0 then s.ctl.g else s.ctl.g.set d.toNat (BitVec.ofNat 64 b.phase.toNat) } }) ∧
    (me ∈ b.arrived → ∃ t, exec (.barArrive d i) s = .next t ∧ s.CWaits t) ∧
    (passed → ∃ t, exec (.barWait a i) s = .next t ∧ s.CEnds t) ∧
    (¬passed → ∃ t, exec (.barWait a i) s = .next t ∧ s.CWaits t) ∧
    ∃ t, exec (.barTest c a i) s = .next t ∧ s.CCondition t c (decide passed)

/-- R91, R92: the format queue takes words at its end, the vote queue gives its oldest flag, each waiting when it cannot; waite
ends with cd = 1 when its event is true and otherwise waits for its timeout, which ends it, with cd = 0 unless the event is true in the
tc in which it expires. -/
def Obligations.QueuesAndWaits : Prop :=
  ∀ (s : State) (a : BitVec 5) (c : BitVec 3) (n : BitVec 6) (x : BitVec 2), s.cRuns →
    let tl := s.tile s.curTile
    let goes (i : Instr) (y : Tile) := ∃ t, exec i s = .next t ∧ s.CBecomes t y
    let one : Control := { s.ctl.next with c := (s.ctl.setCond c true).c }
    let first := if s.ctl.wait = none then tl.tc else s.ctl.since
    let waits : Tile := { tl with control := { s.ctl with stalled := true, wait := some (s.ctl.wait.getD (s.g a).toNat), since := first } }
    (tl.formats.length < 16 → goes (.fmtPush a) { tl with
      formats := tl.formats ++ [(s.g a).setWidth 32]
      fmtAt := tl.tc
      fmtNew := if tl.fmtAt = tl.tc then tl.fmtNew + 1 else 1
      control := s.ctl.next }) ∧
    (16 ≤ tl.formats.length → ∃ t, exec (.fmtPush a) s = .next t ∧ s.CWaits t) ∧
    (∀ v r, tl.votes = v :: r →
      goes (.fqPop c) { tl with votes := r, control := { s.ctl.next with c := (s.ctl.setCond c v).c } }) ∧
    (tl.votes = [] → ∃ t, exec (.fqPop c) s = .next t ∧ s.CWaits t) ∧
    (if (tl.sem n).poison = true ∨ 0 < (tl.sem n).count.toNat then goes (.waiteSem c a n) { tl with control := one }
     else goes (.waiteSem c a n) waits) ∧
    (if tl.votes ≠ [] then goes (.waiteVote c a) { tl with control := one } else goes (.waiteVote c a) waits) ∧
    (if (tl.stream (streamOf x)).state = .idle ∨ (tl.stream (streamOf x)).state = .stopped ∨ (tl.stream (streamOf x)).state = .faulted
     then goes (.waiteStream c a x) { tl with control := one } else goes (.waiteStream c a x) waits) ∧
    ∀ (w : Nat) (u : Tile), s.ctl.wait = some w → w ≠ 0 → tl.controlLive = true → tl.countPast s.ctl.since w = some u →
      (s.setTile s.curTile u).noRaises s.curTile u.portNow →
      ∀ p ∈ ([(.waiteSem c a n, (u.sem n).poison || decide (0 < (u.sem n).count.toNat)), (.waiteVote c a, decide (u.votes ≠ [])),
              (.waiteStream c a x, (u.stream (streamOf x)).ended)] : List (Instr × Bool)),
        Decode.control (tl.codeWord s.ctl.pc.toNat) = .ok p.1 →
        goes (.waiteTimeout s.curTile) { u with control := { s.ctl.next with c := (s.ctl.setCond c p.2).c } }

/-! ## The C stream: windows, transactions, checkpoints -/

/-- R76, R89, R90, R182: win.set installs the image it reads, with its pins, once its fields and its reach are right and no fetched
block names the window, and while it waits it keeps the image that it has read; win.rel uninstalls it; win.read gives a word of it,
or 0. -/
def Obligations.Windows : Prop :=
  ∀ (s : State) (a d n : BitVec 5) (j : BitVec 3) (image : Vector W64 8) (pins : List Held), s.cRuns → s.noAnswer →
    s.shoot.busy = false →
    let tl := s.tile s.curTile
    (tl.latched = none ∧ s.readRecord (s.g a) = .ok image ∧ Image.fieldsOk image (s.holdsSnapshot s.curTile) = true ∨
        s.ctl.stalled = true ∧ tl.latched = some image →
      s.pinImage s.curTile image = .ok pins →
        (tl.windowBusy n = false →
          ((pageKeys (tl.pinsWithout n ++ pins)).length ≤ 512 → ∃ t, exec (.winSet a n) s = .next t ∧
            s.CBecomes t { tl.setWindow n (some { image := image, pins := pins }) with control := s.ctl.next }) ∧
          (512 < (pageKeys (tl.pinsWithout n ++ pins)).length → ∃ t, exec (.winSet a n) s = .next t ∧ s.CTraps t 0x13 0)) ∧
        (tl.windowBusy n = true → ∃ t, exec (.winSet a n) s = .next t ∧
          s.CBecomes t { tl with latched := some image, control := { s.ctl with stalled := true } })) ∧
    (tl.latched = none → s.readRecord (s.g a) = .ok image → Image.fieldsOk image (s.holdsSnapshot s.curTile) = false →
      ∃ t, exec (.winSet a n) s = .next t ∧ s.CTraps t 0x0E 0) ∧
    (tl.windowBusy n = false → ∃ t, exec (.winRel n) s = .next t ∧
      s.CBecomes t { tl.setWindow n none with control := s.ctl.next }) ∧
    (tl.windowBusy n = true → ∃ t, exec (.winRel n) s = .next t ∧ s.CWaits t) ∧
    ∃ t, exec (.winRead d j n) s = .next t ∧ s.CRegister t d (match tl.windows[n.toNat] with | some w => w.image[j.toNat] | none => 0)

/-- R99, R361 to R365: the transaction of a context. tx.open takes a free slot and the clock's value as its snapshot and
advances the clock; tx.commit of a transaction with no newer version under its lines takes the next stamp and puts its lines
in place, and with one it is a conflict and changes no byte; one that has been doomed keeps its status, and one that has ended gives what
it gave; tx.abort, tx.stamp and tx.release do what their names say; a handle that the context does not hold is PERM. In a node of
transaction mode the forms act on the node's transaction, which tx.open, tx.commit and tx.release do not touch. -/
def Obligations.Transactions : Prop :=
  ∀ (s : State) (d a : BitVec 5) (k : Byte) (x : Tx) (place : Nat → Nat × Record), s.cRuns → s.noAnswer →
    let tl := s.tile s.curTile
    let v := s.versions
    let back (t : State) (w : W64) := t.ctl = { s.ctl.next with g := if d = 0 then s.ctl.g else s.ctl.g.set d.toNat w }
    let fresh : Tx :=
      { snapshot := v.clock.toNat
        status := none
        ended := false
        stamp := 0
        lines := []
        node := tl.node
        share := some tl.share }
    let holds (t : State) (y : Tx) := tget t.versions.txs k.toNat = some y
    (s.inTxNode = false →
    ((v.txs.map Prod.fst).Pairwise (· < ·) → v.txs.length < 256 → s.liveSnaps.length < 4096 → v.rebasing = false → tl.tx = none →
      ∃ t, exec (.txOpen d) s = .next t ∧ ∃ q, (t.tile s.curTile).tx = some q ∧ tget v.txs q.toNat = none ∧
        tget t.versions.txs q.toNat = some fresh ∧
        (∀ i, i ≠ q.toNat → tget t.versions.txs i = tget v.txs i) ∧ t.versions.clock = v.clock + 1 ∧
        back t (q.setWidth 64) ∧ s.SameBytes t ∧ t = { s with versions := t.versions, tiles := t.tiles }) ∧
    (tl.tx ≠ none ∨ (v.rebasing = false ∧ (256 ≤ v.txs.length ∨ 4096 ≤ s.liveSnaps.length)) →
      ∃ t, exec (.txOpen d) s = .next t ∧ s.CRegister t d 0x0200000000000000) ∧
    (tl.tx = some k → tget v.txs k.toNat = some x → s.g a = k.setWidth 64 →
      (∃ t, exec (.txStamp d a) s = .next t ∧ s.CRegister t d (BitVec.ofNat 64 x.snapshot)) ∧
      (∃ t, exec (.txRelease a) s = .next t ∧ (t.tile s.curTile).tx = none ∧ tget t.versions.txs k.toNat = none ∧
        (∀ i, i ≠ k.toNat → tget t.versions.txs i = tget v.txs i) ∧ s.SameBytes t ∧ t.ctl = s.ctl.next) ∧
      (x.ended = false →
        (∃ t, exec (.txAbort a) s = .next t ∧ holds t { x with status := some 4, ended := true, lines := [] } ∧
          s.SameBytes t ∧ t.ctl = s.ctl.next) ∧
        (∀ st, x.status = some st → ∃ t, exec (.txCommit d a) s = .next t ∧ s.SameBytes t ∧
          holds t { x with ended := true, stamp := 0, lines := [] } ∧ t.versions.clock = v.clock ∧
          back t (BitVec.ofNat 64 (st.toNat * 2 ^ 56))) ∧
        (x.status = none → (∃ l ∈ x.lines, x.snapshot < (s.line l).stamp.toNat) → ∃ t, exec (.txCommit d a) s = .next t ∧ s.SameBytes t ∧
          holds t { x with status := some 1, ended := true, stamp := 0, lines := [] } ∧
          t.versions.clock = v.clock ∧ back t 0x0100000000000000) ∧
        (x.status = none → x.lines.Nodup →
          (∀ l ∈ x.lines, (s.line l).stamp.toNat ≤ x.snapshot ∧ s.tentative l k = some (place l) ∧ (place l).2.data.length = 128 ∧
            ∀ m ∈ x.lines, m ≠ l → (place l).1 ∉ (s.line m).chain) →
          v.clock.toNat + 1 < 2 ^ 48 → ∃ t, exec (.txCommit d a) s = .next t ∧
          (∀ l ∈ x.lines, t.mem.bytes (128 * l) 128 = (place l).2.data ∧ (t.line l).stamp = v.clock + 1 ∧ (t.line l).tent = false) ∧
          (∀ q, q / 128 ∉ x.lines → t.byte q = s.byte q) ∧ t.versions.clock = v.clock + 1 ∧
          holds t { x with status := some 0, ended := true, stamp := v.clock + 1, lines := [] } ∧
          back t ((v.clock + 1).setWidth 64))) ∧
      (x.ended = true → (∃ t, exec (.txAbort a) s = .next t ∧ s.CEnds t) ∧ ∃ t, exec (.txCommit d a) s = .next t ∧
        s.CRegister t d (BitVec.ofNat 64 ((x.status.getD 0).toNat * 2 ^ 56 + if x.status.getD 0 = 0 then x.stamp.toNat else 0)))) ∧
    (tl.tx = none ∨ tl.tx = some k ∧ s.g a ≠ k.setWidth 64 →
      ∀ i ∈ ([.txCommit d a, .txAbort a, .txStamp d a, .txRelease a] : List Instr), ∃ t, exec i s = .next t ∧ s.CTraps t 0x03 0)) ∧
    (s.inTxNode = true →
      (∃ t, exec (.txOpen d) s = .next t ∧ s.CRegister t d 0x0200000000000000) ∧
      (∀ i ∈ ([.txCommit d a, .txRelease a] : List Instr), ∃ t, exec i s = .next t ∧ s.CTraps t 0x03 0) ∧
      (s.nodeTx = some k → tget v.txs k.toNat = some x →
        (∃ t, exec (.txStamp d a) s = .next t ∧ s.CRegister t d (BitVec.ofNat 64 x.snapshot)) ∧
        (x.status = none → ∃ t, exec (.txAbort a) s = .next t ∧ holds t { x with status := some 4, lines := [] } ∧
          s.SameBytes t ∧ t.ctl = s.ctl.next)))

/-- R101, R102, R368: ckpt.close does nothing outside checkpoint mode once streams and copies are still; in a checkpoint-mode
node it requests the close of the open interval and waits there. ckpt.mark gives the interval, and 0 outside checkpoint mode. -/
def Obligations.Checkpoints : Prop :=
  ∀ (s : State) (d : BitVec 5) (n : Node), s.cRuns →
    let tl := s.tile s.curTile
    let quiet := ∀ y : BStream, (tl.stream y).state = .idle ∨ (tl.stream y).state = .stopped ∨ (tl.stream y).state = .await
    (quiet → (s.die (tileDie s.curTile)).queued 0 s.curTile = 0 → (s.die (tileDie s.curTile)).queued 1 s.curTile = 0 →
      (s.tileNode s.curTile = none → ∃ t, exec .ckptClose s = .next t ∧ s.CEnds t) ∧
      (s.tileNode s.curTile = some n → n.ckpt = false → ∃ t, exec .ckptClose s = .next t ∧ s.CEnds t) ∧
      (s.tileNode s.curTile = some n → n.ckpt = true → ∃ t, exec .ckptClose s = .next t ∧
        t.tile s.curTile = { tl with control := { s.ctl with stalled := true, closing := true } } ∧
        t.pool = (s.onNode n.handle fun m => { m with closing := if m.closing = .no then .requested else m.closing }).pool ∧
        t = { s with pool := t.pool, tiles := s.tiles.set s.curTile.toNat (t.tile s.curTile) })) ∧
    (¬quiet → ∃ t, exec .ckptClose s = .next t ∧ s.CWaits t) ∧
    (s.tileNode s.curTile = none → ∃ t, exec (.ckptMark d) s = .next t ∧ s.CRegister t d 0) ∧
    (s.tileNode s.curTile = some n → ∃ t, exec (.ckptMark d) s = .next t ∧ s.CRegister t d
      (if n.ckpt = true then BitVec.ofNat 64 (n.interval.toNat + 2 ^ 62 + if n.rerun = true then 2 ^ 63 else 0) else 0))

/-! ## The C stream: system registers and traps -/

/-- R107, R108: sys.rd gives the register's value, and a read of TIME captures TIMEF; sys.wr changes the fields that R108 lets it
change, VFLAGS and DISC by ones, UEPC with UDS, and nothing else. -/
def Obligations.SystemRegisters : Prop :=
  ∀ (s : State) (d a : BitVec 5) (x : BitVec 12),
    let tl := s.tile s.curTile
    let u := tl.user
    let v := s.g a
    (∀ p ∈ ([(0x000, s.fabric.pkg.toNat * 64 + s.curTile.toNat), (0x003, (s.die (tileDie s.curTile)).point.toNat),
             (0x009, tl.timef.toNat), (0x00A, tl.tc - tl.tcBase), (0x020, tl.vflags.toNat), (0x030, u.utvec.toNat * 4),
             (0x031, (if u.raisen = true then 2 else 0) + (if u.nren = true then 1 else 0)),
             (0x032, if u.inHandler = true then 1 else 0), (0x033, u.uepc.toNat * 4), (0x034, u.ucause.toNat),
             (0x035, u.utval.toNat), (0x036, u.tgt.toNat * 65536 + u.slot.toNat), (0x040, tl.disc.toNat)] : List (BitVec 12 × Nat)),
      ∃ t, exec (.sysRd d p.1) s = .next t ∧ s.CRegister t d (BitVec.ofNat 64 p.2)) ∧
    (x ≠ 0x008 → ∃ t, exec (.sysRd d x) s = .next t ∧ s.CRegister t d (BitVec.ofNat 64 (s.sysValue s.curTile x.toNat))) ∧
    (∃ t, exec (.sysRd d 0x008) s = .next t ∧ s.CBecomes t { tl with
      timef := s.time.frac
      control := { s.ctl.next with g := if d = 0 then s.ctl.g else s.ctl.g.set d.toNat s.time.ns } }) ∧
    ∀ p ∈ ([(0x020, { tl with vflags := tl.vflags &&& ~~~(BitVec.extractLsb' 0 6 v) }),
            (0x030, { tl with user := { u with utvec := BitVec.extractLsb' 2 14 v } }),
            (0x031, { tl with user := { u with nren := v.getLsbD 0, raisen := v.getLsbD 1 } }),
            (0x033, { tl with user := { u with
              uepc := BitVec.extractLsb' 2 14 v, tgt := 0, slot := 0, again := u.again && BitVec.extractLsb' 2 14 v == u.uepc } }),
            (0x040, { tl with disc := tl.disc &&& ~~~(BitVec.extractLsb' 0 8 v) }),
            (0x000, tl), (0x001, tl), (0x002, tl), (0x003, tl), (0x004, tl), (0x005, tl), (0x008, tl), (0x009, tl), (0x00A, tl),
            (0x010, tl), (0x011, tl), (0x012, tl), (0x013, tl), (0x032, tl), (0x034, tl), (0x035, tl), (0x036, tl), (0x041, tl)] :
            List (BitVec 12 × Tile)),
      ∃ t, exec (.sysWr a p.1) s = .next t ∧ s.CBecomes t { p.2 with control := s.ctl.next }

/-- R18, R104, R105, R310: ECALL with g10 ≠ 0, EBREAK, a word that is none and a program cause the user handler does not take
go to the supervisor; ecall with g10 = 0 ends the context's run; a program cause that the user handler takes saves pc, cause,
delay slot and target and goes to UTVEC. -/
def Obligations.Traps : Prop :=
  ∀ (s : State) (c : BitVec 7), s.cRuns →
    let tl := s.tile s.curTile
    let cause : Byte := BitVec.ofNat 8 (128 + c.toNat)
    let saved : UserTrap := { tl.user with
      uepc := BitVec.ofNat 14 (s.ctl.pc.toNat / 4)
      ucause := cause
      utval := 0
      inHandler := true
      slot := s.ctl.slot
      tgt := if s.ctl.slot = 0 then 0 else s.ctl.target.setWidth 16
      again := true }
    let at_ : Control := { s.ctl with
      pc := (BitVec.append tl.user.utvec (0 : BitVec 2)).setWidth 17
      slot := 0
      target := 0
      stalled := false
      wait := none
      arrived := false }
    (s.g 10 ≠ 0 → ∃ t, exec .trapEcall s = .next t ∧ s.CTraps t 0x10 0) ∧
    (s.g 10 = 0 → ∃ t, exec .trapEcall s = .next t ∧ s.OnlyTile t s.curTile ∧ s.SameBytes t ∧ (t.tile s.curTile).ending = true ∧
      t.ctl = s.ctl.next ∧ (tl.stopsAtOnce → (t.tile s.curTile).status = .run ∧
        ∀ x, ((t.tile s.curTile).stream x).state ≠ .await ∧ ((t.tile s.curTile).stream x).state ≠ .run)) ∧
    (∃ t, exec .trapEbreak s = .next t ∧ s.CTraps t 0x11 0) ∧
    (∃ t, exec .illegalWord s = .next t ∧ s.CTraps t 0x01 0) ∧
    (tl.user.raisen = false ∨ tl.user.inHandler = true → ∃ t, exec (.trapRaise c) s = .next t ∧ s.CTraps t cause 0) ∧
    (tl.user.raisen = true → tl.user.inHandler = false → ∃ t, exec (.trapRaise c) s = .next t ∧ s.CBecomes t { tl with
      user := saved
      control := at_ })

/-- R58, R106, R298: uret in a handler goes back to UEPC for NOTREADY, as a repeat unless the handler moved UEPC, and past it for a program
cause, with the delay slot and the target of UDS; outside a handler, or in a delay slot, it is CTLINT. -/
def Obligations.UserReturn : Prop :=
  ∀ (s : State), s.cRuns →
    let tl := s.tile s.curTile
    let u := tl.user
    let back : Control := { s.ctl with pc := BitVec.ofNat 17 (u.uepc.toNat * 4), slot := u.slot, target := u.tgt.setWidth 17 }
    let past : Control := { back with
      pc := if u.slot = 2 then u.tgt.setWidth 17 else back.pc + 4
      slot := if u.slot = 1 then 2 else if u.slot = 2 then 0 else u.slot
      target := if u.slot = 2 then 0 else back.target
      arrived := false }
    (u.inHandler = true → s.ctl.slot = 0 →
      (u.ucause = 0x0C → ∃ t, exec .uret s = .next t ∧
        s.CBecomes t { tl with user := { u with inHandler := false }, control := { back with arrived := u.again } }) ∧
      (128 ≤ u.ucause.toNat → ∃ t, exec .uret s = .next t ∧
        s.CBecomes t { tl with user := { u with inHandler := false }, control := past })) ∧
    (u.inHandler = false ∨ s.ctl.slot ≠ 0 → ∃ t, exec .uret s = .next t ∧ s.CTraps t 0x05 0)

/-! ## The C stream: block chains and copies -/

/-- R85 to R88, R103: blk.go starts an ended stream at a record of the own store and waits for one that has not ended; a wrong
address is ALIGN or XLATE; blk.stop stops a stream in AWAIT or RUN with its position and accumulators kept; blk.status and the
seg forms give the stream's state and segment. -/
def Obligations.BlockControl : Prop :=
  ∀ (s : State) (d a : BitVec 5) (x : BitVec 2), s.cRuns →
    let tl := s.tile s.curTile
    let y := tl.stream (streamOf x)
    let v := (s.g a).toNat
    let code : RunState → Nat := fun r => match r with
      | .idle => 0 | .await => 1 | .run => 2 | .stopped => 3 | .faulted => 4 | .halted => 5
    (v % 4 ≠ 0 → ∃ t, exec (.blkGo a x) s = .next t ∧ s.CTraps t 0x04 (s.g a)) ∧
    (v % 4 = 0 → s.prefixEnd s.curTile ≤ v → ∃ t, exec (.blkGo a x) s = .next t ∧ s.CTraps t 0x02 (s.g a)) ∧
    (v % 4 = 0 → v < s.prefixEnd s.curTile →
      (y.state = .idle ∨ y.state = .stopped ∨ y.state = .faulted → ∃ t, exec (.blkGo a x) s = .next t ∧
        s.CBecomes t { tl.setStream (streamOf x)
          { Stream.reset with state := .await, pos := BitVec.ofNat 23 v, haltSeen := tl.anyHalted } with
            control := s.ctl.next }) ∧
      (y.state = .await ∨ y.state = .run ∨ y.state = .halted → ∃ t, exec (.blkGo a x) s = .next t ∧ s.CWaits t)) ∧
    (tl.trapping = none → (∀ z, (tl.stream z).stopDue = false) → y.exposedRun = false ∨ tl.frozenAt (max tl.horizon y.nextTc) = false →
      ∃ t, exec (.blkStop x) s = .next t ∧ s.OnlyTile t s.curTile ∧ s.SameBytes t ∧
      t.ctl = (if s.asking (streamAsker s.curTile (streamOf x)) = true then { s.ctl with stalled := true } else s.ctl.next) ∧
      ∀ z, (t.tile s.curTile).stream z =
        if z = streamOf x ∧ (y.state = .await ∨ y.state = .run) then { y with state := .stopped } else tl.stream z) ∧
    (tl.trapping = none → (∀ z, (tl.stream z).stopDue = false) → y.exposedRun = true → tl.frozenAt (max tl.horizon y.nextTc) = true → ∃ t, exec (.blkStop x) s = .next t ∧ s.OnlyTile t s.curTile ∧
      (t.tile s.curTile).stream (streamOf x) = { y with stopDue := true } ∧ t.ctl = { s.ctl with stalled := true }) ∧
    (∃ t, exec (.blkStatus d x) s = .next t ∧ s.CRegister t d (BitVec.ofNat 64
      (code y.state + y.faultIdx.toNat * 2 ^ 8 + y.pos.toNat % 2 ^ 22 * 2 ^ 16 + y.idx[0].toNat * 2 ^ 40))) ∧
    (∃ t, exec (.segCnt d x) s = .next t ∧ s.CRegister t d (BitVec.ofNat 64 y.count.toNat)) ∧
    (∃ t, exec (.segSig d x) s = .next t ∧ s.CRegister t d (BitVec.ofNat 64 y.crc.toNat)) ∧
    ∃ t, exec (.segLast d x) s = .next t ∧ s.CRegister t d (BitVec.ofNat 64 (y.lastCount.toNat * 2 ^ 32 + y.lastSig.toNat))

/-- R88: blk.patch writes d into one field of the record at offset a: the field's bits become d, the other bits of its word and
every other byte stay. -/
def Obligations.BlockPatch : Prop :=
  ∀ (s : State) (rd ra : BitVec 5) (k i : BitVec 4), s.cRuns → s.noAnswer →
    let a := (s.g ra).toNat
    let d := (s.g rd).toNat
    let word (off : Nat) := leNat (s.mem.bytes (storeAddr s.curTile off) 4)
    let w0 := word a
    let p := patchPlace k.toNat (bits w0 23 21) i.toNat
    let off := a + 4 * p.1
    a % 4 = 0 → a < s.prefixEnd s.curTile → w0Ok w0 = true → (k = 0 → i.toNat < bits w0 23 21) → (k = 4 → i.toNat < bits w0 27 24) →
    d < 2 ^ (p.2.1 + 1 - p.2.2) → off + 4 ≤ s.prefixEnd s.curTile →
    s.anyPoison (storeAddr s.curTile a) 4 = false → s.anyPoison (storeAddr s.curTile off) 4 = false →
    ∃ t, exec (.blkPatch rd ra k i) s = .next t ∧ t.ctl = s.ctl.next ∧ s.SameBytesBut t (storeAddr s.curTile off) 4 ∧
      (∀ j < 32, (leNat (t.mem.bytes (storeAddr s.curTile off) 4)).testBit j =
        if p.2.2 ≤ j ∧ j ≤ p.2.1 then d.testBit (j - p.2.2) else (word off).testBit j) ∧
      (∀ u, t.tile u = { s.tile u with
        control := (t.tile u).control, dirtyA := (t.tile u).dirtyA, dirtyB := (t.tile u).dirtyB })

/-- R76, R94 to R96: cp.go submits the record behind the earlier ones of its engine and gives the tile's old sequence number, and keeps the
record that it has read while its engine is full; a record with a wrong field is BFAULT; cp.status gives the tile's state on the engine and clears ERR; an engine begins its oldest
copy. -/
def Obligations.CopySubmission : Prop :=
  ∀ (s : State) (d a : BitVec 5) (e : BitVec 1) (r : Vector W64 8) (pins : List Held) (lw : Option Nat) (h : BitVec 2), s.cRuns →
    s.noAnswer →
    let tl := s.tile s.curTile
    let dn := tileDie s.curTile
    let c := tl.copies[e.toNat]
    let withG (v : W64) : Control := { s.ctl.next with g := if d = 0 then s.ctl.g else s.ctl.g.set d.toNat v }
    let op : CopyOp :=
      { id := s.nextOp, tile := some s.curTile, node := tl.node, record := r, pins := pins, lw := lw, running := false, denied := none
        performed := none, told := false }
    (tl.latched = none → s.readRecord (s.g a) = .ok r → CopyRecord.fieldsOk r = false → ∃ t, exec (.cpGo d a e) s = .next t ∧ s.CTraps t 0x0E 0) ∧
    (tl.latched = none ∧ s.readRecord (s.g a) = .ok r ∧ CopyRecord.fieldsOk r = true ∨ s.ctl.stalled = true ∧ tl.latched = some r →
      (s.copyPins s.curTile (s.root s.curTile) r = .ok (pins, lw) →
        s.engReady (2 * dn.toNat + e.toNat) = true → (pageKeys (tl.pins ++ pins)).length ≤ 512 →
        ((s.die dn).queued e s.curTile < 16 → ∃ t, exec (.cpGo d a e) s = .next t ∧
          t.die dn = (s.die dn).setEngine e ((s.die dn).engine e ++ [op]) ∧
          t.tile s.curTile = { tl.setCopy e { c with seq := c.seq + 1 } with
            opPins := tl.opPins ++ pins.map fun p => { op := s.nextOp, pin := p }
            control := withG (BitVec.ofNat 64 c.seq.toNat) } ∧
          t = { s with
            nextOp := s.nextOp + 1, dies := s.dies.set dn.toNat (t.die dn), tiles := s.tiles.set s.curTile.toNat (t.tile s.curTile) }) ∧
        (16 ≤ (s.die dn).queued e s.curTile → ∃ t, exec (.cpGo d a e) s = .next t ∧
          s.CBecomes t { tl with latched := some r, control := { s.ctl with stalled := true } }))) ∧
    (∃ t, exec (.cpStatus d e) s = .next t ∧ s.CBecomes t { tl.setCopy e { c with err := false } with
      control := withG (BitVec.ofNat 64 (c.done.toNat + (s.die dn).queued e s.curTile * 2 ^ 32 + if c.err = true then 2 ^ 63 else 0)) }) ∧
    ∃ t, exec (.copyStart h e) s = .next t ∧ s.OnlyDie t h ∧ t.die h = (s.die h).setEngine e (match (s.die h).engine e with
      | [] => []
      | o :: q => { o with running := true } :: q)

/-- R95, R96, R417: the oldest copy of an engine, once running, moves one row of at most a line: the destination reads as the source
did and no other byte changes; the copy leaves its engine, the tile's DONE counts it and its pins end. Its arrival of the bytes at its
landing word and the raise of its semaphore by SCNT wait in the port of a running tile, in that order, and the raise is applied at once in
another (DEDUCED, log 79). -/
def Obligations.CopyCompletion : Prop :=
  ∀ (s : State) (d : BitVec 2) (e : BitVec 1) (o : CopyOp) (rest : List CopyOp) (tn : BitVec 6) (lf lt : Leaf) (src dst off : Nat),
    let r : CopyRecord := o.record
    let n := CopyRecord.xlen r
    (s.die d).engine e = o :: rest → (∀ x ∈ rest, x.id ≠ o.id) → o.running = true → o.performed = none → o.told = false → o.tile = some tn →
    CopyRecord.ycnt r = 1 → 0 < n → CopyRecord.dst r % 128 + n ≤ 128 →
    let runs := (s.tile tn).status = .run ∨ (s.tile tn).status = .stopping
    o.lw = none ∨ runs ∧ off < 0x400000 ∧ o.lw = some (s.group (storeAddr tn off)) →
    s.PlainPin o.pins (CopyRecord.src r) n lf src → s.PlainPin o.pins (CopyRecord.dst r) n lt dst → s.anyPoison src n = false →
    s.asking (.operation o.id) = false → (∀ x ∈ s.fabric.answers, x.who ≠ .operation o.id) → s.shoot.busy = false →
    let k := CopyRecord.sem r
    let before := (s.tile tn).sem k
    let port := (s.tile tn).port
    let told := if o.lw = none then port else insertPort port ((s.tile tn).tc, .arrival e.toNat off n false)
    before.count.toNat + CopyRecord.scnt r ≤ 65535 →
    ∃ t, exec (.copyComplete d e) s = .next t ∧ t.mem.bytes dst n = s.mem.bytes src n ∧ s.SameBytesBut t dst n ∧
      (t.die d).engine e = rest ∧
      (t.tile tn).copies[e.toNat] = { (s.tile tn).copies[e.toNat] with done := (s.tile tn).copies[e.toNat].done + 1 } ∧
      (CopyRecord.scnt r = 0 → (t.tile tn).sem k = before ∧ (t.tile tn).port = told) ∧
      (0 < CopyRecord.scnt r → if runs
        then (t.tile tn).sem k = before ∧
          (t.tile tn).port = insertPort told ((s.tile tn).tc, .raise e.toNat k (CopyRecord.scnt r) false 0)
        else (t.tile tn).sem k = { before with count := before.count + BitVec.ofNat 16 (CopyRecord.scnt r) }) ∧
      (∀ p ∈ (t.tile tn).opPins, p.op ≠ o.id) ∧ (t.tile tn).control = (s.tile tn).control

/-- R81, R417: an arrival of n bytes waits in its tile's port behind what stands there, or, by the model's choice (DEDUCED, log 79), is taken
at once when the tile does not run. Taken at
an armed word it counts the bytes and advances GEN once for each TARGET of them, keeping the rest; at one that is not armed it sets
OVR. An error sets ERR. Nothing but the word changes. -/
def Obligations.LandingWordArrival : Prop :=
  ∀ (s : State) (a : BitVec 58) (n : W32) (e : Bool) (tn : BitVec 6) (off : Nat),
    s.ownPkg a.toNat = true → a.toNat % 16 = 0 → Machine.place (localOf a.toNat) = .tileStore tn off →
    Machine.place (localOf a.toNat + 12) = .tileStore tn (off + 12) → s.storage (localOf a.toNat) = true →
    let pa := localOf a.toNat
    let l := s.landing pa
    let sum := l.count + n.toNat
    let kept := if sum > 0xFFFFFFFF then 0xFFFFFFFF else sum
    let runs := (s.tile tn).status = .run ∨ (s.tile tn).status = .stopping
    let item : PortItem := .arrival 3 off n.toNat e
    (runs → ∃ t, exec (.landingWordArrival a n e) s = .next t ∧ s.OnlyTile t tn ∧ s.SameBytes t ∧
      t.tile tn = { s.tile tn with port := insertPort (s.tile tn).port ((s.tile tn).tc, item) }) ∧
    (¬runs → ∃ t, exec (.landingWordArrival a n e) s = .next t ∧ t = s.takeItem tn item) ∧
    let t := s.takeItem tn item
    s.SameBytesBut t pa 16 ∧
      t.landing pa = (if l.armed = false ∨ l.target = 0 then { l with err := l.err || e, ovr := true }
        else { l with
          err := l.err || e
          ovr := l.ovr || decide (sum > 0xFFFFFFFF)
          gen := (l.gen + kept / l.target) % 2 ^ 32
          count := kept % l.target }) ∧
      (∀ u, t.tile u = { s.tile u with dirtyA := (t.tile u).dirtyA, dirtyB := (t.tile u).dirtyB })

/-- R16, R417: what reaches a tile's port stands in the order of its tc and, in one tc, of its source, behind what stood there before; a
raise, when it is taken, adds its count to the semaphore, or poisons it, and one that would pass 65,535 is SEMOVF for the tile
and adds nothing. -/
def Obligations.PortOrder : Prop :=
  (∀ (l : List (Nat × PortItem)) (x : Nat × PortItem),
    let before (a b : Nat × PortItem) : Prop := a.1 < b.1 ∨ a.1 = b.1 ∧ a.2.rank ≤ b.2.rank
    l.Pairwise before → (insertPort l x).Pairwise before ∧ ∃ p q, l = p ++ q ∧ insertPort l x = p ++ x :: q ∧ ∀ y ∈ q, ¬before y x) ∧
  ∀ (s : State) (tn k : BitVec 6) (n src from_ : Nat) (err : Bool),
    let x := (s.tile tn).sem k
    let t := s.takeItem tn (.raise src k n err from_)
    (x.count.toNat + n ≤ 65535 → t = s.onTile tn fun u => u.setSem k { count := x.count + BitVec.ofNat 16 n, poison := x.poison || err }) ∧
    (65535 < x.count.toNat + n → ((t.tile tn).sem k).count = x.count ∧ ((t.tile tn).sem k).poison = (x.poison || err) ∧
      ((s.tile tn).stopsAtOnce → (s.tile tn).status = .run → (t.tile tn).status = .faulted ∧ (t.tile tn).trap.cause = 0x0A))

/-! ## The V stream -/

/-- R144, R145: before a V word takes effect its queues are checked, sources first; then each queue it names as a source, once, gives
its head, but for peek. A source from an empty unbound queue, or one that S drains, is QUNF; a destination in a full unbound
queue, or one that L fills, is QOVF; no queue changes then. Said here of vmov. -/
def Obligations.VectorQueues : Prop :=
  ∀ (s : State) (tn : BitVec 6) (d a : BitVec 5) (p : BitVec 3) (t : BitVec 4) (k : BitVec 1), s.BlockTurn tn .v →
    let tl := (s.tile tn).atIssue .v
    let qa := tl.queues[(a.toNat - 24) % 8]
    let qd := tl.queues[(d.toNat - 24) % 8]
    let pushes := (tl.pending.filter fun x => match x.what with | .push q _ => q.toNat == d.toNat - 24 | _ => false).length
    let room := if a = d ∧ k = 0 then 5 else 4
    let pops : Tile := if k = 1 then tl else tl.popQueue (BitVec.ofNat 3 (a.toNat - 24))
    (24 ≤ a.toNat → qa.bound ≠ 2 → qa.entries ≠ [] → tl.vread a = qa.entries.headD 0 ∧
      (tl.popQueue (BitVec.ofNat 3 (a.toNat - 24))).queues[(a.toNat - 24) % 8].entries = qa.entries.tail ∧
      (d.toNat < 24 → tl.takeSources (pk k) [a] [d] = .ok pops) ∧
      (24 ≤ d.toNat → qd.bound ≠ 1 → qd.entries.length + pushes < room → tl.takeSources (pk k) [a] [d] = .ok pops)) ∧
    (24 ≤ a.toNat → qa.bound = 2 ∨ (qa.bound = 0 ∧ qa.entries = []) → ∃ t', exec (.vmov d a p t k) s = .next t' ∧
      s.BlockFaults t' tn .v 0x08 ((s.tile tn).stream .v).body) ∧
    (a.toNat < 24 → 24 ≤ d.toNat → qd.bound = 1 ∨ (qd.bound = 0 ∧ 4 ≤ qd.entries.length + pushes) →
      ∃ t', exec (.vmov d a p t k) s = .next t' ∧ s.BlockFaults t' tn .v 0x07 ((s.tile tn).stream .v).body)

/-- R150 to R152 for the integer formats: each governed element gets the exact result wrapped, or clamped to its format with ST;
the latency is that of R148. -/
def Obligations.VectorIntegers : Prop :=
  ∀ (s : State) (tn : BitVec 6) (d a b : BitVec 5) (p : BitVec 3) (t m : BitVec 4) (k u : BitVec 1), s.BlockTurn tn .v →
    6 ≤ t.toNat → t.toNat ≤ 11 → m.toNat % 8 ≤ 1 →
    let w := if t.toNat % 3 = 0 then 32 else if t.toNat % 3 = 1 then 16 else 8
    let tl := (s.tile tn).atIssue .v
    let value (x : Nat) : Int := if t.toNat ≤ 8 then (BitVec.ofNat w x).toInt else (BitVec.ofNat w x).toNat
    let lo : Int := if t.toNat ≤ 8 then -2 ^ (w - 1) else 0
    let hi : Int := if t.toNat ≤ 8 then 2 ^ (w - 1) - 1 else 2 ^ w - 1
    let ea e := value (elem w (tl.vread a) e)
    let eb e := value (elem w (tl.vread b) e)
    let ed e := value (elem w (tl.vold d) e)
    let wrapped (sat : Bool) (x : Int) : Nat × Flags :=
      ((BitVec.ofInt w (if sat = true then max lo (min hi x) else x)).toNat, if sat = true ∧ (x < lo ∨ hi < x) then flagST else 0)
    let sat := decide (m.toNat % 8 = 1)
    ∀ q ∈ ([⟨.vadd d a b p t m, m.getLsbD 3, [a, b], 2, fun e => wrapped sat (ea e + eb e)⟩,
            ⟨.vsub d a b p t m, m.getLsbD 3, [a, b], 2, fun e => wrapped sat (ea e - eb e)⟩,
            ⟨.vmul d a b p t m, m.getLsbD 3, [a, b], 4, fun e => wrapped sat (ea e * eb e)⟩,
            ⟨.vfma d a b p t m, m.getLsbD 3, [a, b], 5, fun e => wrapped sat (ea e * eb e + ed e)⟩,
            ⟨.vfms d a b p t m, m.getLsbD 3, [a, b], 5, fun e => wrapped sat (ed e - ea e * eb e)⟩,
            ⟨.vmin d a b p t k, pk k, [a, b], 2, fun e => wrapped false (min (ea e) (eb e))⟩,
            ⟨.vmax d a b p t k, pk k, [a, b], 2, fun e => wrapped false (max (ea e) (eb e))⟩,
            ⟨.vabs d a p t k u, pk k, [a], 2, fun e => wrapped (u == 1) (ea e).natAbs⟩,
            ⟨.vneg d a p t k u, pk k, [a], 2, fun e => wrapped (u == 1) (-ea e)⟩] : List VForm),
      s.VElements tn d w p tl.seeds q

/-- R150 for the float formats: each governed element gets the exact result rounded once (R122), with a draw of its lane under SR
(R123, R124). -/
def Obligations.VectorFloats : Prop :=
  ∀ (s : State) (tn : BitVec 6) (d a b : BitVec 5) (p : BitVec 3) (t m : BitVec 4), s.BlockTurn tn .v →
    t.toNat ≤ 2 → m.toNat % 8 ≤ 4 →
    let w := if t = 0 then 32 else 16
    let f := if t = 0 then f32 else if t = 1 then bf16 else f16
    let mode := m.toNat % 8
    let tl := (s.tile tn).atIssue .v
    let flush := tl.v.exposed
    let pr := tl.preg p
    let gov e := pr.getLsbD (e * w / 4)
    let draw e := if mode = 2 then drawOf w gov tl.seeds e else 0
    let seeds := if mode = 2 then seedsAfter w gov tl.seeds else tl.seeds
    let va e := f.value flush (elem w (tl.vread a) e)
    let vb e := f.value flush (elem w (tl.vread b) e)
    let vd e := f.value flush (elem w (tl.vold d) e)
    let rounded (e : Nat) (x : Val × Flags) : Nat × Flags :=
      ((f.convert mode false flush (draw e) x.1).1, x.2 ||| (f.convert mode false flush (draw e) x.1).2)
    ∀ q ∈ ([⟨.vadd d a b p t m, m.getLsbD 3, [a, b], 4, fun e => rounded e (addVal mode (va e) (vb e))⟩,
            ⟨.vsub d a b p t m, m.getLsbD 3, [a, b], 4, fun e => rounded e (addVal mode (va e) (vb e).flip)⟩,
            ⟨.vmul d a b p t m, m.getLsbD 3, [a, b], 4, fun e => rounded e (mulVal (va e) (vb e))⟩,
            ⟨.vfma d a b p t m, m.getLsbD 3, [a, b], 5, fun e => rounded e (fmaVal mode (va e) (vb e) (vd e))⟩,
            ⟨.vfms d a b p t m, m.getLsbD 3, [a, b], 5, fun e => rounded e (fmaVal mode (va e).flip (vb e) (vd e))⟩] : List VForm),
      s.VElements tn d w p seeds q

/-- R151, R152 for the float formats: a number wins over a NaN, two NaNs give the canonical one, −0 lies below +0, and a signalling
NaN is NV; vabs and vneg change the sign bit alone, with no flag. -/
def Obligations.VectorFloatSigns : Prop :=
  ∀ (s : State) (tn : BitVec 6) (d a b : BitVec 5) (p : BitVec 3) (t : BitVec 4) (k : BitVec 1), s.BlockTurn tn .v →
    t.toNat ≤ 2 →
    let w := if t = 0 then 32 else 16
    let f := if t = 0 then f32 else if t = 1 then bf16 else f16
    let tl := (s.tile tn).atIssue .v
    let flush := tl.v.exposed
    let xa e := elem w (tl.vread a) e
    let xb e := elem w (tl.vread b) e
    let va e := f.value flush (xa e)
    let vb e := f.value flush (xb e)
    let less e := ltVal (va e) (vb e) || (!ltVal (vb e) (va e) && (va e).neg && !(vb e).neg)
    let flushed (x : Nat) : Nat := if flush = true ∧ x / 2 ^ f.man % 2 ^ f.exp = 0 then x / 2 ^ (w - 1) * 2 ^ (w - 1) else x
    let pick (greater : Bool) (e : Nat) : Nat × Flags :=
      (if (va e).isNan = true ∧ (vb e).isNan = true then f.canonical
       else if (va e).isNan = true then flushed (xb e)
       else if (vb e).isNan = true then flushed (xa e)
       else if less e = greater then flushed (xb e) else flushed (xa e),
       if (va e).signals = true ∨ (vb e).signals = true then flagNV else 0)
    ∀ q ∈ ([⟨.vmin d a b p t k, pk k, [a, b], 4, pick false⟩,
            ⟨.vmax d a b p t k, pk k, [a, b], 4, pick true⟩,
            ⟨.vabs d a p t k 0, pk k, [a], 2, fun e => (xa e % 2 ^ (w - 1), 0)⟩,
            ⟨.vneg d a p t k 0, pk k, [a], 2, fun e => ((xa e + 2 ^ (w - 1)) % 2 ^ w, 0)⟩] : List VForm),
      s.VElements tn d w p tl.seeds q

/-- R121, R122, R127, R150, R161: before the one rounding, sums, products, fused forms and reciprocals of finite values are exact, as
are exp2 of an integer and log2 of a power of two; a finite value of a format rounds to itself without a flag, in every mode and
under every draw; rounding toward zero never grows a magnitude; a saturating overflow gives the largest finite value. -/
def Obligations.Rounding : Prop :=
  (∀ (x : Val) (q : Rat), x.rat = some q →
    (q = 0 → sfuVal 0 x = (.inf x.neg, flagDZ) ∧ sfuVal 1 x = (.inf x.neg, flagDZ) ∧ (sfuVal 2 x).1.rat = some 1 ∧ sfuVal 3 x = (.inf true, flagDZ)) ∧
    (q ≠ 0 → (sfuVal 0 x).1.rat = some (1 / q) ∧ (sfuVal 0 x).2 = 0) ∧
    (q < 0 → sfuVal 1 x = (.nan false, flagNV) ∧ sfuVal 3 x = (.nan false, flagNV)) ∧
    (∀ n : Int, q = n → |n| ≤ 300 → (sfuVal 2 x).1.rat = some ((2 : Rat) ^ n)) ∧
    (∀ n : Int, q = (2 : Rat) ^ n → (sfuVal 3 x).1.rat = some (n : Rat))) ∧
  (∀ (mode : Nat) (x y z : Val) (a b c : Rat), x.rat = some a → y.rat = some b → z.rat = some c →
    (addVal mode x y).1.rat = some (a + b) ∧ (addVal mode x y.flip).1.rat = some (a - b) ∧ (mulVal x y).1.rat = some (a * b) ∧
    (fmaVal mode x y z).1.rat = some (a * b + c) ∧ (fmaVal mode x.flip y z).1.rat = some (c - a * b) ∧
    (addVal mode x y).2 = 0 ∧ (mulVal x y).2 = 0 ∧ (fmaVal mode x y z).2 = 0) ∧
  ∀ f ∈ [f32, bf16, f16, e4m3, e5m2, e2m1], ∀ (mode draw : Nat) (sat : Bool), mode ≤ 4 → draw < 65536 →
    (∀ (x : Nat) (q : Rat), x < 2 ^ f.width → (f.value false x).rat = some q → f.convert mode sat false draw (f.value false x) = (x, 0)) ∧
    (∀ (neg : Bool) (n d : Nat) (q : Rat), 0 < d →
      (f.value false (f.convert 1 true false draw (.fin neg n d)).1).rat = some q → |q| ≤ (n : Rat) / d) ∧
    (∀ (neg : Bool) (n d : Nat) (big : Rat), 0 < d → (f.value false f.largest).rat = some big → 2 * big < (n : Rat) / d →
      (f.convert mode true false draw (.fin neg n d)) =
        ((if neg = true then 2 ^ (f.width - 1) else 0) + f.largest, flagOF ||| flagNX ||| flagST))

/-- R154 to R156, R166 to R168: selection, logic, shifts, broadcast, moves and viota set each governed element from the bits of
its operands, raise no flag, and vnop changes nothing. -/
def Obligations.VectorLogic : Prop :=
  ∀ (s : State) (tn : BitVec 6) (d a b : BitVec 5) (p pa : BitVec 3) (t j : BitVec 4) (k i : BitVec 1), s.BlockTurn tn .v →
    t ≠ 12 → t ≠ 15 →
    let w := tyWidth t
    let tl := (s.tile tn).atIssue .v
    let pr := tl.preg p
    let ea e := BitVec.ofNat w (elem w (tl.vread a) e)
    let eb e := BitVec.ofNat w (elem w (tl.vread b) e)
    let h e := if i = 1 then b.toNat else elem w (tl.vread b) e % 32
    let shifted := if i = 1 then [a] else [a, b]
    let bits (x : BitVec w) : Nat × Flags := (x.toNat, 0)
    (∀ q ∈ ([⟨.vand d a b p t k, pk k, [a, b], 2, fun e => bits (ea e &&& eb e)⟩,
            ⟨.vor d a b p t k, pk k, [a, b], 2, fun e => bits (ea e ||| eb e)⟩,
            ⟨.vxor d a b p t k, pk k, [a, b], 2, fun e => bits (ea e ^^^ eb e)⟩,
            ⟨.vandn d a b p t k, pk k, [a, b], 2, fun e => bits (ea e &&& ~~~eb e)⟩,
            ⟨.vnot d a p t k, pk k, [a], 2, fun e => bits (~~~ea e)⟩,
            ⟨.vmov d a p t k, pk k, [a], 2, fun e => bits (ea e)⟩] : List VForm), s.VElements tn d w p tl.seeds q) ∧
    (6 ≤ t.toNat → t.toNat ≤ 11 →
      ∀ q ∈ ([⟨.vsll d a b p t k i, pk k, shifted, 2, fun e => bits (ea e <<< h e)⟩,
              ⟨.vsrl d a b p t k i, pk k, shifted, 2, fun e => bits (ea e >>> h e)⟩,
              ⟨.vsra d a b p t k i, pk k, shifted, 2, fun e => bits ((ea e).sshiftRight (h e))⟩,
              ⟨.viota d a p t k, pk k, [a], 2, fun e => bits (ea 0 + BitVec.ofNat w e)⟩] : List VForm), s.VElements tn d w p tl.seeds q) ∧
    (b.toNat * 16 + j.toNat < 2048 / w →
      s.VElements tn d w p tl.seeds ⟨.vbc d a b p t j, false, [a], 2, fun _ => bits (ea (b.toNat * 16 + j.toNat))⟩) ∧
    (∀ taken, tl.takeSources (pk k) [a, b] [d] = .ok taken → ∃ t', exec (.vsel d a b p t k) s = .next t' ∧
      s.VGives t' tn 1 2 taken [toDest d (ofElems w ((List.range (2048 / w)).map fun e =>
        if pr.getLsbD (e * w / 4) = true then (ea e).toNat else (eb e).toNat))] 0) ∧
    (∀ taken, tl.takeSources false [] [d] = .ok taken → ∃ t', exec (.vmovVp d pa) s = .next t' ∧
      s.VGives t' tn 1 2 taken [toDest d (BitVec.ofNat 2048 (tl.preg pa).toNat)] 0) ∧
    (∀ taken, tl.takeSources (pk k) [a] [] = .ok taken → ∃ t', exec (.vmovPv pa a k) s = .next t' ∧
      s.VGives t' tn 1 2 taken [.preg pa (BitVec.ofNat 512 (tl.vread a).toNat)] 0) ∧
    ∃ t', exec (.vnop b) s = .next t' ∧ s.BlockEnds t' tn .v (b.toNat + 1) (b.toNat + 1) tl

/-- R153, R169, R178 to R180: comparisons give a predicate, w / 4 equal bits an element and 0 where it is not governed; vpop counts;
a vote enters the queue, or waits while it holds 16; vseed replaces the seeds of the governed lanes; vpatch patches the record
at lane 1 with lane 0 (R88). -/
def Obligations.VectorPredicates : Prop :=
  ∀ (s : State) (tn : BitVec 6) (d a b : BitVec 5) (p pa : BitVec 3) (t y z : BitVec 4) (k : BitVec 1) (c : BitVec 3),
    s.BlockTurn tn .v →
    let w := tyWidth t
    let tl := (s.tile tn).atIssue .v
    let pr := tl.preg p
    let at_ (v : PReg) (e : Nat) := v.getLsbD (e * w / 4)
    let bitsOf (f : Nat → Bool) : PReg :=
      BitVec.ofNat 512 ((List.range 512).map fun j => if f (4 * j / w) = true then 2 ^ j else 0).sum
    let value (x : Nat) : Int := if t.toNat ≤ 8 then (BitVec.ofNat w x).toInt else (BitVec.ofNat w x).toNat
    let ia e := value (elem w (tl.vread a) e)
    let ib e := value (elem w (tl.vread b) e)
    let f := if t = 0 then f32 else if t = 1 then bf16 else f16
    let va e := f.value tl.v.exposed (elem w (tl.vread a) e)
    let vb e := f.value tl.v.exposed (elem w (tl.vread b) e)
    let holds (eq lt gt : Bool) : Bool := match c.toNat with
      | 0 => eq | 1 => !eq | 2 => lt | 3 => !gt | 4 => gt | 5 => !lt | _ => false
    let unordered e := (va e).isNan || (vb e).isNan
    let frel e := if unordered e = true then decide (c.toNat = 1 ∨ c.toNat = 6)
      else holds (!ltVal (va e) (vb e) && !ltVal (vb e) (va e)) (ltVal (va e) (vb e)) (ltVal (vb e) (va e))
    let finv e := if 2 ≤ c.toNat ∧ c.toNat ≤ 5 then unordered e else (va e).signals || (vb e).signals
    let irel e := holds (ia e == ib e) (decide (ia e < ib e)) (decide (ib e < ia e))
    let quiet : Tile := tl
    let votes := tl.votes.length + (tl.pending.filter fun x => match x.what with | .vote _ => true | _ => false).length
    (∀ taken, tl.takeSources (pk k) [a, b] [] = .ok taken →
      (t.toNat ≤ 2 → c ≠ 7 → ∃ t', exec (.vcmp pa a b p t k c) s = .next t' ∧
        s.VGives t' tn 1 3 taken [.preg pa (bitsOf fun e => at_ pr e && frel e)] (if someGoverned w pr finv then flagNV else 0)) ∧
      (6 ≤ t.toNat → t.toNat ≤ 11 → c.toNat ≤ 5 → ∃ t', exec (.vcmp pa a b p t k c) s = .next t' ∧
        s.VGives t' tn 1 3 taken [.preg pa (bitsOf fun e => at_ pr e && irel e)] 0)) ∧
    (t ≠ 12 → t ≠ 15 →
      (∀ taken, tl.takeSources false [] [d] = .ok taken → ∃ t', exec (.vpop d pa p t) s = .next t' ∧
        s.VGives t' tn 1 3 taken [toDest d (BitVec.ofNat 2048 ((List.range (2048 / w)).filter fun e => at_ pr e && at_ (tl.preg pa) e).length)] 0) ∧
      (votes < 16 →
        (∃ t', exec (.vvoteAny pa p t) s = .next t' ∧
          s.VGives t' tn 1 2 quiet [.vote (someGoverned w pr (at_ (tl.preg pa)))] 0) ∧
        ∃ t', exec (.vvoteAll pa p t) s = .next t' ∧
          s.VGives t' tn 1 2 quiet [.vote (!someGoverned w pr fun e => !at_ (tl.preg pa) e)] 0) ∧
      ((s.tile tn).votes.length = 16 → (s.tile tn).v.exposed = false → ∀ i ∈ ([.vvoteAny pa p t, .vvoteAll pa p t] : List Instr),
        exec i s = .next s)) ∧
    (∀ taken, tl.takeSources false [a] [] = .ok taken →
      (∃ t', exec (.vseed a p) s = .next t' ∧ s.OnlyTile t' tn ∧ s.SameBytes t' ∧
        (tl.v.exposed = false → t'.tile tn = ({ taken with
          seeds := Vector.ofFn fun j => if pr.getLsbD (8 * j) = true then BitVec.ofNat 32 (elem 32 (tl.vread a) j) else taken.seeds[j] }).issued .v 1 1)) ∧
      ∀ off word, s.patch tn (elem 32 (tl.vread a) 1) (elem 32 (tl.vread a) 0) z.toNat y.toNat = .ok (off, word) →
        ∃ t', exec (.vpatch a y z) s = .next t' ∧ leNat (t'.mem.bytes (storeAddr tn off) 4) = word ∧
          s.SameBytesBut t' (storeAddr tn off) 4 ∧ (t'.tile tn).v = (taken.issued .v 1 1).v ∧ (t'.tile tn).vregs = taken.vregs)

/-- R157 to R160: the conversions write one slice and keep the rest of vd, each element rounded once, with a draw of its lane under
SR; the block scales of vbs are those of R160, as F32 lanes or as codes. -/
def Obligations.VectorConversions : Prop :=
  ∀ (s : State) (tn : BitVec 6) (d a b : BitVec 5) (p r : BitVec 3) (t y : BitVec 4) (z : BitVec 1) (k : BitVec 2), s.BlockTurn tn .v →
    let tl := (s.tile tn).atIssue .v
    let flush := tl.v.exposed
    let ws := tyWidth y
    let wd := tyWidth t
    let n := 2048 / max ws wd
    let narrow : Prop := wd ≤ ws
    let slice (i : Instr) (sources : List (BitVec 5)) (w base n : Nat) (f : Nat → Nat → Nat × Flags) : Prop :=
      let written (e : Nat) := decide (base ≤ e ∧ e < base + n)
      let draw i := if r = 2 then drawOf w written tl.seeds (base + i) else 0
      let seeds := if r = 2 then seedsAfter w written tl.seeds else tl.seeds
      ∀ taken, tl.takeSources false sources [d] = .ok taken → ∃ t', exec i s = .next t' ∧
        s.VGives t' tn 1 4 { taken with seeds := seeds } [toDest d (sliceOf w base n (tl.vold d) fun i => (f i (draw i)).1)]
          ((List.range n).foldl (fun fl i => fl ||| (f i (draw i)).2) 0)
    let lane (v : VReg) (i : Nat) := f32.value flush (elem 32 v i)
    ((Instr.vcvt d a y z p t r).wf = true → slice (.vcvt d a y z p t r) [a] wd (if narrow then p.toNat * n else 0) n fun i draw =>
      convertElem (elemOf y.toNat) (elemOf t.toNat) r.toNat (z == 1) flush draw
        (elem ws (tl.vread a) (if narrow then i else p.toNat * n + i))) ∧
    ((Instr.vq d a b p t z r).wf = true → slice (.vq d a b p t z r) [a, b] wd (p.toNat * 64) 64 fun i draw =>
      let x := divVal (lane (tl.vread a) i) (lane (tl.vread b) i)
      let q := match elemOf t.toNat with
        | .float f => f.convert r.toNat (z == 1) flush draw x.1
        | .int sg w => floatToInt sg w r.toNat draw x.1
        | _ => (0, 0)
      (q.1, x.2 ||| q.2)) ∧
    ((Instr.vdq d a b p t r).wf = true → slice (.vdq d a b p t r) [a, b] 32 0 64 fun i draw =>
      let x := mulVal ((elemOf t.toNat).value flush (elem wd (tl.vread a) (p.toNat * 64 + i))) (lane (tl.vread b) i)
      let q := f32.convert r.toNat false flush draw x.1
      (q.1, x.2 ||| q.2)) ∧
    ((Instr.vbs d a t k).wf = true →
      let block (j : Nat) := (List.range 16).map fun i => (lane (tl.vread a) (16 * j + i)).rat
      let m (j : Nat) : Rat := (block j).foldl (fun acc x => max acc |x.getD 0|) 0
      let lmax : Rat := match t.toNat with | 2 => 65504 | 3 => 448 | 4 => 57344 | 5 => 6 | 7 => 32767 | 8 => 127 | _ => 7
      let emax : Int := match t.toNat with | 2 => 15 | 3 => 8 | 4 => 15 | 5 => 2 | 7 => 14 | 8 => 6 | _ => 2
      let code (j : Nat) : Nat × Flags :=
        if none ∈ block j then (if k = 1 then 0xFF else 0x7F, flagNV)
        else if m j = 0 then (if k = 1 then 0x7F else 0x38, 0)
        else if k = 1 then
          let c := Int.log 2 (m j) - emax + 127
          (if c < 1 then 1 else if 254 < c then 254 else c.toNat, if 254 < c then flagST else 0)
        else match (List.range 127).find? fun c => decide (m j / lmax ≤ ((e4m3.value false c).rat.getD 0)) with
          | some c => (c, 0)
          | none => (0x7E, flagST)
      let scale (c : Nat) : Nat :=
        if k = 1 then (if c = 255 then 0x7FC00000 else c * 2 ^ 23) else if c = 0x7F then 0x7FC00000
        else (f32.convert 0 false false 0 (e4m3.value false c)).1
      let flags := (code 0).2 ||| (code 1).2 ||| (code 2).2 ||| (code 3).2
      ∀ taken, tl.takeSources false [a] [d] = .ok taken →
        (∃ t', exec (.vbs d a t k) s = .next t' ∧
          s.VGives t' tn 2 6 taken [toDest d (ofElems 32 ((List.range 64).map fun e => scale (code (e / 16)).1))] flags) ∧
        ∃ t', exec (.vbsCode d a p t k) s = .next t' ∧
          s.VGives t' tn 2 6 taken [toDest d (sliceOf 8 (4 * p.toNat) 4 (tl.vold d) fun j => (code j).1)] flags)

/-- R161, R162: vsfu rounds the exact value once, with the special cases of its table; vred
combines the governed elements, widened, and the identity in place of the others, by the fixed
tree, and clears lanes 1 to 63. That narrow elements are widened before, and take the identity of
the wide type, is the model's reading (log 44, DEDUCED). -/
def Obligations.VectorFunctions : Prop :=
  ∀ (s : State) (tn : BitVec 6) (d a : BitVec 5) (p fn : BitVec 3) (t : BitVec 4) (k : BitVec 1) (o : BitVec 2), s.BlockTurn tn .v →
    let tl := (s.tile tn).atIssue .v
    let flush := tl.v.exposed
    let pr := tl.preg p
    let sfu (e : Nat) : Nat × Flags :=
      let x := sfuVal fn.toNat (f32.value flush (elem 32 (tl.vread a) e))
      ((f32.convert 0 false flush 0 x.1).1, x.2 ||| (f32.convert 0 false flush 0 x.1).2)
    let w := tyWidth t
    let levels := if w = 8 then 8 else if w = 16 then 7 else 6
    let signed (x : Nat) : Int := if t.toNat ≤ 8 then (BitVec.ofNat 32 x).toInt else (BitVec.ofNat 32 x).toNat
    let wide (x : Nat) : Nat × Flags :=
      if t.toNat ≤ 2 then f32.convert 0 false flush 0 ((floatOf t).value flush x)
      else (if t.toNat ≤ 8 then ((BitVec.ofNat w x).signExtend 32).toNat else x, 0)
    let identity : Nat :=
      if t.toNat ≤ 2 then (if o = 0 then 0x80000000 else if o = 1 then 0xFF800000 else 0x7F800000)
      else if o = 0 then 0 else if t.toNat ≤ 8 then (if o = 1 then 0x80000000 else 0x7FFFFFFF)
      else if o = 1 then 0 else 0xFFFFFFFF
    let comb (x y : Nat) : Nat × Flags :=
      if t.toNat ≤ 2 then
        (if o = 0 then
          let q := addVal 0 (f32.value flush x) (f32.value flush y)
          ((f32.convert 0 false flush 0 q.1).1, q.2 ||| (f32.convert 0 false flush 0 q.1).2)
        else minMax (o == 1) (f32.value flush x) (f32.value flush y) (f32.flushed flush x) (f32.flushed flush y) 0x7FC00000)
      else (if o = 0 then (x + y) % 2 ^ 32 else if (signed x < signed y) = (o = 1) then y else x, 0)
    let all := pairTree comb levels (fun e => if pr.getLsbD (e * w / 4) = true then wide (elem w (tl.vread a) e) else (identity, 0)) 0
    (fn.toNat ≤ 3 → ∀ taken, tl.takeSources (pk k) [a] [d] = .ok taken → ∃ t', exec (.vsfu d a p k fn) s = .next t' ∧
      s.VGives t' tn 4 14 taken [toDest d (governedBy 32 pr (tl.vold d) fun e => (sfu e).1)] (flagsOf 32 pr fun e => (sfu e).2)) ∧
    ((Instr.vred d a p t k o).wf = true → ∀ taken, tl.takeSources (pk k) [a] [d] = .ok taken → ∃ t', exec (.vred d a p t k o) s = .next t' ∧
      s.VGives t' tn 2 16 taken [toDest d (BitVec.ofNat 2048 all.1)] all.2)

/-- R163 to R165: vperm, vzip and vunzip rearrange elements under their predicate; vtr transposes its group of registers, reading all
of it first. -/
def Obligations.VectorRearrange : Prop :=
  ∀ (s : State) (tn : BitVec 6) (d a b : BitVec 5) (p : BitVec 3) (t : BitVec 4) (k h : BitVec 1), s.BlockTurn tn .v →
    let w := tyWidth t
    let n := 2048 / w
    let m := n / 2
    let tl := (s.tile tn).atIssue .v
    let ea e := elem w (tl.vread a) e
    let eb e := elem w (tl.vread b) e
    let transposed (rows w : Nat) : List Late := (List.range (rows / 4)).map fun j =>
      .vreg (d + BitVec.ofNat 5 j) (ofElems w ((List.range (4 * rows)).map fun e =>
        let row := 4 * j + e / rows
        let col := e % rows
        elem w (tl.vreg (a + BitVec.ofNat 5 (col / 4))) (rows * (col % 4) + row)))
    (t ≠ 12 → t ≠ 15 →
      (8 ≤ w → s.VElements tn d w p tl.seeds ⟨.vperm d a b p t k, pk k, [a, b], 3, fun e => (if eb e < n then ea (eb e) else 0, 0)⟩) ∧
      s.VElements tn d w p tl.seeds ⟨.vzip d a b p t k h, pk k, [a, b], 2, fun e =>
        (if e % 2 = 0 then ea (h.toNat * m + e / 2) else eb (h.toNat * m + e / 2), 0)⟩ ∧
      s.VElements tn d w p tl.seeds ⟨.vunzip d a b p t k h, pk k, [a, b], 2, fun e =>
        (if e < m then ea (2 * e + h.toNat) else eb (2 * (e - m) + h.toNat), 0)⟩) ∧
    (a.toNat ≤ 16 → d.toNat ≤ 16 → ∃ t', exec (.vtrH d a) s = .next t' ∧ s.VGives t' tn 8 10 tl (transposed 32 16) 0) ∧
    (a.toNat ≤ 20 → d.toNat ≤ 20 → ∃ t', exec (.vtrW d a) s = .next t' ∧ s.VGives t' tn 4 8 tl (transposed 16 32) 0)

/-- R170 to R174: vld, vldm and vgx give their registers the bytes at their addresses, and zero for a byte or element out of bounds;
vst and vsx write those of their register that are in bounds, of two that share bytes the higher element; an ungoverned element
is not accessed. -/
def Obligations.VectorMemory : Prop :=
  ∀ (s : State) (tn : BitVec 6) (d n x : BitVec 5) (o r : Byte) (k : BitVec 2) (o6 : BitVec 6) (p : BitVec 3) (win : Window) (leaf : Leaf)
    (pa : Nat) (pas : Nat → Nat), s.BlockTurn tn .v →
    let tl := (s.tile tn).atIssue .v
    tl.windows[n.toNat] = some win → win.image.fmt ≠ 12 →
    let ul := tl.useOf .v win false
    let us := tl.useOf .v win true
    let width := fmtWidth win.image.fmt
    let held := (tl.pending.filter fun q => q.load).length
    let sound (pa n : Nat) (used : Nat → Bool) := ∀ i < n, used i = true → s.anyPoison (pa + i) 1 = false
    let regAt (pa : Nat) (used : Nat → Bool) : VReg :=
      ofElems 8 ((List.range 256).map fun i => if used i = true then (s.byte (pa + i)).toNat else 0)
    let inAt (u : Use) (off : Int) (i : Nat) := u.byteIn (off + i)
    let at_ (u : Use) (e : Nat) : Int := u.c 0 + elem 32 (tl.vread x) e
    let used (u : Use) (e : Nat) : Bool :=
      e < 64 && (tl.preg p).getLsbD (e * width / 4) && u.image.inBounds (at_ u e) (u.c 1) (u.c 2)
    let elemAddr (u : Use) (e : Nat) : Int := u.addr (at_ u e) (u.c 1) (u.c 2)
    ((ul.curAddr + o.toInt * 256) % 4 = 0 → s.PlainBytes ul.pins (ul.curAddr + o.toInt * 256) 256 (inAt ul (o.toInt * 256)) leaf pa →
      sound pa 256 (inAt ul (o.toInt * 256)) → held < 32 → ∀ taken, tl.takeSources false [] [d] = .ok taken →
      ∃ t, exec (.vld d n o r) s = .next t ∧
        s.VLands t tn 1 r.toNat taken [(toDest d (regAt pa (inAt ul (o.toInt * 256))), ul.keptRow n (o.toInt * 256) 256)]) ∧
    (let regs := 2 ^ (k.toNat + 1)
      let off (j : Nat) : Int := (o6.toInt + j) * 256
      k.toNat ≤ 2 → d.toNat + regs ≤ 24 → (ul.curAddr + o6.toInt * 256) % 4 = 0 → held + regs ≤ 32 →
      (∀ j < regs, s.PlainBytes ul.pins (ul.curAddr + off j) 256 (inAt ul (off j)) leaf (pa + 256 * j) ∧
        sound (pa + 256 * j) 256 (inAt ul (off j))) →
      ∃ t, exec (.vldm d n k o6 r) s = .next t ∧
        s.VLands t tn regs r.toNat tl ((List.range regs).map fun j =>
          (Late.vreg (d + BitVec.ofNat 5 j) (regAt (pa + 256 * j) (inAt ul (off j))), ul.keptRow n (off j) 256))) ∧
    (width ∈ [8, 16, 32] → (ul.curAddr % (width / 8 : Nat) = 0) → held < 32 →
      (∀ e < 64, used ul e = true → s.PlainBytes ul.pins (elemAddr ul e) (width / 8) (fun _ => true) leaf (pas e) ∧
        sound (pas e) (width / 8) fun _ => true) →
      ∀ taken, tl.takeSources false [x] [d] = .ok taken → ∃ t, exec (.vgx d n x p r) s = .next t ∧
        s.VLands t tn 4 r.toNat taken
          [(toDest d (ofElems width ((List.range (2048 / width)).map fun e =>
            if used ul e = true then leNat (s.mem.bytes (pas e) (width / 8))
            else if e < 64 ∧ (tl.preg p).getLsbD (e * width / 4) = true then 0 else elem width (tl.vold d) e)),
            { window := n
              pieces := ((List.range (2048 / width)).filter (used ul)).map fun e => (e * (width / 8), elemAddr ul e, width / 8) })]) ∧
    (win.image.snap = false → leaf.w = true → tl.noLateLoad .v →
      ((us.curAddr + o.toInt * 256) % 4 = 0 → s.PlainBytes us.pins (us.curAddr + o.toInt * 256) 256 (inAt us (o.toInt * 256)) leaf pa →
        ∀ taken, tl.takeSources false [d] [] = .ok taken → ∃ t, exec (.vst d n o r) s = .next t ∧
        (∀ i < 256, inAt us (o.toInt * 256) i = true → (t.byte (pa + i)).toNat = elem 8 (tl.vread d) i) ∧
        (∀ q, (∀ i < 256, inAt us (o.toInt * 256) i = true → q ≠ pa + i) → t.byte q = s.byte q) ∧
        s.StoresOnly t leaf fun z => if z = tn then taken.issued .v 1 1 else s.tile z) ∧
      (width ∈ [8, 16, 32] → (us.curAddr % (width / 8 : Nat) = 0) →
        (∀ e < 64, used us e = true → s.PlainBytes us.pins (elemAddr us e) (width / 8) (fun _ => true) leaf (pas e)) →
        ∀ taken, tl.takeSources false [d, x] [] = .ok taken → ∃ t, exec (.vsx d n x p r) s = .next t ∧
        (∀ q, t.byte q = (match (List.range 64).reverse.find? fun e => used us e && decide (pas e ≤ q ∧ q < pas e + width / 8) with
          | some e => BitVec.ofNat 8 (elem width (tl.vread d) e / 2 ^ (8 * (q - pas e)))
          | none => s.byte q)) ∧
        s.StoresOnly t leaf fun z => if z = tn then taken.issued .v 4 4 else s.tile z))

/-- R175, R177, R181: a memory form through a window that is not installed is BFAULT, and one whose address is no multiple of 4, for vgx
and vsx of its element, is ALIGN; vacr reads 64 elements of a row of a bank, of which one in error is POISON, and vacw writes them, and a
row past the usable rows is XLATE. -/
def Obligations.VectorAccumulators : Prop :=
  ∀ (s : State) (tn : BitVec 6) (d n x : BitVec 5) (o r : Byte) (k b : BitVec 2) (o6 : BitVec 6) (p g : BitVec 3), s.BlockTurn tn .v →
    let tl := (s.tile tn).atIssue .v
    let here := ((s.tile tn).stream .v).body
    let acc := tl.banks[b.toNat % 3]
    d.toNat < 24 → x.toNat < 24 →
    (tl.windows[n.toNat] = none → ∀ i ∈ ([.vld d n o r, .vldm d n k o6 r, .vst d n o r, .vgx d n x p r, .vsx d n x p r] : List Instr),
      ∃ t, exec i s = .next t ∧ s.BlockFaults t tn .v 0x0E here) ∧
    (∀ win, tl.windows[n.toNat] = some win → win.image.fmt ≠ 12 →
      let ul := tl.useOf .v win false
      let us := tl.useOf .v win true
      let width := fmtWidth win.image.fmt
      ((ul.curAddr + o.toInt * 256) % 4 ≠ 0 → ∃ t, exec (.vld d n o r) s = .next t ∧ s.BlockFaults t tn .v 0x04 here) ∧
      ((us.curAddr + o.toInt * 256) % 4 ≠ 0 → ∃ t, exec (.vst d n o r) s = .next t ∧ s.BlockFaults t tn .v 0x04 here) ∧
      ((ul.curAddr + o6.toInt * 256) % 4 ≠ 0 → ∃ t, exec (.vldm d n k o6 r) s = .next t ∧ s.BlockFaults t tn .v 0x04 here) ∧
      (width ∉ [8, 16, 32] → ∀ i ∈ ([.vgx d n x p r, .vsx d n x p r] : List Instr),
        ∃ t, exec i s = .next t ∧ s.BlockFaults t tn .v 0x0E here) ∧
      (width ∈ [8, 16, 32] →
        (ul.curAddr % (width / 8 : Nat) ≠ 0 → ∃ t, exec (.vgx d n x p r) s = .next t ∧ s.BlockFaults t tn .v 0x04 here) ∧
        (us.curAddr % (width / 8 : Nat) ≠ 0 → ∃ t, exec (.vsx d n x p r) s = .next t ∧ s.BlockFaults t tn .v 0x04 here))) ∧
    (b.toNat ≤ 2 →
      (o.toNat < s.bankRows tn b →
        (((List.range 64).any fun j => acc.badAt o.toNat (64 * g.toNat + j)) = true → ∃ t, exec (.vacr d g b o r) s = .next t ∧
          t.tile tn = tl.blockFault .v 0x0B here ∧ s.SameBytes t) ∧
        (((List.range 64).any fun j => acc.badAt o.toNat (64 * g.toNat + j)) = false → ∃ t, exec (.vacr d g b o r) s = .next t ∧ s.VGives t tn 1 3 tl
          [.vreg d (ofElems 32 ((List.range 64).map fun j => ((tget acc.cells (512 * o.toNat + (64 * g.toNat + j))).getD 0).toNat))] 0) ∧
        ∃ t, exec (.vacw d g b o r) s = .next t ∧ s.VGives t tn 1 2 tl [.acc b o.toNat g.toNat (tl.vreg d)] 0) ∧
      (s.bankRows tn b ≤ o.toNat → ∀ i ∈ ([.vacr d g b o r, .vacw d g b o r] : List Instr),
        ∃ t, exec i s = .next t ∧ s.BlockFaults t tn .v 0x02 here))

/-! ## How block streams go on -/

/-- R146, R147, R231, R239, R240: a result is written at once in an interlocked block and stands until the end of its tc in an
exposed one; an issue feeds six bytes to the signature, counts its cost and moves to the next word whose turn it is, here of a
record whose qualifiers are all 0. -/
def Obligations.BlockProgress : Prop :=
  ∀ (u : Tile) (x : BStream) (c l : Nat) (r : Late),
    let y := u.stream x
    let v := (u.issued x c l).stream x
    let inter := bits (recWord y.record 0) 20 20 = 1
    let len := bits (recWord y.record 0) 27 24
    let depth := bits (recWord y.record 0) 23 21
    let trip (j : Nat) := bits (recWord y.record (6 + j)) 23 0
    let period (j : Nat) := ((List.range j).map trip).prod
    let iter := ((List.range depth).map fun j => y.idx[j % 6].toNat * period j).sum
    let i := y.body.toNat
    let word := (y.record[6 + depth + i]?.getD 0).toNat
    let a := if inter then y.count.toNat
      else y.blockCount.toNat + (y.nextTc - (if y.started = true then y.t0 else y.nextTc) - (if y.started = true then y.stalls else 0))
    let fed := a % 2 ^ 16 + word * 2 ^ 16
    let feed (crc : W32) (j : Nat) : W32 :=
      let out := crc.getLsbD 0 != fed.testBit j
      (crc >>> 1) ^^^ if out = true then 0x82F63B78 else 0
    (inter → u.results x l [r] 0 = u.applyLate r) ∧
    (¬inter → (u.pending.map fun p => p.due).Pairwise (· ≤ ·) →
      (∀ p ∈ u.pending, p.stream = x → p.what.queue? = r.queue? → r.queue? ≠ none → p.due ≤ y.nextTc + l - 1) → u.results x l [r] 0 = { u with
      pending := u.pending.filter (fun p => p.due ≤ y.nextTc + l - 1) ++
        { due := y.nextTc + l - 1, stream := x, landed := true, load := false, what := r, kept := none } ::
        u.pending.filter (fun p => y.nextTc + l - 1 < p.due) }) ∧
    v.crc = (List.range 48).foldl feed y.crc ∧ v.count = BitVec.ofNat 32 (a + c) ∧ v.started = true ∧
    (¬inter → v.nextTc = y.nextTc + c) ∧ v.record = y.record ∧ v.state = y.state ∧ v.pos = y.pos ∧
    (recWord y.record 4 = 0 → recWord y.record 5 = 0 → 1 ≤ len → len ≤ 12 → depth ≤ 6 → i < len → iter < period depth →
      (i + 1 < len → v.body.toNat = i + 1 ∧ ∀ j < depth, v.idx[j % 6].toNat = iter / period j % trip j) ∧
      (i + 1 = len → iter + 1 < period depth → v.body = 0 ∧ ∀ j < depth, v.idx[j % 6].toNat = (iter + 1) / period j % trip j) ∧
      (i + 1 = len → iter + 1 = period depth → v.body.toNat = len)) ∧
    ∀ z, z ≠ x → (u.issued x c l).stream z = u.stream z

/-- R16, R186, R229, R230, R236, R237, R241, R307, R417: the events of a block stream, in a tc in which no other raise is due. The await takes
its count, or waits, for a stream that R16 puts first too, or faults on poison, and starts the fetched record at its first word in the next
tc; a ring window is awaited and raised; a completed block moves its stream on and raises; results, load data and queue pushes are written
when they land, those that a resume asks for again once they are read, and a freeze ends with its cause. -/
def Obligations.BlockEvents : Prop :=
  ∀ (s : State) (tn : BitVec 6) (e : BitVec 2) (r : List W32) (n : BitVec 5) (win : Window) (p : Pending) (rest : List Pending),
    let x := streamOf e
    let tl := s.tile tn
    let y := tl.stream x
    let pos := y.pos.toNat
    let w1 := leNat (s.mem.bytes (storeAddr tn (pos + 4)) 4)
    let awn := bits w1 25 16
    let aws : BitVec 6 := BitVec.ofNat 6 (w1 / 2 ^ 26)
    let only (t : State) (v : Tile) : Prop := s.OnlyTile t tn ∧ t.tile tn = v ∧ s.SameBytes t
    let seen : Stream := { y with w1 := some (BitVec.ofNat 32 w1) }
    let now := tl.tc + 1
    let ring := if y.exposed = true then max tl.tc y.nextTc else tl.portNow
    let taken : Tile := if awn = 0 then tl else tl.setSem aws { tl.sem aws with count := (tl.sem aws).count - BitVec.ofNat 16 awn }
    let k : BitVec 6 := BitVec.ofNat 6 (if blockWrites x y n = true then win.image.rs + 1 else win.image.rs)
    let other : BitVec 6 := BitVec.ofNat 6 (if blockWrites x y n = true then win.image.rs else win.image.rs + 1)
    (tl.status = .run → tl.boundary = false → (∀ a ∈ s.fabric.answers, a.who ≠ streamAsker tn x) →
      -- the await (R229)
      (y.state = .await → pos + 8 ≤ s.prefixEnd tn → s.anyPoison (storeAddr tn (pos + 4)) 4 = false →
        (y.w1 = none ∨ y.w1 = some (BitVec.ofNat 32 w1)) → y.ppoint = false → s.noRaises tn tl.portNow →
        (awn ≠ 0 → (tl.sem aws).poison = true → ∃ t, exec (.blockAwaitGrant tn e) s = .next t ∧ only t ((tl.setStream x seen).blockFault x 0x0B 12)) ∧
        (awn ≠ 0 → (tl.sem aws).poison = false → (tl.sem aws).count.toNat < awn ∨ tl.earlierWaits tl.portNow x aws = true → ∃ t, exec (.blockAwaitGrant tn e) s = .next t ∧
          only t (tl.setStream x seen).tick) ∧
        (awn = 0 ∨ (tl.sem aws).poison = false ∧ awn ≤ (tl.sem aws).count.toNat ∧ tl.earlierWaits tl.portNow x aws = false →
          s.readBlock tn pos = .ok r →
          badWord x r = none → taken.fetchClash x r = false → recWord r 4 = 0 → recWord r 5 = 0 → (∀ j < recDepth r, recTrip r j ≠ 0) →
          ∃ t, exec (.blockAwaitGrant tn e) s = .next t ∧ only t ((taken.setStream x { seen with
            state := .run
            record := r
            idx := Vector.replicate 6 0
            body := 0
            ring := 0
            ringDue := 0
            ringAt := []
            ppoint := false
            started := false
            consumed := false
            denied := none
            queued := none
            stalls := 0
            blockCount := y.count
            t0 := now
            nextTc := now
            endTc := now }).bind x r))) ∧
      -- a ring window (R186)
      (y.state = .run → y.nestDone = false → y.exposed = false ∨ tl.frozenAt ring = false → s.noRaises tn ring →
        (tl.ringNeeds x y).head? = some n → tl.windows[n.toNat] = some win →
        ((tl.sem k).poison = true → ∃ t, exec (.ringAwaitGrant tn e) s = .next t ∧ only t (tl.blockFault x 0x0B y.body)) ∧
        ((tl.sem k).poison = false → (tl.sem k).count = 0 ∨ tl.earlierWaits ring x k = true → ∃ t, exec (.ringAwaitGrant tn e) s = .next t ∧ only t
          (if y.exposed = true then (tl.atIssue x).setStream x { y with nextTc := y.nextTc + 1, stalls := if y.started = true then y.stalls + 1 else 0 }
           else tl.tick)) ∧
        ((tl.sem k).poison = false → (tl.sem k).count ≠ 0 → tl.earlierWaits ring x k = false → ∃ t, exec (.ringAwaitGrant tn e) s = .next t ∧
          only t ((tl.setSem k { tl.sem k with count := (tl.sem k).count - 1 }).setStream x
            { y with ring := y.ring ||| BitVec.twoPow 32 n.toNat }))) ∧
      (y.state = .run → y.exposed = false ∨ tl.frozenAt (max tl.tc y.nextTc) = false → s.asking (streamAsker tn x) = false →
        (List.range 32).find? (fun j => y.ringDue.getLsbD j) = some n.toNat → tl.windows[n.toNat] = some win → win.image.ns ≤ 15 →
        let z := tl.sem other
        let at_ := if blockWrites x y n = true then win.image.wpos else win.image.rpos
        (z.count.toNat < 65535 → ∃ t, exec (.ringRaise tn e) s = .next t ∧
          only t ((((tl.performAll x).setSem other { z with count := z.count + 1 }).setWindow n (some { win with
            image := win.image.setPos (blockWrites x y n) ((at_ + 1) % (win.image.ns + 1)) })).setStream x
              { y with ring := y.ring &&& ~~~BitVec.twoPow 32 n.toNat, ringDue := y.ringDue &&& ~~~BitVec.twoPow 32 n.toNat })) ∧
        (z.count.toNat = 65535 → ∃ t, exec (.ringRaise tn e) s = .next t ∧ only t (tl.blockFault x 0x0A ((tget y.ringAt n.toNat).getD 0)))) ∧
      -- retirement (R230) of a block that closes no segment
      (s.blockComplete tn x = true → y.exposed = false ∨ tl.frozenAt (tl.retireTc x) = false → (∀ q ∈ tl.port, tl.retireTc x - 1 ≤ q.1) →
        recSegend y.record = false → y.consumed = false →
        let tl : Tile := if y.exposed = true then tl.toTc y.endTc else tl
        let z := tl.sem (recRss y.record)
        let left (v : Tile) : Tile := (v.setStream x { y with
          state := if recNext y.record = 0 then .idle else .await
          pos := if recNext y.record = 0 then y.pos else y.pos + BitVec.ofNat 23 (4 * recNext y.record)
          count := if y.exposed = true ∧ y.started = true then BitVec.ofNat 32 (y.blockCount.toNat + (y.endTc - y.t0 - y.stalls)) else y.count
          idx := Vector.replicate 6 0
          body := 0
          record := []
          ring := 0
          ringDue := 0
          ringAt := []
          started := false
          denied := none
          queued := none
          w1 := none
          ppoint := tl.status == .stopping && recPpoint y.record }).unbind x
        (recRsn y.record = 0 → ∃ t, exec (.blockRetire tn e) s = .next t ∧ only t (left tl)) ∧
        (recRsn y.record ≠ 0 → z.count.toNat + recRsn y.record ≤ 65535 → ∃ t, exec (.blockRetire tn e) s = .next t ∧
          only t (left (tl.setSem (recRss y.record) { z with count := z.count + BitVec.ofNat 16 (recRsn y.record) }))) ∧
        (65535 < z.count.toNat + recRsn y.record → ∃ t, exec (.blockRetire tn e) s = .next t ∧
          ((t.tile tn).stream x).state = .faulted ∧ ((t.tile tn).stream x).faultCause = 0x0A ∧ ((t.tile tn).stream x).faultIdx = 15 ∧
          (t.tile tn).sem (recRss y.record) = z))) ∧
    -- what is in flight (R146, R203, R236, R237)
    (tl.pending = p :: rest → (∀ q ∈ rest, p.due < q.due) →
      (p.landed = true → tl.operandLate = false → tl.portBusy = false → tl.pastIssues p.due = true →
        ∃ t, exec (.exposedResultWrite tn) s = .next t ∧
        only t { ({ tl with pending := rest }).applyLate p.what with tc := max tl.tc (p.due + 1) }) ∧
      (p.kept = none ∨ (∃ k, p.kept = some k ∧ k.again = false) → s.rereadOne tn p = .ok p) ∧
      ∀ q, s.rereadOne tn p = .ok q → (∀ a ∈ s.fabric.answers, a.who ≠ streamAsker tn p.stream) →
        (p.load = true → p.landed = false → ∃ t, exec (.loadDataLand tn) s = .next t ∧
          only t ({ tl with pending := { q with landed := true } :: rest }.performAll q.stream)) ∧
        (p.load = false → p.landed = false → (tl.stream p.stream).state ≠ .halted → ∃ t, exec (.qfillDataLand tn) s = .next t ∧
          only t (({ tl with pending := rest }).applyLate q.what))) ∧
    (∃ t, exec (.operandByteArrival tn) s = .next t ∧ only t { tl with operandLate := false }) ∧
    ∃ t, exec (.exposedAccessAccept tn) s = .next t ∧ only t { tl with portBusy := false }

/-- R239 to R241, R402, R403: a completed block that closes a segment records its count and signature. A difference from W2 and W3 is
SEGCHK and raises nothing; it counts against the physical tile, whose second within 24 hours marks it for quarantine, and its record holds
how many there were. With no difference, or with W2 = W3 = 0 or a halt in the segment, both begin anew. -/
def Obligations.SegmentCheck : Prop :=
  ∀ (s : State) (tn : BitVec 6) (e : BitVec 2),
    let x := streamOf e
    let tl := s.tile tn
    let y := tl.stream x
    let a : W32 := if y.exposed = true ∧ y.started = true then BitVec.ofNat 32 (y.blockCount.toNat + (y.endTc - y.t0 - y.stalls)) else y.count
    let sig := ~~~y.crc
    let skipped := (recWord y.record 2 = 0 ∧ recWord y.record 3 = 0) ∨ y.haltSeen = true
    let same := recWord y.record 2 = a.toNat ∧ recWord y.record 3 = sig.toNat
    tl.status = .run → tl.boundary = false → (∀ q ∈ s.fabric.answers, q.who ≠ streamAsker tn x) → s.blockComplete tn x = true →
    recSegend y.record = true → y.consumed = false → y.exposed = false ∨ tl.frozenAt (tl.retireTc x) = false →
    (∀ q ∈ tl.port, tl.retireTc x - 1 ≤ q.1) →
    ∃ t, exec (.blockRetire tn e) s = .next t ∧ s.SameBytes t ∧ ((t.tile tn).stream x).lastCount = a ∧ ((t.tile tn).stream x).lastSig = sig ∧
      (recRsn y.record = 0 ∨ ¬skipped ∧ ¬same → ∀ z, (t.tile tn).sem z = tl.sem z) ∧
      (recRsn y.record = 0 → skipped ∨ same → ((t.tile tn).stream x).count = 0 ∧ ((t.tile tn).stream x).crc = 0xFFFFFFFF ∧
        ((t.tile tn).stream x).state = (if recNext y.record = 0 then .idle else .await) ∧ s.OnlyTile t tn) ∧
      (¬skipped → ¬same → ((t.tile tn).stream x).state = .faulted ∧ ((t.tile tn).stream x).faultCause = 0x06 ∧
        ((t.tile tn).stream x).faultIdx = 15 ∧ ((t.tile tn).stream x).count = a ∧ ((t.tile tn).stream x).crc = y.crc ∧
        (tl.stopsAtOnce → (t.tile tn).status = .faulted) ∧
        ∀ (p : Nat) (h : PhysTile), s.physOfTile tn = some p → (s.cluster (tileCluster tn)).phys[p]? = some h →
          let recent := h.misses.filter fun z => decide (s.time.ns.toNat ≤ z + 24 * 3600 * 10 ^ 9)
          (t.cluster (tileCluster tn)).phys[p]? =
            some { h with misses := s.time.ns.toNat :: recent, pendingQuar := h.pendingQuar || !recent.isEmpty } ∧
          ((s.die (tileDie tn)).log.length < 1024 → ((t.die (tileDie tn)).log.getLast?.map fun r => (r.cls.toNat, r.count.toNat)) =
            some (8, (recent.length + 1) % 2 ^ 32)))

/-! ## The M stream -/

/-- R134, R193, R194, R198: mm, mmp and mmag, of operands read without an error, give rows 16o to
16o + M − 1 of the bank, at columns below N, the sums of the blocks in increasing K, or their
integer sum; a missing element is +0, a missing scale is 1, and mmag takes the adapter that its
index names, with no contribution of what that leaves outside the bounds. The format word is
popped and the flags are joined to the bank's. The model's choice (log 16, DEDUCED): the bank is
written at issue and marked with the tc from which it is due. -/
def Obligations.MatrixProducts : Prop :=
  ∀ (s : State) (tn : BitVec 6) (k : BitVec 2) (a b sa sb : BitVec 5) (o : BitVec 4) (f : W32) (rest : List W32)
    (wa wb wx wy : Window) (A SA SB : Nat → Nat → Option Nat) (B : Nat → Nat → Nat → Option Nat) (I : Nat → Option Nat),
    s.BlockTurn tn .m → k ≠ 3 →
    let tl := (s.tile tn).atIssue .m
    let sx := s.onTile tn fun u => u.atIssue .m
    let w : FormatWord := ⟨f.toNat⟩
    let on (v : Window) := tl.useOf .m v false
    let kk := wa.image.extent 0
    let m := wa.image.extent 1
    let n := wb.image.extent 0
    let nb := (kk + 15) / 16
    let bits (x : Nat) := if x = 5 ∨ x = 14 then 4 else if x = 1 ∨ x = 2 then 16 else 8
    let rate := if bits w.afmt = 16 ∨ bits w.bfmt = 16 then 128 else if bits w.afmt = 8 ∨ bits w.bfmt = 8 then 256 else 512
    let cost := max 8 (if w.plane = 0 then (n * (16 * nb) + rate - 1) / rate
      else if w.bfmt = 13 then (n * (16 * nb) + 511) / 512 else (n * (16 * nb) * (w.pcnt + 1) + 2047) / 2048)
    let shaped (v : Window) (fmt e0 e1 : Nat) := v.image.extent 2 = 1 ∧ v.image.fmt = fmt ∧ v.image.extent 0 = e0 ∧ v.image.extent 1 = e1
    let value (kind : Nat) (scale : Option Nat) (fmt planes : Nat) (x : Option Nat) : Option Val × Flags := match x with
      | some raw => (some (scaledVal kind scale (operandVal fmt planes raw)).1, (scaledVal kind scale (operandVal fmt planes raw)).2)
      | none => (none, 0)
    let va (i q x : Nat) := value w.ask (SA q i) w.afmt 1 (if 16 * q + x < kk then A (16 * q + x) i else none)
    let vb (i q j x : Nat) := value w.bsk (SB j q) w.bfmt (w.pcnt + 1) (if 16 * q + x < kk then B i j (16 * q + x) else none)
    let outside (adapter : Bool) (i y : Nat) : Bool := adapter &&
      !decide (0 ≤ (on wb).c 1 + (kk * (I i).getD 0xFFFFFFFF + y : Nat) ∧ (on wb).c 1 + (kk * (I i).getD 0xFFFFFFFF + y : Nat) < wb.image.bound 1)
    let blocks (g : Nat → Nat → Option Val) : List (List (Option Val)) :=
      (List.range nb).map fun q => (List.range 16).map fun x => g q x
    let whole (v : Option Val) : Int := match v with | some (.fin neg n _) => if neg = true then -n else n | _ => 0
    let bank := tl.banks[k.toNat % 3]
    let at_ (c : Table W32) (r j : Nat) : W32 := (tget c (512 * r + j)).getD 0
    let result (adapter : Bool) (i j : Nat) : Nat × Flags :=
      let old := at_ bank.cells (16 * o.toNat + i) j
      if w.iacc = true then
        ((BitVec.ofInt 32 ((if w.acc = true then old.toInt else 0) +
          ((List.range (16 * nb)).map fun y => whole (va i (y / 16) (y % 16)).1 * whole (vb i (y / 16) j (y % 16)).1).sum)).toNat, 0)
      else accumulate w.acc old.toNat (blocks fun q x => if outside adapter i (16 * q + x) = true then none else (va i q x).1)
        (blocks fun q x => (vb i q j x).1)
    let lone (i : Nat) : Bool := (List.range kk).all (outside true i)
    let flags (adapter : Bool) := ((List.range m).flatMap fun i => (List.range n).flatMap fun j =>
      if adapter = true ∧ lone i = true then [] else (result adapter i j).2 ::
        (List.range nb).flatMap fun q => (List.range 16).flatMap fun x => [(va i q x).2, (vb i q j x).2]).foldl (· ||| ·) bank.flags
    let ends (i : Instr) (c : Nat) (adapter : Bool) : Prop := ∃ t, exec i s = .next t ∧ s.OnlyTile t tn ∧ s.SameBytes t ∧
      (∀ r < 256, ∀ j < 512, at_ ((t.tile tn).banks[k.toNat % 3]).cells r j =
        if 16 * o.toNat ≤ r ∧ r < 16 * o.toNat + m ∧ j < n then BitVec.ofNat 32 (result adapter (r - 16 * o.toNat) j).1 else at_ bank.cells r j) ∧
      ((t.tile tn).banks[k.toNat % 3]).flags = flags adapter ∧ ((t.tile tn).banks[k.toNat % 3]).poison = bank.poison ∧
      (∀ b : Fin 3, b ≠ k.toNat % 3 → (t.tile tn).banks[b] = tl.banks[b]) ∧
      t.tile tn = { (({ (List.range m).foldl (fun (u : Tile) i => u.markAcc k (16 * o.toNat + i)) tl with
        formats := rest }).bankDue k (c + 24)).issued .m c (c + 24) with banks := (t.tile tn).banks }
    tl.formats = f :: rest → tl.formatDue → (w.acc = true → bank.badRows (16 * o.toNat) m n = []) →
    tl.windows[a.toNat] = some wa → tl.windows[b.toNat] = some wb → shaped wa w.afmt kk m →
    shaped wb w.bfmt n kk → 0 < m → 0 < n → n ≤ 512 → 16 * o.toNat + m ≤ 256 → 16 * o.toNat + m ≤ s.bankRows tn k →
    (w.bfmt = 12 → (on wb).c 0 % 8 = 0) → sx.Operand tn (on wa) 1 0 kk m (fun x i => A x i) →
    (w.ask = 0 ∨ tl.windows[sa.toNat] = some wx ∧ shaped wx 11 nb m ∧ sx.Operand tn (on wx) 1 0 nb m SA) →
    (∀ p ∈ ([(.mm k a b sa sb o, .mm), (.mmp k a b sa sb o, .mmp)] : List (Instr × MatOp)), w.ok p.2 = true →
      (w.bsk = 0 ∨ tl.windows[sb.toNat] = some wy ∧ shaped wy 11 n nb ∧ sx.Operand tn (on wy) 1 0 n nb SB) →
      (∀ i, B i = B 0) → sx.Operand tn (on wb) (w.pcnt + 1) 0 n kk (B 0) → ends p.1 cost false) ∧
    (w.ok .mmag = true → tl.windows[sb.toNat] = some wy → (shaped wy 9 m 1 ∨ shaped wy 10 m 1) →
      sx.Operand tn (on wy) 1 0 m 1 (fun x _ => I x) →
      (∀ i < m, sx.Operand tn (on wb) 1 (kk * (I i).getD 0xFFFFFFFF) n kk (B i)) → ends (.mmag k a b sa sb o) (cost + 16) true)

/-- R119, R134, R135, R189, R191, R199: what enters those sums. A position in bounds gives its bits, whole bytes, a nibble or planes; an
element that R119 supplies is +0, which with an infinity or a NaN is a NaN (DEDUCED, log 35); a block of finite products is their exact sum,
−0 only when all are −0, and else NaN or an infinity; each block is added and rounded once. A
command with no format word, a word that breaks its table or a row past the usable rows faults, and pops nothing. -/
def Obligations.MatrixBlocks : Prop :=
  (∀ (s : State) (tn : BitVec 6) (u : Use) (leaf : Leaf) (pa n : Nat) (k0 k1 k2 : Int),
    let w := fmtWidth u.image.fmt
    (∀ p : Nat, p < 8 → p < max 1 n → s.anyPoison (pa + p * (u.image.bound 0 / 8)) (max 1 ((w + 7) / 8)) = false) → leaf.ver = false →
    u.image.inBounds k0 k1 k2 = true →
    (w ≠ 0 → s.PlainBytes u.pins (u.addr k0 k1 k2) ((w + 7) / 8) (fun _ => true) leaf pa → u.image.fmt ≠ 12 → s.cell tn u n k0 k1 k2 = .ok
      { raw := some (if w = 4 then (if k0 % 2 = 0 then (s.byte pa).toNat % 16 else (s.byte pa).toNat / 16) else leNat (s.mem.bytes pa ((w + 7) / 8)))
        bad := none }) ∧
    (u.image.fmt = 12 → n ≤ 8 →
      (∀ p < n, s.PlainBytes u.pins (u.rowAddr k1 k2 + (p * (u.image.bound 0 / 8) : Nat) + k0 / 8) 1 (fun _ => true) leaf (pa + p * (u.image.bound 0 / 8))) →
      s.cell tn u n k0 k1 k2 = .ok
        { raw := some ((List.range n).map fun p => if (s.byte (pa + p * (u.image.bound 0 / 8))).getLsbD (k0 % 8).toNat = true then 2 ^ p else 0).sum
          bad := none }) ∧
    (∀ raw < 2 ^ n, 2 ≤ n → (operandVal 12 n raw).rat = some (((BitVec.ofNat n raw).toInt : Int) : Rat)) ∧
    operandVal 12 1 0 = .fin false 1 1 ∧ operandVal 12 1 1 = .fin true 1 1) ∧
  (∀ (s : State) (tn : BitVec 6) (k : BitVec 2) (a b sa sb : BitVec 5) (o : BitVec 4) (f : W32) (rest : List W32) (win : Window),
    s.BlockTurn tn .m →
    let tl := (s.tile tn).atIssue .m
    let faults (i : Instr) (cause : Byte) : Prop := ∃ t, exec i s = .next t ∧ s.BlockFaults t tn .m cause ((s.tile tn).stream .m).body
    let field (lo n : Nat) := f.toNat / 2 ^ lo % 2 ^ n
    let words : List Nat := [1, 2, 3, 4, 5, 8, 11, 14]
    let integers : Prop := field 17 1 = 0 ∨ (field 8 4 = 0 ∧ field 0 4 ∈ [8, 11, 14] ∧ field 4 4 ∈ [8, 11, 12, 14])
    let pair : Prop := field 0 4 ∈ words ∧ field 4 4 ∈ words ∧ (field 0 4 ≤ 5 ↔ field 4 4 ≤ 5) ∧ field 8 2 ≠ 3 ∧ field 12 4 = 0
    let table (op : MatOp) : Prop := field 25 7 = 0 ∧ (match op with
      | .mm => pair ∧ field 10 2 ≠ 3 ∧ integers
      | .mmag => pair ∧ field 10 2 = 0 ∧ integers
      | .mmp => field 0 4 = 8 ∧ (field 4 4 = 12 ∨ field 4 4 = 13 ∧ field 13 3 = 0) ∧ field 8 2 ≠ 3 ∧ field 10 2 ≠ 3 ∧ field 12 1 = 1 ∧ integers
      | .mmr => field 0 4 ≤ 2 ∧ field 4 4 = 9 ∧ field 8 9 = 0 ∧ field 17 1 = 1)
    let words4 : List (Instr × MatOp) := [(.mm k a b sa sb o, .mm), (.mmp k a b sa sb o, .mmp), (.mmag k a b sa sb o, .mmag), (.mmr k a b o, .mmr)]
    (tl.formats = [] → (∀ p ∈ words4, faults p.1 0x09) ∧ faults (.acs k a o) 0x09) ∧
    (tl.formats = f :: rest → tl.formatDue →
      (∀ p ∈ words4, ((⟨f.toNat⟩ : FormatWord).ok p.2 = true ↔ table p.2) ∧ (¬table p.2 → faults p.1 0x0E) ∧
        (table p.2 → tl.windows[a.toNat] = none → faults p.1 0x0E)) ∧
      (field 25 7 ≠ 0 → faults (.acs k a o) 0x0E)) ∧
    (tl.windows[a.toNat] = some win → win.image.fmt ∈ [0, 6, 9] → win.image.extent 2 = 1 → win.image.extent 0 ≤ 512 →
      win.image.extent 1 + 16 * o.toNat ≤ 256 → s.bankRows tn k < 16 * o.toNat + win.image.extent 1 → faults (.acl k a o) 0x02)) ∧
  (∀ u v : Val, mulOpt (some u) (some v) = mulVal u v ∧
    (∀ q ∈ [mulOpt (some u) none, mulOpt none (some u)],
      ((∃ x, u.rat = some x) → q.1.isZero = true ∧ q.2 = 0) ∧ (∀ neg, u = .inf neg → q = (.nan false, flagNV)) ∧
      (∀ signals, u = .nan signals → q = (.nan false, if signals = true then flagNV else 0)))) ∧
  ∀ (x y : List (Option Val)) (rest : List (List (Option Val) × List (Option Val))) (acc : Bool) (old : Nat), x.length = 16 → y.length = 16 →
    let ps := List.zipWith mulOpt x y
    let rat (v : Option Val) : Option Rat := match v with | some u => u.rat | none => some 0
    let any (v : Val) := v ∈ ps.map Prod.fst
    let nan := (ps.any fun p => p.1.isNan) = true ∨ any (.inf false) ∧ any (.inf true)
    let q := blockSum x y
    let first : Nat × Flags := if acc = true then
        ((f32.convert 0 false false 0 (addVal 0 (f32.value false old) q.1).1).1,
          q.2 ||| (addVal 0 (f32.value false old) q.1).2 ||| (f32.convert 0 false false 0 (addVal 0 (f32.value false old) q.1).1).2)
      else ((f32.convert 0 false false 0 q.1).1, q.2 ||| (f32.convert 0 false false 0 q.1).2)
    (nan → q.1 = .nan false) ∧
    (¬nan → (any (.inf false) → q.1 = .inf false) ∧ (any (.inf true) → q.1 = .inf true)) ∧
    (∀ (g h : List Rat), x.map rat = g.map some → y.map rat = h.map some →
      q.1.rat = some (List.zipWith (· * ·) g h).sum ∧ q.2 = 0 ∧
      (q.1.isZero = true → q.1.neg = ps.all fun p => p.1.neg && p.1.isZero)) ∧
    (q.2 = flagNV ↔ (∃ p ∈ ps, p.2 = flagNV) ∨ any (.inf false) ∧ any (.inf true)) ∧
    accumulate acc old (x :: rest.map Prod.fst) (y :: rest.map Prod.snd) =
      ((accumulate true first.1 (rest.map Prod.fst) (rest.map Prod.snd)).1,
        first.2 ||| (accumulate true first.1 (rest.map Prod.fst) (rest.map Prod.snd)).2)

/-- R195, R196, R198: mmr gives each score its rank among its row or column, with bit 31 for a
rank below k; acz and acl give the bank zero or the window's bits; acs converts the bank's
elements into the window, each once, with a draw of lane x0 mod 64 in ascending order under SR;
acf gives the element at the cursor the poison mark and the flags and clears them. acs and acf
wait for the bank's earlier writes. The model's choices: the bank is written at issue, with the
marker that acs and acf wait for (log 16, DEDUCED), and all the draws of an exposed acs fall at
its issue (log 35, DEDUCED). -/
def Obligations.MatrixBanks : Prop :=
  ∀ (s : State) (tn : BitVec 6) (k : BitVec 2) (a b : BitVec 5) (o : BitVec 4) (f : W32) (rest : List W32) (wa wb : Window)
    (A K : Nat → Nat → Option Nat) (leaf : Leaf) (pas : Nat × Nat → Nat), s.BlockTurn tn .m → k ≠ 3 →
    let tl := (s.tile tn).atIssue .m
    let sx := s.onTile tn fun u => u.atIssue .m
    let w : FormatWord := ⟨f.toNat⟩
    let on (v : Window) := tl.useOf .m v false
    let e0 := wa.image.extent 0
    let e1 := wa.image.extent 1
    let bank := tl.banks[k.toNat % 3]
    let row := 16 * o.toNat
    let at_ (c : Table W32) (r j : Nat) : W32 := (tget c (512 * r + j)).getD 0
    let ends (i : Instr) (c l : Nat) (v : Nat → Nat → Nat) (u : Tile) (flags : Flags) (poison : Bool) : Prop :=
      ∃ t, exec i s = .next t ∧ s.OnlyTile t tn ∧ s.SameBytes t ∧
      (∀ r < 256, ∀ j < 512, at_ ((t.tile tn).banks[k.toNat % 3]).cells r j = BitVec.ofNat 32 (v r j)) ∧
      ((t.tile tn).banks[k.toNat % 3]).flags = flags ∧ ((t.tile tn).banks[k.toNat % 3]).poison = poison ∧
      (∀ b : Fin 3, b ≠ k.toNat % 3 → (t.tile tn).banks[b] = tl.banks[b]) ∧
      t.tile tn = { (u.bankDue k l).issued .m c l with banks := (t.tile tn).banks }
    let box (v : Nat → Nat → Nat) (r j : Nat) : Nat :=
      if row ≤ r ∧ r < row + e1 ∧ j < e0 then v (r - row) j else (at_ bank.cells r j).toNat
    let marked (from_ n : Nat) (u : Tile) := (List.range n).foldl (fun (u : Tile) i => u.markAcc k (from_ + i)) u
    let due := (tl.pending.filter fun p => p.what == .bank k).foldl (fun m p => max m (p.due + 1)) 0
    -- mmr
    let score (i j : Nat) : Val := match A j i with
      | some raw => (if w.afmt = 0 then f32 else if w.afmt = 1 then bf16 else f16).value tl.m.exposed raw
      | none => .nan false
    let before (x : Val) (p : Nat) (y : Val) (q : Nat) : Bool :=
      if x.isNan = true then y.isNan && decide (p < q) else y.isNan || ltVal y x || (!ltVal x y && decide (p < q))
    let line (i j p : Nat) : Val := if w.raxis = true then score p j else score i p
    let len := if w.raxis = true then e1 else e0
    let rank (i j : Nat) : Nat :=
      let me := if w.raxis = true then i else j
      ((List.range len).filter fun p => before (line i j p) p (score i j) me).length
    let rankWord (i j : Nat) : Nat := rank i j + if rank i j < (K (if w.raxis = true then j else i) 0).getD 0 then 2 ^ 31 else 0
    let signals := (List.range e1).any fun i => (List.range e0).any fun j => (score i j).signals
    -- acs
    let us := tl.useOf .m wa true
    let order := wa.image.positions.filter fun p => us.image.inBounds (us.c 0 + p.1) (us.c 1 + p.2.1) (us.c 2 + p.2.2)
    let draw (n : Nat) (p : Nat × Nat × Nat) : Nat :=
      (nextSeed^[((order.take (n + 1)).filter fun q => q.1 % 64 == p.1 % 64).length] tl.seeds[p.1 % 64]).toNat / 65536
    let seeds : Vector W32 64 := Vector.ofFn fun (l : Fin 64) => nextSeed^[(order.filter fun q => q.1 % 64 == (l : Nat)).length] tl.seeds[l]
    let drained (n : Nat) (p : Nat × Nat × Nat) : Nat × Flags :=
      let x : Nat := (at_ bank.cells (row + p.2.1) p.1).toNat
      let small := tl.m.exposed && decide (0 < x % 2 ^ 31 && x % 2 ^ 31 < 2 ^ 23)
      let y := if small = true then x / 2 ^ 31 * 2 ^ 31 else x
      let d := if w.drnd = 2 then draw n p else 0
      if w.iacc = true then (if w.dfmt = 6 then (x, 0) else convertElem (.int true 32) (elemOf w.dfmt) w.drnd w.dsat tl.m.exposed d x)
      else if w.dfmt = 0 then (y, if small = true then flagUF ||| flagNX else 0)
      else
        let r := convertElem (.float f32) (elemOf w.dfmt) w.drnd w.dsat tl.m.exposed d y
        (r.1, r.2 ||| if small = true then flagUF ||| flagNX else 0)
    let width := if w.dfmt = 5 then 4 else if w.dfmt = 0 ∨ w.dfmt = 6 then 32 else if w.dfmt = 1 ∨ w.dfmt = 2 then 16 else 8
    let odd (p : Nat × Nat × Nat) : Nat := ((us.c 0 + p.1) % 2).toNat
    let nibble (e : (Nat × Nat × Nat) × Nat) (q h : Nat) : Option Nat :=
      let pa := pas (e.1.1, e.1.2.1)
      if width = 4 then (if q = pa ∧ h = odd e.1 then some ((drained e.2 e.1).1 % 16) else none)
      else if pa ≤ q ∧ q < pa + width / 8 then some ((drained e.2 e.1).1 / 16 ^ (2 * (q - pa) + h) % 16) else none
    let accessible (p : Nat × Nat × Nat) (n : Nat) := s.PlainBytes us.pins (us.addr (us.c 0 + p.1) (us.c 1 + p.2.1) (us.c 2 + p.2.2)) n
      (fun _ => true) leaf (pas (p.1, p.2.1)) ∧ ∀ i < n, s.anyPoison (pas (p.1, p.2.1) + i) 1 = false
    let old := if bank.poison = true then 2 ^ 31 + bank.flags.toNat else bank.flags.toNat
    -- acz
    (∃ t, exec (.acz k) s = .next t ∧ s.OnlyTile t tn ∧ s.SameBytes t ∧ t.tile tn =
      (((marked 0 256 tl).setBank k { bank with cells := [], poison := false, bad := [] }).bankDue k 4).issued .m 2 4) ∧
    (tl.windows[a.toNat] = some wa → wa.image.extent 2 = 1 → 0 < e0 → 0 < e1 → row + e1 ≤ 256 → row + e1 ≤ s.bankRows tn k →
      e0 ≤ 512 →
      (sx.Operand tn (on wa) 1 0 e0 e1 A → wa.image.fmt ∈ [0, 6, 9] →
        ends (.acl k a o) e1 (e1 + 6) (box fun i j => (A j i).getD 0) (marked row e1 tl) bank.flags false) ∧
      (tl.formats = f :: rest → tl.formatDue → w.ok .mmr = true → wa.image.fmt = w.afmt → tl.windows[b.toNat] = some wb → wb.image.fmt = 9 →
        wb.image.extent 2 = 1 → wb.image.extent 1 = 1 → wb.image.extent 0 = (if w.raxis = true then e0 else e1) →
        sx.Operand tn (on wa) 1 0 e0 e1 A → sx.Operand tn (on wb) 1 0 (wb.image.extent 0) 1 K →
        ends (.mmr k a b o) (max 8 (2 * max e0 e1)) (max 8 (2 * max e0 e1) + 16) (box rankWord)
          (marked row e1 { tl with formats := rest }) (if signals = true then bank.flags ||| flagNV else bank.flags) bank.poison) ∧
      (tl.formats = f :: rest → tl.formatDue → f.toNat < 2 ^ 25 → wa.image.fmt = w.dfmt → wa.image.snap = false → leaf.w = true →
        bank.poison = false → bank.bad = [] → tl.noLateLoad .m →
        (tl.m.exposed = false ∨ due ≤ tl.m.nextTc) → (∀ p ∈ order, accessible p ((width + 7) / 8)) →
        ∃ t, exec (.acs k a o) s = .next t ∧
          (∀ q, ∀ h < 2, (t.byte q).toNat / 16 ^ h % 16 = ((order.zipIdx.reverse.findSome? fun e => nibble e q h).getD ((s.byte q).toNat / 16 ^ h % 16))) ∧
          s.StoresOnly t leaf fun z => if z = tn then (({ tl with formats := rest, seeds := if w.drnd = 2 then seeds else tl.seeds }).setBank k
            { bank with flags := order.zipIdx.foldl (fun g (e : (Nat × Nat × Nat) × Nat) => g ||| (drained e.2 e.1).2) bank.flags }).issued .m ((e0 * e1 + 255) / 256) ((e0 * e1 + 255) / 256)
            else s.tile z)) ∧
    (tl.windows[a.toNat] = some wa → wa.image.fmt = 9 → wa.image.snap = false → leaf.w = true → tl.noLateLoad .m → (tl.m.exposed = false ∨ due ≤ tl.m.nextTc) →
      let cleared (z : BitVec 6) := if z = tn then (tl.setBank k { bank with flags := 0 }).issued .m 1 1 else s.tile z
      (us.image.inBounds (us.c 0) (us.c 1) (us.c 2) = true → accessible (0, 0, 0) 4 → ∃ t, exec (.acf k a) s = .next t ∧
        leNat (t.mem.bytes (pas (0, 0)) 4) = old ∧ s.SameBytesBut t (pas (0, 0)) 4 ∧ s.StoresOnly t leaf cleared) ∧
      (us.image.inBounds (us.c 0) (us.c 1) (us.c 2) = false → ∃ t, exec (.acf k a) s = .next t ∧ s.BlockEnds t tn .m 1 1 tl)) ∧
    (tl.m.exposed = true → tl.m.nextTc < due → ∀ i ∈ ([.acs k a o, .acf k a] : List Instr), ∃ t, exec i s = .next t ∧
      s.OnlyTile t tn ∧ s.SameBytes t ∧ t.tile tn = (s.tile tn).setStream .m { (s.tile tn).m with nextTc := due })

/-! ## Words, steps, reset, and what every step keeps -/

/-- R18, R20, R26, R29 to R31: words written out field by field decode to their instructions, each in its own stream, and all ones
decode to none. -/
def Obligations.DecodeWords : Prop :=
  Decode.control 0b000000_10100_01001_11001_00000_000000 = .ok (.add 20 9 25) ∧
  Decode.control 0xA4000000 = .ok .nop ∧ Decode.control 0x5C000062 = .ok (.fence 3 2) ∧ Decode.control 0x5C000023 = .ok (.fence 1 3) ∧
  Decode.block .v 0b000000_00011_00100_00101_110_0001_0010 = .ok (.vadd 3 4 5 6 1 2) ∧
  Decode.block .m 0b000000_10_00011_00100_00101_00110_1001 = .ok (.mm 2 3 4 5 6 9) ∧
  Decode.block .l 0b000100_00101_00011_0000000000000000 = .ok (.qfill 5 3) ∧
  Decode.block .s 0b000101_00011_00101_0000000000000000 = .ok (.qdrain 3 5) ∧
  Decode.supervisor 0b0000000_00011_00100_000_00101_0001011 = .ok (.ovNodeTake 3 4 5) ∧
  (∀ x : BStream, Decode.block x 0xFFFFFFFF = .error .unassigned) ∧ Decode.control 0xFFFFFFFF = .error .unassigned ∧
  Decode.supervisor 0xFFFFFFFF = .error .unassigned

/-- R17, R18: encoding and decoding agree. What a stream decodes is well formed and is encoded by that very word, so no two words
of a stream stand for one instruction; and every well-formed instruction that has a word is decoded from it. An event has none. -/
def Obligations.RoundTrip : Prop :=
  ∀ (i : Instr),
    let readers : List (W32 → Except Decode.Reject Instr) :=
      [Decode.control, Decode.block .v, Decode.block .m, Decode.block .l, Decode.block .s, Decode.supervisor]
    (∀ r ∈ readers, ∀ w, r w = .ok i → i.wf = true ∧ encode i = some w) ∧
    (∀ w, i.wf = true → encode i = some w → ∃ r ∈ readers, r w = .ok i)

/-- R17 to R19, R31, R208: a step of the agent in focus, or of the agent that the agenda names (log entry 1), runs the instruction
that its word decodes to; it then sends what changed path entries ask for (R341). The C stream first takes its tile's tc and what has
reached its port, and its word waits if that has stopped it; of a tile's exposed blocks the one that acts first does (R125, R146). A
word that is none is ILLEGAL in the C stream, the end of the code store CTLINT, and in a supervisor the exception; any other word of a
supervisor is one of RV64GC (log entry 9). An event of the agenda runs. A machine that is frozen or has no power, with an empty agenda,
stops (log entry 8). The agenda, the focus and the stop are the model's choice. -/
def Obligations.StepRuns : Prop :=
  ∀ (s u : State) (tn : BitVec 6) (x : BStream) (c : BitVec 4) (i : Instr) (g : Agent) (rest : List Activity),
    let after (o : Host.Outcome State Fault Refusal) : Host.Outcome State Fault Refusal := match o with
      | .next t => .next t.afterPaths
      | .fault r => .fault r
      | .refused r => .refused r
    let live (t : Tile) : Prop := t.status = .run ∧ t.boundary = false ∧ t.halt = 0 ∧ t.ending = false ∧ t.debug = false ∧ t.trapping = none ∧
      ∀ z, (t.stream z).stopDue = false ∧ (t.stream z).state ≠ .halted
    (s.agenda = [] → s.frozen = true ∨ s.powered = false → step s = .fault .stopped) ∧
    (s.powered = true → s.frozen = false → s.agenda = .event i :: rest → step s = after (exec i { s with agenda := rest })) ∧
    (s.powered = true → s.frozen = false → (s.agenda = [] ∧ g = s.focus ∧ u = s) ∨ (s.agenda = .issue g :: rest ∧ u = { s with agenda := rest }) →
      (g = .control tn →
        let v : State := { u with cur := .control tn }
        let k := (s.tile tn).control
        let word : W32 := BitVec.ofNat 32 ((List.range 4).map fun j => ((tget (s.tile tn).code (k.pc.toNat + j)).getD 0).toNat * 256 ^ j).sum
        live (s.tile tn) → k.closing = false → k.pause = 0 → s.timedWait tn = false → s.arrivalOf tn = .plain →
        (k.pc.toNat < 0x10000 → Decode.control word = .ok i → i.wf = true ∧ step s = after
          (if ((v.controlTc tn i).tile tn).controlLive = true then exec i (v.controlTc tn i) else .next (v.controlTc tn i))) ∧
        (s.noAnswer → s.fabric.moved = [] → (∀ a ∈ s.fabric.answers, a.who ≠ .stream tn 0) →
          (k.pc.toNat < 0x10000 → (∀ j, Decode.control word ≠ .ok j) → ∃ t, step s = .next t ∧ v.CTraps t 0x01 0) ∧
          (0x10000 ≤ k.pc.toNat → ∃ t, step s = .next t ∧ v.CTraps t 0x05 0))) ∧
      (g = .block tn x →
        let z := if recInterlocked ((s.tile tn).stream x).record = true then x else (s.tile tn).firstExposed.getD x
        let b : State := ({ u with cur := .block tn z }).beginTc tn z
        let y := (b.tile tn).stream z
        live (s.tile tn) → s.timedWait tn = false → ((s.tile tn).stream x).state = .run →
        y.state = .run → y.nestDone = false → y.ringDue = 0 → (b.tile tn).ringNeeds z y = [] →
        Decode.block z (recBody y.record y.body.toNat) = .ok i → i.wf = true ∧ step s = after (exec i b)) ∧
      (g = .supervisor c →
        ∀ (word : W32) (n : Nat), (s.cluster c).wait = none → s.supInterrupt c = none → s.rvFetch c = .ok (word, n) →
        let custom := n = 4 ∧ (word.toNat % 128 = 0x0B ∨ word.toNat % 128 = 0x2B)
        (custom → Decode.supervisor word = .ok i → i.wf = true ∧ step s = after (exec i { u with cur := .supervisor c })) ∧
        (s.fabric.moved = [] → custom → (∀ j, Decode.supervisor word ≠ .ok j) → step s = .next
          ({ u with cur := .supervisor c }.onCluster c fun k => k.takeTrap false 2 (Config.illegalValue k.pc))) ∧
        (s.fabric.moved = [] → ¬custom → step s = after (.next ({ u with cur := .supervisor c }.rvStep c word n)))))

/-- R18, R208: instructions of the RISC-V base set in a supervisor, as the standard gives them (log entry 9): integer forms write x[d], the pc
goes past the word, a load reads and a store writes the bytes at its address, a branch goes to its target; a word that is none
is the illegal-instruction exception.

R208 to R226, R298, R299, R302, R310, R311, R389: an Ovrek instruction of a supervisor in machine or supervisor mode writes its
status and value to rd, and in user mode is the illegal-instruction exception. The checks of R212 that an instruction passes are
premises. The model's choice: what a trap for an illegal word leaves in mtval is free (log entry 11), ov.op.step and ov.ckpt.roll write
rd when what they wait for ends (log entry 54), and ov.node.take serves the node dispatched first (log entry 56). -/
def Obligations.SupervisorInstructions : Prop :=
  (∀ (s : State) (c : BitVec 4) (d a b : BitVec 5) (imm : BitVec 12),
     let k := s.cluster c
     let x (r : BitVec 5) : W64 := if r = 0 then 0 else k.x[r.toNat]
     let im : W64 := imm.signExtend 64
     let regs (f7 f3 op : Nat) : W32 := BitVec.ofNat 32 (f7 * 2 ^ 25 + b.toNat * 2 ^ 20 + a.toNat * 2 ^ 15 + f3 * 2 ^ 12 + d.toNat * 2 ^ 7 + op)
     let immediate (f3 op : Nat) : W32 := BitVec.ofNat 32 (imm.toNat * 2 ^ 20 + a.toNat * 2 ^ 15 + f3 * 2 ^ 12 + d.toNat * 2 ^ 7 + op)
     let stores : W32 := BitVec.ofNat 32 (imm.toNat / 32 * 2 ^ 25 + b.toNat * 2 ^ 20 + a.toNat * 2 ^ 15 + 3 * 2 ^ 12 + imm.toNat % 32 * 2 ^ 7 + 0x23)
     let branch (f3 : Nat) : W32 := BitVec.ofNat 32 (b.toNat * 2 ^ 20 + a.toNat * 2 ^ 15 + f3 * 2 ^ 12 + 8 * 2 ^ 8 + 0x63)
     let ends (t : State) (r : BitVec 5) (v : W64) : Prop := t = s.onCluster c fun k =>
       { k with x := if r = 0 then k.x else k.x.set r.toNat v, pc := k.pc + 4, csr := { k.csr with instret := k.csr.instret + 1 } }
     (∀ p ∈ ([(regs 0 0 0x33, x a + x b), (regs 32 0 0x33, x a - x b), (regs 0 7 0x33, x a &&& x b), (regs 0 6 0x33, x a ||| x b),
              (regs 0 4 0x33, x a ^^^ x b), (regs 0 1 0x33, x a <<< ((x b).toNat % 64)), (regs 0 5 0x33, x a >>> ((x b).toNat % 64)),
              (regs 1 0 0x33, x a * x b), (regs 0 2 0x33, if (x a).toInt < (x b).toInt then 1 else 0),
              (regs 0 3 0x33, if (x a).toNat < (x b).toNat then 1 else 0), (regs 1 5 0x33, if x b = 0 then BitVec.allOnes 64 else x a / x b),
              (immediate 0 0x13, x a + im), (immediate 7 0x13, x a &&& im), (immediate 6 0x13, x a ||| im), (immediate 4 0x13, x a ^^^ im),
              (immediate 0 0x1B, ((x a + im).setWidth 32).signExtend 64)] : List (W32 × W64)),
       ends (s.rvStep c p.1 4) d p.2) ∧
     (∀ p ∈ ([((0 : Nat), decide (x a = x b)), (1, decide (x a ≠ x b)), (4, decide ((x a).toInt < (x b).toInt)), (5, decide ((x b).toInt ≤ (x a).toInt)),
              (6, decide ((x a).toNat < (x b).toNat)), (7, decide ((x b).toNat ≤ (x a).toNat))] : List (Nat × Bool)),
       s.rvStep c (branch p.1) 4 = s.onCluster c fun k =>
         { k with pc := k.pc + (if p.2 = true then 16 else 4), csr := { k.csr with instret := k.csr.instret + 1 } }) ∧
     (let pa := (x a + im).toNat;
       k.translates .load = false → k.translates .store = false → pa < 2 ^ 48 → pa % 8 = 0 → Machine.place pa = .hbm →
       (∀ i < 8, s.storage (pa + i) = true ∧ s.quarantined (pa + i) = false) → s.scratchBusy pa = false → s.anyPoison pa 8 = false →
       (∀ i < 8, s.carveOut (pa + i) = false) →
       ends (s.rvStep c (immediate 3 0x03) 4) d (BitVec.ofNat 64 (leNat (s.mem.bytes pa 8))) ∧
       ((s.rvStep c stores 4).mem.bytes pa 8 = leBytes 8 (x b).toNat ∧ s.SameBytesBut (s.rvStep c stores 4) pa 8 ∧
         (s.rvStep c stores 4).clusters = (s.onCluster c fun k => { k with pc := k.pc + 4, csr := { k.csr with instret := k.csr.instret + 1 } }).clusters)) ∧
     s.rvStep c 0xFFFFFFFF 4 = s.onCluster c fun k => k.takeTrap false 2 (Config.illegalValue k.pc)) ∧
  (∀ (s : State) (d a b : BitVec 5) (n : Node) (y : Share) (r : ErrorRecord) (rest : List ErrorRecord) (row : Nat) (s1 : State),
     let c := s.curCluster
     let k := s.cluster c
     let x (r : BitVec 5) : Nat := if r = 0 then 0 else k.x[r.toNat].toNat
     let t : BitVec 6 := BitVec.ofNat 6 (4 * c.toNat + x a % 4)
     let tl := s.tile t
     let e := s.die (clusterDie c)
     let onT (f : Tile → Tile) : State := s.setTile t (f tl)
     let ends (i : Instr) (z : State) (v : Nat) : Prop := exec i s = .next (z.onCluster c fun k =>
       { k with x := if d = 0 then k.x else k.x.set d.toNat (BitVec.ofNat 64 v), pc := k.pc + 4, csr := { k.csr with instret := k.csr.instret + 1 } })
     let waits (i : Instr) (z : State) (w : SupWait) : Prop := exec i s = .next (z.onCluster c fun k =>
       { k with pc := k.pc + 4, csr := { k.csr with instret := k.csr.instret + 1 }, wait := some w })
     let own (m : Node) (f : Share → Share) : Node := { m with shares := m.shares.map f }
     let usable (v n : Nat) : Prop := v + n ≤ 0x8000000000 ∧ s.supUnusable v n = none
     (k.mode = 0 →
       let denied (i : Instr) : Prop := exec i s = .next (s.onCluster c fun k => k.takeTrap false 2 (Config.illegalValue k.pc))
       denied (.ovTileStat a d) ∧ denied (.ovTileStop a d) ∧ denied (.ovTileHalt b a d) ∧ denied (.ovTileGo a d) ∧ denied (.ovTileLoad b a d) ∧
       denied (.ovTileSave b a d) ∧ denied (.ovNodeTake b a d) ∧ denied (.ovNodeDone b a d) ∧ denied (.ovCkptRoll a d) ∧
       denied (.ovOpPlan b a d) ∧ denied (.ovOpStep a d) ∧ denied (.ovRowRd b a d) ∧ denied (.ovErrPop a d)) ∧
     (k.mode ≠ 0 →
       -- ov.tile.stat, ov.tile.stop, ov.tile.halt, ov.tile.go
       (tl.status ≠ .retired → ends (.ovTileStat a d) (onT fun u => { u with event := false })
         ((if tl.status = .empty then 0 else tl.node.toNat) * 2 ^ 32 + (if tl.status = .faulted then tl.trap.cause.toNat else 0) * 2 ^ 24 +
           tl.halt.toNat * 2 ^ 12 + statusCode tl.status * 2 ^ 8)) ∧
       (tl.status = .retired → ends (.ovTileStop a d) s 8 ∧ ends (.ovTileGo a d) s 8) ∧
       (tl.status ≠ .retired → tl.status ≠ .run → ends (.ovTileStop a d) s 3) ∧
       (tl.status = .run → s.tileNode t = some n → n.timed = true → ends (.ovTileStop a d) s 6) ∧
       (tl.status = .run → s.tileNode t = some n → n.timed = false → ends (.ovTileStop a d) ((onT fun u => { u with status := .stopping }).onNode tl.node
         fun m => own m fun z => if z.index = tl.share ∧ z.phase = .loaded ∧ z.tile = t then { z with own := true } else z) 0) ∧
       (x b < 512 → x b % 256 < 32 → x b % 32 ≠ 0 → tl.status ≠ .retired →
         (x b < 256 → tl.status ≠ .run → tl.status ≠ .stopping → ends (.ovTileHalt b a d) (onT fun u => { u with halt := u.halt ||| BitVec.ofNat 5 (x b) }) 0) ∧
         (256 ≤ x b → (∀ z, (tl.stream z).state ≠ .halted) → ends (.ovTileHalt b a d) (onT fun u => { u with halt := u.halt &&& ~~~ BitVec.ofNat 5 (x b) }) 0)) ∧
       (x b % 32 = 0 ∨ 512 ≤ x b → ends (.ovTileHalt b a d) s 2) ∧
       (tl.status ≠ .retired → tl.status = .empty ∨ tl.status = .run ∨ tl.status = .stopping ∨ tl.status = .done → ends (.ovTileGo a d) s 3) ∧
       (tl.status = .ready → tl.unpinned = [] → tl.port = [] → tl.pending = [] → s.tileNode t = none → tl.halt = 0 → ∃ t', exec (.ovTileGo a d) s = .next t' ∧
         (t'.tile t).status = .run ∧ (t'.tile t).boundary = false ∧ (t'.tile t).trap = TrapRecord.none ∧ (t'.tile t).windows = tl.windows ∧
         (∀ u, u ≠ t → t'.tile u = s.tile u) ∧ t'.mem = s.mem) ∧
       -- ov.tile.load of a packet and ov.tile.save without a checkpoint
       (x b % 4096 = 0 → usable (x b) 0xC00000 → x a < 2 ^ 48 → x a / 4 % 2 = 1 → x a / 8 % 32 = 0 → tl.status = .empty → e.stepping = false →
         s.loadTarget (x a) true (ImageHeader.of []) = some (n, y) → n.npool = 0 → k.cpalloc[x a % 4]?.getD 0 = 0 →
         n.nrows ≤ s.rows 0 t.toNat → n.nacc ≤ s.rows 1 t.toNat → s.supUnusable n.cimg n.clen = none → s.poison = [] →
         ends (.ovTileLoad b a d) ((onT fun u => { u with
           status := .loading, node := n.handle, share := y.index, halt := 0
           transfer := { addr := x b, pkt := true, full := false, interval := false, trapped := false } }).onNode n.handle fun m =>
             own m fun z => if z.index = y.index then { z with tile := t } else z) 0) ∧
       (x b % 4096 = 0 → usable (x b) 0x600000 → x a < 8 → tl.status = .stopped ∨ tl.status = .faulted ∨ tl.status = .done → s.tileNode t = none →
         ends (.ovTileSave b a d) (onT fun u => { u with
           status := .saving
           transfer := { addr := x b, pkt := false, full := x a / 4 % 2 == 1, interval := false, trapped := decide (tl.status = .faulted) } }) 0) ∧
       -- nodes
       (x b < 16 → x a % 256 = 0 → usable (x a) 256 → s.dispatchPass.takeNode (x b) = none → ends (.ovNodeTake b a d) s.dispatchPass 4) ∧
       (x b < 16 → x a % 256 = 0 → x a + 256 ≤ 0x8000000000 → s.dispatchPass = s1 → s1.takeNode (x b) = some n → s.supUnusable (x a) 256 = none →
         let mine := n.liveShares.filter fun z => decide (z.phase = .placed) && tileCluster z.tile == c && (x b).testBit (z.tile.toNat % 4)
         (mine.map fun z => z.tile.toNat % 4).Nodup → ∃ t', exec (.ovNodeTake b a d) s = .next t' ∧ (t'.cluster c).x = (if d = 0 then (s1.cluster c).x else (s1.cluster c).x.set d.toNat (BitVec.ofNat 64
           ((mine.map fun z => 2 ^ (z.tile.toNat % 4)).sum * 2 ^ 8 + n.handle.toNat * 2 ^ 16 + mine.foldl (fun k z => min k z.index) 255 * 2 ^ 48 +
             (if n.preempted = true ∧ ∀ z ∈ mine, z.home.isSome = true then 2 ^ 56 else 0)))) ∧
           t'.tiles = s1.tiles ∧ t'.dies = s1.dies) ∧
       (x a < 2 ^ 32 → x b < 256 → s.node? (BitVec.ofNat 32 (x a)) = some n → n.phase ≠ .complete → (n.shares.any fun z => z.heldBy c) = true →
         ends (.ovNodeDone b a d) ((s.onNode (BitVec.ofNat 32 (x a)) fun m => { m with
           cause := if m.cause = 0 then BitVec.ofNat 8 (x b) else m.cause
           shares := m.shares.map fun z => if z.heldBy c = true then
             { z with reported := some (BitVec.ofNat 8 (x b)), ended := true, endedIn := if z.ended = true then z.endedIn else m.interval } else z }).victimBack
               (BitVec.ofNat 32 (x a))) 0) ∧
       (x a < 2 ^ 32 → s.node? (BitVec.ofNat 32 (x a)) = none → ends (.ovNodeDone b a d) s 2 ∧ ends (.ovCkptRoll a d) s 2) ∧
       (x a < 2 ^ 32 → s.node? (BitVec.ofNat 32 (x a)) = some n → n.ckpt = true → n.unrollable = false →
         (n.shares.any fun z => tileCluster z.tile == c && decide (z.phase = .held)) = true → (∀ u, (s.tile u).status = .empty) →
         (s.nodeBusy n = false → ends (.ovCkptRoll a d) (s.rollback n) (n.interval.toNat * 2 ^ 8)) ∧
         (s.nodeBusy n = true → waits (.ovCkptRoll a d) s (.roll d n.handle))) ∧
       -- operating points, rows, the error log
       (x b % 4096 = 0 → usable (x b) 4096 → x a < 6 → e.stepping = false → (s.doomed (clusterDie c) (x a)).length ≤ 256 →
         let l := s.doomed (clusterDie c) (x a)
         ends (.ovOpPlan b a d) (s.rawWrite (x b) (l.flatMap Doomed.bytes ++ List.replicate (4096 - (l.flatMap Doomed.bytes).length) 0))
           (l.length * 2 ^ 8 + (l.countP fun g => g.node.isSome) * 2 ^ 24)) ∧
       (x a < 8 → e.stepping = true → ends (.ovOpStep a d) s 1) ∧
       (x a < 8 → e.maxop.toNat < x a → e.stepping = false → e.partition = none → ends (.ovOpStep a d) s 2) ∧
       (x a < 6 → x a ≤ e.maxop.toNat → e.stepping = false → e.partition = none →
         (x a = e.point.toNat → ends (.ovOpStep a d) s (x a * 2 ^ 8)) ∧
         (x a ≠ e.point.toNat → (∀ g ∈ s.doomed (clusterDie c) (x a), g.node = none) → (∀ u, (s.tile u).claims = false) →
           waits (.ovOpStep a d) (s.setDie (clusterDie c) { e with stepping := true, target := BitVec.ofNat 3 (x a) }) (.step d))) ∧
       (x a / 4 < 64 → x a % 4 = 0 → x b < 2 ^ 32 → x b % 8 < 6 → x b / 8 % 2 ^ 13 = 0 → x b / 2 ^ 16 < 4096 →
         (let u : BitVec 6 := BitVec.ofNat 6 (x a / 4);
           ((s.die (tileDie u)).phys 0 u.toNat (x b % 8) (x b / 2 ^ 16) = some row → ends (.ovRowRd b a d) s (row % 2 ^ 16 * 2 ^ 8 + 2 ^ 24 + (if 4096 ≤ row then 2 ^ 25 else 0))) ∧
           ((s.die (tileDie u)).phys 0 u.toNat (x b % 8) (x b / 2 ^ 16) = none → ends (.ovRowRd b a d) s 0xFFFF00))) ∧
       (x a % 64 = 0 → x a + 64 ≤ 0x8000000000 → (e.log = [] → ends (.ovErrPop a d) s 4) ∧
         (e.log = r :: rest → s.supUnusable (x a) 64 = none →
           ends (.ovErrPop a d) ((s.rawWrite (x a) r.toBytes).onDie (clusterDie c) fun z => { z with log := rest }) (rest.length * 2 ^ 8)))))

/-- R214, R240, R342, R349, R356, R406, R408, R410: what package reset leaves. No function is ready, no tile holds a context, every
block stream is IDLE with the initial CRC, every queue is off, the commit clock is 1 and
the die points are OP0; the package is not frozen and its memory is in the canonical form. Values that the spec leaves open are
the model's (log entries 4, 5, 10) and are not stated here. -/
def Obligations.ResetValues : Prop :=
  let s := State.reset
  s.ready.mem = 0 ∧ s.ready.eng = 0 ∧ s.ready.tile = 0 ∧ s.frozen = false ∧ s.mem.wf = true ∧ s.poison = [] ∧
  s.versions.clock = 1 ∧ s.versions.bound = 100 ∧ s.versions.txs = [] ∧ s.versions.pass = 0 ∧ s.pool.nodes = [] ∧
  s.time.ns = 0 ∧ s.time.en = false ∧ s.time.lock = false ∧ s.bridge.hosten = false ∧
  (∀ t : BitVec 6, (s.tile t).status = .empty ∧ (∀ x : BStream, ((s.tile t).stream x).state = .idle ∧ ((s.tile t).stream x).crc = 0xFFFFFFFF ∧
      ((s.tile t).stream x).count = 0) ∧ (∀ j : Fin 32, (s.tile t).windows[j] = none) ∧
    (s.tile t).tx = none ∧ (s.tile t).vflags = 0) ∧
  (∀ d : BitVec 2, (s.die d).point = 0 ∧ (s.die d).log = [] ∧ (s.die d).twarn = 0x5A0 ∧ ∀ e : BitVec 1, (s.die d).engine e = []) ∧
  ∀ q : BitVec 8, let r := s.pool.queues[q.toNat]; r.en = false ∧ r.head = 0 ∧ r.tail = 0 ∧ r.weight = 1 ∧ r.ovr = false

/-- An invariant of every step, over every state: the memory keeps its canonical form, addresses rising and no byte 0 listed, which
is what log entry 5 says an unlisted address reads as. -/
def Obligations.MemoryForm : Prop :=
  ∀ s t : State, s.mem.wf = true → step s = .next t → t.mem.wf = true

/-- R416: nothing but reset and power ends a freeze, and no step changes anything that a frozen package holds: of every other entry
of the agenda only the test port shifts bits out. SCANOUT and MEMRD of a package that is not frozen shift out zeros and change nothing
else. -/
def Obligations.FrozenHolds : Prop :=
  (∀ (s t : State) (a : Activity) (rest : List Activity), s.frozen = true → s.powered = true → s.fabric.moved = [] →
    s.agenda = a :: rest → (∀ h, a ≠ .event (.powerOn h) ∧ a ≠ .event (.reset h)) → a ≠ .event .powerLoss → step s = .next t →
    t.frozen = true ∧ (∃ out, t.mgmt.tapOut = s.mgmt.tapOut ++ out) ∧
    t = { s with agenda := rest, mgmt := { s.mgmt with tapIr := t.mgmt.tapIr, tapOut := t.mgmt.tapOut } }) ∧
  (∀ (s : State) (n : Nat) (pa : BitVec 48), s.frozen = false →
    exec (.tapScanout n) s = .next { s with mgmt := { s.mgmt with tapIr := 0x11, tapOut := s.mgmt.tapOut ++ List.replicate n false } } ∧
    exec (.tapMemrd pa) s = .next { s with mgmt := { s.mgmt with tapIr := 0x12, tapOut := s.mgmt.tapOut ++ List.replicate 64 false } })

/-! ## The L and S streams -/

/-- R201 to R206: cpy, cpyz, lwr and bcst copy box to box, gath and scat rows by index, red combines element by element, plane packs
into planes, qfill and qdrain move 256 bytes: of boxes that share no byte, each element in bounds is put in linear order, the
higher row last. A tagged window of the S stream gets one arrival of the bytes written, of lwr those of the box; the port of a running
tile keeps it (log entry 79). bcst does the same in every usable tile of the cluster. qfill and qdrain wait for a bound queue, in an
exposed block by a freeze. The model's choice: two elements of four bits in one byte count once (log entry 37), and bcst writes nothing
where a neighbour has no storage (log entry 40). -/
def Obligations.BoxMoves : Prop :=
  ∀ (s : State) (tn : BitVec 6) (x : BStream) (d a i : BitVec 5) (q : BitVec 3) (op : BitVec 2) (sc n : BitVec 3) (sat : BitVec 1)
    (wd wa wi : Window) (leaf ld : Leaf) (from_ into : Nat → Nat → Nat → Nat) (plane : Nat → Nat → Nat → Nat → Nat) (X : Nat → Option Nat)
    (land pa : Nat),
    s.BlockTurn tn x → x = .l ∨ x = .s →
    let tl := (s.tile tn).atIssue x
    let sx := s.onTile tn fun u => u.atIssue x
    let us := tl.useOf x wa false
    let ud := tl.useOf x wd true
    let w := fmtWidth wd.image.fmt
    let ws := fmtWidth wa.image.fmt
    let bytes := (ws + 7) / 8
    let cell (k : Int × Int × Int) : Option Nat :=
      if us.image.inBounds k.1 k.2.1 k.2.2 = true then
        let p := from_ k.1.toNat k.2.1.toNat k.2.2.toNat
        some (if ws = 4 then (if k.1 % 2 = 0 then (s.byte p).toNat % 16 else (s.byte p).toNat / 16) else leNat (s.mem.bytes p bytes))
      else none
    let put (k : Int × Int × Int) (v : Nat) : Option Put :=
      if ud.image.inBounds k.1 k.2.1 k.2.2 = true then
        some { va := ud.addr k.1 k.2.1 k.2.2, place := into k.1.toNat k.2.1.toNat k.2.2.toNat, odd := (k.1 % 2).toNat, value := v }
      else none
    let at_ (u : Use) (p : Nat × Nat × Nat) : Int × Int × Int := (u.c 0 + p.1, u.c 1 + p.2.1, u.c 2 + p.2.2)
    let pairs := (wd.image.positions.zip wa.image.positions).map fun e => (at_ ud e.1, at_ us e.2)
    let count (l : List Put) : Nat := if w = 4 then ((l.map Put.va).eraseDups).length else l.length * (w / 8)
    let box (v : Window) (planes : Nat) : Nat := (v.image.boxCount * (if v.image.fmt = 12 then planes else fmtWidth v.image.fmt) + 7) / 8
    let cost (planes : Nat) : Nat := max 1 ((max (box wd planes) (box wa planes) + 255) / 256)
    let tags (l : List (Nat × Nat)) : List (Nat × Nat) := if x = .s ∧ wd.image.lwt = true then l.filter fun e => 0 < e.2 else []
    let busy (z : BitVec 6) : Bool := z != tn && decide ((s.tile z).status = .run ∨ (s.tile z).status = .stopping)
    let waits (a : Nat) : Bool := match Machine.place a with | .tileStore z _ => busy z | _ => false
    let atPort (z : BitVec 6) (arrivals : List (Nat × Nat)) : List (Nat × PortItem) := arrivals.filterMap fun e => match Machine.place e.1 with
      | .tileStore y o => if y = z ∧ busy y = true then some ((s.tile z).tc, .arrival 3 o e.2 false) else none
      | _ => none
    let moves (i : Instr) (c w : Nat) (l : List Put) (arrivals : List (Nat × Nat)) (u : Tile) : Prop :=
      (∀ e ∈ arrivals, s.storage e.1 = true ∧ ∀ p ∈ l, p.place + 4 ≤ e.1 ∨ e.1 + 16 ≤ p.place) →
      ∃ t, exec i s = .next t ∧ s.Puts t w l ((arrivals.filter fun e => !waits e.1).map Prod.fst) ∧
      (∀ e ∈ arrivals, waits e.1 = false → t.landing e.1 = (s.landing e.1).arrive e.2 false) ∧
      s.StoresOnly t ld fun z =>
        let v := if z = tn then u.issued x c c else s.tile z
        { v with port := (atPort z arrivals).foldl insertPort v.port }
    let ends (i : Instr) (c w n : Nat) (l : List Put) : Prop := moves i c w l (tags [(land, n)]) tl
    let copied (zero : Bool) : List Put := pairs.filterMap fun e => match cell e.2 with
      | some v => put e.1 v
      | none => if zero = true then put e.1 0 else none
    let disjoint : Prop := ∀ i < wa.image.bound 0, ∀ j < wa.image.bound 1, ∀ k < wa.image.bound 2,
      ∀ i' < wd.image.bound 0, ∀ j' < wd.image.bound 1, ∀ k' < wd.image.bound 2,
        from_ i j k + bytes ≤ into i' j' k' ∨ into i' j' k' + bytes ≤ from_ i j k
    let others := ((List.range 4).map fun j => BitVec.ofNat 6 (tn.toNat / 4 * 4 + j)).filter fun z => z != tn && s.tileUsable z
    let inAt (u : Use) (i : Nat) : Bool := u.image.inBounds (u.c 0 + 8 * (i : Int) / fmtWidth u.image.fmt) (u.c 1) (u.c 2)
    let queue := tl.queues[q.toNat]
    let shift (z : BitVec 6) (l : List Put) : List Put :=
      (l.map fun p => { p with place := p.place - storeAddr tn 0 + storeAddr z 0 }).filter fun p => s.storage p.place
    let rows (v : Window) := v.image.extent 1 * v.image.extent 2
    let line (u : Use) (v : Window) (y x0 : Nat) : Int × Int × Int :=
      (u.c 0 + x0, u.c 1 + (y % v.image.extent 1 : Nat), u.c 2 + (y / v.image.extent 1 : Nat))
    let gathered : List Put := (List.range (rows wd)).flatMap fun y => (List.range (wd.image.extent 0)).filterMap fun x0 =>
      put (line ud wd y x0) (match X y with | some r => (cell (us.c 0 + x0, us.c 1 + r, us.c 2)).getD 0 | none => 0)
    let scattered : List Put := (List.range (rows wa)).flatMap fun y => (List.range (wd.image.extent 0)).filterMap fun x0 =>
      match X y, cell (line us wa y x0) with
      | some r, some v => put (ud.c 0 + x0, ud.c 1 + r, ud.c 2) v
      | _, _ => none
    let reduced : List Put := pairs.filterMap fun e => match cell e.2, put e.1 0 with
      | some v, some p => some { p with value := combine wd.image.fmt op.toNat (leNat (s.mem.bytes p.place bytes)) v }
      | _, _ => none
    let pattern (v : Int) : Nat :=
      let m := n.toNat + 1
      if m = 1 then (if v < 0 then 1 else 0)
      else (BitVec.ofInt m (if sat = 1 then max (-(2 ^ n.toNat)) (min v (2 ^ n.toNat - 1)) else v)).toNat
    let packed : List Put := (List.range (rows wd)).flatMap fun y => (List.range (n.toNat + 1)).flatMap fun p =>
      (List.range (wd.image.extent 0 / 8)).filterMap fun j =>
        let k := line ud wd y (8 * j)
        let bit (b : Nat) : Nat := match cell (line us wa y (8 * j + b)) with
          | some v => pattern (BitVec.ofNat (fmtWidth wa.image.fmt) v).toInt / 2 ^ p % 2
          | none => 0
        if ud.image.inBounds k.1 k.2.1 k.2.2 = true then
          some { va := 0, place := plane p (k.1.toNat / 8) k.2.1.toNat k.2.2.toNat, odd := 0, value := ((List.range 8).map fun b => bit b * 2 ^ b).sum }
        else none
    let faults (i : Instr) : Prop := ∃ t, exec i s = .next t ∧ s.BlockFaults t tn x 0x0E ((s.tile tn).stream x).body
    let queued (i : Instr) : Prop :=
      ((tl.stream x).exposed = false → exec i s = .next s) ∧
      ((tl.stream x).exposed = true → (tl.stream x).queued = some q ∨ tl.vExposed = false →
        exec i s = .next (sx.onTile tn fun u => u.onStream x fun y => { y with queued := some q })) ∧
      ((tl.stream x).exposed = true → (tl.stream x).queued ≠ some q → tl.vExposed = true → faults i)
    (tl.windows[a.toNat] = none ∨ tl.windows[d.toNat] = none → ∀ j ∈ ([.cpy d a, .cpyz d a, .gath d a i, .scat d a i, .red d a op sc,
      .bcst d a, .plane d a sat n, .lwr d a] : List Instr), faults j) ∧
    (tl.windows[a.toNat] = some wa →
      (4 ≤ queue.entries.length → wa.image.fmt ≠ 12 → queued (.qfill q a)) ∧
      (queue.entries.length + tl.pushesDue q < 4 → wa.image.fmt ≠ 12 → (tl.stream x).exposed = false ∨ s.lateNext ≠ some tn ∧ tl.pushesDue q = 0 →
        s.PlainBytes us.pins us.curAddr 256 (inAt us) leaf pa → (∀ j < 256, inAt us j = true → s.anyPoison (pa + j) 1 = false) →
        ∃ t, exec (.qfill q a) s = .next t ∧ s.BlockEnds t tn x 1 1 (tl.setQueue q { queue with
          entries := queue.entries ++ [ofElems 8 ((List.range 256).map fun j => if inAt us j = true then (s.byte (pa + j)).toNat else 0)] }))) ∧
    (tl.windows[d.toNat] = some wd → wd.image.snap = false → ld.w = true → ld.ckpt = false → tl.noLateLoad x →
      s.unperformed (streamAsker tn x) = [] → (x = .s → wd.image.lwt = true → ∃ z, ud.landing = some (s.group land, z)) → land < 2 ^ 48 →
      -- 256 bytes from a queue
      (wd.image.fmt ≠ 12 → (queue.entries = [] → queued (.qdrain d q)) ∧
        (∀ v r, queue.entries = v :: r → s.PlainBytes ud.pins ud.curAddr 256 (inAt ud) ld pa →
          let drained : List Put := (List.range 256).filterMap fun j =>
            if inAt ud j = true then some { va := 0, place := pa + j, odd := 0, value := elem 8 v j } else none
          moves (.qdrain d q) 1 8 drained (tags [(land, drained.length)])
            (tl.setQueue q { queue with entries := r, head := queue.head + 1 }))) ∧
      (tl.windows[a.toNat] = some wa → wa.image.fmt ≠ 12 → sx.PlainWindow us leaf from_ →
        -- elements of one width
        (wd.image.fmt ≠ 12 → fmtWidth wa.image.fmt = w → sx.PlainWindow ud ld into → disjoint →
          (wd.image.boxCount = wa.image.boxCount →
            ends (.cpy d a) (cost 0) w (count (copied false)) (copied false) ∧
            ends (.cpyz d a) (cost 0) w (count (copied true)) (copied true) ∧
            (wd.image.lwt = true → ends (.lwr d a) (cost 0) w (box wd 0) (copied true)) ∧
            (wd.image.lwt = false → faults (.lwr d a)) ∧
            (x = .s → reachStore ud.pins wd.image.reach = some (s.fabric.pkg.toNat, tn) →
              moves (.bcst d a) (cost 0) w (copied true ++ others.flatMap fun z => shift z (copied true))
                (tags ((land, count (copied true)) :: others.map fun z => (storeAddr z (wd.image.lwtag * 16), count (shift z (copied true))))) tl) ∧
            (wd.image.fmt = wa.image.fmt → wd.image.fmt ∈ [0, 1, 6, 9] → op ≠ 3 → (tl.stream x).redLeft = none →
              (reduced.map Put.place).Nodup →
              (∀ p ∈ reduced, s.redFind (s.group p.place) = none) →
              ends (.red d a op sc) (cost 0) w (count reduced) reduced)) ∧
          (tl.windows[i.toNat] = some wi → wi.image.fmt = 9 ∨ wi.image.fmt = 10 → wd.image.extent 0 = wa.image.extent 0 →
            (∀ y < wi.image.boxCount, ∀ p, wi.image.positions[y]? = some p → sx.xCell tn x (tl.useOf x wi false)
              ((tl.useOf x wi false).c 0 + p.1) ((tl.useOf x wi false).c 1 + p.2.1) ((tl.useOf x wi false).c 2 + p.2.2) =
              .ok { raw := X y, bad := none }) →
            (wi.image.boxCount = rows wd → ends (.gath d a i) (cost 0) w (count gathered) gathered) ∧
            (wi.image.boxCount = rows wa → (∀ y < rows wa, ∀ x0 < wd.image.extent 0, cell (line us wa y x0) ≠ none) →
              ends (.scat d a i) (cost 0) w (count scattered) scattered))) ∧
        -- planes
        (wd.image.fmt = 12 → wa.image.fmt = 8 ∨ wa.image.fmt = 14 → wa.image.extent 0 = wd.image.extent 0 → rows wa = rows wd →
          wd.image.extent 0 % 8 = 0 → ud.c 0 % 8 = 0 →
          (∀ p ≤ n.toNat, ∀ j < wd.image.bound 0 / 8, ∀ k1 < wd.image.bound 1, ∀ k2 < wd.image.bound 2,
            s.PlainBytes ud.pins (ud.rowAddr k1 k2 + (p * (wd.image.bound 0 / 8) : Nat) + j) 1 (fun _ => true) ld (plane p j k1 k2) ∧
            ∀ i < wa.image.bound 0, ∀ j' < wa.image.bound 1, ∀ k < wa.image.bound 2, plane p j k1 k2 ≠ from_ i j' k) →
          wd.image.bound 0 % 8 = 0 → ends (.plane d a sat n) (cost (n.toNat + 1)) 8 0 packed)))

/-! ## Routing -/

/-- R97, R98, R316, R409: the rt commands on a sound block, each with OK or with the status that refuses it and changes gd only; FULL while
the die's routing engine is not ready. The model's choice: a handle opened again in its phase keeps its numbering and its sources, and a
send whose overflow writes are unfinished closes, to end when they do (log entry 31). -/
def Obligations.RoutingCommands : Prop :=
  ∀ (s : State) (d a : BitVec 5) (leaf : Leaf) (pa : Nat) (pins p1 p2 : List Held) (es : List (BitVec 128)) (h : BitVec 6) (g : BitVec 4) (x : SendHandle),
    let tl := s.tile s.curTile
    let dn := tileDie s.curTile
    let y := s.die dn
    let w (j : Nat) : Nat := leNat (s.mem.bytes (pa + 8 * j) 8)
    let f (j hi lo : Nat) : Nat := w j / 2 ^ lo % 2 ^ (hi + 1 - lo)
    let block : Vector W64 8 := Vector.ofFn fun j => BitVec.ofNat 64 (w j)
    let rest (j : Nat) : Prop := ∀ i < 8, j ≤ i → w i = 0
    let withG (v : Nat) : Control := { s.ctl.next with g := if d = 0 then s.ctl.g else s.ctl.g.set d.toNat (BitVec.ofNat 64 (v * 2 ^ 32)) }
    let holds (id v : Nat) (pins : List Held) : Tile :=
      { tl with opPins := tl.opPins ++ pins.map (fun z => { op := id, pin := z }), control := withG v }
    let only (i : Instr) (status : W64) : Prop := ∃ t, exec i s = .next t ∧ s.CRegister t d status
    let taken (i : Instr) (id v : Nat) (pins : List Held) (z : Die) (answers : List Answer) : Prop :=
      exec i s = .next { s with
        nextOp := s.nextOp + 1
        dies := s.dies.set dn.toNat z
        fabric := { s.fabric with answers := answers }
        tiles := s.tiles.set s.curTile.toNat (holds id v pins) }
    (s.cRuns → s.PlainAccess .read (s.g a) 64 leaf pa → s.anyPoison pa 64 = false → s.engReady (8 + dn.toNat) = false →
      rest 1 → f 0 31 31 = 0 → f 0 63 50 = 0 → only (.rtRoute d a) 1) ∧
    (s.cRuns → s.PlainAccess .read (s.g a) 64 leaf pa → s.anyPoison pa 64 = false → s.engReady (8 + dn.toNat) = true →
      -- rt.route
      (let ok : Prop := rest 1 ∧ f 0 31 31 = 0 ∧ f 0 63 50 = 0
        let home : Route :=
          { pkg := BitVec.ofNat 10 (f 0 21 12), die := BitVec.ofNat 2 (f 0 23 22), handle := BitVec.ofNat 6 (f 0 29 24), standby := f 0 30 30 == 1,
            spkg := BitVec.ofNat 10 (f 0 41 32), sdie := BitVec.ofNat 2 (f 0 43 42), shandle := BitVec.ofNat 6 (f 0 49 44) }
        (¬ ok → only (.rtRoute d a) 2) ∧
        (ok → exec (.rtRoute d a) s = .next { s with
          dies := s.dies.set dn.toNat { y with routes := tput y.routes (f 0 11 0) home }
          tiles := s.tiles.set s.curTile.toNat { tl with control := withG 0 } })) ∧
      -- rt.open
      (let ok : Prop := rest 3 ∧ f 2 15 12 = 0 ∧ f 2 31 29 = 0 ∧ f 2 47 40 = 0 ∧ w 0 % 128 = 0 ∧ w 1 % 16 = 0 ∧ 1 ≤ f 2 28 16 ∧ f 2 28 16 ≤ 4096 ∧
          1 ≤ f 2 39 32 ∧ f 2 39 32 ≤ 129
        let same (r : RecvHandle) : Prop := r.opened = true ∧ r.expert.toNat = f 2 11 0 ∧ r.phase.toNat = f 2 63 48
        (¬ ok → only (.rtOpen d a) 2) ∧
        (ok → s.lwaMisplaced (s.root s.curTile) (w 1) = true → only (.rtOpen d a) 2) ∧
        (ok → s.pinRanges s.curTile (s.root s.curTile) .write [(w 0, f 2 28 16 * f 2 39 32 * 128)] [] = .ok p1 →
          w 1 = 0 ∧ pins = p1 ∨ w 1 ≠ 0 ∧ s.lwaMisplaced (s.root s.curTile) (w 1) = false ∧
            s.pinRanges s.curTile (s.root s.curTile) .write [(w 1, 16)] p1 = .ok pins →
          (pageKeys (tl.pins ++ pins)).length ≤ 512 →
          ((∀ i : Fin 64, y.recvs[i].opened = true) → only (.rtOpen d a) 1) ∧
          ((∃ i : Fin 64, y.recvs[i].opened = false) → (∃ i : Fin 64, same y.recvs[i]) → only (.rtOpen d a) 2) ∧
          ((y.recv h).opened = false → (∀ i : Fin 64, i.val < h.toNat → y.recvs[i].opened = true) → (∀ i : Fin 64, ¬ same y.recvs[i]) →
            let keeps : Prop := (y.recv h).phase.toNat = f 2 63 48 ∧ (y.recv h).slotu ≠ 0
            let id : Nat := if keeps then (y.recv h).id else s.nextOp
            taken (.rtOpen d a) id h.toNat pins (y.setRecv h
              { opened := true, id := id, tile := s.curTile, node := tl.node, buf := BitVec.ofNat 64 (w 0), lwa := BitVec.ofNat 64 (w 1),
                expert := BitVec.ofNat 12 (f 2 11 0), cap := f 2 28 16, slotu := f 2 39 32, phase := BitVec.ofNat 16 (f 2 63 48), pins := pins,
                accept := 0, dup := 0, refused := 0, bytes := 0, sources := if keeps then (y.recv h).sources else [] })
              (s.fabric.answers.filter fun v => v.who != .operation id)))) ∧
      -- rt.send
      (let ok : Prop := rest 5 ∧ f 4 63 16 = 0 ∧ w 0 % 16 = 0 ∧ w 2 % 16 = 0 ∧ 1 ≤ f 3 15 0 ∧ f 3 15 0 ≤ 16384 ∧ 1 ≤ f 3 47 32 ∧ f 3 47 32 ≤ 16384 ∧
          f 3 47 32 ≤ f 3 31 16 * 128
        let entry (e : BitVec 128) : Prop := e.toNat / 2 ^ 97 = 0 ∧ Entry.first e ≤ 4095 ∧ (Entry.nosec e = true ∨ Entry.second e ≤ 4095)
        let known (e : BitVec 128) : Prop := tget y.routes (Entry.first e) ≠ none ∧ (Entry.nosec e = true ∨ tget y.routes (Entry.second e) ≠ none)
        (¬ ok → only (.rtSend d a) 2) ∧
        (ok → s.pinRanges s.curTile (s.root s.curTile) .read [(w 0, 16 * f 3 15 0)] [] = .ok p1 →
          s.readEntries dn s.cAsker p1 block = .ok es →
          ((∃ e ∈ es, ¬ entry e) → only (.rtSend d a) 2) ∧
          ((∀ e ∈ es, entry e) → (∃ e ∈ es, ¬ known e) → only (.rtSend d a) 3) ∧
          ((∀ e ∈ es, entry e) → (∀ e ∈ es, known e) →
            s.pinRanges s.curTile (s.root s.curTile) .read (es.map fun e => (w 1 + Entry.token e * f 3 31 16 * 128, f 3 47 32)) p1 = .ok p2 →
            s.pinRanges s.curTile (s.root s.curTile) .write [(w 2, 16 * f 3 15 0)] p2 = .ok pins → (pageKeys (tl.pins ++ pins)).length ≤ 512 →
            ((∀ i : Fin 16, y.sends[i] ≠ none) → only (.rtSend d a) 1) ∧
            (y.sending g = none → (∀ i : Fin 16, i.val < g.toNat → y.sends[i] ≠ none) → taken (.rtSend d a) s.nextOp g.toNat pins (y.setSend g (some
              { id := s.nextOp, tile := some s.curTile, node := tl.node, block := block, pins := pins,
                tokens := es.zipIdx.map fun e => { idx := e.2, entry := e.1, state := .unformed, second := false, seq := 0, pkg := 0, die := 0, handle := 0 },
                rerouted := [], listing := [], resend := [], denied := none, deliv := 0, bounce := 0, overs := 0, resent := 0, raised := false })) s.fabric.answers)))) ∧
      -- rt.stat and rt.close
      (let ok : Prop := rest 1 ∧ f 0 7 6 = 0 ∧ f 0 63 9 = 0
        let hn : BitVec 6 := BitVec.ofNat 6 (f 0 5 0)
        let gn : BitVec 4 := BitVec.ofNat 4 (f 0 5 0)
        let r := y.recv hn
        let unknown : Prop := f 0 8 8 = 1 ∧ r.opened = false ∨ f 0 8 8 = 0 ∧ (16 ≤ f 0 5 0 ∨ y.sending gn = none)
        let unack (x : SendHandle) : Nat := (x.tokens.filter fun k => k.state != .acked && k.state != .listing && k.state != .overflow).length
        let counts (l : List Nat) : Prop := ∃ t, exec (.rtStat d a) s = .next t ∧
          s.CStores t leaf (pa + 8) (8 * l.length) (leNat (l.flatMap fun v => leBytes 8 v)) ∧ t.ctl = withG 0
        (s.PlainAccess .write (s.g a) 64 leaf pa →
          (¬ ok → only (.rtStat d a) 2) ∧ (ok → unknown → only (.rtStat d a) 4) ∧
          (ok → f 0 8 8 = 1 → r.opened = true → counts [r.accept, r.dup, r.refused, r.bytes]) ∧
          (ok → f 0 8 8 = 0 → f 0 5 0 < 16 → y.sending gn = some x → counts [x.deliv, x.bounce, x.overs, unack x, x.resent])) ∧
        (¬ ok → only (.rtClose d a) 2) ∧ (ok → unknown → only (.rtClose d a) 4) ∧
        (ok → f 0 8 8 = 1 → r.opened = true → r.sources = [] → s.shoot.busy = false → ∃ t, exec (.rtClose d a) s = .next t ∧
          t.dies = s.dies.set dn.toNat (y.setRecv hn { r with opened := false, pins := [] }) ∧ t.ctl = withG r.accept ∧
          (∀ u, t.tile u = { s.tile u with
            control := (t.tile u).control, opPins := if u = r.tile then (s.tile u).opPins.filter (fun z => z.op != r.id) else (s.tile u).opPins }) ∧
          t = { s with dies := t.dies, tiles := t.tiles }) ∧
        (ok → f 0 8 8 = 0 → f 0 5 0 < 16 → y.sending gn = some x → (0 < unack x → only (.rtClose d a) 1) ∧
          (unack x = 0 → exec (.rtClose d a) s = .next { s with
            dies := s.dies.set dn.toNat { y.setSend gn none with closing := if x.raised = true then y.closing else y.closing ++ [x] }
            tiles := s.tiles.set s.curTile.toNat { tl with control := withG x.deliv } }))))

/-- R316, R332 to R336: the routing engine of a die. A send's next header is formed and sent, accepted, refused or seen twice at its
buffer; summaries and bounces are sent and received; a header is sent again with its numbers. A header for another package makes the
sender's interval unrollable (R371), and a summary follows the writes and arrivals that it covers (R317, R417). The bytes of the message
bodies are the model's choice (log entry 3). -/
def Obligations.RoutingEngine : Prop :=
  ∀ (s : State) (lf lt : Leaf) (q1 q2 : Nat) (h : BitVec 6) (g : BitVec 4) (p : BitVec 4) (m : BitVec 128) (n : BitVec 2) (hdr : BitVec 256)
    (payload : List Byte) (x : SendHandle) (k : Token) (route : Route) (ph : BitVec 16) (base : W32) (map : BitVec 256) (other : BitVec 12),
    let z := s.die n
    let b : Block := x.block
    let hf := headerFields hdr
    let r := z.recv h
    let src := r.source hf.phase hf.pkg hf.die
    let known : Prop := hf.seq < src.base ∨ src.has src.accepted hf.seq = true
    let ours : Prop := r.opened = true ∧ r.expert.toNat = hf.expert ∧ r.phase = hf.phase
    let put (v : Die) : State := { s with dies := s.dies.set n.toNat v }
    let note (h : BitVec 6) (u : Source) : Letter :=
      { pkg := u.pkg.toNat, kind := 0x11, arg := h.toNat * 4 + n.toNat, tag := 0,
        body := [u.die.setWidth 8] ++ leBytes 2 u.phase.toNat ++ leBytes 4 u.base ++ leBytes 32 u.accepted.toNat }
    let onToken (f : Token → Token) : SendHandle := { x with tokens := x.tokens.map fun j => if j.idx = k.idx then f j else j }
    let solo : Prop := z.sending g = some x ∧ (∀ i : Fin 16, i.val ≠ g.toNat → z.sends[i] = none) ∧ (x.tokens.map Token.idx).Nodup ∧
      x.listing = [] ∧ z.closing = []
    let row := (Block.payload b (Entry.token k.entry)) % 2 ^ 64
    let e := BitVec.ofNat 128 (leNat (s.mem.bytes q1 16))
    let erow := (Block.payload b (Entry.token e)) % 2 ^ 64
    let quiet (id : Nat) : Prop := s.asking (.operation id) = false ∧ ∀ v ∈ s.fabric.answers, v.who ≠ .operation id
    let calm : Prop := quiet r.id ∧ (r.lwa ≠ 0 → ∀ v, pinPa r.pins (r.lwa.toNat % 2 ^ 57) = some v → s.ownPkg v.2 = true → s.arrivalQueued (localOf v.2) = false)
    (z.sending g = none → (z.closing = [] → exec (.rtHeaderForm n g) s = .next s) ∧ ∀ j, exec (.routeResend n g j) s = .next s) ∧
    -- a header leaves for a buffer of another package
    (solo → quiet x.id → x.rerouted = [] → x.resend = [] → x.denied = none → (x.tokens.find? fun j => j.state == .unformed) = some k →
      tget z.routes (Entry.first k.entry) = some route → tget z.routes (Entry.first e) = some route →
      (Entry.nosec e = true ∨ tget z.routes (Entry.second e) ≠ none) → Entry.ok e = true → route.pkg ≠ s.fabric.pkg →
      s.dieGone route.pkg route.die = false →
      let phase : BitVec 16 := BitVec.ofNat 16 (Block.sendPhase b)
      let pr := z.pair phase route.pkg route.die route.handle
      pr.next < pr.base + 256 → s.PlainPin x.pins (Block.list b + 16 * k.idx) 16 lf q1 → s.anyPoison q1 16 = false →
      1 ≤ Block.len b → s.PlainPin x.pins erow (Block.len b) lt q2 → s.anyPoison q2 (Block.len b) = false →
      (pinned x.pins ((erow + Block.len b - 1) % 2 ^ 57)).isSome = true →
      exec (.rtHeaderForm n g) s = .next (((put ((z.setPair { pr with next := pr.next + 1 }).setSend g (some (onToken fun j => { j with
        entry := e, state := .sent, second := false, seq := BitVec.ofNat 32 pr.next, pkg := route.pkg, die := route.die, handle := route.handle })))).spoil x.writer).mailed n
        [{ pkg := route.pkg.toNat, kind := 0x10, arg := route.handle.toNat * 4 + route.die.toNat, tag := 0,
           body := leBytes 32 (routeHeader (Block.len b) (Entry.token e) (Entry.gate1 e) 0 (Entry.first e) n.toNat s.fabric.pkg.toNat (Block.sendPhase b)
             pr.next).toNat ++ s.mem.bytes q2 (Block.len b) }])) ∧
    -- a header is sent again
    (solo → quiet x.id → x.resend = [k.idx] → x.denied = none → (x.tokens.find? fun j => j.idx == k.idx) = some k →
      s.PlainPin x.pins row (Block.len b) lt q2 → 1 ≤ Block.len b → s.anyPoison q2 (Block.len b) = false → k.pkg ≠ s.fabric.pkg →
      exec (.routeResend n g false) s = .next (((put (z.setSend g (some { x with resent := x.resent + 1, resend := [] }))).spoil x.writer).mailed n
        [{ pkg := k.pkg.toNat, kind := 0x10, arg := k.handle.toNat * 4 + k.die.toNat, tag := 0,
           body := leBytes 32 (routeHeader (Block.len b) (Entry.token k.entry) (if k.second = true then Entry.gate2 k.entry else Entry.gate1 k.entry)
             (if k.second = true then 1 else 0) (if k.second = true then Entry.second k.entry else Entry.first k.entry) n.toNat s.fabric.pkg.toNat
             (Block.sendPhase b) k.seq.toNat).toNat ++ s.mem.bytes q2 (Block.len b) }])) ∧
    -- a header arrives
    (s.ForUs m 0x10 → payload.length = hf.len → hf.pkg ≠ s.fabric.pkg → s.versions.waiting = [] → r.pins ≠ [] → calm →
      (ours → known → r.slotu ≠ 0 → s.Comes p m (.routeHeader p m n h hdr payload) ((put (z.setRecv h (({ r with dup := r.dup + 1 }).setSource
        { src with since := 0 }))).mailed n [note h src])) ∧
      (r.opened = false → r.slotu = 0 → s.Comes p m (.routeHeader p m n h hdr payload) (s.mailed n
        [{ pkg := hf.pkg.toNat, kind := 0x12, arg := h.toNat * 4 + n.toNat, tag := 0, body := [hf.die.setWidth 8] ++ leBytes 32 hdr.toNat }])) ∧
      (ours → ¬ known → src.has src.refused hf.seq = false → r.slotu ≠ 0 → r.lwa = 0 → r.accept < r.cap → hf.len + 128 ≤ r.slotu * 128 → 1 ≤ hf.len →
        src.since < 31 → s.PlainPin r.pins (r.buf.toNat + r.accept * r.slotu * 128) 32 lf q1 → lf.w = true → lt.w = true →
        s.PlainPin r.pins (r.buf.toNat + r.accept * r.slotu * 128 + 128) hf.len lt q2 → q1 + 32 ≤ q2 ∨ q2 + hf.len ≤ q1 →
        ∃ t, s.Comes p m (.routeHeader p m n h hdr payload) t ∧ t.mem.bytes q1 32 = leBytes 32 hdr.toNat ∧ t.mem.bytes q2 hf.len = payload ∧
          (∀ i, (i < q1 ∨ q1 + 32 ≤ i) ∧ (i < q2 ∨ q2 + hf.len ≤ i) → t.byte i = s.byte i) ∧
          t.die n = z.setRecv h (({ r with accept := r.accept + 1, bytes := r.bytes + hf.len + 32 }).setSource (src.accept hf.seq)) ∧
          (∀ u, t.tile u = { s.tile u with dirtyA := (t.tile u).dirtyA, dirtyB := (t.tile u).dirtyB }) ∧
          t = { s with mem := t.mem, poison := t.poison, tiles := t.tiles, pool := t.pool, reservations := t.reservations, dies := s.dies.set n.toNat (t.die n) })) ∧
    -- a summary is sent, and one arrives
    (let u := r.source ph (BitVec.ofNat 10 (other.toNat / 4)) (BitVec.ofNat 2 other.toNat);
      u.pkg ≠ s.fabric.pkg → calm →
      exec (.summarySend n h ph other) s = .next ((put (z.setRecv h (r.setSource { u with since := 0 }))).mailed n [note h u])) ∧
    (let from_ : BitVec 10 := BitVec.ofNat 10 (headerSpkg m)
      let die : BitVec 2 := BitVec.ofNat 2 (headerSdie m)
      let learn (q : Pair) : Pair := if q.phase = ph ∧ q.pkg = from_ ∧ q.die = die ∧ q.handle = h then { q with base := max q.base base.toNat } else q
      let mine (j : Token) (q : Nat → Bool) : Bool := j.state == .sent && j.pkg == from_ && j.die == die && j.handle == h && q j.seq.toNat
      let covered (q : Nat) : Bool := decide (q < base.toNat) || decide (q < base.toNat + 256) && map.getLsbD (q % 256)
      let acked : List Token := x.tokens.map fun j => if mine j covered = true then { j with state := .acked } else j
      (s.ForUs m 0x11 → solo → x.resend = [] → Block.sendPhase b = ph.toNat → (acked.any fun j => j.state != .acked && j.state != .listing && j.state != .overflow) = true →
        s.Comes p m (.summary p m n h ph base map) (put ({ z with pairs := z.pairs.map learn }.setSend g
          (some { x with tokens := acked, deliv := x.deliv + (x.tokens.filter fun j => mine j covered).length })))) ∧
      (s.ForUs m 0x12 → solo → Block.sendPhase b = hf.phase.toNat → x.tokens.filter (fun j => mine j fun q => q == hf.seq) = [k] →
        k.second = false → Entry.nosec k.entry = false →
        s.Comes p m (.bounce p m n h hdr) (put (z.setSend g (some { onToken fun j => { j with state := .bounced } with
          bounce := x.bounce + 1, rerouted := x.rerouted ++ [k.idx] })))))

/-! ## Supervisors and tile events -/

/-- R73, R75, R92, R213, R215, R216, R226, R298, R299, R302, R310, R311, R389: the events of a tile, of a supervisor's wait and of its
stores, each where its conditions hold, and without an effect where it is asked for at another time (log entry 69). A save writes the
image of the context (R301 to R304), and rd of ov.op.step and ov.ckpt.roll is written when what they wait for ends (log entry 54).

R82, R91, R99: the forms that use a landing word, the format and vote queues and a transaction of the context each end their word
where their conditions hold. -/
def Obligations.TileEvents : Prop :=
  (∀ (s : State) (t : BitVec 6) (n : Node) (i : Instr) (cd : BitVec 3) (ra : BitVec 5) (src : BitVec 2) (d : BitVec 2) (c : BitVec 4) (h : W32)
     (rd : BitVec 5) (w : Nat) (pa : BitVec 48) (v : W64) (u : Tile) (y : Share),
     let tl := s.tile t
     let k := tl.control
     let becomes (e : Instr) (u : Tile) : Prop := exec e s = .next (s.setTile t u)
     let idle : Prop := tl.trapping = none ∧ tl.stopsDue = false ∧ s.streamsAsking t = false
     -- a pause and the timeout of a waite
     (k.pause ≠ 0 → tl.countPast k.since k.pause = some u → becomes (.pauseEnd t) { u with control := { u.control with pause := 0 } }) ∧
     (k.pause ≠ 0 → tl.countPast k.since k.pause = none → exec (.pauseEnd t) s = .next s) ∧
     (tl.controlLive = true → k.wait = some w → w ≠ 0 → Decode.control (tl.codeWord k.pc.toNat) = .ok (.waiteStream cd ra src) →
       tl.countPast k.since w = some u → (s.setTile t u).noRaises t u.portNow → ∃ t', exec (.waiteTimeout t) s = .next t' ∧ t' = s.setTile t (t'.tile t) ∧
         t'.tile t = { u with control := { k.next with c := (t'.tile t).control.c } } ∧
         ∀ z : BitVec 3, (t'.tile t).control.c.getLsbD z.toNat = if z = cd then (u.stream (streamOf src)).ended else k.c.getLsbD z.toNat) ∧
     -- a stalled word is tried again, as the current agent
     (tl.controlLive = true → k.stalled = true → tl.port = [] → (∀ z, (tl.stream z).state ≠ .run) → Decode.control (tl.codeWord k.pc.toNat) = .ok i →
       i = .waiteStream cd ra src → ∃ t', exec (.cStallResolve t) s = .next t' ∧ t'.cur = .control t ∧
         ((tl.stream (streamOf src)).ended = true → (t'.tile t).control.c.getLsbD cd.toNat = true ∧ (t'.tile t).control.stalled = false) ∧
         ((tl.stream (streamOf src)).ended = false → (t'.tile t).control.pc = k.pc ∧ (t'.tile t).control.stalled = true)) ∧
     -- the boundary, a stop, the end, a debug break
     (s.tileNode t = some n → tl.status = .stopping → tl.boundary = false → tl.ending = false → tl.trapping = none → tl.debug = false →
       tl.halt = 0 → k.pause = 0 → k.stalled = false → k.slot = 0 → k.arrived = false → k.pc.toNat = n.ker → k.iter.toNat < n.trip →
       (n.cmode = 0 ∨ n.ckpt = true → ∀ z, (tl.stream z).state ≠ .run ∧ (tl.stream z).state ≠ .halted) →
       becomes (.kernelBoundary t) { tl with boundary := true, control := { k with closing := false } }) ∧
     (s.tileNode t = some n → tl.status = .stopping → tl.boundary = true → tl.halt = 0 → (∀ z, (tl.stream z).state ≠ .halted) → idle → tl.pending = [] →
       becomes (.tileStopped t) { tl with status := .stopped, event := true }) ∧
     (tl.ending = true → tl.status = .run ∨ tl.status = .stopping → idle → s.opsBusy t = false →
       let done : State := s.setTile t { tl with ending := false, status := .done, event := true }
       exec (.contextDone t) s = .next { done with pool := { s.pool with nodes := s.pool.nodes.map fun m =>
         if m.handle = tl.node then { m with shares := m.shares.map fun z =>
           if z.index = tl.share ∧ z.phase = .loaded ∧ z.tile = t then { z with ended := true, endedIn := m.interval } else z } else m } }) ∧
     (tl.debug = true → tl.status = .run ∨ tl.status = .stopping → tl.halt = 0 → tl.ending = false →
       becomes (.debugBreakTaken t) ({ tl with debug := false }.controlTrap 0x12 0)) ∧
     -- loads and saves end
     (tl.status ≠ .loading → exec (.tileLoadComplete t) s = .next s) ∧
     (tl.status = .loading → s.tileNode t = some n → tl.transfer.pkt = true → ∃ t', exec (.tileLoadComplete t) s = .next t' ∧
       (t'.tile t).status = (if n.phase = .complete then .done else .ready) ∧ (t'.tile t).event = true) ∧
     (tl.status = .loading → s.tileNode t = some n → tl.transfer.pkt = false → ∃ t', exec (.tileLoadComplete t) s = .next t' ∧ (t'.tile t).event = true ∧
       (t'.tile t).status = if n.phase = .complete then .done
         else if (ImageHeader.of (s.rawRead tl.transfer.addr 4096).1).trapped = true then .faulted else .ready) ∧
     (tl.status = .saving → s.tileNode t = none → s.opsBusy t = false → s.streamsAsking t = false →
       (∀ p : Fin 5, s.physOfTile t = some p.val → (s.cluster (tileCluster t)).phys[p].pendingQuar = false) →
       ∃ t', exec (.tileSaveComplete t) s = .next t' ∧ (t'.tile t).status = .empty ∧ (t'.tile t).event = true ∧ (∀ w, (t'.tile t).window w = none) ∧
         ∀ u, u ≠ t → t'.tile u = s.tile u) ∧
     -- the first save of a share to an area of HBM writes the whole image there
     (tl.status = .saving → s.tileNode t = some n → n.share? tl.share = some y → y.phase = .loaded → y.tile = t → y.written = [] → n.ckpt = false →
       tl.port = [] → s.opsBusy t = false → s.streamsAsking t = false → s.poison = [] → n.nrows ≤ 4096 →
       (∀ p : Fin 5, s.physOfTile t = some p.val → (s.cluster (tileCluster t)).phys[p].pendingQuar = false) →
       let a := tl.transfer.addr
       a + 0x600000 ≤ 2 ^ 39 →
       ∃ t', exec (.tileSaveComplete t) s = .next t' ∧ (t'.tile t).status = .empty ∧ (t'.tile t).event = true ∧ (∀ w, (t'.tile t).window w = none) ∧
         (∀ u, u ≠ t → t'.tile u = s.tile u) ∧
         t'.mem.bytes a 20 = leBytes 4 0x4A524349 ++ leBytes 2 1 ++
           [BitVec.ofNat 8 n.cmode, BitVec.ofNat 8 (1 + (if tl.transfer.trapped = true then 2 else 0) + (if tl.transfer.interval = true then 4 else 0))] ++
           leBytes 4 n.number ++ leBytes 2 tl.share ++ [t.setWidth 8, 0] ++ leBytes 4 0 ∧
         t'.mem.bytes (a + 24) 8 = leBytes 8 1 ∧
         t'.mem.bytes (a + 0x1008) 257 = (List.range 31).flatMap (fun i => leBytes 8 (k.reg (BitVec.ofNat 5 (i + 1))).toNat) ++ leBytes 8 k.pc.toNat ++ [k.c] ∧
         (∀ i < 24, t'.mem.bytes (a + 0x2800 + 256 * i) 256 = leBytes 256 (tl.vreg (BitVec.ofNat 5 i)).toNat) ∧
         t'.mem.bytes (a + 0x10000) 65536 = (List.range 65536).map (fun i => tval 0 tl.code i) ∧
         (∀ r < n.nrows, n.discRow r = false → t'.mem.bytes (a + 0x200000 + 1024 * r) 1024 = s.mem.bytes (storeAddr t (1024 * r)) 1024) ∧
         ∃ m z, t'.node? n.handle = some m ∧ m.share? tl.share = some z ∧ z.home = some a ∧
           z.phase = if y.own = true ∨ tl.transfer.trapped = true ∨ y.over = true ∨ n.stopFor = none then .held else .unplaced) ∧
     -- a supervisor's waits end
     ((s.die d).stepping = false → exec (.opStepComplete d) s = .next s) ∧
     ((s.die d).stepping = true → (s.die d).shrinks = [] → c.toNat / 4 = d.toNat → (s.cluster c).wait = some (.step rd) →
       ∃ t', exec (.opStepComplete d) s = .next t' ∧ (t'.die d).stepping = false ∧ (t'.die d).point = (s.die d).target ∧ (t'.cluster c).wait = none ∧
         (rd ≠ 0 → (t'.cluster c).x[rd.toNat] = BitVec.ofNat 64 ((s.die d).target.toNat * 2 ^ 8))) ∧
     (s.node? h = some n → s.nodeBusy n = false → ((s.rollback n).cluster c).wait = some (.roll rd h) → (s.cluster c).wait = some (.roll rd h) →
       ∃ t', exec (.ckptRollComplete h) s = .next t' ∧ (t'.cluster c).wait = none ∧
         (rd ≠ 0 → (t'.cluster c).x[rd.toNat] = BitVec.ofNat 64 (n.interval.toNat * 2 ^ 8)) ∧ t'.tiles = (s.rollback n).tiles ∧ t'.mem = (s.rollback n).mem) ∧
     -- a store of a supervisor
     ((s.cluster c).wait = none → pa.toNat % 8 = 0 → Machine.place pa.toNat = .hbm → (∀ j < 8, s.storage (pa.toNat + j) = true ∧
       s.quarantined (pa.toNat + j) = false ∧ s.carveOut (pa.toNat + j) = false) → s.scratchBusy pa.toNat = false →
       ∃ t', exec (.supervisorStore c pa 0 3 v) s = .next t' ∧ t'.mem.bytes pa.toNat 8 = leBytes 8 v.toNat ∧ s.SameBytesBut t' pa.toNat 8 ∧
         t'.clusters = s.clusters ∧ t'.dies = s.dies)) ∧
  (∀ (s : State) (d a b : BitVec 5) (c : BitVec 3) (leaf : Leaf) (pa : Nat) (k : Byte) (x : Tx) (v : Bool) (r : List Bool), s.cRuns →
     let tl := s.tile s.curTile
     let l := s.landing pa
     let reached : Prop := l.armed = true ∧ (s.g b).toNat % 2 ^ 32 ≤ l.gen
     let ends (i : Instr) : Prop := ∃ t, exec i s = .next t ∧ t.ctl = { s.ctl.next with g := t.ctl.g, c := t.ctl.c } ∧
       ∀ u, u ≠ s.curTile → (t.tile u).control = (s.tile u).control
     (s.LandingWord true (s.g a) leaf pa → ends (.lwArm a b)) ∧
     (s.LandingWord false (s.g a) leaf pa → ends (.lwTest c a b) ∧ (reached → ends (.lwGet d a b) ∧ ends (.lwWait a b))) ∧
     (tl.formats.length < 16 → exec (.fmtPush a) s = .next (s.setTile s.curTile { tl with
       formats := tl.formats ++ [(s.g a).setWidth 32]
       fmtAt := tl.tc
       fmtNew := if tl.fmtAt = tl.tc then tl.fmtNew + 1 else 1
       control := s.ctl.next })) ∧
     (tl.votes = v :: r → exec (.fqPop c) s = .next (s.setTile s.curTile { tl with
       votes := r
       control := { s.ctl.next with c := (s.ctl.setCond c v).c } })) ∧
     (s.noAnswer → s.inTxNode = false →
       (s.versions.rebasing = false ∨ tl.tx ≠ none → ends (.txOpen d)) ∧
       (tl.tx = some k → tget s.versions.txs k.toNat = some x → s.g a = k.setWidth 64 →
         ends (.txCommit d a) ∧ ends (.txAbort a) ∧ ends (.txStamp d a) ∧ ends (.txRelease a))))

/-! ## Messages of the fabric, reduction windows and ports -/

/-- R326, R328 to R330, R338 to R344, R411: what a message for this package does, and what its units do. A read, a write and an atomic of another
package are performed at their home and answered; an answer ends the request of its TAG; a partial is kept until its line is complete, and
an acknowledgement drops it; the barrier unit counts arrivals and takes phases; a Sync disciplines the time base; ports train, lose lanes
and fail. An event that its rule does not let happen has no effect (log entry 69). The model's choice: the bytes of the message bodies
(log entry 3), the list of arrivals at a barrier (log entry 27), the kinds of time messages (log entry 75), and that a contribution of a
third epoch waits and one with another digest marks its epoch (log entry 42). -/
def Obligations.FabricMessages : Prop :=
  ∀ (s : State) (p : BitVec 4) (m : BitVec 128) (k : BitVec 16) (n : Byte) (q : List Byte) (o : BitVec 4) (w : BitVec 1) (v u : W64) (e : BitVec 2)
    (r : Request) (g : W32) (i : BitVec 4) (j : BitVec 6) (c : BitVec 10) (ep : W32) (l : BitVec 23) (f : BitVec 31) (z : BitVec 20) (nd : Node)
    (pu : BitVec 4) (b : BitVec 9) (new : Nat) (own : Part),
    let comes (i : Instr) (t : State) : Prop := s.Comes p m i t
    let die : BitVec 2 := BitVec.ofNat 2 (p.toNat / 4)
    let pa := localOf (headerArg m)
    let reply (t : State) (kind : Nat) (body : List Byte) : State :=
      t.mailed die [{ pkg := headerSpkg m, kind := kind, arg := headerArg m, tag := headerTag m, body := body }]
    let home (len : Nat) : Prop := s.versions.waiting = [] ∧ pa < 2 ^ 48 ∧ pa % 128 + len ≤ 128 ∧ Machine.place pa = .hbm ∧
      (k.getLsbD 8 = false ∧ k.getLsbD 9 = false) ∧ tget s.seals (pa / 128) = none ∧ s.scratchBusy pa = false ∧
      ∀ y < 128, s.storage (pa / 128 * 128 + y) = true ∧ s.quarantined (pa / 128 * 128 + y) = false ∧ s.carveOut (pa / 128 * 128 + y) = false
    let written (t a : State) (len : Nat) (bs : List Byte) : Prop := t.mem.bytes pa len = bs ∧ s.SameBytesBut t pa len ∧ t.fabric = a.fabric ∧
      t.dies = a.dies ∧ t.tiles = s.tiles ∧ t.clusters = s.clusters
    let port := s.port p
    let onPort (x : Port) : State := s.setDie die { s.die die with ports := (s.die die).ports.set! (p.toNat % 4) x }
    let y := s.redWindow j
    let putWindow (x : RedWindow) : State := s.setRedWindow j x
    -- accesses of another package, and what answers this one's
    (s.ForUs m 0x01 → home n.toNat → 1 ≤ n.toNat → comes (.readRequest p m k n) (reply s 0x02
      (if s.anyPoison pa n.toNat = true then [1] else 0 :: s.mem.bytes pa n.toNat))) ∧
    (s.ForUs m 0x03 → home q.length → 1 ≤ q.length → k.toNat / 2 ^ 10 % 32 = 0 →
      ∃ t, comes (.writeRequest p m k q) t ∧ written t (reply s 0x04 [0]) q.length q) ∧
    (s.ForUs m 0x05 → home (homeWidth o.toNat w) → s.anyPoison pa (homeWidth o.toNat w) = false →
      let old := leNat (s.mem.bytes pa (homeWidth o.toNat w))
      homeCombine o.toNat (homeWidth o.toNat w) old v.toNat u.toNat = some new → ∃ t, comes (.atomicRequest p m k o w v u) t ∧
        written t (reply s 0x06 (0 :: leBytes 8 old)) (homeWidth o.toNat w) (leBytes (homeWidth o.toNat w) new)) ∧
    (r.tag.toNat = headerTag m → r.addr / 2 ^ 48 = headerSpkg m → s.fabric.requests = [r] → s.fabric.held = [] → r.who ≠ .pool → r.who ≠ .unit →
      (∀ a ∈ s.fabric.answers, a.who ≠ .unit) → s.bridge.waiting = [] → s.bridge.owed = [] → s.fabric.drain = [] →
      let got (bs : List Byte) : State := { s with fabric := { s.fabric with
        requests := []
        answers := s.fabric.answers ++ [{ who := r.who, kind := r.kind, addr := r.addr, size := r.size, code := e, bytes := bs }] } }
      (s.ForUs m 0x02 → r.kind = .read → comes (.readResponse p m e q) (got q)) ∧
      (s.ForUs m 0x04 → r.kind = .write → comes (.writeResponse p m e) (got [])) ∧
      (s.ForUs m 0x06 → r.kind = .atomic → comes (.atomicResponse p m e v) (got (leBytes 8 v.toNat)))) ∧
    -- barriers, time and management
    (s.ForUs m 0x20 → s.pool.nodes = [] → comes (.barrierArrival p m g i z) { s with fabric := { s.fabric with
      early := s.fabric.early ++ [(g, i, 2 ^ 40 + headerSpkg m * 2 ^ 20 + z.toNat)] } }) ∧
    (s.ForUs m 0x20 → s.pool.nodes = [nd] → nd.did = g → nd.dlev = 4 → nd.phase = .running → (nd.barrier i).arrived = [] → 2 ≤ nd.members →
      comes (.barrierArrival p m g i z) (s.onNode nd.handle fun x => x.setBarrier i
        { nd.barrier i with arrived := [2 ^ 40 + headerSpkg m * 2 ^ 20 + z.toNat] })) ∧
    (s.ForUs m 0x21 → s.pool.nodes = [nd] → nd.did = g → nd.dlev = 4 →
      comes (.barrierPhase p m g i f) { s with pool := { s.pool with nodes := [nd.setBarrier i { phase := f, arrived := [] }] } }) ∧
    (s.ForUs m 0x28 → headerArg m = 0 → s.time.en = true → s.time.gm ≠ s.fabric.pkg → port.delay = 0 → s.time.synced = false → s.time.ns.toNat < v.toNat →
      comes (.time p m v n) { s with time := { s.time with
        ns := v, frac := 0, lock := false, hops := (if n = 255 then 255 else n + 1), offset := BitVec.ofNat 32 (s.time.ns - v).toNat, synced := true } }) ∧
    (s.ForUs m 0x28 → headerArg m = 0 → s.time.en = false → comes (.time p m v n) s) ∧
    (s.ForUs m 0x30 → comes (.management p m q) { s with mgmt := { s.mgmt with mgmtIn := s.mgmt.mgmtIn ++ [q] } }) ∧
    ((∀ x, (s.port x).up = false) → exec .syncSend s = .next s) ∧
    (port.up = true → (∀ x, x ≠ p → (s.port x).up = false) →
      exec .syncSend s = .next (((s.sendTime p.toNat 0 0 s.time.ns (if s.time.gm = s.fabric.pkg then 0 else s.time.hops)).sendTime p.toNat 2
        (s.time.ns.toNat % 2 ^ 23) 0 0).onPort p fun x => { x with asked := some s.time.ns })) ∧
    -- ports and lanes
    (port.up = true → exec (.linkReplay p) s = .next (onPort { port with
      replay := if port.replay = 255 then 255 else port.replay + 1, want := some (port.good + 1) })) ∧
    (port.up = false → exec (.linkReplay p) s = .next s) ∧
    (s.fabric.txq = [] → exec (.idleFlit p n) s = .next (onPort { port with good := port.good + 1, want := none, stop := n })) ∧
    (port.state = 0 → s.fabric.txq = [] → n.toNat ≤ 200 → (b = 0 ∨ b = 0x100) → s.mgmt.bootOk = true → s.ready.onceEng.getLsbD (16 + p.toNat) = false →
      exec (.portTraining p n c pu b) s = .next { onPort { port with
          rtt := n, high := BitVec.ofNat 8 (254 - n.toNat), low := BitVec.ofNat 8 (222 - n.toNat), peerPkg := c, peerPort := pu, bad := b, state := 2, stop := 0 } with
        ready := { s.ready with
          eng := s.ready.eng ||| BitVec.twoPow 64 (16 + p.toNat)
          onceEng := s.ready.onceEng ||| BitVec.twoPow 64 (16 + p.toNat) } }) ∧
    (port.state = 0 → s.fabric.txq = [] → 200 < n.toNat → (b = 0 ∨ b = 0x100) →
      exec (.portTraining p n c pu b) s = .next { onPort { port with
          rtt := n, high := BitVec.ofNat 8 (254 - n.toNat), low := BitVec.ofNat 8 (222 - n.toNat), peerPkg := c, peerPort := pu, bad := b, state := 6, stop := 0 } with
        ready := { s.ready with eng := s.ready.eng &&& ~~~ BitVec.twoPow 64 (16 + p.toNat) } }) ∧
    (port.state = 1 → s.fabric.txq = [] → n.toNat ≤ 200 → (∃ x y : Fin 9, x ≠ y ∧ b = BitVec.twoPow 9 x ||| BitVec.twoPow 9 y) →
      ∃ t, exec (.portTraining p n c pu b) s = .next t ∧ t.port p = { port with
        rtt := n, high := BitVec.ofNat 8 (254 - n.toNat), low := BitVec.ofNat 8 (222 - n.toNat), peerPkg := c, peerPort := pu, bad := b, state := 4, stop := 0 } ∧
        t.tiles = s.tiles ∧ t.mem = s.mem) ∧
    (port.up = true → (∃ x : Fin 9, port.bad = BitVec.twoPow 9 x) → i.toNat < 9 → port.bad.getLsbD i.toNat = false → ∃ t, exec (.laneRetire p i) s = .next t ∧
      t.port p = { port with bad := port.bad ||| BitVec.twoPow 9 i.toNat, state := 1 } ∧ t.tiles = s.tiles ∧ t.mem = s.mem) ∧
    (port.up = true → port.bad = 0 → i.toNat < 8 → ∃ t, exec (.laneRetire p i) s = .next t ∧
      t.port p = { port with bad := BitVec.twoPow 9 i.toNat, state := 3 } ∧ t.tiles = s.tiles ∧ t.mem = s.mem) ∧
    (port.up = false → port.state ≠ 1 → exec (.laneRetire p i) s = .next s) ∧
    (port.state = 5 → exec (.portFail p) s = .next s) ∧
    (port.up = true → s.fabric.txq = [] → s.fabric.requests = [] → s.bridge.waiting = [] → ∃ t, exec (.portFail p) s = .next t ∧ (t.port p).state = 5 ∧
      t.ready.eng.getLsbD (16 + p.toNat) = false ∧ t.mem = s.mem) ∧
    -- reduction windows
    let differs := g != s.redDigest y
    let marked : RedWindow := { y with mism := y.mism || differs, bad := if differs = true ∧ y.bad.contains ep.toNat = false then ep.toNat :: y.bad else y.bad }
    let contribution : Instr := .reductionContribution p m j c ep l g q
    (s.ForUs m 0x18 → s.versions.waiting = [] → y.en = false → comes contribution s) ∧
    (s.ForUs m 0x18 → s.versions.waiting = [] → y.en = true → y.epoch.toNat ≤ ep.toNat → y.lines.toNat ≤ l.toNat →
      comes contribution (putWindow marked)) ∧
    (s.ForUs m 0x18 → s.versions.waiting = [] → y.en = true → y.epoch.toNat + 2 ≤ ep.toNat → l.toNat < y.lines.toNat → y.merged = [] →
      ∃ t, comes contribution t ∧ t.versions.waiting = [(none, contribution)] ∧ t.redWindow j = marked ∧ t.mem = s.mem ∧ t.tiles = s.tiles) ∧
    (s.ForUs m 0x18 → s.versions.waiting = [] → y.en = true → y.epoch.toNat ≤ ep.toNat → ep.toNat < y.epoch.toNat + 2 → l.toNat < y.lines.toNat →
      y.merged = [] → y.given = [] → c ≠ 0 →
      let part : Part :=
        { contributor := c.toNat, epoch := ep.toNat, line := l.toNat, level := 0, values := bytesValues y y.perLine q
          err := differs || (q[128]?.getD 0) != 0, attr := leNat ((q.drop 129).take 2) }
      comes contribution (putWindow { marked with
        progress := s.time.ns.toNat, busy := true
        parts := (y.parts.filter fun x => !(x.contributor == c.toNat && x.epoch == ep.toNat && x.line == l.toNat)) ++ [part] })) ∧
    (s.ForUs m 0x19 → y.en = true → y.epoch.toNat ≤ ep.toNat → y.merged = [] → 2 ≤ y.lines.toNat →
      comes (.epochAck p m j ep l) (putWindow { y with
        parts := y.parts.filter fun x => x.epoch != ep.toNat || x.line != l.toNat
        sent := y.sent.filter fun x => x.epoch != ep.toNat || x.line != l.toNat
        merged := [(ep.toNat, l.toNat)], progress := s.time.ns.toNat, busy := true })) ∧
    -- of two contributors the home has index 0 and holds its own part: the line is merged and written, and the arrival leaves
    (s.ForUs m 0x18 → s.versions.waiting = [] → y.en = true → y.ncon = 1 → s.redPackage y 0 = s.fabric.pkg.toNat → y.home = s.fabric.pkg.toNat → y.accm = false →
      y.merged = [] → ep = y.epoch → l.toNat < y.lines.toNat → 2 ≤ y.lines.toNat → c = 1 → y.parts = [own] → own.contributor = 0 → own.epoch = ep.toNat →
      own.line = l.toNat → own.level = 0 → own.values.length = y.perLine → y.lineGiven ep.toNat l.toNat = true → own.attr / 256 % 4 = 0 →
      let a := localOf (y.start + 128 * l.toNat)
      a < 2 ^ 39 →
      ∃ t, comes contribution t ∧ (t.redWindow j).merged = [(ep.toNat, l.toNat)] ∧ (t.redWindow j).parts = [] ∧ t.mem.bytes a 128 =
        valueBytes y (List.zipWith (fun e f => BitVec.ofNat 32 (combine y.fmt.toNat y.op.toNat e.toNat f.toNat)) own.values (bytesValues y y.perLine q))) ∧
    (y.en = false ∨ y.busy = false ∨ y.home ≠ s.fabric.pkg.toNat ∨ s.time.ns.toNat < y.progress + 1000000 → exec (.reductionTimeout j) s = .next s) ∧
    (y.en = true → y.busy = true → y.home = s.fabric.pkg.toNat → y.progress + 1000000 ≤ s.time.ns.toNat →
      ∃ t, exec (.reductionTimeout j) s = .next t ∧ (t.redWindow j).err = true ∧ t.clusters = s.clusters)

/-! ## The pool, registers, capacity and power -/

/-- R285 to R290, R296, R357, R366 to R368, R382, R391 to R397, R402, R410: the events of the pool
and of the units of capacity, each where its conditions hold; tile nodes are placed, kept waiting
or refused; nodes of a higher class go first. The model's own choices here are the events that
have no effect where their conditions fail (logs 24, 60, 68, 69: DESIGN CHOICE, DEDUCED), where
scrubbing finds accumulator rows and how an access meets an error (log 91, DESIGN CHOICE), and a
rollback whose node ends before it (log 90, DESIGN CHOICE). -/
def Obligations.PoolEvents : Prop :=
  ∀ (s s1 : State) (n z : Node) (picks : List (Nat × Nat)) (miss : Shrink) (q : Byte) (t : BitVec 6) (d : BitVec 2) (u : BitVec 6) (row : BitVec 16) (a : BitVec 48) (e : W32)
    (w k x y : BitVec 16) (g : BitVec 3) (spent : Bool) (p : Fin 5) (rows : Nat) (o : CopyOp) (l : List CopyOp),
    let h := n.handle
    let now := s.time.ns.toNat
    let age := if n.cls = 1 then s.pool.age1.toNat else if n.cls = 2 then s.pool.age2.toNat else if n.cls = 3 then s.pool.age3.toNat else 0
    let ends (i : Instr) (cause : Byte) : Prop := ∃ t, exec i s = .next t ∧ (∀ m ∈ t.pool.nodes, m.handle = h → m.phase = .complete ∧ m.cause = cause) ∧
      t.pool.nodes.length = s.pool.nodes.length
    let die (v : BitVec 2) : Die := s.die v
    let v := s.versions
    let still : Prop := ∀ j : BitVec 6, (s.redWindow j).parts = []
    let cd := s.die (unitDie 2 u.toNat)
    let entry : Shrink := { array := 2, unit := u, row := row.toNat, point := cd.point, pend := false }
    let same (y : Shrink) : Bool := y.array == 2 && y.unit == u && y.row == row.toNat
    let top := cd.usable 2 u.toNat cd.point.toNat
    let after (k : BitVec 3) : Die := { cd with
      bad := cd.bad ++ [{ array := 2, unit := u, row := row.toNat, point := k }], shrinks := cd.shrinks.filter fun y => !same y }
    let drops (k : BitVec 3) : Prop := u.toNat < 16 ∧ row.toNat < 8192 ∧ cd.stepping = false ∧ (2, u) ∉ cd.retired ∧ cd.passes 2 u.toNat row.toNat k.toNat = true
    -- intake and dispatch
    (s.poolReady = false → exec .packetAccept s = .next s ∧ exec .dispatchPass s = .next s) ∧
    (s.poolReady = true → s.pool.live.length < 16384 → s.nextQueue = (s1, some q) → ∃ t, exec .packetAccept s = .next t ∧
      (t.queue q).head = (s1.queue q).head + 1 ∧ t.pool.lastRead = q ∧ t.pool.accepted = s1.pool.accepted + 1 ∧
      t.pool.nodes.length = s1.pool.nodes.length + 1) ∧
    (s.poolReady = true → s.pool.nodes = [] → s.fabric.early = [] → ∃ t, exec .dispatchPass s = .next t ∧ t.pool.nodes = [] ∧ t.tiles = s.tiles ∧
      t.mem = s.mem ∧ t.dies = s.dies) ∧
    (s.poolReady = true → s.pool.nodes = [n] → n.phase = .ready → n.tclass = 3 → n.mode = 0 → 0 < (s.queue (BitVec.ofNat 8 n.queue)).deficit →
      s.fabric.early = [] → ∃ t, exec .dispatchPass s = .next t ∧ (t.node? h).map Node.phase = some .running ∧ t.tiles = s.tiles) ∧
    (s.poolReady = true → s.pool.nodes = [n, z] → n.handle ≠ z.handle → n.phase = .ready → z.phase = .ready → n.tclass = 3 → z.tclass = 3 → n.mode = 0 →
      z.mode = 0 → z.cls.toNat < n.cls.toNat → 0 < (s.queue (BitVec.ofNat 8 n.queue)).deficit → 0 < (s.queue (BitVec.ofNat 8 z.queue)).deficit →
      s.fabric.early = [] → ∃ t, exec .dispatchPass s = .next t ∧ t.pool.hdisp = s.pool.hdisp ++ [BitVec.ofNat 32 z.number, BitVec.ofNat 32 n.number]) ∧
    -- a tile node beside a host node that runs: it is placed, or its tiles are kept for it, or no placement can serve it
    (s.poolReady = true → s.pool.nodes = [z, n] → n.handle ≠ z.handle → z.phase = .running → z.tclass = 3 → n.phase = .ready → n.tclass = 0 → n.mode = 0 →
      0 < (s.queue (BitVec.ofNat 8 n.queue)).deficit → s.pool.reserving = [] → s.fabric.early = [] → (n.shares.map Share.index).Nodup →
      (s.choose n false [] = some picks → (s.choose n true []).isSome = true →
        ∃ t, exec .dispatchPass s = .next t ∧ (t.node? h).map Node.phase = some .running ∧
          (∀ e ∈ picks, ∀ m, t.node? h = some m → ∀ y ∈ m.shares, y.index = e.1 → y.reported = none →
            y.phase = .placed ∧ y.tile = BitVec.ofNat 6 e.2) ∧ t.node? z.handle = some z ∧ t.tiles = s.tiles ∧ t.mem = s.mem) ∧
      (s.choose n false [] = none → (s.choose n true []).isSome = true →
        ∃ t, exec .dispatchPass s = .next t ∧ t.pool.nodes = [z, n] ∧ t.pool.reserving = [h] ∧ t.tiles = s.tiles ∧ t.mem = s.mem) ∧
      (s.choose n true [] = none → n.cause = 0 → ends .dispatchPass causeCapfault)) ∧
    (n.preempted = false → s.choose n false [] = some picks →
      picks.map Prod.fst = (n.placing.map Share.index) ∧ (picks.map Prod.snd).Pairwise (· < ·) ∧
      (∃ g ∈ n.groups, ∀ e ∈ picks, e.2 ∈ g) ∧
      ∀ e ∈ picks, s.tileFree n e.2 = true ∧ n.allowsTile e.2 = true ∧ n.nrows ≤ s.rows 0 e.2 ∧ n.nacc ≤ s.rows 1 e.2) ∧
    -- a node that waits, runs or is timed
    (s.node? h = some n →
      (n.phase = .ready → age ≠ 0 → n.since + 1000 * age ≤ now → exec (.classPromotion h) s = .next (s.onNode h fun m => { m with
        cls := m.cls - 1, since := m.since + 1000 * age })) ∧
      (n.phase = .running ∨ age = 0 ∨ now < n.since + 1000 * age → exec (.classPromotion h) s = .next s) ∧
      (n.timed = true ∨ n.stopFor ≠ none ∨ now < n.start + 1000 * s.pool.slice.toNat → exec (.sliceExpiry h) s = .next s) ∧
      (n.phase = .running → n.tclass = 0 → n.timed = false → n.stopFor = none → n.start + 1000 * s.pool.slice.toNat ≤ now →
        (s.pool.nodes.find? fun m => decide (m.phase = .ready) && m.cls == n.cls && m.queue != n.queue && s.pool.reserving.contains m.handle &&
          n.tilesYielded.any fun t => s.couldUse m t) = some z →
        (∃ y ∈ n.shares, y.reported = none ∧ y.ended = false ∧ y.phase = .loaded ∧ (s.tile y.tile).status = .run ∧ (s.tile y.tile).node = h) →
        ∃ t, exec (.sliceExpiry h) s = .next t ∧ (t.node? h).map Node.stopFor = some (some z.handle) ∧ t.mem = s.mem) ∧
      (n.timed = true → s.readyDue n = true → exec (.timedReady h) s = .next (s.onNode h fun m => { m with phase := .ready, since := now })) ∧
      (n.timed = false → exec (.timedReady h) s = .next s ∧ exec (.timedStart h) s = .next s) ∧
      (n.timed = true → n.timedOk = false → n.tstamp ≤ now → n.phase = .running →
        (∀ y ∈ n.liveShares, y.phase = .loaded ∧ (s.tile y.tile).status = .run) → exec (.timedStart h) s = .next (s.onNode h fun m => { m with timedOk := true })) ∧
      (n.timed = true → n.timedOk = false → n.tstamp ≤ now → n.phase = .waiting → n.cause = 0 → (∀ m ∈ s.pool.nodes, m.handle = h → m = n) →
        (∀ y ∈ n.shares, y.phase = .unplaced) → ends (.timedStart h) 0x16) ∧
      (n.phase ≠ .running → exec (.nodeComplete h) s = .next s) ∧
      (s.rollWaits h = true → exec (.nodeComplete h) s = .next s) ∧
      (n.phase = .running → s.rollWaits h = false → n.tclass = 0 → (∀ y ∈ n.shares, y.reported ≠ none) → s.nodeQuiet n = true → n.tx = none →
        (∀ m ∈ s.pool.nodes, m.handle = h → m = n) → ends (.nodeComplete h) n.cause) ∧
      (n.phase = .running → s.rollWaits h = false → n.tclass ≠ 0 → n.hostDone = true → n.tx = none → (∀ m ∈ s.pool.nodes, m.handle = h → m = n) → ends (.nodeComplete h) n.cause) ∧
      -- checkpoint intervals
      (n.ckpt = true → n.phase = .running → n.opened + 1000 * n.cki ≤ now → exec (.ckptIntervalTimer h) s = .next (s.onNode h fun m => { m with closing := .timer })) ∧
      (n.ckpt = false ∨ n.phase ≠ .running → exec (.ckptIntervalTimer h) s = .next s ∧ exec (.ckptIntervalClose h) s = .next s) ∧
      (n.ckpt = true → n.phase = .running → s.closeReady n = true → ∃ t, exec (.ckptIntervalClose h) s = .next t ∧
        (t.node? h).map Node.interval = some (n.interval + 1) ∧ (t.node? h).map Node.closing = some .no)) ∧
    -- versions
    (v.rebasing = false → exec .rebase s = .next s) ∧
    (v.rebasing = true → s.liveSnaps = [] → v.txs = [] → v.lines = [] → exec .rebase s = .next { s with
      seals := s.seals.map fun g => (g.1, { g.2 with stamp := 0 })
      versions := { v with
        clock := 1, rebasing := false
        records := v.records.map fun r => (r.1, { r.2 with stamp := 0, tag := r.2.tag.map fun g => { g with stamp := 0 } }) } }) ∧
    (v.lines = [] → v.waiting = [] → still → exec .coppicePass s = .next { s with versions := { v with pass := v.pass + 1 } }) ∧
    (let c := (s.tile t).control;
      (c.denied = none → exec (.versionStallTimeout t 0) s = .next s) ∧
      (c.denied = some rows → v.bound = 0 ∨ rows + 1000 * v.bound.toNat ≤ now →
        exec (.versionStallTimeout t 0) s = .next { s with agenda := Activity.issue (.control t) :: s.agenda }) ∧
      ((s.die (tileDie t)).engine 1 = o :: l → o.denied = some rows → v.bound = 0 ∨ rows + 1000 * v.bound.toNat ≤ now →
        exec (.versionStallTimeout t 6) s = .next { s with agenda := Activity.event (.copyComplete (tileDie t) 1) :: s.agenda })) ∧
    -- scrubbing, rows, tiles, dies
    (exec (.patrolScrub a 0) s = .next s) ∧
    (s.storage a.toNat = true → Machine.place a.toNat = .hbm → ∃ t, exec (.patrolScrub a 2) s = .next t ∧ granuleOf a.toNat ∈ t.poison ∧ t.mem = s.mem ∧
      t.tiles = s.tiles) ∧
    (s.storage a.toNat = true → Machine.place a.toNat = .hbm → exec (.patrolScrub a 1) s = .next s) ∧
    (u.toNat < 16 → row.toNat < 8192 → cd.stepping = true → (∀ y ∈ cd.shrinks, same y = false) →
      exec (.rowMovePause 2 u row) s = .next (s.setDie (unitDie 2 u.toNat) { cd with shrinks := cd.shrinks ++ [entry] })) ∧
    (60000 ≤ row.toNat → exec (.rowMovePause 2 u row) s = .next s) ∧
    (∀ k : BitVec 3, drops k →
      ((after k).usable 2 u.toNat cd.point.toNat = top ∨ s.claimants 2 u.toNat (top - 1) top = [] →
        (k = cd.point → ∃ t, exec (.rowMovePause 2 u row) s = .next t ∧ (t.die (unitDie 2 u.toNat)).bad = (after k).bad ∧ t.clusters = s.clusters) ∧
        (cd.shrinks.find? same = some miss → miss.point = k → ∃ t, exec (.capacityShrink 2 u row) s = .next t ∧
          (t.die (unitDie 2 u.toNat)).bad = (after k).bad ∧ (t.die (unitDie 2 u.toNat)).shrinks = (after k).shrinks ∧ t.clusters = s.clusters)) ∧
      -- the row whose number the prefix would lose is claimed: the drop waits, recorded once, and the node stops
      (k = cd.point → (after k).usable 2 u.toNat cd.point.toNat ≠ top → s.claimants 2 u.toNat (top - 1) top = [h] → s.node? h = some n → n.timed = false →
        n.phase = .running → (∀ y ∈ cd.shrinks, same y = false) → (∃ y ∈ n.shares, y.reported = none ∧ y.ended = false ∧ y.phase = .loaded) →
        ∃ t, exec (.rowMovePause 2 u row) s = .next t ∧ (t.die (unitDie 2 u.toNat)).bad = cd.bad ∧
          (t.die (unitDie 2 u.toNat)).shrinks = cd.shrinks ++ [{ entry with pend := true }] ∧ (t.node? h).map Node.stopFor = some (some 0xFFFFFFFF) ∧ t.mem = s.mem) ∧
      ((after k).usable 2 u.toNat cd.point.toNat ≠ top → s.claimants 2 u.toNat (top - 1) top ≠ [] → cd.shrinks.find? same = some miss → miss.point = k →
        miss.pend = true → exec (.capacityShrink 2 u row) s = .next s)) ∧
    ((∀ y ∈ cd.shrinks, same y = false) → exec (.capacityShrink 2 u row) s = .next s) ∧
    ((s.tile t).status = .retired → exec (.tileFail (tileCluster t) (BitVec.ofNat 2 t.toNat)) s = .next s) ∧
    ((s.tile t).status = .empty → s.physOfTile t = some p.val → (∀ j : Fin 5, (s.cluster (tileCluster t)).phys[j].state ≠ 1) →
      ∃ r, exec (.tileFail (tileCluster t) (BitVec.ofNat 2 t.toNat)) s = .next r ∧ (r.tile t).status = .retired ∧
        r.ready.tile.getLsbD t.toNat = false ∧ (r.cluster (tileCluster t)).phys[p].state = 3 ∧ ∀ j, j ≠ t → r.tile j = s.tile j) ∧
    (exec (.hbmRepair g e spent) s = .next (s.log (BitVec.ofNat 2 (g.toNat / 2))
      { ErrorRecord.blank with cls := 0x10, sev := 0, src := 4, flags := if spent = true then 0x40 else 0, unit := g.setWidth 16, count := e })) ∧
    (k.toInt < 0x6E0 → x.toInt < 0x6E0 → y.toInt < 0x6E0 →
      let hot : Bool := decide ((die d).twarn.toInt ≤ k.toInt) || decide ((die d).twarn.toInt ≤ x.toInt) || decide ((die d).twarn.toInt ≤ y.toInt)
      ∃ t, exec (.telemetryUpdate d e w k x y) s = .next t ∧ t.die d = { die d with
          tlmdie := BitVec.ofNat 64 (e.toNat * 2 ^ 32 + w.toNat * 2 ^ 16 + k.toNat), tlmhbm := BitVec.ofNat 32 (y.toNat * 2 ^ 16 + x.toNat),
          warn := (die d).warn || hot } ∧
        t = { s with dies := s.dies.set d.toNat (t.die d), mgmt := { s.mgmt with alert := t.dies.toList.any Die.warn } }) ∧
    (0x6E0 ≤ k.toInt → ∃ t, exec (.telemetryUpdate d e w k x y) s = .next t ∧ t.powered = false ∧ t.mgmt.thermtrip = true) ∧
    ((die d).failed = true → exec (.dieFailure d) s = .next s) ∧
    ((die d).failed = false → ∃ t, exec (.dieFailure d) s = .next t ∧ (t.die d).failed = true ∧ (∀ j, (t.die d).sending j = none) ∧
      (∀ j, (t.die d).engine j = []) ∧ (∀ j : BitVec 6, tileDie j = d → (s.tile j).status = .retired → t.tile j = s.tile j)) ∧
    ((die d).partition = none → exec (.poolPartitionChangeDone d) s = .next s) ∧
    ((die d).partition = some rows → rows ≤ 65536 → (die d).scratch ≤ 65536 → v.waiting = [] → s.bridge.waiting = [] → still → ∃ t, exec (.poolPartitionChangeDone d) s = .next t ∧
      t.die d = { die d with scratch := rows, partition := none } ∧ t.tiles = s.tiles ∧ t.clusters = s.clusters ∧
      s.SameBytesBut t (0x400300000000 + d.toNat * 0x4000000) 0x4000000)

/-- R252, R258, R259, R292, R343, R349, R393, R401, R414, R415: the register writes and reads that
are rows of the table of their own, and a register write of a supervisor, the host or the
management plane. R274, R345 to R347, R406 to R408, R411 to R413, R416: a host access is completed
by the bridge; power, reset and PERST# leave what their rules say; a function becomes ready once
per power-up; a freeze holds all but traffic in flight; the test port shifts its data registers
out; the management endpoint and attestation answer. The model's own choices here: the events that
have no effect where their conditions fail (log 69), which accesses a shootdown waits for (log 83,
DEDUCED), what the host bridge answers (log 65), what is left to others and so opaque (log 67),
and where power, telemetry and the test port act (log 68). -/
def Obligations.PlatformEvents : Prop :=
  (∀ (s : State) (v : W64) (q slot : Byte) (j : BitVec 6) (d : BitVec 2) (c : BitVec 4) (t : BitVec 2) (p : Fin 5) (pass : Bool) (a : BitVec 48) (off : Nat)
     (wide : Bool) (m : Nat),
     let x := s.shoot
     let tn : BitVec 6 := BitVec.ofNat 6 (c.toNat * 4 + t.toNat)
     let y := s.redWindow j
     let k := s.cluster c
     let f (hi lo : Nat) : Nat := v.toNat / 2 ^ lo % 2 ^ (hi + 1 - lo)
     let phys (z : PhysTile) : State := s.setCluster c { k with phys := k.phys.set p.val z }
     let idle : Prop := s.bridge.hosten = true ∧ s.mgmt.bootOk = true ∧ s.engReady 32 = true ∧ s.bridge.waiting = [] ∧ s.asking .unit = false ∧
       ∀ z ∈ s.fabric.answers, z.who ≠ .unit
     let machine : Prop := (s.cluster s.curCluster).mode = 3
     let size := if wide = true then 8 else 4
     -- shootdown
     (x.busy = true → exec (.xictlGo v) s = .next { s with shoot := { x with lost := true } }) ∧
     (x.busy = false → ∃ t, exec (.xictlGo v) s = .next t ∧ (∀ z, ∀ h ∈ (t.cluster z).tlb, t.shoot.covers h = false ∧ h ∈ (s.cluster z).tlb) ∧ t.shoot = { x with
         count := BitVec.ofNat 32 (f 63 32), allroot := f 2 2 == 1, allva := f 1 1 == 1, busy := true, tlbdone := false, done := false
         curVa := x.vpn.toNat * 4096, curPages := f 63 32 + 1, curRoot := x.root.toNat * 4096, curAllRoot := f 2 2 == 1, curAllVa := f 1 1 == 1
         waits := (s.fabric.requests.filter fun r => r.who.isControl).map Request.tag } ∧ t.mem = s.mem ∧ t.dies = s.dies) ∧
     (x.busy = false ∨ x.tlbdone = true ∨ (∃ r ∈ s.fabric.requests, r.tag ∈ x.waits) → exec .shootdownTlbDone s = .next s) ∧
     (x.busy = true → x.tlbdone = false → x.waits = [] → (∀ z, (s.tile z).pins = []) → ∃ t, exec .shootdownTlbDone s = .next t ∧
       t.shoot = { x with tlbdone := true, done := true, busy := false, seq := x.seq + 1 } ∧ t.mem = s.mem ∧ t.dies = s.dies) ∧
     -- host registers of the pool and of a queue
     (idle → (s.hdisp / 2 ^ 63 % 2 = 0 → s.engReady 33 = true → s.pool.mirror = false →
         exec .hdispRead s = .next { s with bridge := { s.bridge with out := s.bridge.out ++ [.data (leBytes 8 s.hdisp)] } }) ∧
       (s.hdisp / 2 ^ 63 % 2 = 1 → s.engReady 33 = true → s.pool.mirror = false → exec .hdispRead s = .next (let z := s.hdispTake;
         { z with bridge := { z.bridge with out := z.bridge.out ++ [.data (leBytes 8 s.hdisp)] } })) ∧
       exec (.hdoneWrite v) s = .next (s.writeHdone v.toNat) ∧
       exec (.qtailWrite q v) s = .next (s.writeTail q (v.setWidth 32))) ∧
     -- the time base, a reduction window, a key slot
     (s.time.en = true ∨ v.toNat ≤ s.time.ns.toNat → exec (.tbinitWrite v) s = .next s) ∧
     (s.time.en = false → s.time.ns.toNat < v.toNat → exec (.tbinitWrite v) s = .next { s with time := { s.time with ns := v, frac := 0 } }) ∧
     (y.en = true → f 63 63 = 1 → exec (.rwcfgWrite j v) s = .next s) ∧
     (y.en = true → f 63 63 = 0 → exec (.rwcfgWrite j v) s = .next (s.setRedWindow j { y with
       en := false, err := y.err || y.busy, busy := false, parts := [], sent := [], given := [], merged := [], bad := [], denied := none })) ∧
     (y.en = false → f 63 63 = 1 → f 37 36 ≠ 3 → f 35 32 = 0 → exec (.rwcfgWrite j v) s = .next (s.setRedWindow j { y with
       ncon := BitVec.ofNat 10 (f 49 40), accm := f 39 39 == 1, op := BitVec.ofNat 2 (f 37 36), fmt := 0, lines := BitVec.ofNat 23 (f 22 0), en := true
       epoch := 0, parts := [], sent := [], given := [], merged := [], bad := [], busy := false, progress := 0, denied := none })) ∧
     (machine → exec (.keyLoad slot) s = .next { s with keys := { data := Vector.replicate 12 0, slots := tput s.keys.slots slot.toNat s.keyMaterial } }) ∧
     (machine → exec (.keyClear slot) s = .next { s with keys := { data := Vector.replicate 12 0, slots := tdrop s.keys.slots slot.toNat } }) ∧
     (¬machine → exec (.keyLoad slot) s = .next s ∧ exec (.keyClear slot) s = .next s) ∧
     -- the error log, debug and test
     (exec (.clrlost d) s = .next (s.setDie d { s.die d with lost := 0 })) ∧
     (((s.tile tn).status = .run ∨ (s.tile tn).status = .stopping → exec (.dbgreqBreak c t) s = .next (s.setTile tn { s.tile tn with debug := true })) ∧
      ((s.tile tn).status ≠ .run → (s.tile tn).status ≠ .stopping → exec (.dbgreqBreak c t) s = .next s)) ∧
     (let z := k.phys[p];
       let code : BitVec 3 := BitVec.ofNat 3 p.val;
       (z.state = 1 ∨ z.state = 2 → exec (.pttestRun c code) s = .next (phys { z with run := true, done := false, pass := false })) ∧
       (z.state ≠ 1 → z.state ≠ 2 → exec (.pttestRun c code) s = .next s) ∧
       (z.state = 2 → z.pass = true → exec (.pttestRet c code) s = .next (phys { z with state := 1 })) ∧
       (z.state ≠ 2 ∨ z.pass = false → exec (.pttestRet c code) s = .next s) ∧
       (z.run = true → exec (.selfTestComplete c code pass) s = .next (phys { z with run := false, done := true, pass := pass })) ∧
       (z.run = false → exec (.selfTestComplete c code pass) s = .next s)) ∧
     -- register writes
     (Machine.place a.toNat = .register off → off % size = 0 →
       exec (.registerWrite 0 a wide v) s = .next (s.regWrite (.supervisor s.curCluster) off size v.toNat) ∧
       (off < 0x200 ∨ 0x2A0 ≤ off → exec (.registerWrite 2 a wide v) s = .next (s.regWrite .management off size v.toNat)) ∧
       (idle → off < 0x200 ∨ 0x2A0 ≤ off → exec (.registerWrite 1 a wide v) s = .next (s.regWrite .host off size (v.toNat % 2 ^ (8 * size))))) ∧
     (Machine.place a.toNat = .register 0x3820 → exec (.registerWrite 0 a true v) s = .next { s with versions := { s.versions with bound := v.setWidth 16 } }) ∧
     (Machine.place a.toNat = .register m → m % size ≠ 0 → exec (.registerWrite 0 a wide v) s = .next s) ∧
     (Machine.place a.toNat = .hbm → exec (.registerWrite 0 a wide v) s = .next s)) ∧
  (∀ (s : State) (up host wide : Bool) (bar : BitVec 1) (ha : BitVec 36) (bs : List Byte) (len : BitVec 13) (ca : BitVec 12) (cv : W32) (m : BitVec 2)
     (bit : BitVec 6) (n : Nat) (a : BitVec 48) (v : W64) (off : Nat) (p : Nat) (i : Byte) (c0 c1 : BitVec 16) (nonce : BitVec 256),
     let b := s.bridge
     let out (t : State) (x : HostOut) : State := { t with bridge := { t.bridge with out := t.bridge.out ++ [x] } }
     let tells (t : State) (x : MgmtOut) : State := { t with mgmt := { t.mgmt with mgmtOut := t.mgmt.mgmtOut ++ [x] } }
     let shifts (ir : BitVec 6) (l : List Bool) : State := { s with mgmt := { s.mgmt with tapIr := ir, tapOut := s.mgmt.tapOut ++ l } }
     let win := b.wins[ha.toNat / 2 ^ 32]?.getD 0
     let at_ := localOf (win.toNat / 2 ^ 32 % 2 ^ 26 * 2 ^ 32 + ha.toNat % 2 ^ 32)
     let idle : Prop := b.hosten = true ∧ b.waiting = [] ∧ s.asking .unit = false ∧ (∀ z ∈ s.fabric.answers, z.who ≠ .unit) ∧
       s.engReady 32 = true ∧ s.mgmt.bootOk = true
     let mapped (l : Nat) : Prop := bar = 1 ∧ win.getLsbD 63 = true ∧ s.ownPkg (win.toNat / 2 ^ 32 % 2 ^ 26 * 2 ^ 32 + ha.toNat % 2 ^ 32) = true ∧ 1 ≤ l ∧
       p = at_ ∧ p < 2 ^ 48 ∧ p % 128 + l ≤ 128 ∧ Machine.place p = .hbm ∧ tget s.seals (p / 128) = none ∧ s.scratchBusy p = false ∧
       ∀ y < 128, s.storage (p / 128 * 128 + y) = true ∧ s.quarantined (p / 128 * 128 + y) = false ∧ s.carveOut (p / 128 * 128 + y) = false
     let silent (x : Instr) : Prop := exec x s = .next s
     let open_ : Prop := s.mgmt.bootOk = true ∧ s.engReady 38 = true
     let size := if wide = true then 8 else 4
     let image := Config.bootFlash (s.mgmt.resets + 1)
     let verified : Prop := ∀ k < 3, Config.sha384 (image k).key = Config.rootKeyDigest ∧ Config.fusedVersion (s.mgmt.resets + 1) ≤ (image k).version ∧
       Config.ecdsaVerifies (image k).key (Config.sha384 (image k).bytes) (image k).signature = true
     let measure (k : Nat) : List Byte := (Config.sha384 (if k = 1 then Config.bootRom else if k = 2 then (Config.bootFlash s.mgmt.resets 1).bytes
       else if k = 3 then (Config.bootFlash s.mgmt.resets 2).bytes else Config.fuseBytes (Config.fusedVersion s.mgmt.resets) Config.dbgen)).toList
     let fresh (t : State) : Prop := t.tiles = State.reset.tiles ∧ t.clusters = State.reset.clusters ∧ t.dies = State.reset.dies ∧ t.mem = [] ∧ t.poison = [] ∧
       t.pool = State.reset.pool ∧ t.versions = State.reset.versions ∧ t.fabric = State.reset.fabric ∧ t.shoot = State.reset.shoot ∧ t.keys = State.reset.keys ∧
       t.ready = State.reset.ready ∧ t.seals = [] ∧ t.qtab = State.reset.qtab ∧ t.time = State.reset.time ∧ t.frozen = false ∧ t.reservations = []
     -- the host
     (b.hosten = false → exec (.hostRead bar ha len) s = .next s ∧ exec (.hostWrite bar ha bs) s = .next s ∧
       exec (.configurationRequest ca up cv) s = .next s ∧ exec .perst s = .next s) ∧
     (idle → mapped len.toNat → s.anyPoison p len.toNat = false → exec (.hostRead bar ha len) s = .next (out s (.data (s.mem.bytes p len.toNat)))) ∧
     (idle → mapped bs.length → ∃ t, exec (.hostWrite bar ha bs) s = .next t ∧ t.mem.bytes p bs.length = bs ∧ s.SameBytesBut t p bs.length ∧
       t.bridge = b ∧ t.tiles = s.tiles ∧ t.clusters = s.clusters ∧ t.dies = s.dies) ∧
     (idle → bar = 1 → win.getLsbD 63 = false → exec (.hostRead bar ha len) s = .next (out s (.data (List.replicate len.toNat 0))) ∧
       exec (.hostWrite bar ha bs) s = .next s) ∧
     (b.hosten = true → exec (.configurationRequest ca true cv) s = .next (out { s with bridge := { b with config := tput b.config ca.toNat cv } } .configured) ∧
       exec (.configurationRequest ca false cv) s = .next (out s (.config (Config.pcieConfig b.config ca)))) ∧
     -- power and reset
     (∃ t, exec (.powerOn host) s = .next t ∧ fresh t ∧ t.bridge = { State.reset.bridge with hosten := host } ∧ t.powered = true ∧
       t.mgmt = { State.reset.mgmt with resets := s.mgmt.resets + 1, bootOk := t.mgmt.bootOk } ∧ (t.mgmt.bootOk = true ↔ verified)) ∧
     (∃ t, exec (.reset host) s = .next t ∧ fresh t ∧ t.bridge = { State.reset.bridge with hosten := host } ∧ t.powered = true ∧
       t.mgmt = { State.reset.mgmt with resets := s.mgmt.resets + 1, bootOk := t.mgmt.bootOk } ∧ (t.mgmt.bootOk = true ↔ verified)) ∧
     (∃ t, exec .powerLoss s = .next t ∧ fresh t ∧ t.powered = false) ∧
     (b.hosten = true → exec .perst s = .next { s with
       bridge := { b with config := [], waiting := [], out := [] }
       fabric := { s.fabric with
         requests := s.fabric.requests.filter fun r => r.who != .unit
         answers := s.fabric.answers.filter fun r => r.who != .unit } }) ∧
     (s.mgmt.bootOk = true →
       (bit.toNat ≤ 43 → s.ready.onceMem.getLsbD bit.toNat = false → exec (.functionReady 0 bit) s = .next { s with
         ready := { s.ready with mem := s.ready.mem ||| BitVec.twoPow 64 bit.toNat, onceMem := s.ready.onceMem ||| BitVec.twoPow 64 bit.toNat } }) ∧
       (s.ready.onceTile.getLsbD bit.toNat = false → exec (.functionReady 2 bit) s = .next { s with
         ready := { s.ready with tile := s.ready.tile ||| BitVec.twoPow 64 bit.toNat, onceTile := s.ready.onceTile ||| BitVec.twoPow 64 bit.toNat } }) ∧
       (bit.toNat < 16 → s.ready.onceEng.getLsbD bit.toNat = false → exec (.functionReady 1 bit) s = .next { s with
         ready := { s.ready with eng := s.ready.eng ||| BitVec.twoPow 64 bit.toNat, onceEng := s.ready.onceEng ||| BitVec.twoPow 64 bit.toNat } })) ∧
     (s.mgmt.bootOk = false → exec (.functionReady m bit) s = .next s) ∧
     -- freeze and the test port
     (exec .freeze s = .next { s with frozen := true, fabric := { s.fabric with outbox := [], txq := [] } }) ∧
     (exec .tapIdcode s = .next (shifts 0x01 ((List.range 32).map fun k => (0x0C71A9F1 : Nat).testBit k))) ∧
     (exec .tapFrzstat s = .next (shifts 0x10 [s.frozen])) ∧
     (exec .tapBypass s = .next (shifts 0x3F [false])) ∧
     (exec (.tapScanout n) s = .next (shifts 0x11 ((List.range n).map fun k => s.frozen && Config.dbgen && Config.scanBit s.withoutKeys k))) ∧
     (s.frozen = false → exec (.tapMemrd a) s = .next (shifts 0x12 (List.replicate 64 false))) ∧
     (Machine.place a.toNat = .register off → off % 8 = 0 → off < 0x200 →
       exec (.tapMemrd a) s = .next (shifts 0x12 ((List.range 64).map fun k => s.frozen && Config.dbgen && (s.regWord off).testBit k))) ∧
     (s.powered = true → s.fabric.moved = [] → bit ∉ [0x01, 0x10, 0x11, 0x12] →
       Machine.step { s with agenda := .tap bit :: s.agenda } = .next (shifts bit [false])) ∧
     -- the management endpoint
     (exec (.mctpControl bs) s = .next (tells s (.mctp (Config.mctpAnswer bs)))) ∧
     (exec .vendorStatusQuery s = .next (tells s (.status (!s.mgmt.bootOk) [s.ready.mem, s.ready.eng, s.ready.tile]))) ∧
     (¬open_ → silent (.vendorRegisterRead a wide) ∧ silent (.vendorRegisterWrite a wide v) ∧ silent .vendorFreeze ∧ silent .getVersion ∧
       silent .getCapabilities ∧ silent .negotiateAlgorithms ∧ silent .getDigests ∧ silent (.getCertificate c0 c1) ∧ silent (.challenge nonce) ∧
       silent (.getMeasurements 0 nonce)) ∧
     (open_ →
       (Machine.place a.toNat = .register off → off % size = 0 → off < 0x200 ∨ 0x2A0 ≤ off →
         exec (.vendorRegisterRead a wide) s = .next (let r := s.regRead off size; tells r.1 (.value (BitVec.ofNat 64 r.2))) ∧
         exec (.vendorRegisterWrite a wide v) s = .next (tells (s.regWrite .management off size v.toNat) .done)) ∧
       (Machine.place a.toNat = .hbm → exec (.vendorRegisterRead a wide) s = .next (tells s .refused) ∧ exec (.vendorRegisterWrite a wide v) s = .next (tells s .refused)) ∧
       exec .vendorFreeze s = .next { tells s .done with frozen := true, fabric := { s.fabric with outbox := [], txq := [] } } ∧
       exec .getVersion s = .next (tells s (.version 1 3)) ∧
       exec .getCapabilities s = .next (tells s (.capabilities true true true)) ∧
       exec .negotiateAlgorithms s = .next (tells s .algorithms) ∧
       exec .getDigests s = .next (tells s (.digest 0 (Config.sha384 Config.certificate).toList)) ∧
       exec (.getCertificate c0 c1) s = .next (tells s (.certificate ((Config.certificate.drop c0.toNat).take c1.toNat)
         (Config.certificate.length - c0.toNat - c1.toNat))) ∧
       exec (.challenge nonce) s = .next (tells s (.signature nonce (Config.signature s.mgmt.mgmtOut.length nonce).toList)) ∧
       (1 ≤ i.toNat → i.toNat ≤ 4 → exec (.getMeasurements i nonce) s = .next (tells s (.measurements [(i.toNat, measure i.toNat)]
         nonce (Config.signature s.mgmt.mgmtOut.length nonce).toList))) ∧
       (5 ≤ i.toNat → i ≠ 255 → exec (.getMeasurements i nonce) s = .next (tells s .unsupported)) ∧
       (s.powered = true → s.frozen = false → s.fabric.moved = [] → i.toNat ∉ [0x81, 0x82, 0x83, 0x84, 0xE0, 0xE1, 0xE3] →
         Machine.step { s with agenda := .spdm i :: s.agenda } = .next (tells s .unsupported))))
end

