-- ==== Sys2Proof/Laws/State.lean ====
section
/-!
SUPPORT. Sys2Proof/Laws/State.lean: what each named update of the state leaves alone, one lemma for each field, and
what it leaves in the part it changes.
-/

namespace Sys2Proof.Machine

/-! ## Updates of one part of the package -/

@[simp] theorem State.setTile_mem (s : State) (t : BitVec 6) (x : Tile) : (s.setTile t x).mem = s.mem := rfl
@[simp] theorem State.setTile_poison (s : State) (t : BitVec 6) (x : Tile) : (s.setTile t x).poison = s.poison := rfl
@[simp] theorem State.setTile_seals (s : State) (t : BitVec 6) (x : Tile) : (s.setTile t x).seals = s.seals := rfl
@[simp] theorem State.setTile_clusters (s : State) (t : BitVec 6) (x : Tile) : (s.setTile t x).clusters = s.clusters := rfl
@[simp] theorem State.setTile_dies (s : State) (t : BitVec 6) (x : Tile) : (s.setTile t x).dies = s.dies := rfl
@[simp] theorem State.setTile_pool (s : State) (t : BitVec 6) (x : Tile) : (s.setTile t x).pool = s.pool := rfl
@[simp] theorem State.setTile_versions (s : State) (t : BitVec 6) (x : Tile) : (s.setTile t x).versions = s.versions := rfl
@[simp] theorem State.setTile_fabric (s : State) (t : BitVec 6) (x : Tile) : (s.setTile t x).fabric = s.fabric := rfl
@[simp] theorem State.setTile_time (s : State) (t : BitVec 6) (x : Tile) : (s.setTile t x).time = s.time := rfl
@[simp] theorem State.setTile_shoot (s : State) (t : BitVec 6) (x : Tile) : (s.setTile t x).shoot = s.shoot := rfl
@[simp] theorem State.setTile_keys (s : State) (t : BitVec 6) (x : Tile) : (s.setTile t x).keys = s.keys := rfl
@[simp] theorem State.setTile_ready (s : State) (t : BitVec 6) (x : Tile) : (s.setTile t x).ready = s.ready := rfl
@[simp] theorem State.setTile_qtab (s : State) (t : BitVec 6) (x : Tile) : (s.setTile t x).qtab = s.qtab := rfl
@[simp] theorem State.setTile_reservations (s : State) (t : BitVec 6) (x : Tile) : (s.setTile t x).reservations = s.reservations := rfl
@[simp] theorem State.setTile_bridge (s : State) (t : BitVec 6) (x : Tile) : (s.setTile t x).bridge = s.bridge := rfl
@[simp] theorem State.setTile_mgmt (s : State) (t : BitVec 6) (x : Tile) : (s.setTile t x).mgmt = s.mgmt := rfl
@[simp] theorem State.setTile_powered (s : State) (t : BitVec 6) (x : Tile) : (s.setTile t x).powered = s.powered := rfl
@[simp] theorem State.setTile_frozen (s : State) (t : BitVec 6) (x : Tile) : (s.setTile t x).frozen = s.frozen := rfl
@[simp] theorem State.setTile_nextOp (s : State) (t : BitVec 6) (x : Tile) : (s.setTile t x).nextOp = s.nextOp := rfl
@[simp] theorem State.setTile_cur (s : State) (t : BitVec 6) (x : Tile) : (s.setTile t x).cur = s.cur := rfl
@[simp] theorem State.setTile_agenda (s : State) (t : BitVec 6) (x : Tile) : (s.setTile t x).agenda = s.agenda := rfl
@[simp] theorem State.setTile_focus (s : State) (t : BitVec 6) (x : Tile) : (s.setTile t x).focus = s.focus := rfl
@[simp] theorem State.setTile_lateNext (s : State) (t : BitVec 6) (x : Tile) : (s.setTile t x).lateNext = s.lateNext := rfl
@[simp] theorem State.onTile_mem (s : State) (t : BitVec 6) (f : Tile → Tile) : (s.onTile t f).mem = s.mem := rfl
@[simp] theorem State.onTile_poison (s : State) (t : BitVec 6) (f : Tile → Tile) : (s.onTile t f).poison = s.poison := rfl
@[simp] theorem State.onTile_seals (s : State) (t : BitVec 6) (f : Tile → Tile) : (s.onTile t f).seals = s.seals := rfl
@[simp] theorem State.onTile_clusters (s : State) (t : BitVec 6) (f : Tile → Tile) : (s.onTile t f).clusters = s.clusters := rfl
@[simp] theorem State.onTile_dies (s : State) (t : BitVec 6) (f : Tile → Tile) : (s.onTile t f).dies = s.dies := rfl
@[simp] theorem State.onTile_pool (s : State) (t : BitVec 6) (f : Tile → Tile) : (s.onTile t f).pool = s.pool := rfl
@[simp] theorem State.onTile_versions (s : State) (t : BitVec 6) (f : Tile → Tile) : (s.onTile t f).versions = s.versions := rfl
@[simp] theorem State.onTile_fabric (s : State) (t : BitVec 6) (f : Tile → Tile) : (s.onTile t f).fabric = s.fabric := rfl
@[simp] theorem State.onTile_time (s : State) (t : BitVec 6) (f : Tile → Tile) : (s.onTile t f).time = s.time := rfl
@[simp] theorem State.onTile_shoot (s : State) (t : BitVec 6) (f : Tile → Tile) : (s.onTile t f).shoot = s.shoot := rfl
@[simp] theorem State.onTile_keys (s : State) (t : BitVec 6) (f : Tile → Tile) : (s.onTile t f).keys = s.keys := rfl
@[simp] theorem State.onTile_ready (s : State) (t : BitVec 6) (f : Tile → Tile) : (s.onTile t f).ready = s.ready := rfl
@[simp] theorem State.onTile_qtab (s : State) (t : BitVec 6) (f : Tile → Tile) : (s.onTile t f).qtab = s.qtab := rfl
@[simp] theorem State.onTile_reservations (s : State) (t : BitVec 6) (f : Tile → Tile) : (s.onTile t f).reservations = s.reservations := rfl
@[simp] theorem State.onTile_bridge (s : State) (t : BitVec 6) (f : Tile → Tile) : (s.onTile t f).bridge = s.bridge := rfl
@[simp] theorem State.onTile_mgmt (s : State) (t : BitVec 6) (f : Tile → Tile) : (s.onTile t f).mgmt = s.mgmt := rfl
@[simp] theorem State.onTile_powered (s : State) (t : BitVec 6) (f : Tile → Tile) : (s.onTile t f).powered = s.powered := rfl
@[simp] theorem State.onTile_frozen (s : State) (t : BitVec 6) (f : Tile → Tile) : (s.onTile t f).frozen = s.frozen := rfl
@[simp] theorem State.onTile_nextOp (s : State) (t : BitVec 6) (f : Tile → Tile) : (s.onTile t f).nextOp = s.nextOp := rfl
@[simp] theorem State.onTile_cur (s : State) (t : BitVec 6) (f : Tile → Tile) : (s.onTile t f).cur = s.cur := rfl
@[simp] theorem State.onTile_agenda (s : State) (t : BitVec 6) (f : Tile → Tile) : (s.onTile t f).agenda = s.agenda := rfl
@[simp] theorem State.onTile_focus (s : State) (t : BitVec 6) (f : Tile → Tile) : (s.onTile t f).focus = s.focus := rfl
@[simp] theorem State.onTile_lateNext (s : State) (t : BitVec 6) (f : Tile → Tile) : (s.onTile t f).lateNext = s.lateNext := rfl
@[simp] theorem State.onCur_mem (s : State) (f : Tile → Tile) : (s.onCur f).mem = s.mem := rfl
@[simp] theorem State.onCur_poison (s : State) (f : Tile → Tile) : (s.onCur f).poison = s.poison := rfl
@[simp] theorem State.onCur_seals (s : State) (f : Tile → Tile) : (s.onCur f).seals = s.seals := rfl
@[simp] theorem State.onCur_clusters (s : State) (f : Tile → Tile) : (s.onCur f).clusters = s.clusters := rfl
@[simp] theorem State.onCur_dies (s : State) (f : Tile → Tile) : (s.onCur f).dies = s.dies := rfl
@[simp] theorem State.onCur_pool (s : State) (f : Tile → Tile) : (s.onCur f).pool = s.pool := rfl
@[simp] theorem State.onCur_versions (s : State) (f : Tile → Tile) : (s.onCur f).versions = s.versions := rfl
@[simp] theorem State.onCur_fabric (s : State) (f : Tile → Tile) : (s.onCur f).fabric = s.fabric := rfl
@[simp] theorem State.onCur_time (s : State) (f : Tile → Tile) : (s.onCur f).time = s.time := rfl
@[simp] theorem State.onCur_shoot (s : State) (f : Tile → Tile) : (s.onCur f).shoot = s.shoot := rfl
@[simp] theorem State.onCur_keys (s : State) (f : Tile → Tile) : (s.onCur f).keys = s.keys := rfl
@[simp] theorem State.onCur_ready (s : State) (f : Tile → Tile) : (s.onCur f).ready = s.ready := rfl
@[simp] theorem State.onCur_qtab (s : State) (f : Tile → Tile) : (s.onCur f).qtab = s.qtab := rfl
@[simp] theorem State.onCur_reservations (s : State) (f : Tile → Tile) : (s.onCur f).reservations = s.reservations := rfl
@[simp] theorem State.onCur_bridge (s : State) (f : Tile → Tile) : (s.onCur f).bridge = s.bridge := rfl
@[simp] theorem State.onCur_mgmt (s : State) (f : Tile → Tile) : (s.onCur f).mgmt = s.mgmt := rfl
@[simp] theorem State.onCur_powered (s : State) (f : Tile → Tile) : (s.onCur f).powered = s.powered := rfl
@[simp] theorem State.onCur_frozen (s : State) (f : Tile → Tile) : (s.onCur f).frozen = s.frozen := rfl
@[simp] theorem State.onCur_nextOp (s : State) (f : Tile → Tile) : (s.onCur f).nextOp = s.nextOp := rfl
@[simp] theorem State.onCur_cur (s : State) (f : Tile → Tile) : (s.onCur f).cur = s.cur := rfl
@[simp] theorem State.onCur_agenda (s : State) (f : Tile → Tile) : (s.onCur f).agenda = s.agenda := rfl
@[simp] theorem State.onCur_focus (s : State) (f : Tile → Tile) : (s.onCur f).focus = s.focus := rfl
@[simp] theorem State.onCur_lateNext (s : State) (f : Tile → Tile) : (s.onCur f).lateNext = s.lateNext := rfl
@[simp] theorem State.onCtl_mem (s : State) (f : Control → Control) : (s.onCtl f).mem = s.mem := rfl
@[simp] theorem State.onCtl_poison (s : State) (f : Control → Control) : (s.onCtl f).poison = s.poison := rfl
@[simp] theorem State.onCtl_seals (s : State) (f : Control → Control) : (s.onCtl f).seals = s.seals := rfl
@[simp] theorem State.onCtl_clusters (s : State) (f : Control → Control) : (s.onCtl f).clusters = s.clusters := rfl
@[simp] theorem State.onCtl_dies (s : State) (f : Control → Control) : (s.onCtl f).dies = s.dies := rfl
@[simp] theorem State.onCtl_pool (s : State) (f : Control → Control) : (s.onCtl f).pool = s.pool := rfl
@[simp] theorem State.onCtl_versions (s : State) (f : Control → Control) : (s.onCtl f).versions = s.versions := rfl
@[simp] theorem State.onCtl_fabric (s : State) (f : Control → Control) : (s.onCtl f).fabric = s.fabric := rfl
@[simp] theorem State.onCtl_time (s : State) (f : Control → Control) : (s.onCtl f).time = s.time := rfl
@[simp] theorem State.onCtl_shoot (s : State) (f : Control → Control) : (s.onCtl f).shoot = s.shoot := rfl
@[simp] theorem State.onCtl_keys (s : State) (f : Control → Control) : (s.onCtl f).keys = s.keys := rfl
@[simp] theorem State.onCtl_ready (s : State) (f : Control → Control) : (s.onCtl f).ready = s.ready := rfl
@[simp] theorem State.onCtl_qtab (s : State) (f : Control → Control) : (s.onCtl f).qtab = s.qtab := rfl
@[simp] theorem State.onCtl_reservations (s : State) (f : Control → Control) : (s.onCtl f).reservations = s.reservations := rfl
@[simp] theorem State.onCtl_bridge (s : State) (f : Control → Control) : (s.onCtl f).bridge = s.bridge := rfl
@[simp] theorem State.onCtl_mgmt (s : State) (f : Control → Control) : (s.onCtl f).mgmt = s.mgmt := rfl
@[simp] theorem State.onCtl_powered (s : State) (f : Control → Control) : (s.onCtl f).powered = s.powered := rfl
@[simp] theorem State.onCtl_frozen (s : State) (f : Control → Control) : (s.onCtl f).frozen = s.frozen := rfl
@[simp] theorem State.onCtl_nextOp (s : State) (f : Control → Control) : (s.onCtl f).nextOp = s.nextOp := rfl
@[simp] theorem State.onCtl_cur (s : State) (f : Control → Control) : (s.onCtl f).cur = s.cur := rfl
@[simp] theorem State.onCtl_agenda (s : State) (f : Control → Control) : (s.onCtl f).agenda = s.agenda := rfl
@[simp] theorem State.onCtl_focus (s : State) (f : Control → Control) : (s.onCtl f).focus = s.focus := rfl
@[simp] theorem State.onCtl_lateNext (s : State) (f : Control → Control) : (s.onCtl f).lateNext = s.lateNext := rfl
@[simp] theorem State.setG_mem (s : State) (r : BitVec 5) (x : W64) : (s.setG r x).mem = s.mem := rfl
@[simp] theorem State.setG_poison (s : State) (r : BitVec 5) (x : W64) : (s.setG r x).poison = s.poison := rfl
@[simp] theorem State.setG_seals (s : State) (r : BitVec 5) (x : W64) : (s.setG r x).seals = s.seals := rfl
@[simp] theorem State.setG_clusters (s : State) (r : BitVec 5) (x : W64) : (s.setG r x).clusters = s.clusters := rfl
@[simp] theorem State.setG_dies (s : State) (r : BitVec 5) (x : W64) : (s.setG r x).dies = s.dies := rfl
@[simp] theorem State.setG_pool (s : State) (r : BitVec 5) (x : W64) : (s.setG r x).pool = s.pool := rfl
@[simp] theorem State.setG_versions (s : State) (r : BitVec 5) (x : W64) : (s.setG r x).versions = s.versions := rfl
@[simp] theorem State.setG_fabric (s : State) (r : BitVec 5) (x : W64) : (s.setG r x).fabric = s.fabric := rfl
@[simp] theorem State.setG_time (s : State) (r : BitVec 5) (x : W64) : (s.setG r x).time = s.time := rfl
@[simp] theorem State.setG_shoot (s : State) (r : BitVec 5) (x : W64) : (s.setG r x).shoot = s.shoot := rfl
@[simp] theorem State.setG_keys (s : State) (r : BitVec 5) (x : W64) : (s.setG r x).keys = s.keys := rfl
@[simp] theorem State.setG_ready (s : State) (r : BitVec 5) (x : W64) : (s.setG r x).ready = s.ready := rfl
@[simp] theorem State.setG_qtab (s : State) (r : BitVec 5) (x : W64) : (s.setG r x).qtab = s.qtab := rfl
@[simp] theorem State.setG_reservations (s : State) (r : BitVec 5) (x : W64) : (s.setG r x).reservations = s.reservations := rfl
@[simp] theorem State.setG_bridge (s : State) (r : BitVec 5) (x : W64) : (s.setG r x).bridge = s.bridge := rfl
@[simp] theorem State.setG_mgmt (s : State) (r : BitVec 5) (x : W64) : (s.setG r x).mgmt = s.mgmt := rfl
@[simp] theorem State.setG_powered (s : State) (r : BitVec 5) (x : W64) : (s.setG r x).powered = s.powered := rfl
@[simp] theorem State.setG_frozen (s : State) (r : BitVec 5) (x : W64) : (s.setG r x).frozen = s.frozen := rfl
@[simp] theorem State.setG_nextOp (s : State) (r : BitVec 5) (x : W64) : (s.setG r x).nextOp = s.nextOp := rfl
@[simp] theorem State.setG_cur (s : State) (r : BitVec 5) (x : W64) : (s.setG r x).cur = s.cur := rfl
@[simp] theorem State.setG_agenda (s : State) (r : BitVec 5) (x : W64) : (s.setG r x).agenda = s.agenda := rfl
@[simp] theorem State.setG_focus (s : State) (r : BitVec 5) (x : W64) : (s.setG r x).focus = s.focus := rfl
@[simp] theorem State.setG_lateNext (s : State) (r : BitVec 5) (x : W64) : (s.setG r x).lateNext = s.lateNext := rfl
@[simp] theorem State.setC_mem (s : State) (r : BitVec 3) (x : Bool) : (s.setC r x).mem = s.mem := rfl
@[simp] theorem State.setC_poison (s : State) (r : BitVec 3) (x : Bool) : (s.setC r x).poison = s.poison := rfl
@[simp] theorem State.setC_seals (s : State) (r : BitVec 3) (x : Bool) : (s.setC r x).seals = s.seals := rfl
@[simp] theorem State.setC_clusters (s : State) (r : BitVec 3) (x : Bool) : (s.setC r x).clusters = s.clusters := rfl
@[simp] theorem State.setC_dies (s : State) (r : BitVec 3) (x : Bool) : (s.setC r x).dies = s.dies := rfl
@[simp] theorem State.setC_pool (s : State) (r : BitVec 3) (x : Bool) : (s.setC r x).pool = s.pool := rfl
@[simp] theorem State.setC_versions (s : State) (r : BitVec 3) (x : Bool) : (s.setC r x).versions = s.versions := rfl
@[simp] theorem State.setC_fabric (s : State) (r : BitVec 3) (x : Bool) : (s.setC r x).fabric = s.fabric := rfl
@[simp] theorem State.setC_time (s : State) (r : BitVec 3) (x : Bool) : (s.setC r x).time = s.time := rfl
@[simp] theorem State.setC_shoot (s : State) (r : BitVec 3) (x : Bool) : (s.setC r x).shoot = s.shoot := rfl
@[simp] theorem State.setC_keys (s : State) (r : BitVec 3) (x : Bool) : (s.setC r x).keys = s.keys := rfl
@[simp] theorem State.setC_ready (s : State) (r : BitVec 3) (x : Bool) : (s.setC r x).ready = s.ready := rfl
@[simp] theorem State.setC_qtab (s : State) (r : BitVec 3) (x : Bool) : (s.setC r x).qtab = s.qtab := rfl
@[simp] theorem State.setC_reservations (s : State) (r : BitVec 3) (x : Bool) : (s.setC r x).reservations = s.reservations := rfl
@[simp] theorem State.setC_bridge (s : State) (r : BitVec 3) (x : Bool) : (s.setC r x).bridge = s.bridge := rfl
@[simp] theorem State.setC_mgmt (s : State) (r : BitVec 3) (x : Bool) : (s.setC r x).mgmt = s.mgmt := rfl
@[simp] theorem State.setC_powered (s : State) (r : BitVec 3) (x : Bool) : (s.setC r x).powered = s.powered := rfl
@[simp] theorem State.setC_frozen (s : State) (r : BitVec 3) (x : Bool) : (s.setC r x).frozen = s.frozen := rfl
@[simp] theorem State.setC_nextOp (s : State) (r : BitVec 3) (x : Bool) : (s.setC r x).nextOp = s.nextOp := rfl
@[simp] theorem State.setC_cur (s : State) (r : BitVec 3) (x : Bool) : (s.setC r x).cur = s.cur := rfl
@[simp] theorem State.setC_agenda (s : State) (r : BitVec 3) (x : Bool) : (s.setC r x).agenda = s.agenda := rfl
@[simp] theorem State.setC_focus (s : State) (r : BitVec 3) (x : Bool) : (s.setC r x).focus = s.focus := rfl
@[simp] theorem State.setC_lateNext (s : State) (r : BitVec 3) (x : Bool) : (s.setC r x).lateNext = s.lateNext := rfl
@[simp] theorem State.setCluster_mem (s : State) (c : BitVec 4) (x : Cluster) : (s.setCluster c x).mem = s.mem := rfl
@[simp] theorem State.setCluster_poison (s : State) (c : BitVec 4) (x : Cluster) : (s.setCluster c x).poison = s.poison := rfl
@[simp] theorem State.setCluster_seals (s : State) (c : BitVec 4) (x : Cluster) : (s.setCluster c x).seals = s.seals := rfl
@[simp] theorem State.setCluster_tiles (s : State) (c : BitVec 4) (x : Cluster) : (s.setCluster c x).tiles = s.tiles := rfl
@[simp] theorem State.setCluster_dies (s : State) (c : BitVec 4) (x : Cluster) : (s.setCluster c x).dies = s.dies := rfl
@[simp] theorem State.setCluster_pool (s : State) (c : BitVec 4) (x : Cluster) : (s.setCluster c x).pool = s.pool := rfl
@[simp] theorem State.setCluster_versions (s : State) (c : BitVec 4) (x : Cluster) : (s.setCluster c x).versions = s.versions := rfl
@[simp] theorem State.setCluster_fabric (s : State) (c : BitVec 4) (x : Cluster) : (s.setCluster c x).fabric = s.fabric := rfl
@[simp] theorem State.setCluster_time (s : State) (c : BitVec 4) (x : Cluster) : (s.setCluster c x).time = s.time := rfl
@[simp] theorem State.setCluster_shoot (s : State) (c : BitVec 4) (x : Cluster) : (s.setCluster c x).shoot = s.shoot := rfl
@[simp] theorem State.setCluster_keys (s : State) (c : BitVec 4) (x : Cluster) : (s.setCluster c x).keys = s.keys := rfl
@[simp] theorem State.setCluster_ready (s : State) (c : BitVec 4) (x : Cluster) : (s.setCluster c x).ready = s.ready := rfl
@[simp] theorem State.setCluster_qtab (s : State) (c : BitVec 4) (x : Cluster) : (s.setCluster c x).qtab = s.qtab := rfl
@[simp] theorem State.setCluster_reservations (s : State) (c : BitVec 4) (x : Cluster) : (s.setCluster c x).reservations = s.reservations := rfl
@[simp] theorem State.setCluster_bridge (s : State) (c : BitVec 4) (x : Cluster) : (s.setCluster c x).bridge = s.bridge := rfl
@[simp] theorem State.setCluster_mgmt (s : State) (c : BitVec 4) (x : Cluster) : (s.setCluster c x).mgmt = s.mgmt := rfl
@[simp] theorem State.setCluster_powered (s : State) (c : BitVec 4) (x : Cluster) : (s.setCluster c x).powered = s.powered := rfl
@[simp] theorem State.setCluster_frozen (s : State) (c : BitVec 4) (x : Cluster) : (s.setCluster c x).frozen = s.frozen := rfl
@[simp] theorem State.setCluster_nextOp (s : State) (c : BitVec 4) (x : Cluster) : (s.setCluster c x).nextOp = s.nextOp := rfl
@[simp] theorem State.setCluster_cur (s : State) (c : BitVec 4) (x : Cluster) : (s.setCluster c x).cur = s.cur := rfl
@[simp] theorem State.setCluster_agenda (s : State) (c : BitVec 4) (x : Cluster) : (s.setCluster c x).agenda = s.agenda := rfl
@[simp] theorem State.setCluster_focus (s : State) (c : BitVec 4) (x : Cluster) : (s.setCluster c x).focus = s.focus := rfl
@[simp] theorem State.setCluster_lateNext (s : State) (c : BitVec 4) (x : Cluster) : (s.setCluster c x).lateNext = s.lateNext := rfl
@[simp] theorem State.onCluster_mem (s : State) (c : BitVec 4) (f : Cluster → Cluster) : (s.onCluster c f).mem = s.mem := rfl
@[simp] theorem State.onCluster_poison (s : State) (c : BitVec 4) (f : Cluster → Cluster) : (s.onCluster c f).poison = s.poison := rfl
@[simp] theorem State.onCluster_seals (s : State) (c : BitVec 4) (f : Cluster → Cluster) : (s.onCluster c f).seals = s.seals := rfl
@[simp] theorem State.onCluster_tiles (s : State) (c : BitVec 4) (f : Cluster → Cluster) : (s.onCluster c f).tiles = s.tiles := rfl
@[simp] theorem State.onCluster_dies (s : State) (c : BitVec 4) (f : Cluster → Cluster) : (s.onCluster c f).dies = s.dies := rfl
@[simp] theorem State.onCluster_pool (s : State) (c : BitVec 4) (f : Cluster → Cluster) : (s.onCluster c f).pool = s.pool := rfl
@[simp] theorem State.onCluster_versions (s : State) (c : BitVec 4) (f : Cluster → Cluster) : (s.onCluster c f).versions = s.versions := rfl
@[simp] theorem State.onCluster_fabric (s : State) (c : BitVec 4) (f : Cluster → Cluster) : (s.onCluster c f).fabric = s.fabric := rfl
@[simp] theorem State.onCluster_time (s : State) (c : BitVec 4) (f : Cluster → Cluster) : (s.onCluster c f).time = s.time := rfl
@[simp] theorem State.onCluster_shoot (s : State) (c : BitVec 4) (f : Cluster → Cluster) : (s.onCluster c f).shoot = s.shoot := rfl
@[simp] theorem State.onCluster_keys (s : State) (c : BitVec 4) (f : Cluster → Cluster) : (s.onCluster c f).keys = s.keys := rfl
@[simp] theorem State.onCluster_ready (s : State) (c : BitVec 4) (f : Cluster → Cluster) : (s.onCluster c f).ready = s.ready := rfl
@[simp] theorem State.onCluster_qtab (s : State) (c : BitVec 4) (f : Cluster → Cluster) : (s.onCluster c f).qtab = s.qtab := rfl
@[simp] theorem State.onCluster_reservations (s : State) (c : BitVec 4) (f : Cluster → Cluster) : (s.onCluster c f).reservations = s.reservations := rfl
@[simp] theorem State.onCluster_bridge (s : State) (c : BitVec 4) (f : Cluster → Cluster) : (s.onCluster c f).bridge = s.bridge := rfl
@[simp] theorem State.onCluster_mgmt (s : State) (c : BitVec 4) (f : Cluster → Cluster) : (s.onCluster c f).mgmt = s.mgmt := rfl
@[simp] theorem State.onCluster_powered (s : State) (c : BitVec 4) (f : Cluster → Cluster) : (s.onCluster c f).powered = s.powered := rfl
@[simp] theorem State.onCluster_frozen (s : State) (c : BitVec 4) (f : Cluster → Cluster) : (s.onCluster c f).frozen = s.frozen := rfl
@[simp] theorem State.onCluster_nextOp (s : State) (c : BitVec 4) (f : Cluster → Cluster) : (s.onCluster c f).nextOp = s.nextOp := rfl
@[simp] theorem State.onCluster_cur (s : State) (c : BitVec 4) (f : Cluster → Cluster) : (s.onCluster c f).cur = s.cur := rfl
@[simp] theorem State.onCluster_agenda (s : State) (c : BitVec 4) (f : Cluster → Cluster) : (s.onCluster c f).agenda = s.agenda := rfl
@[simp] theorem State.onCluster_focus (s : State) (c : BitVec 4) (f : Cluster → Cluster) : (s.onCluster c f).focus = s.focus := rfl
@[simp] theorem State.onCluster_lateNext (s : State) (c : BitVec 4) (f : Cluster → Cluster) : (s.onCluster c f).lateNext = s.lateNext := rfl
@[simp] theorem State.setDie_mem (s : State) (d : BitVec 2) (x : Die) : (s.setDie d x).mem = s.mem := rfl
@[simp] theorem State.setDie_poison (s : State) (d : BitVec 2) (x : Die) : (s.setDie d x).poison = s.poison := rfl
@[simp] theorem State.setDie_seals (s : State) (d : BitVec 2) (x : Die) : (s.setDie d x).seals = s.seals := rfl
@[simp] theorem State.setDie_tiles (s : State) (d : BitVec 2) (x : Die) : (s.setDie d x).tiles = s.tiles := rfl
@[simp] theorem State.setDie_clusters (s : State) (d : BitVec 2) (x : Die) : (s.setDie d x).clusters = s.clusters := rfl
@[simp] theorem State.setDie_pool (s : State) (d : BitVec 2) (x : Die) : (s.setDie d x).pool = s.pool := rfl
@[simp] theorem State.setDie_versions (s : State) (d : BitVec 2) (x : Die) : (s.setDie d x).versions = s.versions := rfl
@[simp] theorem State.setDie_fabric (s : State) (d : BitVec 2) (x : Die) : (s.setDie d x).fabric = s.fabric := rfl
@[simp] theorem State.setDie_time (s : State) (d : BitVec 2) (x : Die) : (s.setDie d x).time = s.time := rfl
@[simp] theorem State.setDie_shoot (s : State) (d : BitVec 2) (x : Die) : (s.setDie d x).shoot = s.shoot := rfl
@[simp] theorem State.setDie_keys (s : State) (d : BitVec 2) (x : Die) : (s.setDie d x).keys = s.keys := rfl
@[simp] theorem State.setDie_ready (s : State) (d : BitVec 2) (x : Die) : (s.setDie d x).ready = s.ready := rfl
@[simp] theorem State.setDie_qtab (s : State) (d : BitVec 2) (x : Die) : (s.setDie d x).qtab = s.qtab := rfl
@[simp] theorem State.setDie_reservations (s : State) (d : BitVec 2) (x : Die) : (s.setDie d x).reservations = s.reservations := rfl
@[simp] theorem State.setDie_bridge (s : State) (d : BitVec 2) (x : Die) : (s.setDie d x).bridge = s.bridge := rfl
@[simp] theorem State.setDie_mgmt (s : State) (d : BitVec 2) (x : Die) : (s.setDie d x).mgmt = s.mgmt := rfl
@[simp] theorem State.setDie_powered (s : State) (d : BitVec 2) (x : Die) : (s.setDie d x).powered = s.powered := rfl
@[simp] theorem State.setDie_frozen (s : State) (d : BitVec 2) (x : Die) : (s.setDie d x).frozen = s.frozen := rfl
@[simp] theorem State.setDie_nextOp (s : State) (d : BitVec 2) (x : Die) : (s.setDie d x).nextOp = s.nextOp := rfl
@[simp] theorem State.setDie_cur (s : State) (d : BitVec 2) (x : Die) : (s.setDie d x).cur = s.cur := rfl
@[simp] theorem State.setDie_agenda (s : State) (d : BitVec 2) (x : Die) : (s.setDie d x).agenda = s.agenda := rfl
@[simp] theorem State.setDie_focus (s : State) (d : BitVec 2) (x : Die) : (s.setDie d x).focus = s.focus := rfl
@[simp] theorem State.setDie_lateNext (s : State) (d : BitVec 2) (x : Die) : (s.setDie d x).lateNext = s.lateNext := rfl
@[simp] theorem State.onDie_mem (s : State) (d : BitVec 2) (f : Die → Die) : (s.onDie d f).mem = s.mem := rfl
@[simp] theorem State.onDie_poison (s : State) (d : BitVec 2) (f : Die → Die) : (s.onDie d f).poison = s.poison := rfl
@[simp] theorem State.onDie_seals (s : State) (d : BitVec 2) (f : Die → Die) : (s.onDie d f).seals = s.seals := rfl
@[simp] theorem State.onDie_tiles (s : State) (d : BitVec 2) (f : Die → Die) : (s.onDie d f).tiles = s.tiles := rfl
@[simp] theorem State.onDie_clusters (s : State) (d : BitVec 2) (f : Die → Die) : (s.onDie d f).clusters = s.clusters := rfl
@[simp] theorem State.onDie_pool (s : State) (d : BitVec 2) (f : Die → Die) : (s.onDie d f).pool = s.pool := rfl
@[simp] theorem State.onDie_versions (s : State) (d : BitVec 2) (f : Die → Die) : (s.onDie d f).versions = s.versions := rfl
@[simp] theorem State.onDie_fabric (s : State) (d : BitVec 2) (f : Die → Die) : (s.onDie d f).fabric = s.fabric := rfl
@[simp] theorem State.onDie_time (s : State) (d : BitVec 2) (f : Die → Die) : (s.onDie d f).time = s.time := rfl
@[simp] theorem State.onDie_shoot (s : State) (d : BitVec 2) (f : Die → Die) : (s.onDie d f).shoot = s.shoot := rfl
@[simp] theorem State.onDie_keys (s : State) (d : BitVec 2) (f : Die → Die) : (s.onDie d f).keys = s.keys := rfl
@[simp] theorem State.onDie_ready (s : State) (d : BitVec 2) (f : Die → Die) : (s.onDie d f).ready = s.ready := rfl
@[simp] theorem State.onDie_qtab (s : State) (d : BitVec 2) (f : Die → Die) : (s.onDie d f).qtab = s.qtab := rfl
@[simp] theorem State.onDie_reservations (s : State) (d : BitVec 2) (f : Die → Die) : (s.onDie d f).reservations = s.reservations := rfl
@[simp] theorem State.onDie_bridge (s : State) (d : BitVec 2) (f : Die → Die) : (s.onDie d f).bridge = s.bridge := rfl
@[simp] theorem State.onDie_mgmt (s : State) (d : BitVec 2) (f : Die → Die) : (s.onDie d f).mgmt = s.mgmt := rfl
@[simp] theorem State.onDie_powered (s : State) (d : BitVec 2) (f : Die → Die) : (s.onDie d f).powered = s.powered := rfl
@[simp] theorem State.onDie_frozen (s : State) (d : BitVec 2) (f : Die → Die) : (s.onDie d f).frozen = s.frozen := rfl
@[simp] theorem State.onDie_nextOp (s : State) (d : BitVec 2) (f : Die → Die) : (s.onDie d f).nextOp = s.nextOp := rfl
@[simp] theorem State.onDie_cur (s : State) (d : BitVec 2) (f : Die → Die) : (s.onDie d f).cur = s.cur := rfl
@[simp] theorem State.onDie_agenda (s : State) (d : BitVec 2) (f : Die → Die) : (s.onDie d f).agenda = s.agenda := rfl
@[simp] theorem State.onDie_focus (s : State) (d : BitVec 2) (f : Die → Die) : (s.onDie d f).focus = s.focus := rfl
@[simp] theorem State.onDie_lateNext (s : State) (d : BitVec 2) (f : Die → Die) : (s.onDie d f).lateNext = s.lateNext := rfl
@[simp] theorem State.log_mem (s : State) (d : BitVec 2) (r : ErrorRecord) : (s.log d r).mem = s.mem := rfl
@[simp] theorem State.log_poison (s : State) (d : BitVec 2) (r : ErrorRecord) : (s.log d r).poison = s.poison := rfl
@[simp] theorem State.log_seals (s : State) (d : BitVec 2) (r : ErrorRecord) : (s.log d r).seals = s.seals := rfl
@[simp] theorem State.log_tiles (s : State) (d : BitVec 2) (r : ErrorRecord) : (s.log d r).tiles = s.tiles := rfl
@[simp] theorem State.log_clusters (s : State) (d : BitVec 2) (r : ErrorRecord) : (s.log d r).clusters = s.clusters := rfl
@[simp] theorem State.log_pool (s : State) (d : BitVec 2) (r : ErrorRecord) : (s.log d r).pool = s.pool := rfl
@[simp] theorem State.log_versions (s : State) (d : BitVec 2) (r : ErrorRecord) : (s.log d r).versions = s.versions := rfl
@[simp] theorem State.log_fabric (s : State) (d : BitVec 2) (r : ErrorRecord) : (s.log d r).fabric = s.fabric := rfl
@[simp] theorem State.log_time (s : State) (d : BitVec 2) (r : ErrorRecord) : (s.log d r).time = s.time := rfl
@[simp] theorem State.log_shoot (s : State) (d : BitVec 2) (r : ErrorRecord) : (s.log d r).shoot = s.shoot := rfl
@[simp] theorem State.log_keys (s : State) (d : BitVec 2) (r : ErrorRecord) : (s.log d r).keys = s.keys := rfl
@[simp] theorem State.log_ready (s : State) (d : BitVec 2) (r : ErrorRecord) : (s.log d r).ready = s.ready := rfl
@[simp] theorem State.log_qtab (s : State) (d : BitVec 2) (r : ErrorRecord) : (s.log d r).qtab = s.qtab := rfl
@[simp] theorem State.log_reservations (s : State) (d : BitVec 2) (r : ErrorRecord) : (s.log d r).reservations = s.reservations := rfl
@[simp] theorem State.log_bridge (s : State) (d : BitVec 2) (r : ErrorRecord) : (s.log d r).bridge = s.bridge := rfl
@[simp] theorem State.log_mgmt (s : State) (d : BitVec 2) (r : ErrorRecord) : (s.log d r).mgmt = s.mgmt := rfl
@[simp] theorem State.log_powered (s : State) (d : BitVec 2) (r : ErrorRecord) : (s.log d r).powered = s.powered := rfl
@[simp] theorem State.log_frozen (s : State) (d : BitVec 2) (r : ErrorRecord) : (s.log d r).frozen = s.frozen := rfl
@[simp] theorem State.log_nextOp (s : State) (d : BitVec 2) (r : ErrorRecord) : (s.log d r).nextOp = s.nextOp := rfl
@[simp] theorem State.log_cur (s : State) (d : BitVec 2) (r : ErrorRecord) : (s.log d r).cur = s.cur := rfl
@[simp] theorem State.log_agenda (s : State) (d : BitVec 2) (r : ErrorRecord) : (s.log d r).agenda = s.agenda := rfl
@[simp] theorem State.log_focus (s : State) (d : BitVec 2) (r : ErrorRecord) : (s.log d r).focus = s.focus := rfl
@[simp] theorem State.log_lateNext (s : State) (d : BitVec 2) (r : ErrorRecord) : (s.log d r).lateNext = s.lateNext := rfl
@[simp] theorem State.onNode_mem (s : State) (h : W32) (f : Node → Node) : (s.onNode h f).mem = s.mem := rfl
@[simp] theorem State.onNode_poison (s : State) (h : W32) (f : Node → Node) : (s.onNode h f).poison = s.poison := rfl
@[simp] theorem State.onNode_seals (s : State) (h : W32) (f : Node → Node) : (s.onNode h f).seals = s.seals := rfl
@[simp] theorem State.onNode_tiles (s : State) (h : W32) (f : Node → Node) : (s.onNode h f).tiles = s.tiles := rfl
@[simp] theorem State.onNode_clusters (s : State) (h : W32) (f : Node → Node) : (s.onNode h f).clusters = s.clusters := rfl
@[simp] theorem State.onNode_dies (s : State) (h : W32) (f : Node → Node) : (s.onNode h f).dies = s.dies := rfl
@[simp] theorem State.onNode_versions (s : State) (h : W32) (f : Node → Node) : (s.onNode h f).versions = s.versions := rfl
@[simp] theorem State.onNode_fabric (s : State) (h : W32) (f : Node → Node) : (s.onNode h f).fabric = s.fabric := rfl
@[simp] theorem State.onNode_time (s : State) (h : W32) (f : Node → Node) : (s.onNode h f).time = s.time := rfl
@[simp] theorem State.onNode_shoot (s : State) (h : W32) (f : Node → Node) : (s.onNode h f).shoot = s.shoot := rfl
@[simp] theorem State.onNode_keys (s : State) (h : W32) (f : Node → Node) : (s.onNode h f).keys = s.keys := rfl
@[simp] theorem State.onNode_ready (s : State) (h : W32) (f : Node → Node) : (s.onNode h f).ready = s.ready := rfl
@[simp] theorem State.onNode_qtab (s : State) (h : W32) (f : Node → Node) : (s.onNode h f).qtab = s.qtab := rfl
@[simp] theorem State.onNode_reservations (s : State) (h : W32) (f : Node → Node) : (s.onNode h f).reservations = s.reservations := rfl
@[simp] theorem State.onNode_bridge (s : State) (h : W32) (f : Node → Node) : (s.onNode h f).bridge = s.bridge := rfl
@[simp] theorem State.onNode_mgmt (s : State) (h : W32) (f : Node → Node) : (s.onNode h f).mgmt = s.mgmt := rfl
@[simp] theorem State.onNode_powered (s : State) (h : W32) (f : Node → Node) : (s.onNode h f).powered = s.powered := rfl
@[simp] theorem State.onNode_frozen (s : State) (h : W32) (f : Node → Node) : (s.onNode h f).frozen = s.frozen := rfl
@[simp] theorem State.onNode_nextOp (s : State) (h : W32) (f : Node → Node) : (s.onNode h f).nextOp = s.nextOp := rfl
@[simp] theorem State.onNode_cur (s : State) (h : W32) (f : Node → Node) : (s.onNode h f).cur = s.cur := rfl
@[simp] theorem State.onNode_agenda (s : State) (h : W32) (f : Node → Node) : (s.onNode h f).agenda = s.agenda := rfl
@[simp] theorem State.onNode_focus (s : State) (h : W32) (f : Node → Node) : (s.onNode h f).focus = s.focus := rfl
@[simp] theorem State.onNode_lateNext (s : State) (h : W32) (f : Node → Node) : (s.onNode h f).lateNext = s.lateNext := rfl
@[simp] theorem State.clearPoison_mem (s : State) (pa n : Nat) : (s.clearPoison pa n).mem = s.mem := rfl
@[simp] theorem State.clearPoison_seals (s : State) (pa n : Nat) : (s.clearPoison pa n).seals = s.seals := rfl
@[simp] theorem State.clearPoison_tiles (s : State) (pa n : Nat) : (s.clearPoison pa n).tiles = s.tiles := rfl
@[simp] theorem State.clearPoison_clusters (s : State) (pa n : Nat) : (s.clearPoison pa n).clusters = s.clusters := rfl
@[simp] theorem State.clearPoison_dies (s : State) (pa n : Nat) : (s.clearPoison pa n).dies = s.dies := rfl
@[simp] theorem State.clearPoison_pool (s : State) (pa n : Nat) : (s.clearPoison pa n).pool = s.pool := rfl
@[simp] theorem State.clearPoison_versions (s : State) (pa n : Nat) : (s.clearPoison pa n).versions = s.versions := rfl
@[simp] theorem State.clearPoison_fabric (s : State) (pa n : Nat) : (s.clearPoison pa n).fabric = s.fabric := rfl
@[simp] theorem State.clearPoison_time (s : State) (pa n : Nat) : (s.clearPoison pa n).time = s.time := rfl
@[simp] theorem State.clearPoison_shoot (s : State) (pa n : Nat) : (s.clearPoison pa n).shoot = s.shoot := rfl
@[simp] theorem State.clearPoison_keys (s : State) (pa n : Nat) : (s.clearPoison pa n).keys = s.keys := rfl
@[simp] theorem State.clearPoison_ready (s : State) (pa n : Nat) : (s.clearPoison pa n).ready = s.ready := rfl
@[simp] theorem State.clearPoison_qtab (s : State) (pa n : Nat) : (s.clearPoison pa n).qtab = s.qtab := rfl
@[simp] theorem State.clearPoison_reservations (s : State) (pa n : Nat) : (s.clearPoison pa n).reservations = s.reservations := rfl
@[simp] theorem State.clearPoison_bridge (s : State) (pa n : Nat) : (s.clearPoison pa n).bridge = s.bridge := rfl
@[simp] theorem State.clearPoison_mgmt (s : State) (pa n : Nat) : (s.clearPoison pa n).mgmt = s.mgmt := rfl
@[simp] theorem State.clearPoison_powered (s : State) (pa n : Nat) : (s.clearPoison pa n).powered = s.powered := rfl
@[simp] theorem State.clearPoison_frozen (s : State) (pa n : Nat) : (s.clearPoison pa n).frozen = s.frozen := rfl
@[simp] theorem State.clearPoison_nextOp (s : State) (pa n : Nat) : (s.clearPoison pa n).nextOp = s.nextOp := rfl
@[simp] theorem State.clearPoison_cur (s : State) (pa n : Nat) : (s.clearPoison pa n).cur = s.cur := rfl
@[simp] theorem State.clearPoison_agenda (s : State) (pa n : Nat) : (s.clearPoison pa n).agenda = s.agenda := rfl
@[simp] theorem State.clearPoison_focus (s : State) (pa n : Nat) : (s.clearPoison pa n).focus = s.focus := rfl
@[simp] theorem State.clearPoison_lateNext (s : State) (pa n : Nat) : (s.clearPoison pa n).lateNext = s.lateNext := rfl
@[simp] theorem State.setLine_mem (s : State) (l : Nat) (m : LineMeta) : (s.setLine l m).mem = s.mem := rfl
@[simp] theorem State.setLine_poison (s : State) (l : Nat) (m : LineMeta) : (s.setLine l m).poison = s.poison := rfl
@[simp] theorem State.setLine_seals (s : State) (l : Nat) (m : LineMeta) : (s.setLine l m).seals = s.seals := rfl
@[simp] theorem State.setLine_tiles (s : State) (l : Nat) (m : LineMeta) : (s.setLine l m).tiles = s.tiles := rfl
@[simp] theorem State.setLine_clusters (s : State) (l : Nat) (m : LineMeta) : (s.setLine l m).clusters = s.clusters := rfl
@[simp] theorem State.setLine_dies (s : State) (l : Nat) (m : LineMeta) : (s.setLine l m).dies = s.dies := rfl
@[simp] theorem State.setLine_pool (s : State) (l : Nat) (m : LineMeta) : (s.setLine l m).pool = s.pool := rfl
@[simp] theorem State.setLine_fabric (s : State) (l : Nat) (m : LineMeta) : (s.setLine l m).fabric = s.fabric := rfl
@[simp] theorem State.setLine_time (s : State) (l : Nat) (m : LineMeta) : (s.setLine l m).time = s.time := rfl
@[simp] theorem State.setLine_shoot (s : State) (l : Nat) (m : LineMeta) : (s.setLine l m).shoot = s.shoot := rfl
@[simp] theorem State.setLine_keys (s : State) (l : Nat) (m : LineMeta) : (s.setLine l m).keys = s.keys := rfl
@[simp] theorem State.setLine_ready (s : State) (l : Nat) (m : LineMeta) : (s.setLine l m).ready = s.ready := rfl
@[simp] theorem State.setLine_qtab (s : State) (l : Nat) (m : LineMeta) : (s.setLine l m).qtab = s.qtab := rfl
@[simp] theorem State.setLine_reservations (s : State) (l : Nat) (m : LineMeta) : (s.setLine l m).reservations = s.reservations := rfl
@[simp] theorem State.setLine_bridge (s : State) (l : Nat) (m : LineMeta) : (s.setLine l m).bridge = s.bridge := rfl
@[simp] theorem State.setLine_mgmt (s : State) (l : Nat) (m : LineMeta) : (s.setLine l m).mgmt = s.mgmt := rfl
@[simp] theorem State.setLine_powered (s : State) (l : Nat) (m : LineMeta) : (s.setLine l m).powered = s.powered := rfl
@[simp] theorem State.setLine_frozen (s : State) (l : Nat) (m : LineMeta) : (s.setLine l m).frozen = s.frozen := rfl
@[simp] theorem State.setLine_nextOp (s : State) (l : Nat) (m : LineMeta) : (s.setLine l m).nextOp = s.nextOp := rfl
@[simp] theorem State.setLine_cur (s : State) (l : Nat) (m : LineMeta) : (s.setLine l m).cur = s.cur := rfl
@[simp] theorem State.setLine_agenda (s : State) (l : Nat) (m : LineMeta) : (s.setLine l m).agenda = s.agenda := rfl
@[simp] theorem State.setLine_focus (s : State) (l : Nat) (m : LineMeta) : (s.setLine l m).focus = s.focus := rfl
@[simp] theorem State.setLine_lateNext (s : State) (l : Nat) (m : LineMeta) : (s.setLine l m).lateNext = s.lateNext := rfl

/-! ## Updates of one part of a tile -/

@[simp] theorem Tile.setSem_status (t : Tile) (n : BitVec 6) (x : Sem) : (t.setSem n x).status = t.status := rfl
@[simp] theorem Tile.setSem_node (t : Tile) (n : BitVec 6) (x : Sem) : (t.setSem n x).node = t.node := rfl
@[simp] theorem Tile.setSem_share (t : Tile) (n : BitVec 6) (x : Sem) : (t.setSem n x).share = t.share := rfl
@[simp] theorem Tile.setSem_control (t : Tile) (n : BitVec 6) (x : Sem) : (t.setSem n x).control = t.control := rfl
@[simp] theorem Tile.setSem_user (t : Tile) (n : BitVec 6) (x : Sem) : (t.setSem n x).user = t.user := rfl
@[simp] theorem Tile.setSem_vflags (t : Tile) (n : BitVec 6) (x : Sem) : (t.setSem n x).vflags = t.vflags := rfl
@[simp] theorem Tile.setSem_timef (t : Tile) (n : BitVec 6) (x : Sem) : (t.setSem n x).timef = t.timef := rfl
@[simp] theorem Tile.setSem_disc (t : Tile) (n : BitVec 6) (x : Sem) : (t.setSem n x).disc = t.disc := rfl
@[simp] theorem Tile.setSem_discm (t : Tile) (n : BitVec 6) (x : Sem) : (t.setSem n x).discm = t.discm := rfl
@[simp] theorem Tile.setSem_code (t : Tile) (n : BitVec 6) (x : Sem) : (t.setSem n x).code = t.code := rfl
@[simp] theorem Tile.setSem_vregs (t : Tile) (n : BitVec 6) (x : Sem) : (t.setSem n x).vregs = t.vregs := rfl
@[simp] theorem Tile.setSem_pregs (t : Tile) (n : BitVec 6) (x : Sem) : (t.setSem n x).pregs = t.pregs := rfl
@[simp] theorem Tile.setSem_seeds (t : Tile) (n : BitVec 6) (x : Sem) : (t.setSem n x).seeds = t.seeds := rfl
@[simp] theorem Tile.setSem_votes (t : Tile) (n : BitVec 6) (x : Sem) : (t.setSem n x).votes = t.votes := rfl
@[simp] theorem Tile.setSem_queues (t : Tile) (n : BitVec 6) (x : Sem) : (t.setSem n x).queues = t.queues := rfl
@[simp] theorem Tile.setSem_formats (t : Tile) (n : BitVec 6) (x : Sem) : (t.setSem n x).formats = t.formats := rfl
@[simp] theorem Tile.setSem_fmtAt (t : Tile) (n : BitVec 6) (x : Sem) : (t.setSem n x).fmtAt = t.fmtAt := rfl
@[simp] theorem Tile.setSem_fmtNew (t : Tile) (n : BitVec 6) (x : Sem) : (t.setSem n x).fmtNew = t.fmtNew := rfl
@[simp] theorem Tile.setSem_banks (t : Tile) (n : BitVec 6) (x : Sem) : (t.setSem n x).banks = t.banks := rfl
@[simp] theorem Tile.setSem_windows (t : Tile) (n : BitVec 6) (x : Sem) : (t.setSem n x).windows = t.windows := rfl
@[simp] theorem Tile.setSem_v (t : Tile) (n : BitVec 6) (x : Sem) : (t.setSem n x).v = t.v := rfl
@[simp] theorem Tile.setSem_m (t : Tile) (n : BitVec 6) (x : Sem) : (t.setSem n x).m = t.m := rfl
@[simp] theorem Tile.setSem_l (t : Tile) (n : BitVec 6) (x : Sem) : (t.setSem n x).l = t.l := rfl
@[simp] theorem Tile.setSem_s (t : Tile) (n : BitVec 6) (x : Sem) : (t.setSem n x).s = t.s := rfl
@[simp] theorem Tile.setSem_tc (t : Tile) (n : BitVec 6) (x : Sem) : (t.setSem n x).tc = t.tc := rfl
@[simp] theorem Tile.setSem_tcBase (t : Tile) (n : BitVec 6) (x : Sem) : (t.setSem n x).tcBase = t.tcBase := rfl
@[simp] theorem Tile.setSem_pending (t : Tile) (n : BitVec 6) (x : Sem) : (t.setSem n x).pending = t.pending := rfl
@[simp] theorem Tile.setSem_operandLate (t : Tile) (n : BitVec 6) (x : Sem) : (t.setSem n x).operandLate = t.operandLate := rfl
@[simp] theorem Tile.setSem_portBusy (t : Tile) (n : BitVec 6) (x : Sem) : (t.setSem n x).portBusy = t.portBusy := rfl
@[simp] theorem Tile.setSem_port (t : Tile) (n : BitVec 6) (x : Sem) : (t.setSem n x).port = t.port := rfl
@[simp] theorem Tile.setSem_copies (t : Tile) (n : BitVec 6) (x : Sem) : (t.setSem n x).copies = t.copies := rfl
@[simp] theorem Tile.setSem_opPins (t : Tile) (n : BitVec 6) (x : Sem) : (t.setSem n x).opPins = t.opPins := rfl
@[simp] theorem Tile.setSem_tx (t : Tile) (n : BitVec 6) (x : Sem) : (t.setSem n x).tx = t.tx := rfl
@[simp] theorem Tile.setSem_halt (t : Tile) (n : BitVec 6) (x : Sem) : (t.setSem n x).halt = t.halt := rfl
@[simp] theorem Tile.setSem_event (t : Tile) (n : BitVec 6) (x : Sem) : (t.setSem n x).event = t.event := rfl
@[simp] theorem Tile.setSem_trap (t : Tile) (n : BitVec 6) (x : Sem) : (t.setSem n x).trap = t.trap := rfl
@[simp] theorem Tile.setSem_trapping (t : Tile) (n : BitVec 6) (x : Sem) : (t.setSem n x).trapping = t.trapping := rfl
@[simp] theorem Tile.setSem_ending (t : Tile) (n : BitVec 6) (x : Sem) : (t.setSem n x).ending = t.ending := rfl
@[simp] theorem Tile.setSem_debug (t : Tile) (n : BitVec 6) (x : Sem) : (t.setSem n x).debug = t.debug := rfl
@[simp] theorem Tile.setSem_boundary (t : Tile) (n : BitVec 6) (x : Sem) : (t.setSem n x).boundary = t.boundary := rfl
@[simp] theorem Tile.setSem_dirtyA (t : Tile) (n : BitVec 6) (x : Sem) : (t.setSem n x).dirtyA = t.dirtyA := rfl
@[simp] theorem Tile.setSem_dirtyB (t : Tile) (n : BitVec 6) (x : Sem) : (t.setSem n x).dirtyB = t.dirtyB := rfl
@[simp] theorem Tile.setSem_transfer (t : Tile) (n : BitVec 6) (x : Sem) : (t.setSem n x).transfer = t.transfer := rfl
@[simp] theorem Tile.setWindow_status (t : Tile) (n : BitVec 5) (x : Option Window) : (t.setWindow n x).status = t.status := rfl
@[simp] theorem Tile.setWindow_node (t : Tile) (n : BitVec 5) (x : Option Window) : (t.setWindow n x).node = t.node := rfl
@[simp] theorem Tile.setWindow_share (t : Tile) (n : BitVec 5) (x : Option Window) : (t.setWindow n x).share = t.share := rfl
@[simp] theorem Tile.setWindow_control (t : Tile) (n : BitVec 5) (x : Option Window) : (t.setWindow n x).control = t.control := rfl
@[simp] theorem Tile.setWindow_user (t : Tile) (n : BitVec 5) (x : Option Window) : (t.setWindow n x).user = t.user := rfl
@[simp] theorem Tile.setWindow_vflags (t : Tile) (n : BitVec 5) (x : Option Window) : (t.setWindow n x).vflags = t.vflags := rfl
@[simp] theorem Tile.setWindow_timef (t : Tile) (n : BitVec 5) (x : Option Window) : (t.setWindow n x).timef = t.timef := rfl
@[simp] theorem Tile.setWindow_disc (t : Tile) (n : BitVec 5) (x : Option Window) : (t.setWindow n x).disc = t.disc := rfl
@[simp] theorem Tile.setWindow_discm (t : Tile) (n : BitVec 5) (x : Option Window) : (t.setWindow n x).discm = t.discm := rfl
@[simp] theorem Tile.setWindow_code (t : Tile) (n : BitVec 5) (x : Option Window) : (t.setWindow n x).code = t.code := rfl
@[simp] theorem Tile.setWindow_vregs (t : Tile) (n : BitVec 5) (x : Option Window) : (t.setWindow n x).vregs = t.vregs := rfl
@[simp] theorem Tile.setWindow_pregs (t : Tile) (n : BitVec 5) (x : Option Window) : (t.setWindow n x).pregs = t.pregs := rfl
@[simp] theorem Tile.setWindow_seeds (t : Tile) (n : BitVec 5) (x : Option Window) : (t.setWindow n x).seeds = t.seeds := rfl
@[simp] theorem Tile.setWindow_votes (t : Tile) (n : BitVec 5) (x : Option Window) : (t.setWindow n x).votes = t.votes := rfl
@[simp] theorem Tile.setWindow_queues (t : Tile) (n : BitVec 5) (x : Option Window) : (t.setWindow n x).queues = t.queues := rfl
@[simp] theorem Tile.setWindow_formats (t : Tile) (n : BitVec 5) (x : Option Window) : (t.setWindow n x).formats = t.formats := rfl
@[simp] theorem Tile.setWindow_fmtAt (t : Tile) (n : BitVec 5) (x : Option Window) : (t.setWindow n x).fmtAt = t.fmtAt := rfl
@[simp] theorem Tile.setWindow_fmtNew (t : Tile) (n : BitVec 5) (x : Option Window) : (t.setWindow n x).fmtNew = t.fmtNew := rfl
@[simp] theorem Tile.setWindow_banks (t : Tile) (n : BitVec 5) (x : Option Window) : (t.setWindow n x).banks = t.banks := rfl
@[simp] theorem Tile.setWindow_sems (t : Tile) (n : BitVec 5) (x : Option Window) : (t.setWindow n x).sems = t.sems := rfl
@[simp] theorem Tile.setWindow_v (t : Tile) (n : BitVec 5) (x : Option Window) : (t.setWindow n x).v = t.v := rfl
@[simp] theorem Tile.setWindow_m (t : Tile) (n : BitVec 5) (x : Option Window) : (t.setWindow n x).m = t.m := rfl
@[simp] theorem Tile.setWindow_l (t : Tile) (n : BitVec 5) (x : Option Window) : (t.setWindow n x).l = t.l := rfl
@[simp] theorem Tile.setWindow_s (t : Tile) (n : BitVec 5) (x : Option Window) : (t.setWindow n x).s = t.s := rfl
@[simp] theorem Tile.setWindow_tc (t : Tile) (n : BitVec 5) (x : Option Window) : (t.setWindow n x).tc = t.tc := rfl
@[simp] theorem Tile.setWindow_tcBase (t : Tile) (n : BitVec 5) (x : Option Window) : (t.setWindow n x).tcBase = t.tcBase := rfl
@[simp] theorem Tile.setWindow_pending (t : Tile) (n : BitVec 5) (x : Option Window) : (t.setWindow n x).pending = t.pending := rfl
@[simp] theorem Tile.setWindow_operandLate (t : Tile) (n : BitVec 5) (x : Option Window) : (t.setWindow n x).operandLate = t.operandLate := rfl
@[simp] theorem Tile.setWindow_portBusy (t : Tile) (n : BitVec 5) (x : Option Window) : (t.setWindow n x).portBusy = t.portBusy := rfl
@[simp] theorem Tile.setWindow_port (t : Tile) (n : BitVec 5) (x : Option Window) : (t.setWindow n x).port = t.port := rfl
@[simp] theorem Tile.setWindow_copies (t : Tile) (n : BitVec 5) (x : Option Window) : (t.setWindow n x).copies = t.copies := rfl
@[simp] theorem Tile.setWindow_opPins (t : Tile) (n : BitVec 5) (x : Option Window) : (t.setWindow n x).opPins = t.opPins := rfl
@[simp] theorem Tile.setWindow_tx (t : Tile) (n : BitVec 5) (x : Option Window) : (t.setWindow n x).tx = t.tx := rfl
@[simp] theorem Tile.setWindow_halt (t : Tile) (n : BitVec 5) (x : Option Window) : (t.setWindow n x).halt = t.halt := rfl
@[simp] theorem Tile.setWindow_event (t : Tile) (n : BitVec 5) (x : Option Window) : (t.setWindow n x).event = t.event := rfl
@[simp] theorem Tile.setWindow_trap (t : Tile) (n : BitVec 5) (x : Option Window) : (t.setWindow n x).trap = t.trap := rfl
@[simp] theorem Tile.setWindow_trapping (t : Tile) (n : BitVec 5) (x : Option Window) : (t.setWindow n x).trapping = t.trapping := rfl
@[simp] theorem Tile.setWindow_ending (t : Tile) (n : BitVec 5) (x : Option Window) : (t.setWindow n x).ending = t.ending := rfl
@[simp] theorem Tile.setWindow_debug (t : Tile) (n : BitVec 5) (x : Option Window) : (t.setWindow n x).debug = t.debug := rfl
@[simp] theorem Tile.setWindow_boundary (t : Tile) (n : BitVec 5) (x : Option Window) : (t.setWindow n x).boundary = t.boundary := rfl
@[simp] theorem Tile.setWindow_dirtyA (t : Tile) (n : BitVec 5) (x : Option Window) : (t.setWindow n x).dirtyA = t.dirtyA := rfl
@[simp] theorem Tile.setWindow_dirtyB (t : Tile) (n : BitVec 5) (x : Option Window) : (t.setWindow n x).dirtyB = t.dirtyB := rfl
@[simp] theorem Tile.setWindow_transfer (t : Tile) (n : BitVec 5) (x : Option Window) : (t.setWindow n x).transfer = t.transfer := rfl
@[simp] theorem Tile.setQueue_status (t : Tile) (q : BitVec 3) (x : Queue) : (t.setQueue q x).status = t.status := rfl
@[simp] theorem Tile.setQueue_node (t : Tile) (q : BitVec 3) (x : Queue) : (t.setQueue q x).node = t.node := rfl
@[simp] theorem Tile.setQueue_share (t : Tile) (q : BitVec 3) (x : Queue) : (t.setQueue q x).share = t.share := rfl
@[simp] theorem Tile.setQueue_control (t : Tile) (q : BitVec 3) (x : Queue) : (t.setQueue q x).control = t.control := rfl
@[simp] theorem Tile.setQueue_user (t : Tile) (q : BitVec 3) (x : Queue) : (t.setQueue q x).user = t.user := rfl
@[simp] theorem Tile.setQueue_vflags (t : Tile) (q : BitVec 3) (x : Queue) : (t.setQueue q x).vflags = t.vflags := rfl
@[simp] theorem Tile.setQueue_timef (t : Tile) (q : BitVec 3) (x : Queue) : (t.setQueue q x).timef = t.timef := rfl
@[simp] theorem Tile.setQueue_disc (t : Tile) (q : BitVec 3) (x : Queue) : (t.setQueue q x).disc = t.disc := rfl
@[simp] theorem Tile.setQueue_discm (t : Tile) (q : BitVec 3) (x : Queue) : (t.setQueue q x).discm = t.discm := rfl
@[simp] theorem Tile.setQueue_code (t : Tile) (q : BitVec 3) (x : Queue) : (t.setQueue q x).code = t.code := rfl
@[simp] theorem Tile.setQueue_vregs (t : Tile) (q : BitVec 3) (x : Queue) : (t.setQueue q x).vregs = t.vregs := rfl
@[simp] theorem Tile.setQueue_pregs (t : Tile) (q : BitVec 3) (x : Queue) : (t.setQueue q x).pregs = t.pregs := rfl
@[simp] theorem Tile.setQueue_seeds (t : Tile) (q : BitVec 3) (x : Queue) : (t.setQueue q x).seeds = t.seeds := rfl
@[simp] theorem Tile.setQueue_votes (t : Tile) (q : BitVec 3) (x : Queue) : (t.setQueue q x).votes = t.votes := rfl
@[simp] theorem Tile.setQueue_formats (t : Tile) (q : BitVec 3) (x : Queue) : (t.setQueue q x).formats = t.formats := rfl
@[simp] theorem Tile.setQueue_fmtAt (t : Tile) (q : BitVec 3) (x : Queue) : (t.setQueue q x).fmtAt = t.fmtAt := rfl
@[simp] theorem Tile.setQueue_fmtNew (t : Tile) (q : BitVec 3) (x : Queue) : (t.setQueue q x).fmtNew = t.fmtNew := rfl
@[simp] theorem Tile.setQueue_banks (t : Tile) (q : BitVec 3) (x : Queue) : (t.setQueue q x).banks = t.banks := rfl
@[simp] theorem Tile.setQueue_sems (t : Tile) (q : BitVec 3) (x : Queue) : (t.setQueue q x).sems = t.sems := rfl
@[simp] theorem Tile.setQueue_windows (t : Tile) (q : BitVec 3) (x : Queue) : (t.setQueue q x).windows = t.windows := rfl
@[simp] theorem Tile.setQueue_v (t : Tile) (q : BitVec 3) (x : Queue) : (t.setQueue q x).v = t.v := rfl
@[simp] theorem Tile.setQueue_m (t : Tile) (q : BitVec 3) (x : Queue) : (t.setQueue q x).m = t.m := rfl
@[simp] theorem Tile.setQueue_l (t : Tile) (q : BitVec 3) (x : Queue) : (t.setQueue q x).l = t.l := rfl
@[simp] theorem Tile.setQueue_s (t : Tile) (q : BitVec 3) (x : Queue) : (t.setQueue q x).s = t.s := rfl
@[simp] theorem Tile.setQueue_tc (t : Tile) (q : BitVec 3) (x : Queue) : (t.setQueue q x).tc = t.tc := rfl
@[simp] theorem Tile.setQueue_tcBase (t : Tile) (q : BitVec 3) (x : Queue) : (t.setQueue q x).tcBase = t.tcBase := rfl
@[simp] theorem Tile.setQueue_pending (t : Tile) (q : BitVec 3) (x : Queue) : (t.setQueue q x).pending = t.pending := rfl
@[simp] theorem Tile.setQueue_operandLate (t : Tile) (q : BitVec 3) (x : Queue) : (t.setQueue q x).operandLate = t.operandLate := rfl
@[simp] theorem Tile.setQueue_portBusy (t : Tile) (q : BitVec 3) (x : Queue) : (t.setQueue q x).portBusy = t.portBusy := rfl
@[simp] theorem Tile.setQueue_port (t : Tile) (q : BitVec 3) (x : Queue) : (t.setQueue q x).port = t.port := rfl
@[simp] theorem Tile.setQueue_copies (t : Tile) (q : BitVec 3) (x : Queue) : (t.setQueue q x).copies = t.copies := rfl
@[simp] theorem Tile.setQueue_opPins (t : Tile) (q : BitVec 3) (x : Queue) : (t.setQueue q x).opPins = t.opPins := rfl
@[simp] theorem Tile.setQueue_tx (t : Tile) (q : BitVec 3) (x : Queue) : (t.setQueue q x).tx = t.tx := rfl
@[simp] theorem Tile.setQueue_halt (t : Tile) (q : BitVec 3) (x : Queue) : (t.setQueue q x).halt = t.halt := rfl
@[simp] theorem Tile.setQueue_event (t : Tile) (q : BitVec 3) (x : Queue) : (t.setQueue q x).event = t.event := rfl
@[simp] theorem Tile.setQueue_trap (t : Tile) (q : BitVec 3) (x : Queue) : (t.setQueue q x).trap = t.trap := rfl
@[simp] theorem Tile.setQueue_trapping (t : Tile) (q : BitVec 3) (x : Queue) : (t.setQueue q x).trapping = t.trapping := rfl
@[simp] theorem Tile.setQueue_ending (t : Tile) (q : BitVec 3) (x : Queue) : (t.setQueue q x).ending = t.ending := rfl
@[simp] theorem Tile.setQueue_debug (t : Tile) (q : BitVec 3) (x : Queue) : (t.setQueue q x).debug = t.debug := rfl
@[simp] theorem Tile.setQueue_boundary (t : Tile) (q : BitVec 3) (x : Queue) : (t.setQueue q x).boundary = t.boundary := rfl
@[simp] theorem Tile.setQueue_transfer (t : Tile) (q : BitVec 3) (x : Queue) : (t.setQueue q x).transfer = t.transfer := rfl
@[simp] theorem Tile.markAcc_status (t : Tile) (b : BitVec 2) (row : Nat) : (t.markAcc b row).status = t.status := rfl
@[simp] theorem Tile.markAcc_node (t : Tile) (b : BitVec 2) (row : Nat) : (t.markAcc b row).node = t.node := rfl
@[simp] theorem Tile.markAcc_share (t : Tile) (b : BitVec 2) (row : Nat) : (t.markAcc b row).share = t.share := rfl
@[simp] theorem Tile.markAcc_control (t : Tile) (b : BitVec 2) (row : Nat) : (t.markAcc b row).control = t.control := rfl
@[simp] theorem Tile.markAcc_user (t : Tile) (b : BitVec 2) (row : Nat) : (t.markAcc b row).user = t.user := rfl
@[simp] theorem Tile.markAcc_vflags (t : Tile) (b : BitVec 2) (row : Nat) : (t.markAcc b row).vflags = t.vflags := rfl
@[simp] theorem Tile.markAcc_timef (t : Tile) (b : BitVec 2) (row : Nat) : (t.markAcc b row).timef = t.timef := rfl
@[simp] theorem Tile.markAcc_disc (t : Tile) (b : BitVec 2) (row : Nat) : (t.markAcc b row).disc = t.disc := rfl
@[simp] theorem Tile.markAcc_discm (t : Tile) (b : BitVec 2) (row : Nat) : (t.markAcc b row).discm = t.discm := rfl
@[simp] theorem Tile.markAcc_code (t : Tile) (b : BitVec 2) (row : Nat) : (t.markAcc b row).code = t.code := rfl
@[simp] theorem Tile.markAcc_vregs (t : Tile) (b : BitVec 2) (row : Nat) : (t.markAcc b row).vregs = t.vregs := rfl
@[simp] theorem Tile.markAcc_pregs (t : Tile) (b : BitVec 2) (row : Nat) : (t.markAcc b row).pregs = t.pregs := rfl
@[simp] theorem Tile.markAcc_seeds (t : Tile) (b : BitVec 2) (row : Nat) : (t.markAcc b row).seeds = t.seeds := rfl
@[simp] theorem Tile.markAcc_votes (t : Tile) (b : BitVec 2) (row : Nat) : (t.markAcc b row).votes = t.votes := rfl
@[simp] theorem Tile.markAcc_queues (t : Tile) (b : BitVec 2) (row : Nat) : (t.markAcc b row).queues = t.queues := rfl
@[simp] theorem Tile.markAcc_formats (t : Tile) (b : BitVec 2) (row : Nat) : (t.markAcc b row).formats = t.formats := rfl
@[simp] theorem Tile.markAcc_fmtAt (t : Tile) (b : BitVec 2) (row : Nat) : (t.markAcc b row).fmtAt = t.fmtAt := rfl
@[simp] theorem Tile.markAcc_fmtNew (t : Tile) (b : BitVec 2) (row : Nat) : (t.markAcc b row).fmtNew = t.fmtNew := rfl
@[simp] theorem Tile.markAcc_banks (t : Tile) (b : BitVec 2) (row : Nat) : (t.markAcc b row).banks = t.banks := rfl
@[simp] theorem Tile.markAcc_sems (t : Tile) (b : BitVec 2) (row : Nat) : (t.markAcc b row).sems = t.sems := rfl
@[simp] theorem Tile.markAcc_windows (t : Tile) (b : BitVec 2) (row : Nat) : (t.markAcc b row).windows = t.windows := rfl
@[simp] theorem Tile.markAcc_v (t : Tile) (b : BitVec 2) (row : Nat) : (t.markAcc b row).v = t.v := rfl
@[simp] theorem Tile.markAcc_m (t : Tile) (b : BitVec 2) (row : Nat) : (t.markAcc b row).m = t.m := rfl
@[simp] theorem Tile.markAcc_l (t : Tile) (b : BitVec 2) (row : Nat) : (t.markAcc b row).l = t.l := rfl
@[simp] theorem Tile.markAcc_s (t : Tile) (b : BitVec 2) (row : Nat) : (t.markAcc b row).s = t.s := rfl
@[simp] theorem Tile.markAcc_tc (t : Tile) (b : BitVec 2) (row : Nat) : (t.markAcc b row).tc = t.tc := rfl
@[simp] theorem Tile.markAcc_tcBase (t : Tile) (b : BitVec 2) (row : Nat) : (t.markAcc b row).tcBase = t.tcBase := rfl
@[simp] theorem Tile.markAcc_pending (t : Tile) (b : BitVec 2) (row : Nat) : (t.markAcc b row).pending = t.pending := rfl
@[simp] theorem Tile.markAcc_operandLate (t : Tile) (b : BitVec 2) (row : Nat) : (t.markAcc b row).operandLate = t.operandLate := rfl
@[simp] theorem Tile.markAcc_portBusy (t : Tile) (b : BitVec 2) (row : Nat) : (t.markAcc b row).portBusy = t.portBusy := rfl
@[simp] theorem Tile.markAcc_port (t : Tile) (b : BitVec 2) (row : Nat) : (t.markAcc b row).port = t.port := rfl
@[simp] theorem Tile.markAcc_copies (t : Tile) (b : BitVec 2) (row : Nat) : (t.markAcc b row).copies = t.copies := rfl
@[simp] theorem Tile.markAcc_opPins (t : Tile) (b : BitVec 2) (row : Nat) : (t.markAcc b row).opPins = t.opPins := rfl
@[simp] theorem Tile.markAcc_tx (t : Tile) (b : BitVec 2) (row : Nat) : (t.markAcc b row).tx = t.tx := rfl
@[simp] theorem Tile.markAcc_halt (t : Tile) (b : BitVec 2) (row : Nat) : (t.markAcc b row).halt = t.halt := rfl
@[simp] theorem Tile.markAcc_event (t : Tile) (b : BitVec 2) (row : Nat) : (t.markAcc b row).event = t.event := rfl
@[simp] theorem Tile.markAcc_trap (t : Tile) (b : BitVec 2) (row : Nat) : (t.markAcc b row).trap = t.trap := rfl
@[simp] theorem Tile.markAcc_trapping (t : Tile) (b : BitVec 2) (row : Nat) : (t.markAcc b row).trapping = t.trapping := rfl
@[simp] theorem Tile.markAcc_ending (t : Tile) (b : BitVec 2) (row : Nat) : (t.markAcc b row).ending = t.ending := rfl
@[simp] theorem Tile.markAcc_debug (t : Tile) (b : BitVec 2) (row : Nat) : (t.markAcc b row).debug = t.debug := rfl
@[simp] theorem Tile.markAcc_boundary (t : Tile) (b : BitVec 2) (row : Nat) : (t.markAcc b row).boundary = t.boundary := rfl
@[simp] theorem Tile.markAcc_transfer (t : Tile) (b : BitVec 2) (row : Nat) : (t.markAcc b row).transfer = t.transfer := rfl
@[simp] theorem Tile.raiseFlags_status (t : Tile) (f : Flags) : (t.raiseFlags f).status = t.status := rfl
@[simp] theorem Tile.raiseFlags_node (t : Tile) (f : Flags) : (t.raiseFlags f).node = t.node := rfl
@[simp] theorem Tile.raiseFlags_share (t : Tile) (f : Flags) : (t.raiseFlags f).share = t.share := rfl
@[simp] theorem Tile.raiseFlags_control (t : Tile) (f : Flags) : (t.raiseFlags f).control = t.control := rfl
@[simp] theorem Tile.raiseFlags_user (t : Tile) (f : Flags) : (t.raiseFlags f).user = t.user := rfl
@[simp] theorem Tile.raiseFlags_timef (t : Tile) (f : Flags) : (t.raiseFlags f).timef = t.timef := rfl
@[simp] theorem Tile.raiseFlags_disc (t : Tile) (f : Flags) : (t.raiseFlags f).disc = t.disc := rfl
@[simp] theorem Tile.raiseFlags_discm (t : Tile) (f : Flags) : (t.raiseFlags f).discm = t.discm := rfl
@[simp] theorem Tile.raiseFlags_code (t : Tile) (f : Flags) : (t.raiseFlags f).code = t.code := rfl
@[simp] theorem Tile.raiseFlags_vregs (t : Tile) (f : Flags) : (t.raiseFlags f).vregs = t.vregs := rfl
@[simp] theorem Tile.raiseFlags_pregs (t : Tile) (f : Flags) : (t.raiseFlags f).pregs = t.pregs := rfl
@[simp] theorem Tile.raiseFlags_seeds (t : Tile) (f : Flags) : (t.raiseFlags f).seeds = t.seeds := rfl
@[simp] theorem Tile.raiseFlags_votes (t : Tile) (f : Flags) : (t.raiseFlags f).votes = t.votes := rfl
@[simp] theorem Tile.raiseFlags_queues (t : Tile) (f : Flags) : (t.raiseFlags f).queues = t.queues := rfl
@[simp] theorem Tile.raiseFlags_formats (t : Tile) (f : Flags) : (t.raiseFlags f).formats = t.formats := rfl
@[simp] theorem Tile.raiseFlags_fmtAt (t : Tile) (f : Flags) : (t.raiseFlags f).fmtAt = t.fmtAt := rfl
@[simp] theorem Tile.raiseFlags_fmtNew (t : Tile) (f : Flags) : (t.raiseFlags f).fmtNew = t.fmtNew := rfl
@[simp] theorem Tile.raiseFlags_banks (t : Tile) (f : Flags) : (t.raiseFlags f).banks = t.banks := rfl
@[simp] theorem Tile.raiseFlags_sems (t : Tile) (f : Flags) : (t.raiseFlags f).sems = t.sems := rfl
@[simp] theorem Tile.raiseFlags_windows (t : Tile) (f : Flags) : (t.raiseFlags f).windows = t.windows := rfl
@[simp] theorem Tile.raiseFlags_v (t : Tile) (f : Flags) : (t.raiseFlags f).v = t.v := rfl
@[simp] theorem Tile.raiseFlags_m (t : Tile) (f : Flags) : (t.raiseFlags f).m = t.m := rfl
@[simp] theorem Tile.raiseFlags_l (t : Tile) (f : Flags) : (t.raiseFlags f).l = t.l := rfl
@[simp] theorem Tile.raiseFlags_s (t : Tile) (f : Flags) : (t.raiseFlags f).s = t.s := rfl
@[simp] theorem Tile.raiseFlags_tc (t : Tile) (f : Flags) : (t.raiseFlags f).tc = t.tc := rfl
@[simp] theorem Tile.raiseFlags_tcBase (t : Tile) (f : Flags) : (t.raiseFlags f).tcBase = t.tcBase := rfl
@[simp] theorem Tile.raiseFlags_pending (t : Tile) (f : Flags) : (t.raiseFlags f).pending = t.pending := rfl
@[simp] theorem Tile.raiseFlags_operandLate (t : Tile) (f : Flags) : (t.raiseFlags f).operandLate = t.operandLate := rfl
@[simp] theorem Tile.raiseFlags_portBusy (t : Tile) (f : Flags) : (t.raiseFlags f).portBusy = t.portBusy := rfl
@[simp] theorem Tile.raiseFlags_port (t : Tile) (f : Flags) : (t.raiseFlags f).port = t.port := rfl
@[simp] theorem Tile.raiseFlags_copies (t : Tile) (f : Flags) : (t.raiseFlags f).copies = t.copies := rfl
@[simp] theorem Tile.raiseFlags_opPins (t : Tile) (f : Flags) : (t.raiseFlags f).opPins = t.opPins := rfl
@[simp] theorem Tile.raiseFlags_tx (t : Tile) (f : Flags) : (t.raiseFlags f).tx = t.tx := rfl
@[simp] theorem Tile.raiseFlags_halt (t : Tile) (f : Flags) : (t.raiseFlags f).halt = t.halt := rfl
@[simp] theorem Tile.raiseFlags_event (t : Tile) (f : Flags) : (t.raiseFlags f).event = t.event := rfl
@[simp] theorem Tile.raiseFlags_trap (t : Tile) (f : Flags) : (t.raiseFlags f).trap = t.trap := rfl
@[simp] theorem Tile.raiseFlags_trapping (t : Tile) (f : Flags) : (t.raiseFlags f).trapping = t.trapping := rfl
@[simp] theorem Tile.raiseFlags_ending (t : Tile) (f : Flags) : (t.raiseFlags f).ending = t.ending := rfl
@[simp] theorem Tile.raiseFlags_debug (t : Tile) (f : Flags) : (t.raiseFlags f).debug = t.debug := rfl
@[simp] theorem Tile.raiseFlags_boundary (t : Tile) (f : Flags) : (t.raiseFlags f).boundary = t.boundary := rfl
@[simp] theorem Tile.raiseFlags_dirtyA (t : Tile) (f : Flags) : (t.raiseFlags f).dirtyA = t.dirtyA := rfl
@[simp] theorem Tile.raiseFlags_dirtyB (t : Tile) (f : Flags) : (t.raiseFlags f).dirtyB = t.dirtyB := rfl
@[simp] theorem Tile.raiseFlags_transfer (t : Tile) (f : Flags) : (t.raiseFlags f).transfer = t.transfer := rfl
@[simp] theorem Tile.addPending_status (t : Tile) (x : Pending) : (t.addPending x).status = t.status := rfl
@[simp] theorem Tile.addPending_node (t : Tile) (x : Pending) : (t.addPending x).node = t.node := rfl
@[simp] theorem Tile.addPending_share (t : Tile) (x : Pending) : (t.addPending x).share = t.share := rfl
@[simp] theorem Tile.addPending_control (t : Tile) (x : Pending) : (t.addPending x).control = t.control := rfl
@[simp] theorem Tile.addPending_user (t : Tile) (x : Pending) : (t.addPending x).user = t.user := rfl
@[simp] theorem Tile.addPending_vflags (t : Tile) (x : Pending) : (t.addPending x).vflags = t.vflags := rfl
@[simp] theorem Tile.addPending_timef (t : Tile) (x : Pending) : (t.addPending x).timef = t.timef := rfl
@[simp] theorem Tile.addPending_disc (t : Tile) (x : Pending) : (t.addPending x).disc = t.disc := rfl
@[simp] theorem Tile.addPending_discm (t : Tile) (x : Pending) : (t.addPending x).discm = t.discm := rfl
@[simp] theorem Tile.addPending_code (t : Tile) (x : Pending) : (t.addPending x).code = t.code := rfl
@[simp] theorem Tile.addPending_vregs (t : Tile) (x : Pending) : (t.addPending x).vregs = t.vregs := rfl
@[simp] theorem Tile.addPending_pregs (t : Tile) (x : Pending) : (t.addPending x).pregs = t.pregs := rfl
@[simp] theorem Tile.addPending_seeds (t : Tile) (x : Pending) : (t.addPending x).seeds = t.seeds := rfl
@[simp] theorem Tile.addPending_votes (t : Tile) (x : Pending) : (t.addPending x).votes = t.votes := rfl
@[simp] theorem Tile.addPending_queues (t : Tile) (x : Pending) : (t.addPending x).queues = t.queues := rfl
@[simp] theorem Tile.addPending_formats (t : Tile) (x : Pending) : (t.addPending x).formats = t.formats := rfl
@[simp] theorem Tile.addPending_fmtAt (t : Tile) (x : Pending) : (t.addPending x).fmtAt = t.fmtAt := rfl
@[simp] theorem Tile.addPending_fmtNew (t : Tile) (x : Pending) : (t.addPending x).fmtNew = t.fmtNew := rfl
@[simp] theorem Tile.addPending_banks (t : Tile) (x : Pending) : (t.addPending x).banks = t.banks := rfl
@[simp] theorem Tile.addPending_sems (t : Tile) (x : Pending) : (t.addPending x).sems = t.sems := rfl
@[simp] theorem Tile.addPending_windows (t : Tile) (x : Pending) : (t.addPending x).windows = t.windows := rfl
@[simp] theorem Tile.addPending_v (t : Tile) (x : Pending) : (t.addPending x).v = t.v := rfl
@[simp] theorem Tile.addPending_m (t : Tile) (x : Pending) : (t.addPending x).m = t.m := rfl
@[simp] theorem Tile.addPending_l (t : Tile) (x : Pending) : (t.addPending x).l = t.l := rfl
@[simp] theorem Tile.addPending_s (t : Tile) (x : Pending) : (t.addPending x).s = t.s := rfl
@[simp] theorem Tile.addPending_tc (t : Tile) (x : Pending) : (t.addPending x).tc = t.tc := rfl
@[simp] theorem Tile.addPending_tcBase (t : Tile) (x : Pending) : (t.addPending x).tcBase = t.tcBase := rfl
@[simp] theorem Tile.addPending_operandLate (t : Tile) (x : Pending) : (t.addPending x).operandLate = t.operandLate := rfl
@[simp] theorem Tile.addPending_portBusy (t : Tile) (x : Pending) : (t.addPending x).portBusy = t.portBusy := rfl
@[simp] theorem Tile.addPending_port (t : Tile) (x : Pending) : (t.addPending x).port = t.port := rfl
@[simp] theorem Tile.addPending_copies (t : Tile) (x : Pending) : (t.addPending x).copies = t.copies := rfl
@[simp] theorem Tile.addPending_opPins (t : Tile) (x : Pending) : (t.addPending x).opPins = t.opPins := rfl
@[simp] theorem Tile.addPending_tx (t : Tile) (x : Pending) : (t.addPending x).tx = t.tx := rfl
@[simp] theorem Tile.addPending_halt (t : Tile) (x : Pending) : (t.addPending x).halt = t.halt := rfl
@[simp] theorem Tile.addPending_event (t : Tile) (x : Pending) : (t.addPending x).event = t.event := rfl
@[simp] theorem Tile.addPending_trap (t : Tile) (x : Pending) : (t.addPending x).trap = t.trap := rfl
@[simp] theorem Tile.addPending_trapping (t : Tile) (x : Pending) : (t.addPending x).trapping = t.trapping := rfl
@[simp] theorem Tile.addPending_ending (t : Tile) (x : Pending) : (t.addPending x).ending = t.ending := rfl
@[simp] theorem Tile.addPending_debug (t : Tile) (x : Pending) : (t.addPending x).debug = t.debug := rfl
@[simp] theorem Tile.addPending_boundary (t : Tile) (x : Pending) : (t.addPending x).boundary = t.boundary := rfl
@[simp] theorem Tile.addPending_dirtyA (t : Tile) (x : Pending) : (t.addPending x).dirtyA = t.dirtyA := rfl
@[simp] theorem Tile.addPending_dirtyB (t : Tile) (x : Pending) : (t.addPending x).dirtyB = t.dirtyB := rfl
@[simp] theorem Tile.addPending_transfer (t : Tile) (x : Pending) : (t.addPending x).transfer = t.transfer := rfl
@[simp] theorem Tile.onStreams_status (t : Tile) (f : BStream → Stream → Stream) : (t.onStreams f).status = t.status := rfl
@[simp] theorem Tile.onStreams_node (t : Tile) (f : BStream → Stream → Stream) : (t.onStreams f).node = t.node := rfl
@[simp] theorem Tile.onStreams_share (t : Tile) (f : BStream → Stream → Stream) : (t.onStreams f).share = t.share := rfl
@[simp] theorem Tile.onStreams_control (t : Tile) (f : BStream → Stream → Stream) : (t.onStreams f).control = t.control := rfl
@[simp] theorem Tile.onStreams_user (t : Tile) (f : BStream → Stream → Stream) : (t.onStreams f).user = t.user := rfl
@[simp] theorem Tile.onStreams_vflags (t : Tile) (f : BStream → Stream → Stream) : (t.onStreams f).vflags = t.vflags := rfl
@[simp] theorem Tile.onStreams_timef (t : Tile) (f : BStream → Stream → Stream) : (t.onStreams f).timef = t.timef := rfl
@[simp] theorem Tile.onStreams_disc (t : Tile) (f : BStream → Stream → Stream) : (t.onStreams f).disc = t.disc := rfl
@[simp] theorem Tile.onStreams_discm (t : Tile) (f : BStream → Stream → Stream) : (t.onStreams f).discm = t.discm := rfl
@[simp] theorem Tile.onStreams_code (t : Tile) (f : BStream → Stream → Stream) : (t.onStreams f).code = t.code := rfl
@[simp] theorem Tile.onStreams_vregs (t : Tile) (f : BStream → Stream → Stream) : (t.onStreams f).vregs = t.vregs := rfl
@[simp] theorem Tile.onStreams_pregs (t : Tile) (f : BStream → Stream → Stream) : (t.onStreams f).pregs = t.pregs := rfl
@[simp] theorem Tile.onStreams_seeds (t : Tile) (f : BStream → Stream → Stream) : (t.onStreams f).seeds = t.seeds := rfl
@[simp] theorem Tile.onStreams_votes (t : Tile) (f : BStream → Stream → Stream) : (t.onStreams f).votes = t.votes := rfl
@[simp] theorem Tile.onStreams_queues (t : Tile) (f : BStream → Stream → Stream) : (t.onStreams f).queues = t.queues := rfl
@[simp] theorem Tile.onStreams_formats (t : Tile) (f : BStream → Stream → Stream) : (t.onStreams f).formats = t.formats := rfl
@[simp] theorem Tile.onStreams_fmtAt (t : Tile) (f : BStream → Stream → Stream) : (t.onStreams f).fmtAt = t.fmtAt := rfl
@[simp] theorem Tile.onStreams_fmtNew (t : Tile) (f : BStream → Stream → Stream) : (t.onStreams f).fmtNew = t.fmtNew := rfl
@[simp] theorem Tile.onStreams_banks (t : Tile) (f : BStream → Stream → Stream) : (t.onStreams f).banks = t.banks := rfl
@[simp] theorem Tile.onStreams_sems (t : Tile) (f : BStream → Stream → Stream) : (t.onStreams f).sems = t.sems := rfl
@[simp] theorem Tile.onStreams_windows (t : Tile) (f : BStream → Stream → Stream) : (t.onStreams f).windows = t.windows := rfl
@[simp] theorem Tile.onStreams_tc (t : Tile) (f : BStream → Stream → Stream) : (t.onStreams f).tc = t.tc := rfl
@[simp] theorem Tile.onStreams_tcBase (t : Tile) (f : BStream → Stream → Stream) : (t.onStreams f).tcBase = t.tcBase := rfl
@[simp] theorem Tile.onStreams_pending (t : Tile) (f : BStream → Stream → Stream) : (t.onStreams f).pending = t.pending := rfl
@[simp] theorem Tile.onStreams_operandLate (t : Tile) (f : BStream → Stream → Stream) : (t.onStreams f).operandLate = t.operandLate := rfl
@[simp] theorem Tile.onStreams_portBusy (t : Tile) (f : BStream → Stream → Stream) : (t.onStreams f).portBusy = t.portBusy := rfl
@[simp] theorem Tile.onStreams_port (t : Tile) (f : BStream → Stream → Stream) : (t.onStreams f).port = t.port := rfl
@[simp] theorem Tile.onStreams_copies (t : Tile) (f : BStream → Stream → Stream) : (t.onStreams f).copies = t.copies := rfl
@[simp] theorem Tile.onStreams_opPins (t : Tile) (f : BStream → Stream → Stream) : (t.onStreams f).opPins = t.opPins := rfl
@[simp] theorem Tile.onStreams_tx (t : Tile) (f : BStream → Stream → Stream) : (t.onStreams f).tx = t.tx := rfl
@[simp] theorem Tile.onStreams_halt (t : Tile) (f : BStream → Stream → Stream) : (t.onStreams f).halt = t.halt := rfl
@[simp] theorem Tile.onStreams_event (t : Tile) (f : BStream → Stream → Stream) : (t.onStreams f).event = t.event := rfl
@[simp] theorem Tile.onStreams_trap (t : Tile) (f : BStream → Stream → Stream) : (t.onStreams f).trap = t.trap := rfl
@[simp] theorem Tile.onStreams_trapping (t : Tile) (f : BStream → Stream → Stream) : (t.onStreams f).trapping = t.trapping := rfl
@[simp] theorem Tile.onStreams_ending (t : Tile) (f : BStream → Stream → Stream) : (t.onStreams f).ending = t.ending := rfl
@[simp] theorem Tile.onStreams_debug (t : Tile) (f : BStream → Stream → Stream) : (t.onStreams f).debug = t.debug := rfl
@[simp] theorem Tile.onStreams_boundary (t : Tile) (f : BStream → Stream → Stream) : (t.onStreams f).boundary = t.boundary := rfl
@[simp] theorem Tile.onStreams_dirtyA (t : Tile) (f : BStream → Stream → Stream) : (t.onStreams f).dirtyA = t.dirtyA := rfl
@[simp] theorem Tile.onStreams_dirtyB (t : Tile) (f : BStream → Stream → Stream) : (t.onStreams f).dirtyB = t.dirtyB := rfl
@[simp] theorem Tile.onStreams_transfer (t : Tile) (f : BStream → Stream → Stream) : (t.onStreams f).transfer = t.transfer := rfl

/-! ## Updates of the C stream -/

@[simp] theorem Control.setCond_pc (k : Control) (r : BitVec 3) (x : Bool) : (k.setCond r x).pc = k.pc := rfl
@[simp] theorem Control.setCond_g (k : Control) (r : BitVec 3) (x : Bool) : (k.setCond r x).g = k.g := rfl
@[simp] theorem Control.setCond_b (k : Control) (r : BitVec 3) (x : Bool) : (k.setCond r x).b = k.b := rfl
@[simp] theorem Control.setCond_shadow (k : Control) (r : BitVec 3) (x : Bool) : (k.setCond r x).shadow = k.shadow := rfl
@[simp] theorem Control.setCond_iter (k : Control) (r : BitVec 3) (x : Bool) : (k.setCond r x).iter = k.iter := rfl
@[simp] theorem Control.setCond_slot (k : Control) (r : BitVec 3) (x : Bool) : (k.setCond r x).slot = k.slot := rfl
@[simp] theorem Control.setCond_target (k : Control) (r : BitVec 3) (x : Bool) : (k.setCond r x).target = k.target := rfl
@[simp] theorem Control.setCond_arrived (k : Control) (r : BitVec 3) (x : Bool) : (k.setCond r x).arrived = k.arrived := rfl
@[simp] theorem Control.setCond_stalled (k : Control) (r : BitVec 3) (x : Bool) : (k.setCond r x).stalled = k.stalled := rfl
@[simp] theorem Control.setCond_pause (k : Control) (r : BitVec 3) (x : Bool) : (k.setCond r x).pause = k.pause := rfl
@[simp] theorem Control.setCond_wait (k : Control) (r : BitVec 3) (x : Bool) : (k.setCond r x).wait = k.wait := rfl
@[simp] theorem Control.setCond_since (k : Control) (r : BitVec 3) (x : Bool) : (k.setCond r x).since = k.since := rfl
@[simp] theorem Control.setCond_denied (k : Control) (r : BitVec 3) (x : Bool) : (k.setCond r x).denied = k.denied := rfl
@[simp] theorem Control.setCond_closing (k : Control) (r : BitVec 3) (x : Bool) : (k.setCond r x).closing = k.closing := rfl
@[simp] theorem Control.setBt_pc (k : Control) (r : BitVec 2) (x : BitVec 16) : (k.setBt r x).pc = k.pc := rfl
@[simp] theorem Control.setBt_g (k : Control) (r : BitVec 2) (x : BitVec 16) : (k.setBt r x).g = k.g := rfl
@[simp] theorem Control.setBt_c (k : Control) (r : BitVec 2) (x : BitVec 16) : (k.setBt r x).c = k.c := rfl
@[simp] theorem Control.setBt_shadow (k : Control) (r : BitVec 2) (x : BitVec 16) : (k.setBt r x).shadow = k.shadow := rfl
@[simp] theorem Control.setBt_iter (k : Control) (r : BitVec 2) (x : BitVec 16) : (k.setBt r x).iter = k.iter := rfl
@[simp] theorem Control.setBt_slot (k : Control) (r : BitVec 2) (x : BitVec 16) : (k.setBt r x).slot = k.slot := rfl
@[simp] theorem Control.setBt_target (k : Control) (r : BitVec 2) (x : BitVec 16) : (k.setBt r x).target = k.target := rfl
@[simp] theorem Control.setBt_arrived (k : Control) (r : BitVec 2) (x : BitVec 16) : (k.setBt r x).arrived = k.arrived := rfl
@[simp] theorem Control.setBt_stalled (k : Control) (r : BitVec 2) (x : BitVec 16) : (k.setBt r x).stalled = k.stalled := rfl
@[simp] theorem Control.setBt_pause (k : Control) (r : BitVec 2) (x : BitVec 16) : (k.setBt r x).pause = k.pause := rfl
@[simp] theorem Control.setBt_wait (k : Control) (r : BitVec 2) (x : BitVec 16) : (k.setBt r x).wait = k.wait := rfl
@[simp] theorem Control.setBt_since (k : Control) (r : BitVec 2) (x : BitVec 16) : (k.setBt r x).since = k.since := rfl
@[simp] theorem Control.setBt_denied (k : Control) (r : BitVec 2) (x : BitVec 16) : (k.setBt r x).denied = k.denied := rfl
@[simp] theorem Control.setBt_closing (k : Control) (r : BitVec 2) (x : BitVec 16) : (k.setBt r x).closing = k.closing := rfl
@[simp] theorem Control.transfer_g (k : Control) (x : BitVec 17) : (k.transfer x).g = k.g := rfl
@[simp] theorem Control.transfer_c (k : Control) (x : BitVec 17) : (k.transfer x).c = k.c := rfl
@[simp] theorem Control.transfer_b (k : Control) (x : BitVec 17) : (k.transfer x).b = k.b := rfl
@[simp] theorem Control.transfer_shadow (k : Control) (x : BitVec 17) : (k.transfer x).shadow = k.shadow := rfl
@[simp] theorem Control.transfer_iter (k : Control) (x : BitVec 17) : (k.transfer x).iter = k.iter := rfl
@[simp] theorem Control.transfer_pause (k : Control) (x : BitVec 17) : (k.transfer x).pause = k.pause := rfl
@[simp] theorem Control.transfer_since (k : Control) (x : BitVec 17) : (k.transfer x).since = k.since := rfl
@[simp] theorem Control.transfer_denied (k : Control) (x : BitVec 17) : (k.transfer x).denied = k.denied := rfl
@[simp] theorem Control.transfer_closing (k : Control) (x : BitVec 17) : (k.transfer x).closing = k.closing := rfl

/-! ## The part that an update changes -/

@[simp] theorem State.setTile_tile (s : State) (t : BitVec 6) (x : Tile) : (s.setTile t x).tile t = x := by
  simp [State.setTile, State.tile]

theorem State.setTile_other (s : State) (t u : BitVec 6) (x : Tile) (h : u ≠ t) : (s.setTile t x).tile u = s.tile u := by
  have : t.toNat ≠ u.toNat := fun e => h (BitVec.eq_of_toNat_eq e.symm)
  simp [State.setTile, State.tile, this]

@[simp] theorem State.onTile_tile (s : State) (t : BitVec 6) (f : Tile → Tile) : (s.onTile t f).tile t = f (s.tile t) :=
  s.setTile_tile t _

theorem State.onTile_other (s : State) (t u : BitVec 6) (f : Tile → Tile) (h : u ≠ t) : (s.onTile t f).tile u = s.tile u :=
  s.setTile_other t u _ h

@[simp] theorem State.setTile_setTile (s : State) (t : BitVec 6) (x y : Tile) : (s.setTile t x).setTile t y = s.setTile t y := by
  simp [State.setTile]

@[simp] theorem State.onTile_onTile (s : State) (t : BitVec 6) (f g : Tile → Tile) :
    (s.onTile t f).onTile t g = s.onTile t fun x => g (f x) := by
  simp [State.onTile]

@[simp] theorem State.setTile_same (s : State) (t : BitVec 6) : s.setTile t (s.tile t) = s := by
  simp [State.setTile, State.tile]

@[simp] theorem State.setCluster_cluster (s : State) (c : BitVec 4) (x : Cluster) : (s.setCluster c x).cluster c = x := by
  simp [State.setCluster, State.cluster]

theorem State.setCluster_other (s : State) (c d : BitVec 4) (x : Cluster) (h : d ≠ c) :
    (s.setCluster c x).cluster d = s.cluster d := by
  have : c.toNat ≠ d.toNat := fun e => h (BitVec.eq_of_toNat_eq e.symm)
  simp [State.setCluster, State.cluster, this]

@[simp] theorem State.onCluster_cluster (s : State) (c : BitVec 4) (f : Cluster → Cluster) :
    (s.onCluster c f).cluster c = f (s.cluster c) := s.setCluster_cluster c _

@[simp] theorem State.setCluster_setCluster (s : State) (c : BitVec 4) (x y : Cluster) :
    (s.setCluster c x).setCluster c y = s.setCluster c y := by simp [State.setCluster]

@[simp] theorem State.setDie_die (s : State) (d : BitVec 2) (x : Die) : (s.setDie d x).die d = x := by
  simp [State.setDie, State.die]

theorem State.setDie_other (s : State) (d e : BitVec 2) (x : Die) (h : e ≠ d) : (s.setDie d x).die e = s.die e := by
  have : d.toNat ≠ e.toNat := fun q => h (BitVec.eq_of_toNat_eq q.symm)
  simp [State.setDie, State.die, this]

@[simp] theorem State.onDie_die (s : State) (d : BitVec 2) (f : Die → Die) : (s.onDie d f).die d = f (s.die d) := s.setDie_die d _

@[simp] theorem State.setTile_cluster (s : State) (t : BitVec 6) (x : Tile) (c : BitVec 4) :
    (s.setTile t x).cluster c = s.cluster c := rfl
@[simp] theorem State.setTile_die (s : State) (t : BitVec 6) (x : Tile) (d : BitVec 2) : (s.setTile t x).die d = s.die d := rfl
@[simp] theorem State.setCluster_tile (s : State) (c : BitVec 4) (x : Cluster) (t : BitVec 6) :
    (s.setCluster c x).tile t = s.tile t := rfl
@[simp] theorem State.setDie_tile (s : State) (d : BitVec 2) (x : Die) (t : BitVec 6) : (s.setDie d x).tile t = s.tile t := rfl
@[simp] theorem State.setTile_curTile (s : State) (t : BitVec 6) (x : Tile) : (s.setTile t x).curTile = s.curTile := rfl
@[simp] theorem State.onTile_curTile (s : State) (t : BitVec 6) (f : Tile → Tile) : (s.onTile t f).curTile = s.curTile := rfl
@[simp] theorem State.onCur_curTile (s : State) (f : Tile → Tile) : (s.onCur f).curTile = s.curTile := rfl
@[simp] theorem State.onCtl_curTile (s : State) (f : Control → Control) : (s.onCtl f).curTile = s.curTile := rfl
@[simp] theorem State.onCur_tile (s : State) (f : Tile → Tile) : (s.onCur f).tile s.curTile = f (s.tile s.curTile) :=
  s.onTile_tile _ _
@[simp] theorem State.onCtl_ctl (s : State) (f : Control → Control) : (s.onCtl f).ctl = f s.ctl := by
  simp [State.onCtl, State.ctl]
@[simp] theorem State.onCtl_onCtl (s : State) (f g : Control → Control) : (s.onCtl f).onCtl g = s.onCtl fun k => g (f k) := by
  simp [State.onCtl, State.onCur, State.curTile]

/-! ## Registers -/

/-- g0 reads as zero (R12). -/
@[simp] theorem Control.reg_zero (k : Control) : k.reg 0 = 0 := by simp [Control.reg]

/-- A write of g0 is discarded (R12). -/
@[simp] theorem Control.setReg_zero (k : Control) (x : W64) : k.setReg 0 x = k := by simp [Control.setReg]

/-- A register reads what was written to it. -/
theorem Control.reg_setReg (k : Control) (r : BitVec 5) (x : W64) (h : r ≠ 0) : (k.setReg r x).reg r = x := by
  simp only [Control.reg, Control.setReg, if_neg h, Vector.getElem_set_self]

/-- A write of a register leaves every other one alone. -/
theorem Control.reg_setReg_other (k : Control) (r q : BitVec 5) (x : W64) (h : q ≠ r) : (k.setReg r x).reg q = k.reg q := by
  have : r.toNat ≠ q.toNat := fun e => h (BitVec.eq_of_toNat_eq e.symm)
  by_cases h0 : r = 0
  · simp only [Control.setReg, if_pos h0]
  · simp only [Control.reg, Control.setReg, if_neg h0, Vector.getElem_set_ne _ _ this]

/-- x0 of a supervisor discards writes and reads as zero (R211). -/
@[simp] theorem Cluster.reg_zero (k : Cluster) : k.reg 0 = 0 := by simp [Cluster.reg]
@[simp] theorem Cluster.setReg_zero (k : Cluster) (x : W64) : k.setReg 0 x = k := by simp [Cluster.setReg]
theorem Cluster.reg_setReg (k : Cluster) (r : BitVec 5) (x : W64) (h : r ≠ 0) : (k.setReg r x).reg r = x := by
  simp only [Cluster.reg, Cluster.setReg, if_neg h, Vector.getElem_set_self]

/-- p0 reads all ones and discards writes (R12). -/
@[simp] theorem Tile.preg_zero (t : Tile) : t.preg 0 = BitVec.allOnes 512 := by simp [Tile.preg]
@[simp] theorem Tile.setPreg_zero (t : Tile) (x : PReg) : t.setPreg 0 x = t := by simp [Tile.setPreg]
theorem Tile.preg_setPreg (t : Tile) (p : BitVec 3) (x : PReg) (h : p ≠ 0) : (t.setPreg p x).preg p = x := by
  simp only [Tile.preg, Tile.setPreg, if_neg h, Vector.getElem_set_self]

@[simp] theorem Tile.sem_setSem (t : Tile) (n : BitVec 6) (x : Sem) : (t.setSem n x).sem n = x := by simp [Tile.sem, Tile.setSem]
@[simp] theorem Tile.window_setWindow (t : Tile) (n : BitVec 5) (x : Option Window) : (t.setWindow n x).window n = x := by
  simp [Tile.window, Tile.setWindow]
@[simp] theorem Tile.queue_setQueue (t : Tile) (q : BitVec 3) (x : Queue) : (t.setQueue q x).queue q = x := by
  simp [Tile.queue, Tile.setQueue]
@[simp] theorem Tile.stream_setStream (t : Tile) (x : BStream) (y : Stream) : (t.setStream x y).stream x = y := by
  cases x <;> rfl
@[simp] theorem Tile.setStream_setStream (t : Tile) (x : BStream) (y z : Stream) :
    (t.setStream x y).setStream x z = t.setStream x z := by cases x <;> rfl
theorem Tile.stream_setStream_other (t : Tile) (x x' : BStream) (y : Stream) (h : x' ≠ x) :
    (t.setStream x y).stream x' = t.stream x' := by cases x <;> cases x' <;> first | rfl | exact absurd rfl h

end Sys2Proof.Machine
end

