-- ==== Sys2Proof/Laws/Control.lean ====
section
/-!
SUPPORT. Sys2Proof/Laws/Control.lean: how a word of the C stream ends, said once for each of the shared endings.
-/

namespace Sys2Proof.Machine

/-- The end of a word, as the statements say it. -/
theorem Control.finish_eq (k : Control) : k.finish = k.next := by
  simp only [Control.finish, Control.advance, Control.next]
  split
  · next h => simp; rw [h]; decide
  · split <;> simp

theorem Control.transfer_eq (k : Control) (x : BitVec 17) : k.transfer x = k.jumps x := rfl

/-- A change of the C stream changes nothing else of the package. -/
theorem State.onCtl_only (s : State) (f : Control → Control) : s.OnlyControl (s.onCtl f) s.curTile := by
  simp [State.OnlyControl, State.OnlyTile, State.onCtl]
  rfl

theorem State.onCtl_bytes (s : State) (f : Control → Control) : s.SameBytes (s.onCtl f) := fun _ => rfl

/-- A change of the current tile changes nothing else of the package. -/
theorem State.onCur_only (s : State) (f : Tile → Tile) : s.OnlyTile (s.onCur f) s.curTile := by
  simp [State.OnlyTile]; rfl

theorem State.onCur_bytes (s : State) (f : Tile → Tile) : s.SameBytes (s.onCur f) := fun _ => rfl

theorem State.ctl_setG (s : State) (d : BitVec 5) (v : W64) : (s.setG d v).ctl = s.ctl.setReg d v := s.onCtl_ctl _

theorem Control.setReg_g (k : Control) (d : BitVec 5) (v : W64) : k.setReg d v = { k with g := (k.setReg d v).g } := by
  unfold Control.setReg; split <;> rfl

theorem Control.reg_next (k : Control) (r : BitVec 5) : k.next.reg r = k.reg r := rfl

/-- A result in gd (R44, R46). -/
theorem State.result_register (s : State) (d : BitVec 5) (v : W64) : s.CRegister (s.result d v) d v := by
  have e : s.result d v = s.onCtl fun k => (k.setReg d v).next := by
    simp only [State.result, State.cDone, State.setG, State.onCtl_onCtl, Control.finish_eq]
  have hc : (s.onCtl fun k => (k.setReg d v).next).ctl = (s.ctl.setReg d v).next := s.onCtl_ctl _
  rw [e]
  refine ⟨?_, ?_, s.onCtl_only _, ?_, s.onCtl_bytes _⟩
  · simp only [State.g, hc, Control.reg_next]
    split
    · next h => subst h; rfl
    · next h => exact Control.reg_setReg _ _ _ h
  · intro r hr
    simp only [State.g, hc, Control.reg_next]
    exact Control.reg_setReg_other _ _ _ _ hr
  · rw [hc, Control.setReg_g]; rfl

/-- One bit of a number replaced. -/
theorem putBits_bit (x i j : Nat) (b : Bool) : (putBits x i i (b2n b)).testBit j = if j = i then b else x.testBit j := by
  have h0 : putBits x i i (b2n b) = x / 2 ^ (i + 1) * 2 ^ (i + 1) + (x % 2 ^ i + b2n b * 2 ^ i) := by
    unfold putBits bits
    have h1 : i + 1 - i = 1 := by omega
    have h2 : b2n b % 2 ^ 1 = b2n b := by cases b <;> rfl
    rw [h1, h2]
    have h3 : x = 2 ^ i * (x / 2 ^ i) + x % 2 ^ i := (Nat.div_add_mod x (2 ^ i)).symm
    have h4 : x / 2 ^ i = 2 * (x / 2 ^ (i + 1)) + x / 2 ^ i % 2 := by
      rw [Nat.pow_succ, ← Nat.div_div_eq_div_mul]; omega
    have h5 : x / 2 ^ (i + 1) * 2 ^ (i + 1) = 2 ^ i * (2 * (x / 2 ^ (i + 1))) := by ring
    have h6 : x = 2 ^ i * (2 * (x / 2 ^ (i + 1))) + x / 2 ^ i % 2 * 2 ^ i + x % 2 ^ i := by
      conv_lhs => rw [h3, h4]
      ring
    simp only [pow_one]
    omega
  rw [h0]
  have hlt : x % 2 ^ i + b2n b * 2 ^ i < 2 ^ (i + 1) := by
    have := Nat.mod_lt x (Nat.two_pow_pos i)
    cases b <;> simp [b2n, Nat.pow_succ] <;> omega
  have hb : (x % 2 ^ i + b2n b * 2 ^ i).testBit j = if j < i then x.testBit j else if j = i then b else false := by
    have hm := Nat.mod_lt x (Nat.two_pow_pos i)
    have e1 : x % 2 ^ i + b2n b * 2 ^ i = 2 ^ i * b2n b + x % 2 ^ i := by ring
    rw [e1, Nat.testBit_two_pow_mul_add _ hm]
    split
    · simp [*]
    · next h =>
      cases b
      · simp [b2n]
      · simp only [b2n, if_true]
        by_cases hj : j = i
        · simp [hj]
        · rw [if_neg hj, show j - i = (j - i - 1) + 1 by omega, Nat.testBit_succ]; simp
  have e2 : x / 2 ^ (i + 1) * 2 ^ (i + 1) + (x % 2 ^ i + b2n b * 2 ^ i)
      = 2 ^ (i + 1) * (x / 2 ^ (i + 1)) + (x % 2 ^ i + b2n b * 2 ^ i) := by ring
  rw [e2, Nat.testBit_two_pow_mul_add _ hlt, hb]
  by_cases h1 : j < i + 1
  · rw [if_pos h1]
    by_cases h2 : j = i
    · simp [h2]
    · simp [show j < i by omega, h2]
  · rw [if_neg h1, if_neg (by omega : ¬ j = i), Nat.testBit_div_two_pow]
    congr 1; omega

/-- A condition register reads what was written to it, every other one what it read before. -/
theorem Control.cond_setCond (k : Control) (d r : BitVec 3) (v : Bool) :
    (k.setCond d v).cond r = if r = d then v else k.cond r := by
  have hr : r.toNat < 8 := r.isLt
  simp only [Control.cond, Control.setCond, BitVec.getLsbD_ofNat, putBits_bit, hr, decide_true, Bool.true_and]
  by_cases h : r = d
  · simp [h]
  · have : r.toNat ≠ d.toNat := fun e => h (BitVec.eq_of_toNat_eq e)
    simp [h, this, BitVec.getLsbD]

/-- A result in cd (R50, R52). -/
theorem State.resultC_condition (s : State) (d : BitVec 3) (v : Bool) : s.CCondition (s.resultC d v) d v := by
  have e : s.resultC d v = s.onCtl fun k => (k.setCond d v).next := by
    simp only [State.resultC, State.cDone, State.setC, State.onCtl_onCtl, Control.finish_eq]
  have hc : (s.onCtl fun k => (k.setCond d v).next).ctl = (s.ctl.setCond d v).next := s.onCtl_ctl _
  rw [e]
  refine ⟨?_, ?_, s.onCtl_only _, ?_, s.onCtl_bytes _⟩
  · have := s.ctl.cond_setCond d d v
    rw [if_pos rfl] at this
    simp only [State.c, hc]; exact this
  · intro r hr
    have := s.ctl.cond_setCond d r v
    rw [if_neg hr] at this
    simp only [State.c, hc]; exact this
  · rw [hc]; rfl

/-- A word that is done and has no other effect. -/
theorem State.cDone_ends (s : State) : s.CEnds s.cDone := by
  refine ⟨s.onCtl_only _, ?_, s.onCtl_bytes _⟩
  rw [State.cDone, s.onCtl_ctl, Control.finish_eq]

/-! ## Endings as the statements say them -/

@[simp] theorem State.onCur_onCur (s : State) (f g : Tile → Tile) : (s.onCur f).onCur g = s.onCur fun x => g (f x) := by
  simp [State.onCur, State.curTile]

/-- A change of the current tile. -/
theorem State.onCur_becomes (s : State) (f : Tile → Tile) : s.CBecomes (s.onCur f) (f (s.tile s.curTile)) :=
  ⟨s.onCur_only f, s.onCur_tile f, s.onCur_bytes f⟩

/-- A change of the C stream. -/
theorem State.onCtl_becomes (s : State) (f : Control → Control) :
    s.CBecomes (s.onCtl f) { s.tile s.curTile with control := f s.ctl } := s.onCur_becomes _

theorem State.cDone_eq (s : State) : s.cDone = s.onCur fun t => { t with control := t.control.next } := by
  simp only [State.cDone, State.onCtl, Control.finish_eq]

/-- An instruction that waits has had no effect (R75). -/
theorem State.cStall_waits (s : State) : s.CWaits s.cStall :=
  s.onCur_becomes fun t => { t with control := { t.control with stalled := true } }

/-! ## A trap of the C stream (R243, R303, R310) -/

theorem Tile.applyLate_control (t : Tile) (x : Late) : (t.applyLate x).control = t.control := by
  cases x <;> simp only [Tile.applyLate]
  · unfold Tile.setVreg; split <;> rfl
  · unfold Tile.setPreg; split <;> rfl
  · rfl
  · unfold Tile.setBank; split <;> rfl

theorem Tile.applyLate_streams (t : Tile) (x : Late) (y : BStream) : (t.applyLate x).stream y = t.stream y := by
  cases x <;> simp only [Tile.applyLate] <;> cases y <;> simp only [Tile.stream]
  all_goals first
    | rfl
    | (unfold Tile.setVreg; split <;> rfl)
    | (unfold Tile.setPreg; split <;> rfl)
    | (unfold Tile.setBank; split <;> rfl)

theorem Tile.applyLate_status (t : Tile) (x : Late) : (t.applyLate x).status = t.status := by
  cases x <;> simp only [Tile.applyLate]
  · unfold Tile.setVreg; split <;> rfl
  · unfold Tile.setPreg; split <;> rfl
  · rfl
  · unfold Tile.setBank; split <;> rfl

theorem Tile.applyLate_event (t : Tile) (x : Late) : (t.applyLate x).event = t.event := by
  cases x <;> simp only [Tile.applyLate]
  · unfold Tile.setVreg; split <;> rfl
  · unfold Tile.setPreg; split <;> rfl
  · rfl
  · unfold Tile.setBank; split <;> rfl

theorem Tile.write_keeps {α : Type} (p : Tile → α) (h : ∀ t x, p (Tile.applyLate t x) = p t)
    (h0 : ∀ (t : Tile) l, p { t with pending := l } = p t) (t : Tile) (f : Pending → Bool) : p (t.write f) = p t := by
  unfold Tile.write
  have : ∀ (l : List Pending) (u : Tile), p (l.foldl (fun t q => t.applyLate q.what) u) = p u := by
    intro l
    induction l with
    | nil => intro u; rfl
    | cons q r ih => intro u; simp only [List.foldl_cons, ih, h]
  rw [this, h0]

@[simp] theorem Tile.write_control (t : Tile) (f : Pending → Bool) : (t.write f).control = t.control :=
  Tile.write_keeps _ Tile.applyLate_control (fun _ _ => rfl) t f
@[simp] theorem Tile.write_status (t : Tile) (f : Pending → Bool) : (t.write f).status = t.status :=
  Tile.write_keeps _ Tile.applyLate_status (fun _ _ => rfl) t f
@[simp] theorem Tile.write_event (t : Tile) (f : Pending → Bool) : (t.write f).event = t.event :=
  Tile.write_keeps _ Tile.applyLate_event (fun _ _ => rfl) t f
@[simp] theorem Tile.write_stream (t : Tile) (f : Pending → Bool) (x : BStream) : (t.write f).stream x = t.stream x :=
  Tile.write_keeps (fun t => t.stream x) (fun t y => t.applyLate_streams y x) (fun _ _ => by cases x <;> rfl) t f

theorem Tile.unbind_stream (t : Tile) (x y : BStream) : (t.unbind x).stream y = t.stream y := by
  unfold Tile.unbind; dsimp only; split <;> cases y <;> rfl
theorem Tile.unbind_control (t : Tile) (x : BStream) : (t.unbind x).control = t.control := by
  unfold Tile.unbind; dsimp only; split <;> rfl
theorem Tile.setStream_control (t : Tile) (x : BStream) (y : Stream) : (t.setStream x y).control = t.control := by
  cases x <;> rfl

/-- What stopping one stream leaves (R86). -/
theorem Tile.stopStream_stream (t : Tile) (x y : BStream) :
    (t.stopStream x).stream y = if y = x then (t.stream x).stop else t.stream y := by
  unfold Tile.stopStream
  dsimp only
  split
  · rw [Tile.write_stream, Tile.unbind_stream]
    split
    · next h => subst h; simp
    · next h => exact t.stream_setStream_other x y _ h
  · next h =>
    split
    · next e =>
      subst e
      unfold Stream.stop
      split <;> simp_all
    · rfl

theorem Tile.stopStream_control (t : Tile) (x : BStream) : (t.stopStream x).control = t.control := by
  unfold Tile.stopStream
  dsimp only
  split
  · rw [Tile.write_control, Tile.unbind_control, Tile.setStream_control]
  · rfl

theorem Tile.stopAll_stream (t : Tile) (y : BStream) : t.stopAll.stream y = (t.stream y).stop := by
  cases y <;> simp [Tile.stopAll, Tile.stopStream_stream]

theorem Tile.stopAll_control (t : Tile) : t.stopAll.control = t.control := by
  simp [Tile.stopAll, Tile.stopStream_control]

theorem Stream.stop_state (x : Stream) : x.stop.state = if x.state = .await ∨ x.state = .run then .stopped else x.state := by
  unfold Stream.stop
  split <;> simp_all

theorem Tile.applyLate_trapping (t : Tile) (x : Late) : (t.applyLate x).trapping = t.trapping := by
  cases x <;> simp only [Tile.applyLate]
  · unfold Tile.setVreg; split <;> rfl
  · unfold Tile.setPreg; split <;> rfl
  · rfl
  · unfold Tile.setBank; split <;> rfl
@[simp] theorem Tile.write_trapping (t : Tile) (f : Pending → Bool) : (t.write f).trapping = t.trapping :=
  Tile.write_keeps _ Tile.applyLate_trapping (fun _ _ => rfl) t f
theorem Tile.unbind_trapping (t : Tile) (x : BStream) : (t.unbind x).trapping = t.trapping := by
  unfold Tile.unbind; dsimp only; split <;> rfl
theorem Tile.setStream_trapping (t : Tile) (x : BStream) (y : Stream) : (t.setStream x y).trapping = t.trapping := by
  cases x <;> rfl
theorem Tile.stopStream_trapping (t : Tile) (x : BStream) : (t.stopStream x).trapping = t.trapping := by
  unfold Tile.stopStream
  dsimp only
  split
  · rw [Tile.write_trapping, Tile.unbind_trapping, Tile.setStream_trapping]
  · rfl

/-- What a stream that is to stop is once it has. -/
def Stream.stopped (x : Stream) : Stream := if x.stopDue then { x with stopDue := false }.stop else x

theorem Stream.stopped_due (x : Stream) : x.stopped.stopDue = false := by
  unfold Stream.stopped Stream.stop
  cases h : x.stopDue <;> simp [h]
  split <;> rfl

/-- No exposed block runs: a stream that is to stop stops. -/
theorem Tile.stopIfDue_stream (t : Tile) (x y : BStream) (h : (t.stream x).exposedRun = false) :
    (t.stopIfDue x).stream y = if y = x then (t.stream x).stopped else t.stream y := by
  have hh : t.heldOff x = false := by simp [Tile.heldOff, h]
  unfold Tile.stopIfDue Stream.stopped
  rw [hh]
  cases hd : (t.stream x).stopDue
  · simp only [Bool.false_and, Bool.false_eq_true, if_false]
    split
    · next e => rw [e]
    · rfl
  · simp only [Bool.not_false, Bool.and_self, if_true, Tile.stopStream_stream, Tile.onStream, Tile.stream_setStream]
    split
    · rfl
    · next e => exact t.stream_setStream_other x y _ e

theorem Tile.stopIfDue_control (t : Tile) (x : BStream) : (t.stopIfDue x).control = t.control := by
  unfold Tile.stopIfDue
  split
  · rw [Tile.stopStream_control]; exact Tile.setStream_control _ _ _
  · rfl
theorem Tile.stopIfDue_trapping (t : Tile) (x : BStream) : (t.stopIfDue x).trapping = t.trapping := by
  unfold Tile.stopIfDue
  split
  · rw [Tile.stopStream_trapping]; exact Tile.setStream_trapping _ _ _
  · rfl

/-- Every stream that is to stop does. -/
def Tile.stopDueNow (t : Tile) : Tile := (((t.stopIfDue .v).stopIfDue .m).stopIfDue .l).stopIfDue .s

theorem Tile.stopDueNow_stream (t : Tile) (h : ∀ x, (t.stream x).exposedRun = false) (y : BStream) :
    t.stopDueNow.stream y = (t.stream y).stopped := by
  have h1 : ((t.stopIfDue .v).stream .m).exposedRun = false := by rw [t.stopIfDue_stream _ _ (h _)]; exact h _
  have h2 : (((t.stopIfDue .v).stopIfDue .m).stream .l).exposedRun = false := by
    rw [Tile.stopIfDue_stream _ _ _ h1, if_neg (by decide), t.stopIfDue_stream _ _ (h _)]; exact h _
  have h3 : ((((t.stopIfDue .v).stopIfDue .m).stopIfDue .l).stream .s).exposedRun = false := by
    rw [Tile.stopIfDue_stream _ _ _ h2, if_neg (by decide), Tile.stopIfDue_stream _ _ _ h1, if_neg (by decide),
      t.stopIfDue_stream _ _ (h _)]
    exact h _
  unfold Tile.stopDueNow
  cases y <;> simp [Tile.stopIfDue_stream _ _ _ h3, Tile.stopIfDue_stream _ _ _ h2, Tile.stopIfDue_stream _ _ _ h1,
    t.stopIfDue_stream _ _ (h _)]

theorem Tile.stopDueNow_control (t : Tile) : t.stopDueNow.control = t.control := by
  simp [Tile.stopDueNow, Tile.stopIfDue_control]
theorem Tile.stopDueNow_trapping (t : Tile) : t.stopDueNow.trapping = t.trapping := by
  simp [Tile.stopDueNow, Tile.stopIfDue_trapping]

/-- With no exposed block running, a trap that is being taken makes the tile FAULTED with its record. -/
theorem Tile.applyStops_faults (t : Tile) (r : TrapRecord) (n : Nat) (h : t.trapping = some (r, n))
    (hx : ∀ x, (t.stream x).exposedRun = false) :
    t.applyStops = ({ t.stopDueNow with trap := r, trapping := none }).enter .faulted := by
  have hs : t.stopDueNow.stopsDue = false := by
    simp [Tile.stopsDue, t.stopDueNow_stream hx, Stream.stopped_due]
  have ht : t.stopDueNow.trapping = some (r, n) := t.stopDueNow_trapping.trans h
  show (match t.stopDueNow.trapping with
    | some (r, _) => if t.stopDueNow.stopsDue then t.stopDueNow else ({ t.stopDueNow with trap := r, trapping := none }).enter .faulted
    | none => t.stopDueNow) = _
  rw [ht]
  simp [hs]

/-- The tile as a trap begins to be taken: its streams are to stop, and the word of the C stream waits for nothing. -/
def Tile.trapBegins (t : Tile) (r : TrapRecord) : Tile :=
  { t.mustStop fun _ => true with
    trapping := some (r, t.tc), control := { t.control with stalled := false, pause := 0, wait := none } }

theorem Tile.trapBegins_stream (t : Tile) (r : TrapRecord) (x : BStream) :
    (t.trapBegins r).stream x = { t.stream x with
      stopDue := (t.stream x).stopDue || (true && (decide ((t.stream x).state = .await) || decide ((t.stream x).state = .run))) } := by
  cases x <;> rfl

/-- What a trap taken by the supervisor leaves where the streams of the tile stop at once. -/
theorem Tile.takeTrap_faults (t : Tile) (r : TrapRecord) (h : t.status = .run) (hs : t.stopsAtOnce) :
    t.takeTrap r = ({ (t.trapBegins r).stopDueNow with trap := r, trapping := none }).enter .faulted := by
  have e : t.takeTrap r = (t.trapBegins r).applyStops := by
    unfold Tile.takeTrap; rw [if_pos (Or.inl h), hs.1]; rfl
  rw [e]
  refine Tile.applyStops_faults _ r t.tc rfl fun x => ?_
  rw [t.trapBegins_stream r x]
  exact (hs.2 x).1

theorem Tile.takeTrap_stream (t : Tile) (r : TrapRecord) (h : t.status = .run) (hs : t.stopsAtOnce) (x : BStream) :
    ((t.takeTrap r).stream x).state =
      if (t.stream x).state = .await ∨ (t.stream x).state = .run then .stopped else (t.stream x).state := by
  have e : (t.takeTrap r).stream x = ((t.trapBegins r).stopDueNow).stream x := by
    rw [t.takeTrap_faults r h hs]; cases x <;> rfl
  have hx : ∀ y, ((t.trapBegins r).stream y).exposedRun = false := fun y => by
    rw [t.trapBegins_stream r y]; exact (hs.2 y).1
  rw [e, Tile.stopDueNow_stream _ hx, t.trapBegins_stream]
  unfold Stream.stopped
  have hd := (hs.2 x).2
  by_cases hw : (t.stream x).state = .await ∨ (t.stream x).state = .run
  · have : (decide ((t.stream x).state = .await) || decide ((t.stream x).state = .run)) = true := by simpa using hw
    simp [this, Stream.stop_state, hw]
  · have : (decide ((t.stream x).state = .await) || decide ((t.stream x).state = .run)) = false := by simpa using hw
    simp [this, hd, hw]

/-- A trap of the C stream that no user handler takes. -/
theorem State.cTrap_traps (s : State) (cause : Byte) (val : W64) (h : (s.tile s.curTile).status = .run)
    (hu : (s.tile s.curTile).userLevel cause = false) (hd : cause ≠ causeDebug) : s.CTraps (s.cTrap cause val) cause val := by
  have e : s.cTrap cause val = s.onCur fun t => if t.userLevel cause then t.userTrap cause val else t.controlTrap cause val := rfl
  have ht : (s.cTrap cause val).tile s.curTile = (s.tile s.curTile).controlTrap cause val := by
    rw [e, s.onCur_tile, hu]; rfl
  refine ⟨ht, ?_, ?_, fun hs => ?_⟩
  · rw [e]; exact s.onCur_only _
  · rw [e]; exact s.onCur_bytes _
  · have hk := (s.tile s.curTile).takeTrap_faults ((s.tile s.curTile).control.trapRecord cause val) h hs
    have hc : (cause != causeDebug) = true := by simpa using hd
    have hq : (s.cTrap cause val).ctl = ((s.cTrap cause val).tile s.curTile).control := rfl
    rw [hq, ht]
    refine ⟨?_, ?_, ?_, fun x => ?_, ?_⟩
    · simp only [Tile.controlTrap, hk]; rfl
    · simp only [Tile.controlTrap, hk, Tile.enter]; simp
    · simp only [Tile.controlTrap, hk]; rfl
    · rw [← Tile.takeTrap_stream _ _ h hs]
      cases x <;> rfl
    · simp only [Tile.controlTrap, hk, Tile.enter, hc, Bool.or_true, Tile.stopDueNow_control]
      rfl

/-- Causes below 0x80 other than NOTREADY go to the supervisor (R105, R309). -/
theorem Tile.userLevel_low (t : Tile) (cause : Byte) (h1 : cause ≠ causeNotready) (h2 : cause.toNat < 0x80) :
    t.userLevel cause = false := by
  have : ¬ 0x80 ≤ cause.toNat := by omega
  simp [Tile.userLevel, h1, this]

end Sys2Proof.Machine
end

