-- ==== Sys2Proof/Laws/Memory.lean ====
section
/-!
SUPPORT. Sys2Proof/Laws/Memory.lean: finite maps and memory: what a read gives after a write, that a write leaves every
other address alone, and that every operation keeps the canonical form.
-/

namespace Sys2Proof.Machine

/-- Every key of the map lies above n. -/
def TAbove {α : Type} (n : Nat) (t : Table α) : Prop := ∀ e ∈ t, n < e.1

theorem tget_tput {α : Type} (t : Table α) (a b : Nat) (x : α) :
    tget (tput t a x) b = if b = a then some x else tget t b := by
  induction t with
  | nil => simp only [tput, tget]
  | cons e r ih =>
    obtain ⟨k, v⟩ := e
    simp only [tput]
    split
    · by_cases hb : b = a <;> simp [tget, hb]
    · split
      · subst k
        by_cases hb : b = a <;> simp [tget, hb]
      · next h2 =>
        simp only [tget, ih]
        by_cases hk : b = k
        · subst hk; rw [if_pos rfl, if_pos rfl, if_neg (fun e => h2 e.symm)]
        · simp [hk]

theorem tget_tdrop {α : Type} (t : Table α) (a b : Nat) : tget (tdrop t a) b = if b = a then none else tget t b := by
  induction t with
  | nil => simp [tdrop, tget]
  | cons e r ih =>
    obtain ⟨k, v⟩ := e
    simp only [tdrop] at ih ⊢
    by_cases hk : k = a
    · subst hk
      simp only [List.filter_cons, bne_self_eq_false, Bool.false_eq_true, if_false, ih, tget]
      by_cases hb : b = k <;> simp [hb]
    · simp only [List.filter_cons, bne_iff_ne, ne_eq, hk, not_false_eq_true, if_true, tget, ih]
      by_cases hb : b = a
      · subst hb; simp [Ne.symm hk]
      · simp [hb]

/-- A key reads what it was set to, and every other key what it read before. -/
theorem tval_tset {α : Type} [DecidableEq α] (d : α) (t : Table α) (a b : Nat) (x : α) :
    tval d (tset d t a x) b = if b = a then x else tval d t b := by
  unfold tval tset
  split
  · subst x; rw [tget_tdrop]; split <;> simp
  · rw [tget_tput]; split <;> simp

theorem twf_cons {α : Type} [DecidableEq α] (d : α) (k : Nat) (v : α) (r : Table α) :
    twf d ((k, v) :: r) = true ↔ v ≠ d ∧ TAbove k r ∧ twf d r = true := by
  induction r generalizing k v with
  | nil => simp [twf, TAbove]
  | cons e r ih =>
    obtain ⟨k', v'⟩ := e
    simp only [twf, Bool.and_eq_true, decide_eq_true_eq, and_assoc]
    constructor
    · rintro ⟨h1, h2, h3⟩
      refine ⟨h1, ?_, h3⟩
      have h4 := ((ih k' v').1 h3).2.1
      intro e he
      rcases List.mem_cons.1 he with rfl | he
      · exact h2
      · exact Nat.lt_trans h2 (h4 e he)
    · rintro ⟨h1, h2, h3⟩
      exact ⟨h1, h2 (k', v') (by simp), h3⟩

theorem TAbove.tput {α : Type} {n a : Nat} {t : Table α} {x : α} (h : TAbove n t) (ha : n < a) : TAbove n (tput t a x) := by
  induction t with
  | nil => intro e he; simp [Machine.tput] at he; subst he; exact ha
  | cons e r ih =>
    obtain ⟨k, v⟩ := e
    have hk : n < k := h (k, v) (by simp)
    have hr : TAbove n r := fun e he => h e (by simp [he])
    simp only [Machine.tput]
    split
    · intro e he
      rcases List.mem_cons.1 he with rfl | he
      · exact ha
      · exact h e he
    · split
      · intro e he
        rcases List.mem_cons.1 he with rfl | he
        · exact ha
        · exact hr e he
      · intro e he
        rcases List.mem_cons.1 he with rfl | he
        · exact hk
        · exact ih hr e he

/-- A map keeps its canonical form when a key is set to what is not the default. -/
theorem twf_tput {α : Type} [DecidableEq α] (d : α) (t : Table α) (a : Nat) (x : α) (hx : x ≠ d) (h : twf d t = true) :
    twf d (tput t a x) = true := by
  induction t with
  | nil => simp [tput, twf, hx]
  | cons e r ih =>
    obtain ⟨k, v⟩ := e
    obtain ⟨hv, hab, hr⟩ := (twf_cons d k v r).1 h
    simp only [tput]
    split
    · next hlt =>
      refine (twf_cons d a x _).2 ⟨hx, ?_, h⟩
      intro e he
      rcases List.mem_cons.1 he with rfl | he
      · exact hlt
      · exact Nat.lt_trans hlt (hab e he)
    · split
      · next heq => subst heq; exact (twf_cons d a x r).2 ⟨hx, hab, hr⟩
      · next h1 h2 => exact (twf_cons d k v _).2 ⟨hv, hab.tput (by omega), ih hr⟩

/-- A map keeps its canonical form when entries are left out. -/
theorem twf_filter {α : Type} [DecidableEq α] (d : α) (t : Table α) (p : Nat × α → Bool) (h : twf d t = true) :
    twf d (t.filter p) = true := by
  induction t with
  | nil => rfl
  | cons e r ih =>
    obtain ⟨k, v⟩ := e
    obtain ⟨hv, hab, hr⟩ := (twf_cons d k v r).1 h
    simp only [List.filter_cons]
    split
    · exact (twf_cons d k v _).2 ⟨hv, fun e he => hab e (List.mem_filter.1 he).1, ih hr⟩
    · exact ih hr

theorem twf_tset {α : Type} [DecidableEq α] (d : α) (t : Table α) (a : Nat) (x : α) (h : twf d t = true) :
    twf d (tset d t a x) = true := by
  unfold tset
  split
  · exact twf_filter d t _ h
  · next hx => exact twf_tput d t a x hx h

/-! ## Memory -/

/-- An address reads the byte written to it, every other address what it read before. -/
theorem Memory.byte_setByte (m : Memory) (a b : Nat) (x : Byte) :
    (m.setByte a x).byte b = if b = a then x else m.byte b := tval_tset 0 m a b x

theorem Memory.setByte_wf (m : Memory) (a : Nat) (x : Byte) (h : m.wf = true) : (m.setByte a x).wf = true :=
  twf_tset 0 m a x h

/-- A write keeps the canonical form. -/
theorem Memory.setBytes_wf (m : Memory) (a : Nat) (bs : List Byte) (h : m.wf = true) : (m.setBytes a bs).wf = true := by
  induction bs generalizing m a with
  | nil => exact h
  | cons b r ih => exact ih _ _ (m.setByte_wf a b h)

/-- A write leaves every byte outside it alone. -/
theorem Memory.byte_setBytes_other (m : Memory) (a : Nat) (bs : List Byte) (b : Nat) (h : b < a ∨ a + bs.length ≤ b) :
    (m.setBytes a bs).byte b = m.byte b := by
  induction bs generalizing m a with
  | nil => rfl
  | cons x r ih =>
    simp only [List.length_cons] at h
    simp only [Memory.setBytes]
    rw [ih _ _ (by omega), Memory.byte_setByte, if_neg (by omega)]

/-- Every written byte reads back. -/
theorem Memory.byte_setBytes (m : Memory) (a : Nat) (bs : List Byte) (i : Nat) (h : i < bs.length) :
    (m.setBytes a bs).byte (a + i) = bs[i] := by
  induction bs generalizing m a i with
  | nil => simp at h
  | cons x r ih =>
    simp only [Memory.setBytes]
    cases i with
    | zero => rw [Memory.byte_setBytes_other _ _ _ _ (by omega), Memory.byte_setByte]; simp
    | succ j =>
      have := ih (m.setByte a x) (a + 1) j (by simpa using h)
      rw [show a + (j + 1) = a + 1 + j by omega]
      simpa using this

/-- A range reads back what was written to it. -/
theorem Memory.bytes_setBytes (m : Memory) (a : Nat) (bs : List Byte) : (m.setBytes a bs).bytes a bs.length = bs := by
  have key : ∀ (n : Nat) (l : List Byte) (m' : Memory) (a : Nat), l.length = n → (∀ i (h : i < l.length), m'.byte (a + i) = l[i]) →
      m'.bytes a n = l := by
    intro n
    induction n with
    | zero => intro l m' a hl _; cases l with | nil => rfl | cons => simp at hl
    | succ n ih =>
      intro l m' a hl h
      cases l with
      | nil => simp at hl
      | cons x r =>
        simp only [Memory.bytes]
        have h0 := h 0 (by simp)
        simp only [Nat.add_zero, List.getElem_cons_zero] at h0
        rw [h0, ih r m' (a + 1) (by simpa using hl)]
        intro i hi
        have := h (i + 1) (by simpa using hi)
        rw [show a + 1 + i = a + (i + 1) by omega]
        simpa using this
  exact key _ bs _ _ rfl fun i h => m.byte_setBytes a bs i h

/-- A store to the physical map keeps the canonical form. -/
theorem State.put_wf (s : State) (pa : Nat) (bs : List Byte) (h : s.mem.wf = true) : (s.put pa bs).mem.wf = true := by
  have : (s.put pa bs).mem = s.mem.setBytes pa bs := by
    unfold State.put State.markRows; split <;> rfl
  rw [this]; exact Memory.setBytes_wf _ _ _ h

/-- Bytes taken out of the memory leave it in the canonical form. -/
theorem Memory.filter_wf (m : Memory) (p : Nat × Byte → Bool) (h : m.wf = true) : Memory.wf (m.filter p) = true :=
  twf_filter 0 m p h

theorem State.reset_mem_wf : State.reset.mem.wf = true := rfl

end Sys2Proof.Machine
end

