-- ==== Sys2Proof/Laws/PerInstr.lean ====
section
/-!
SUPPORT. Sys2Proof/Laws/PerInstr.lean: statements about an instruction as syntax, one lemma for each constructor.
-/

open Sys2Proof

/-- R18: only an instruction word carries a field that a limit binds: an event row, which has no encoding, is well formed. -/
def Sys2Proof.Laws.FieldLimits.Statement (i : Instr) : Prop := encode i = none → i.wf = true

theorem Sys2Proof.Laws.FieldLimits.add : ∀ a0 a1 a2, Sys2Proof.Laws.FieldLimits.Statement (.add a0 a1 a2) := fun _ _ _ h => absurd h (Option.some_ne_none _)
theorem Sys2Proof.Laws.FieldLimits.sub : ∀ a0 a1 a2, Sys2Proof.Laws.FieldLimits.Statement (.sub a0 a1 a2) := fun _ _ _ h => absurd h (Option.some_ne_none _)
theorem Sys2Proof.Laws.FieldLimits.and : ∀ a0 a1 a2, Sys2Proof.Laws.FieldLimits.Statement (.and a0 a1 a2) := fun _ _ _ h => absurd h (Option.some_ne_none _)
theorem Sys2Proof.Laws.FieldLimits.or : ∀ a0 a1 a2, Sys2Proof.Laws.FieldLimits.Statement (.or a0 a1 a2) := fun _ _ _ h => absurd h (Option.some_ne_none _)
theorem Sys2Proof.Laws.FieldLimits.xor : ∀ a0 a1 a2, Sys2Proof.Laws.FieldLimits.Statement (.xor a0 a1 a2) := fun _ _ _ h => absurd h (Option.some_ne_none _)
theorem Sys2Proof.Laws.FieldLimits.andn : ∀ a0 a1 a2, Sys2Proof.Laws.FieldLimits.Statement (.andn a0 a1 a2) := fun _ _ _ h => absurd h (Option.some_ne_none _)
theorem Sys2Proof.Laws.FieldLimits.sll : ∀ a0 a1 a2, Sys2Proof.Laws.FieldLimits.Statement (.sll a0 a1 a2) := fun _ _ _ h => absurd h (Option.some_ne_none _)
theorem Sys2Proof.Laws.FieldLimits.srl : ∀ a0 a1 a2, Sys2Proof.Laws.FieldLimits.Statement (.srl a0 a1 a2) := fun _ _ _ h => absurd h (Option.some_ne_none _)
theorem Sys2Proof.Laws.FieldLimits.sra : ∀ a0 a1 a2, Sys2Proof.Laws.FieldLimits.Statement (.sra a0 a1 a2) := fun _ _ _ h => absurd h (Option.some_ne_none _)
theorem Sys2Proof.Laws.FieldLimits.mul : ∀ a0 a1 a2, Sys2Proof.Laws.FieldLimits.Statement (.mul a0 a1 a2) := fun _ _ _ h => absurd h (Option.some_ne_none _)
theorem Sys2Proof.Laws.FieldLimits.mulh : ∀ a0 a1 a2, Sys2Proof.Laws.FieldLimits.Statement (.mulh a0 a1 a2) := fun _ _ _ h => absurd h (Option.some_ne_none _)
theorem Sys2Proof.Laws.FieldLimits.mulhn : ∀ a0 a1 a2, Sys2Proof.Laws.FieldLimits.Statement (.mulhn a0 a1 a2) := fun _ _ _ h => absurd h (Option.some_ne_none _)
theorem Sys2Proof.Laws.FieldLimits.div : ∀ a0 a1 a2, Sys2Proof.Laws.FieldLimits.Statement (.div a0 a1 a2) := fun _ _ _ h => absurd h (Option.some_ne_none _)
theorem Sys2Proof.Laws.FieldLimits.divn : ∀ a0 a1 a2, Sys2Proof.Laws.FieldLimits.Statement (.divn a0 a1 a2) := fun _ _ _ h => absurd h (Option.some_ne_none _)
theorem Sys2Proof.Laws.FieldLimits.rem : ∀ a0 a1 a2, Sys2Proof.Laws.FieldLimits.Statement (.rem a0 a1 a2) := fun _ _ _ h => absurd h (Option.some_ne_none _)
theorem Sys2Proof.Laws.FieldLimits.remn : ∀ a0 a1 a2, Sys2Proof.Laws.FieldLimits.Statement (.remn a0 a1 a2) := fun _ _ _ h => absurd h (Option.some_ne_none _)
theorem Sys2Proof.Laws.FieldLimits.min : ∀ a0 a1 a2, Sys2Proof.Laws.FieldLimits.Statement (.min a0 a1 a2) := fun _ _ _ h => absurd h (Option.some_ne_none _)
theorem Sys2Proof.Laws.FieldLimits.max : ∀ a0 a1 a2, Sys2Proof.Laws.FieldLimits.Statement (.max a0 a1 a2) := fun _ _ _ h => absurd h (Option.some_ne_none _)
theorem Sys2Proof.Laws.FieldLimits.minn : ∀ a0 a1 a2, Sys2Proof.Laws.FieldLimits.Statement (.minn a0 a1 a2) := fun _ _ _ h => absurd h (Option.some_ne_none _)
theorem Sys2Proof.Laws.FieldLimits.maxn : ∀ a0 a1 a2, Sys2Proof.Laws.FieldLimits.Statement (.maxn a0 a1 a2) := fun _ _ _ h => absurd h (Option.some_ne_none _)
theorem Sys2Proof.Laws.FieldLimits.clz : ∀ a0 a1, Sys2Proof.Laws.FieldLimits.Statement (.clz a0 a1) := fun _ _ h => absurd h (Option.some_ne_none _)
theorem Sys2Proof.Laws.FieldLimits.ctz : ∀ a0 a1, Sys2Proof.Laws.FieldLimits.Statement (.ctz a0 a1) := fun _ _ h => absurd h (Option.some_ne_none _)
theorem Sys2Proof.Laws.FieldLimits.pop : ∀ a0 a1, Sys2Proof.Laws.FieldLimits.Statement (.pop a0 a1) := fun _ _ h => absurd h (Option.some_ne_none _)
theorem Sys2Proof.Laws.FieldLimits.add32 : ∀ a0 a1 a2, Sys2Proof.Laws.FieldLimits.Statement (.add32 a0 a1 a2) := fun _ _ _ h => absurd h (Option.some_ne_none _)
theorem Sys2Proof.Laws.FieldLimits.sub32 : ∀ a0 a1 a2, Sys2Proof.Laws.FieldLimits.Statement (.sub32 a0 a1 a2) := fun _ _ _ h => absurd h (Option.some_ne_none _)
theorem Sys2Proof.Laws.FieldLimits.rol : ∀ a0 a1 a2, Sys2Proof.Laws.FieldLimits.Statement (.rol a0 a1 a2) := fun _ _ _ h => absurd h (Option.some_ne_none _)
theorem Sys2Proof.Laws.FieldLimits.ror : ∀ a0 a1 a2, Sys2Proof.Laws.FieldLimits.Statement (.ror a0 a1 a2) := fun _ _ _ h => absurd h (Option.some_ne_none _)
theorem Sys2Proof.Laws.FieldLimits.addi : ∀ a0 a1 a2, Sys2Proof.Laws.FieldLimits.Statement (.addi a0 a1 a2) := fun _ _ _ h => absurd h (Option.some_ne_none _)
theorem Sys2Proof.Laws.FieldLimits.andi : ∀ a0 a1 a2, Sys2Proof.Laws.FieldLimits.Statement (.andi a0 a1 a2) := fun _ _ _ h => absurd h (Option.some_ne_none _)
theorem Sys2Proof.Laws.FieldLimits.ori : ∀ a0 a1 a2, Sys2Proof.Laws.FieldLimits.Statement (.ori a0 a1 a2) := fun _ _ _ h => absurd h (Option.some_ne_none _)
theorem Sys2Proof.Laws.FieldLimits.xori : ∀ a0 a1 a2, Sys2Proof.Laws.FieldLimits.Statement (.xori a0 a1 a2) := fun _ _ _ h => absurd h (Option.some_ne_none _)
theorem Sys2Proof.Laws.FieldLimits.slli : ∀ a0 a1 a2, Sys2Proof.Laws.FieldLimits.Statement (.slli a0 a1 a2) := fun _ _ _ h => absurd h (Option.some_ne_none _)
theorem Sys2Proof.Laws.FieldLimits.srli : ∀ a0 a1 a2, Sys2Proof.Laws.FieldLimits.Statement (.srli a0 a1 a2) := fun _ _ _ h => absurd h (Option.some_ne_none _)
theorem Sys2Proof.Laws.FieldLimits.srai : ∀ a0 a1 a2, Sys2Proof.Laws.FieldLimits.Statement (.srai a0 a1 a2) := fun _ _ _ h => absurd h (Option.some_ne_none _)
theorem Sys2Proof.Laws.FieldLimits.rori : ∀ a0 a1 a2, Sys2Proof.Laws.FieldLimits.Statement (.rori a0 a1 a2) := fun _ _ _ h => absurd h (Option.some_ne_none _)
theorem Sys2Proof.Laws.FieldLimits.li : ∀ a0 a1, Sys2Proof.Laws.FieldLimits.Statement (.li a0 a1) := fun _ _ h => absurd h (Option.some_ne_none _)
theorem Sys2Proof.Laws.FieldLimits.lik : ∀ a0 a1 a2, Sys2Proof.Laws.FieldLimits.Statement (.lik a0 a1 a2) := fun _ _ _ h => absurd h (Option.some_ne_none _)
theorem Sys2Proof.Laws.FieldLimits.cmp : ∀ a0 a1 a2 a3, Sys2Proof.Laws.FieldLimits.Statement (.cmp a0 a1 a2 a3) := fun _ _ _ _ h => absurd h (Option.some_ne_none _)
theorem Sys2Proof.Laws.FieldLimits.cmpi : ∀ a0 a1 a2 a3, Sys2Proof.Laws.FieldLimits.Statement (.cmpi a0 a1 a2 a3) := fun _ _ _ _ h => absurd h (Option.some_ne_none _)
theorem Sys2Proof.Laws.FieldLimits.sel : ∀ a0 a1 a2 a3, Sys2Proof.Laws.FieldLimits.Statement (.sel a0 a1 a2 a3) := fun _ _ _ _ h => absurd h (Option.some_ne_none _)
theorem Sys2Proof.Laws.FieldLimits.cand : ∀ a0 a1 a2, Sys2Proof.Laws.FieldLimits.Statement (.cand a0 a1 a2) := fun _ _ _ h => absurd h (Option.some_ne_none _)
theorem Sys2Proof.Laws.FieldLimits.cor : ∀ a0 a1 a2, Sys2Proof.Laws.FieldLimits.Statement (.cor a0 a1 a2) := fun _ _ _ h => absurd h (Option.some_ne_none _)
theorem Sys2Proof.Laws.FieldLimits.cxor : ∀ a0 a1 a2, Sys2Proof.Laws.FieldLimits.Statement (.cxor a0 a1 a2) := fun _ _ _ h => absurd h (Option.some_ne_none _)
theorem Sys2Proof.Laws.FieldLimits.candn : ∀ a0 a1 a2, Sys2Proof.Laws.FieldLimits.Statement (.candn a0 a1 a2) := fun _ _ _ h => absurd h (Option.some_ne_none _)
theorem Sys2Proof.Laws.FieldLimits.cnot : ∀ a0 a1, Sys2Proof.Laws.FieldLimits.Statement (.cnot a0 a1) := fun _ _ h => absurd h (Option.some_ne_none _)
theorem Sys2Proof.Laws.FieldLimits.cset : ∀ a0, Sys2Proof.Laws.FieldLimits.Statement (.cset a0) := fun _ h => absurd h (Option.some_ne_none _)
theorem Sys2Proof.Laws.FieldLimits.cclr : ∀ a0, Sys2Proof.Laws.FieldLimits.Statement (.cclr a0) := fun _ h => absurd h (Option.some_ne_none _)
theorem Sys2Proof.Laws.FieldLimits.btSet : ∀ a0 a1, Sys2Proof.Laws.FieldLimits.Statement (.btSet a0 a1) := fun _ _ h => absurd h (Option.some_ne_none _)
theorem Sys2Proof.Laws.FieldLimits.btReg : ∀ a0 a1, Sys2Proof.Laws.FieldLimits.Statement (.btReg a0 a1) := fun _ _ h => absurd h (Option.some_ne_none _)
theorem Sys2Proof.Laws.FieldLimits.br : ∀ a0 a1, Sys2Proof.Laws.FieldLimits.Statement (.br a0 a1) := fun _ _ h => absurd h (Option.some_ne_none _)
theorem Sys2Proof.Laws.FieldLimits.brN : ∀ a0 a1, Sys2Proof.Laws.FieldLimits.Statement (.brN a0 a1) := fun _ _ h => absurd h (Option.some_ne_none _)
theorem Sys2Proof.Laws.FieldLimits.brA : ∀ a0, Sys2Proof.Laws.FieldLimits.Statement (.brA a0) := fun _ h => absurd h (Option.some_ne_none _)
theorem Sys2Proof.Laws.FieldLimits.call : ∀ a0 a1, Sys2Proof.Laws.FieldLimits.Statement (.call a0 a1) := fun _ _ h => absurd h (Option.some_ne_none _)
theorem Sys2Proof.Laws.FieldLimits.ret : ∀ a0, Sys2Proof.Laws.FieldLimits.Statement (.ret a0) := fun _ h => absurd h (Option.some_ne_none _)
theorem Sys2Proof.Laws.FieldLimits.ld : ∀ a0 a1 a2 a3, Sys2Proof.Laws.FieldLimits.Statement (.ld a0 a1 a2 a3) := fun _ _ _ _ h => absurd h (Option.some_ne_none _)
theorem Sys2Proof.Laws.FieldLimits.st : ∀ a0 a1 a2 a3, Sys2Proof.Laws.FieldLimits.Statement (.st a0 a1 a2 a3) := fun _ _ _ _ h => absurd h (Option.some_ne_none _)
theorem Sys2Proof.Laws.FieldLimits.ldo : ∀ a0 a1 a2 a3 a4 a5, Sys2Proof.Laws.FieldLimits.Statement (.ldo a0 a1 a2 a3 a4 a5) := fun _ _ _ _ _ _ h => absurd h (Option.some_ne_none _)
theorem Sys2Proof.Laws.FieldLimits.sto : ∀ a0 a1 a2 a3 a4 a5, Sys2Proof.Laws.FieldLimits.Statement (.sto a0 a1 a2 a3 a4 a5) := fun _ _ _ _ _ _ h => absurd h (Option.some_ne_none _)
theorem Sys2Proof.Laws.FieldLimits.amoAdd : ∀ a0 a1 a2 a3 a4 a5, Sys2Proof.Laws.FieldLimits.Statement (.amoAdd a0 a1 a2 a3 a4 a5) := fun _ _ _ _ _ _ h => absurd h (Option.some_ne_none _)
theorem Sys2Proof.Laws.FieldLimits.amoAnd : ∀ a0 a1 a2 a3 a4 a5, Sys2Proof.Laws.FieldLimits.Statement (.amoAnd a0 a1 a2 a3 a4 a5) := fun _ _ _ _ _ _ h => absurd h (Option.some_ne_none _)
theorem Sys2Proof.Laws.FieldLimits.amoOr : ∀ a0 a1 a2 a3 a4 a5, Sys2Proof.Laws.FieldLimits.Statement (.amoOr a0 a1 a2 a3 a4 a5) := fun _ _ _ _ _ _ h => absurd h (Option.some_ne_none _)
theorem Sys2Proof.Laws.FieldLimits.amoXor : ∀ a0 a1 a2 a3 a4 a5, Sys2Proof.Laws.FieldLimits.Statement (.amoXor a0 a1 a2 a3 a4 a5) := fun _ _ _ _ _ _ h => absurd h (Option.some_ne_none _)
theorem Sys2Proof.Laws.FieldLimits.amoMin : ∀ a0 a1 a2 a3 a4 a5, Sys2Proof.Laws.FieldLimits.Statement (.amoMin a0 a1 a2 a3 a4 a5) := fun _ _ _ _ _ _ h => absurd h (Option.some_ne_none _)
theorem Sys2Proof.Laws.FieldLimits.amoMax : ∀ a0 a1 a2 a3 a4 a5, Sys2Proof.Laws.FieldLimits.Statement (.amoMax a0 a1 a2 a3 a4 a5) := fun _ _ _ _ _ _ h => absurd h (Option.some_ne_none _)
theorem Sys2Proof.Laws.FieldLimits.amoMinn : ∀ a0 a1 a2 a3 a4 a5, Sys2Proof.Laws.FieldLimits.Statement (.amoMinn a0 a1 a2 a3 a4 a5) := fun _ _ _ _ _ _ h => absurd h (Option.some_ne_none _)
theorem Sys2Proof.Laws.FieldLimits.amoMaxn : ∀ a0 a1 a2 a3 a4 a5, Sys2Proof.Laws.FieldLimits.Statement (.amoMaxn a0 a1 a2 a3 a4 a5) := fun _ _ _ _ _ _ h => absurd h (Option.some_ne_none _)
theorem Sys2Proof.Laws.FieldLimits.amoSwap : ∀ a0 a1 a2 a3 a4 a5, Sys2Proof.Laws.FieldLimits.Statement (.amoSwap a0 a1 a2 a3 a4 a5) := fun _ _ _ _ _ _ h => absurd h (Option.some_ne_none _)
theorem Sys2Proof.Laws.FieldLimits.amoFadd32 : ∀ a0 a1 a2 a3 a4, Sys2Proof.Laws.FieldLimits.Statement (.amoFadd32 a0 a1 a2 a3 a4) := fun _ _ _ _ _ h => absurd h (Option.some_ne_none _)
theorem Sys2Proof.Laws.FieldLimits.cas : ∀ a0 a1 a2 a3 a4 a5, Sys2Proof.Laws.FieldLimits.Statement (.cas a0 a1 a2 a3 a4 a5) := fun _ _ _ _ _ _ h => absurd h (Option.some_ne_none _)
theorem Sys2Proof.Laws.FieldLimits.fence : ∀ a0 a1, Sys2Proof.Laws.FieldLimits.Statement (.fence a0 a1) := fun _ _ h => absurd h (Option.some_ne_none _)
theorem Sys2Proof.Laws.FieldLimits.qmark : Sys2Proof.Laws.FieldLimits.Statement .qmark := fun h => absurd h (Option.some_ne_none _)
theorem Sys2Proof.Laws.FieldLimits.semRaise : ∀ a0 a1 a2, Sys2Proof.Laws.FieldLimits.Statement (.semRaise a0 a1 a2) := fun _ _ _ h => absurd h (Option.some_ne_none _)
theorem Sys2Proof.Laws.FieldLimits.semWait : ∀ a0 a1 a2 a3, Sys2Proof.Laws.FieldLimits.Statement (.semWait a0 a1 a2 a3) := fun _ _ _ _ h => absurd h (Option.some_ne_none _)
theorem Sys2Proof.Laws.FieldLimits.semTry : ∀ a0 a1 a2 a3, Sys2Proof.Laws.FieldLimits.Statement (.semTry a0 a1 a2 a3) := fun _ _ _ _ h => absurd h (Option.some_ne_none _)
theorem Sys2Proof.Laws.FieldLimits.semSet : ∀ a0 a1 a2, Sys2Proof.Laws.FieldLimits.Statement (.semSet a0 a1 a2) := fun _ _ _ h => absurd h (Option.some_ne_none _)
theorem Sys2Proof.Laws.FieldLimits.semRead : ∀ a0 a1, Sys2Proof.Laws.FieldLimits.Statement (.semRead a0 a1) := fun _ _ h => absurd h (Option.some_ne_none _)
theorem Sys2Proof.Laws.FieldLimits.semRing : ∀ a0 a1 a2, Sys2Proof.Laws.FieldLimits.Statement (.semRing a0 a1 a2) := fun _ _ _ h => absurd h (Option.some_ne_none _)
theorem Sys2Proof.Laws.FieldLimits.barArrive : ∀ a0 a1, Sys2Proof.Laws.FieldLimits.Statement (.barArrive a0 a1) := fun _ _ h => absurd h (Option.some_ne_none _)
theorem Sys2Proof.Laws.FieldLimits.barWait : ∀ a0 a1, Sys2Proof.Laws.FieldLimits.Statement (.barWait a0 a1) := fun _ _ h => absurd h (Option.some_ne_none _)
theorem Sys2Proof.Laws.FieldLimits.barTest : ∀ a0 a1 a2, Sys2Proof.Laws.FieldLimits.Statement (.barTest a0 a1 a2) := fun _ _ _ h => absurd h (Option.some_ne_none _)
theorem Sys2Proof.Laws.FieldLimits.lwArm : ∀ a0 a1, Sys2Proof.Laws.FieldLimits.Statement (.lwArm a0 a1) := fun _ _ h => absurd h (Option.some_ne_none _)
theorem Sys2Proof.Laws.FieldLimits.lwGet : ∀ a0 a1 a2, Sys2Proof.Laws.FieldLimits.Statement (.lwGet a0 a1 a2) := fun _ _ _ h => absurd h (Option.some_ne_none _)
theorem Sys2Proof.Laws.FieldLimits.lwTest : ∀ a0 a1 a2, Sys2Proof.Laws.FieldLimits.Statement (.lwTest a0 a1 a2) := fun _ _ _ h => absurd h (Option.some_ne_none _)
theorem Sys2Proof.Laws.FieldLimits.lwWait : ∀ a0 a1, Sys2Proof.Laws.FieldLimits.Statement (.lwWait a0 a1) := fun _ _ h => absurd h (Option.some_ne_none _)
theorem Sys2Proof.Laws.FieldLimits.blkGo : ∀ a0 a1, Sys2Proof.Laws.FieldLimits.Statement (.blkGo a0 a1) := fun _ _ h => absurd h (Option.some_ne_none _)
theorem Sys2Proof.Laws.FieldLimits.blkStop : ∀ a0, Sys2Proof.Laws.FieldLimits.Statement (.blkStop a0) := fun _ h => absurd h (Option.some_ne_none _)
theorem Sys2Proof.Laws.FieldLimits.blkStatus : ∀ a0 a1, Sys2Proof.Laws.FieldLimits.Statement (.blkStatus a0 a1) := fun _ _ h => absurd h (Option.some_ne_none _)
theorem Sys2Proof.Laws.FieldLimits.blkPatch : ∀ a0 a1 a2 a3, Sys2Proof.Laws.FieldLimits.Statement (.blkPatch a0 a1 a2 a3) := fun _ _ _ _ h => absurd h (Option.some_ne_none _)
theorem Sys2Proof.Laws.FieldLimits.fmtPush : ∀ a0, Sys2Proof.Laws.FieldLimits.Statement (.fmtPush a0) := fun _ h => absurd h (Option.some_ne_none _)
theorem Sys2Proof.Laws.FieldLimits.winSet : ∀ a0 a1, Sys2Proof.Laws.FieldLimits.Statement (.winSet a0 a1) := fun _ _ h => absurd h (Option.some_ne_none _)
theorem Sys2Proof.Laws.FieldLimits.winRel : ∀ a0, Sys2Proof.Laws.FieldLimits.Statement (.winRel a0) := fun _ h => absurd h (Option.some_ne_none _)
theorem Sys2Proof.Laws.FieldLimits.winRead : ∀ a0 a1 a2, Sys2Proof.Laws.FieldLimits.Statement (.winRead a0 a1 a2) := fun _ _ _ h => absurd h (Option.some_ne_none _)
theorem Sys2Proof.Laws.FieldLimits.fqPop : ∀ a0, Sys2Proof.Laws.FieldLimits.Statement (.fqPop a0) := fun _ h => absurd h (Option.some_ne_none _)
theorem Sys2Proof.Laws.FieldLimits.txOpen : ∀ a0, Sys2Proof.Laws.FieldLimits.Statement (.txOpen a0) := fun _ h => absurd h (Option.some_ne_none _)
theorem Sys2Proof.Laws.FieldLimits.txCommit : ∀ a0 a1, Sys2Proof.Laws.FieldLimits.Statement (.txCommit a0 a1) := fun _ _ h => absurd h (Option.some_ne_none _)
theorem Sys2Proof.Laws.FieldLimits.txAbort : ∀ a0, Sys2Proof.Laws.FieldLimits.Statement (.txAbort a0) := fun _ h => absurd h (Option.some_ne_none _)
theorem Sys2Proof.Laws.FieldLimits.txStamp : ∀ a0 a1, Sys2Proof.Laws.FieldLimits.Statement (.txStamp a0 a1) := fun _ _ h => absurd h (Option.some_ne_none _)
theorem Sys2Proof.Laws.FieldLimits.txRelease : ∀ a0, Sys2Proof.Laws.FieldLimits.Statement (.txRelease a0) := fun _ h => absurd h (Option.some_ne_none _)
theorem Sys2Proof.Laws.FieldLimits.ckptClose : Sys2Proof.Laws.FieldLimits.Statement .ckptClose := fun h => absurd h (Option.some_ne_none _)
theorem Sys2Proof.Laws.FieldLimits.ckptMark : ∀ a0, Sys2Proof.Laws.FieldLimits.Statement (.ckptMark a0) := fun _ h => absurd h (Option.some_ne_none _)
theorem Sys2Proof.Laws.FieldLimits.sysRd : ∀ a0 a1, Sys2Proof.Laws.FieldLimits.Statement (.sysRd a0 a1) := fun _ _ h => absurd h (Option.some_ne_none _)
theorem Sys2Proof.Laws.FieldLimits.sysWr : ∀ a0 a1, Sys2Proof.Laws.FieldLimits.Statement (.sysWr a0 a1) := fun _ _ h => absurd h (Option.some_ne_none _)
theorem Sys2Proof.Laws.FieldLimits.trapEcall : Sys2Proof.Laws.FieldLimits.Statement .trapEcall := fun h => absurd h (Option.some_ne_none _)
theorem Sys2Proof.Laws.FieldLimits.trapRaise : ∀ a0, Sys2Proof.Laws.FieldLimits.Statement (.trapRaise a0) := fun _ h => absurd h (Option.some_ne_none _)
theorem Sys2Proof.Laws.FieldLimits.trapEbreak : Sys2Proof.Laws.FieldLimits.Statement .trapEbreak := fun h => absurd h (Option.some_ne_none _)
theorem Sys2Proof.Laws.FieldLimits.uret : Sys2Proof.Laws.FieldLimits.Statement .uret := fun h => absurd h (Option.some_ne_none _)
theorem Sys2Proof.Laws.FieldLimits.waiteSem : ∀ a0 a1 a2, Sys2Proof.Laws.FieldLimits.Statement (.waiteSem a0 a1 a2) := fun _ _ _ h => absurd h (Option.some_ne_none _)
theorem Sys2Proof.Laws.FieldLimits.waiteVote : ∀ a0 a1, Sys2Proof.Laws.FieldLimits.Statement (.waiteVote a0 a1) := fun _ _ h => absurd h (Option.some_ne_none _)
theorem Sys2Proof.Laws.FieldLimits.waiteStream : ∀ a0 a1 a2, Sys2Proof.Laws.FieldLimits.Statement (.waiteStream a0 a1 a2) := fun _ _ _ h => absurd h (Option.some_ne_none _)
theorem Sys2Proof.Laws.FieldLimits.cpGo : ∀ a0 a1 a2, Sys2Proof.Laws.FieldLimits.Statement (.cpGo a0 a1 a2) := fun _ _ _ h => absurd h (Option.some_ne_none _)
theorem Sys2Proof.Laws.FieldLimits.cpStatus : ∀ a0 a1, Sys2Proof.Laws.FieldLimits.Statement (.cpStatus a0 a1) := fun _ _ h => absurd h (Option.some_ne_none _)
theorem Sys2Proof.Laws.FieldLimits.rtOpen : ∀ a0 a1, Sys2Proof.Laws.FieldLimits.Statement (.rtOpen a0 a1) := fun _ _ h => absurd h (Option.some_ne_none _)
theorem Sys2Proof.Laws.FieldLimits.rtSend : ∀ a0 a1, Sys2Proof.Laws.FieldLimits.Statement (.rtSend a0 a1) := fun _ _ h => absurd h (Option.some_ne_none _)
theorem Sys2Proof.Laws.FieldLimits.rtRoute : ∀ a0 a1, Sys2Proof.Laws.FieldLimits.Statement (.rtRoute a0 a1) := fun _ _ h => absurd h (Option.some_ne_none _)
theorem Sys2Proof.Laws.FieldLimits.rtStat : ∀ a0 a1, Sys2Proof.Laws.FieldLimits.Statement (.rtStat a0 a1) := fun _ _ h => absurd h (Option.some_ne_none _)
theorem Sys2Proof.Laws.FieldLimits.rtClose : ∀ a0 a1, Sys2Proof.Laws.FieldLimits.Statement (.rtClose a0 a1) := fun _ _ h => absurd h (Option.some_ne_none _)
theorem Sys2Proof.Laws.FieldLimits.segCnt : ∀ a0 a1, Sys2Proof.Laws.FieldLimits.Statement (.segCnt a0 a1) := fun _ _ h => absurd h (Option.some_ne_none _)
theorem Sys2Proof.Laws.FieldLimits.segSig : ∀ a0 a1, Sys2Proof.Laws.FieldLimits.Statement (.segSig a0 a1) := fun _ _ h => absurd h (Option.some_ne_none _)
theorem Sys2Proof.Laws.FieldLimits.segLast : ∀ a0 a1, Sys2Proof.Laws.FieldLimits.Statement (.segLast a0 a1) := fun _ _ h => absurd h (Option.some_ne_none _)
theorem Sys2Proof.Laws.FieldLimits.nop : Sys2Proof.Laws.FieldLimits.Statement .nop := fun h => absurd h (Option.some_ne_none _)
theorem Sys2Proof.Laws.FieldLimits.pause : ∀ a0, Sys2Proof.Laws.FieldLimits.Statement (.pause a0) := fun _ h => absurd h (Option.some_ne_none _)
theorem Sys2Proof.Laws.FieldLimits.prefetch : ∀ a0 a1, Sys2Proof.Laws.FieldLimits.Statement (.prefetch a0 a1) := fun _ _ h => absurd h (Option.some_ne_none _)
theorem Sys2Proof.Laws.FieldLimits.vadd : ∀ a0 a1 a2 a3 a4 a5, Sys2Proof.Laws.FieldLimits.Statement (.vadd a0 a1 a2 a3 a4 a5) := fun _ _ _ _ _ _ h => absurd h (Option.some_ne_none _)
theorem Sys2Proof.Laws.FieldLimits.vsub : ∀ a0 a1 a2 a3 a4 a5, Sys2Proof.Laws.FieldLimits.Statement (.vsub a0 a1 a2 a3 a4 a5) := fun _ _ _ _ _ _ h => absurd h (Option.some_ne_none _)
theorem Sys2Proof.Laws.FieldLimits.vmul : ∀ a0 a1 a2 a3 a4 a5, Sys2Proof.Laws.FieldLimits.Statement (.vmul a0 a1 a2 a3 a4 a5) := fun _ _ _ _ _ _ h => absurd h (Option.some_ne_none _)
theorem Sys2Proof.Laws.FieldLimits.vfma : ∀ a0 a1 a2 a3 a4 a5, Sys2Proof.Laws.FieldLimits.Statement (.vfma a0 a1 a2 a3 a4 a5) := fun _ _ _ _ _ _ h => absurd h (Option.some_ne_none _)
theorem Sys2Proof.Laws.FieldLimits.vfms : ∀ a0 a1 a2 a3 a4 a5, Sys2Proof.Laws.FieldLimits.Statement (.vfms a0 a1 a2 a3 a4 a5) := fun _ _ _ _ _ _ h => absurd h (Option.some_ne_none _)
theorem Sys2Proof.Laws.FieldLimits.vmin : ∀ a0 a1 a2 a3 a4 a5, Sys2Proof.Laws.FieldLimits.Statement (.vmin a0 a1 a2 a3 a4 a5) := fun _ _ _ _ _ _ h => absurd h (Option.some_ne_none _)
theorem Sys2Proof.Laws.FieldLimits.vmax : ∀ a0 a1 a2 a3 a4 a5, Sys2Proof.Laws.FieldLimits.Statement (.vmax a0 a1 a2 a3 a4 a5) := fun _ _ _ _ _ _ h => absurd h (Option.some_ne_none _)
theorem Sys2Proof.Laws.FieldLimits.vabs : ∀ a0 a1 a2 a3 a4 a5, Sys2Proof.Laws.FieldLimits.Statement (.vabs a0 a1 a2 a3 a4 a5) := fun _ _ _ _ _ _ h => absurd h (Option.some_ne_none _)
theorem Sys2Proof.Laws.FieldLimits.vneg : ∀ a0 a1 a2 a3 a4 a5, Sys2Proof.Laws.FieldLimits.Statement (.vneg a0 a1 a2 a3 a4 a5) := fun _ _ _ _ _ _ h => absurd h (Option.some_ne_none _)
theorem Sys2Proof.Laws.FieldLimits.vcmp : ∀ a0 a1 a2 a3 a4 a5 a6, Sys2Proof.Laws.FieldLimits.Statement (.vcmp a0 a1 a2 a3 a4 a5 a6) := fun _ _ _ _ _ _ _ h => absurd h (Option.some_ne_none _)
theorem Sys2Proof.Laws.FieldLimits.vsel : ∀ a0 a1 a2 a3 a4 a5, Sys2Proof.Laws.FieldLimits.Statement (.vsel a0 a1 a2 a3 a4 a5) := fun _ _ _ _ _ _ h => absurd h (Option.some_ne_none _)
theorem Sys2Proof.Laws.FieldLimits.vand : ∀ a0 a1 a2 a3 a4 a5, Sys2Proof.Laws.FieldLimits.Statement (.vand a0 a1 a2 a3 a4 a5) := fun _ _ _ _ _ _ h => absurd h (Option.some_ne_none _)
theorem Sys2Proof.Laws.FieldLimits.vor : ∀ a0 a1 a2 a3 a4 a5, Sys2Proof.Laws.FieldLimits.Statement (.vor a0 a1 a2 a3 a4 a5) := fun _ _ _ _ _ _ h => absurd h (Option.some_ne_none _)
theorem Sys2Proof.Laws.FieldLimits.vxor : ∀ a0 a1 a2 a3 a4 a5, Sys2Proof.Laws.FieldLimits.Statement (.vxor a0 a1 a2 a3 a4 a5) := fun _ _ _ _ _ _ h => absurd h (Option.some_ne_none _)
theorem Sys2Proof.Laws.FieldLimits.vandn : ∀ a0 a1 a2 a3 a4 a5, Sys2Proof.Laws.FieldLimits.Statement (.vandn a0 a1 a2 a3 a4 a5) := fun _ _ _ _ _ _ h => absurd h (Option.some_ne_none _)
theorem Sys2Proof.Laws.FieldLimits.vnot : ∀ a0 a1 a2 a3 a4, Sys2Proof.Laws.FieldLimits.Statement (.vnot a0 a1 a2 a3 a4) := fun _ _ _ _ _ h => absurd h (Option.some_ne_none _)
theorem Sys2Proof.Laws.FieldLimits.vsll : ∀ a0 a1 a2 a3 a4 a5 a6, Sys2Proof.Laws.FieldLimits.Statement (.vsll a0 a1 a2 a3 a4 a5 a6) := fun _ _ _ _ _ _ _ h => absurd h (Option.some_ne_none _)
theorem Sys2Proof.Laws.FieldLimits.vsrl : ∀ a0 a1 a2 a3 a4 a5 a6, Sys2Proof.Laws.FieldLimits.Statement (.vsrl a0 a1 a2 a3 a4 a5 a6) := fun _ _ _ _ _ _ _ h => absurd h (Option.some_ne_none _)
theorem Sys2Proof.Laws.FieldLimits.vsra : ∀ a0 a1 a2 a3 a4 a5 a6, Sys2Proof.Laws.FieldLimits.Statement (.vsra a0 a1 a2 a3 a4 a5 a6) := fun _ _ _ _ _ _ _ h => absurd h (Option.some_ne_none _)
theorem Sys2Proof.Laws.FieldLimits.vcvt : ∀ a0 a1 a2 a3 a4 a5 a6, Sys2Proof.Laws.FieldLimits.Statement (.vcvt a0 a1 a2 a3 a4 a5 a6) := fun _ _ _ _ _ _ _ h => absurd h (Option.some_ne_none _)
theorem Sys2Proof.Laws.FieldLimits.vq : ∀ a0 a1 a2 a3 a4 a5 a6, Sys2Proof.Laws.FieldLimits.Statement (.vq a0 a1 a2 a3 a4 a5 a6) := fun _ _ _ _ _ _ _ h => absurd h (Option.some_ne_none _)
theorem Sys2Proof.Laws.FieldLimits.vdq : ∀ a0 a1 a2 a3 a4 a5, Sys2Proof.Laws.FieldLimits.Statement (.vdq a0 a1 a2 a3 a4 a5) := fun _ _ _ _ _ _ h => absurd h (Option.some_ne_none _)
theorem Sys2Proof.Laws.FieldLimits.vbs : ∀ a0 a1 a2 a3, Sys2Proof.Laws.FieldLimits.Statement (.vbs a0 a1 a2 a3) := fun _ _ _ _ h => absurd h (Option.some_ne_none _)
theorem Sys2Proof.Laws.FieldLimits.vbsCode : ∀ a0 a1 a2 a3 a4, Sys2Proof.Laws.FieldLimits.Statement (.vbsCode a0 a1 a2 a3 a4) := fun _ _ _ _ _ h => absurd h (Option.some_ne_none _)
theorem Sys2Proof.Laws.FieldLimits.vsfu : ∀ a0 a1 a2 a3 a4, Sys2Proof.Laws.FieldLimits.Statement (.vsfu a0 a1 a2 a3 a4) := fun _ _ _ _ _ h => absurd h (Option.some_ne_none _)
theorem Sys2Proof.Laws.FieldLimits.vred : ∀ a0 a1 a2 a3 a4 a5, Sys2Proof.Laws.FieldLimits.Statement (.vred a0 a1 a2 a3 a4 a5) := fun _ _ _ _ _ _ h => absurd h (Option.some_ne_none _)
theorem Sys2Proof.Laws.FieldLimits.vperm : ∀ a0 a1 a2 a3 a4 a5, Sys2Proof.Laws.FieldLimits.Statement (.vperm a0 a1 a2 a3 a4 a5) := fun _ _ _ _ _ _ h => absurd h (Option.some_ne_none _)
theorem Sys2Proof.Laws.FieldLimits.vzip : ∀ a0 a1 a2 a3 a4 a5 a6, Sys2Proof.Laws.FieldLimits.Statement (.vzip a0 a1 a2 a3 a4 a5 a6) := fun _ _ _ _ _ _ _ h => absurd h (Option.some_ne_none _)
theorem Sys2Proof.Laws.FieldLimits.vunzip : ∀ a0 a1 a2 a3 a4 a5 a6, Sys2Proof.Laws.FieldLimits.Statement (.vunzip a0 a1 a2 a3 a4 a5 a6) := fun _ _ _ _ _ _ _ h => absurd h (Option.some_ne_none _)
theorem Sys2Proof.Laws.FieldLimits.vtrH : ∀ a0 a1, Sys2Proof.Laws.FieldLimits.Statement (.vtrH a0 a1) := fun _ _ h => absurd h (Option.some_ne_none _)
theorem Sys2Proof.Laws.FieldLimits.vtrW : ∀ a0 a1, Sys2Proof.Laws.FieldLimits.Statement (.vtrW a0 a1) := fun _ _ h => absurd h (Option.some_ne_none _)
theorem Sys2Proof.Laws.FieldLimits.vbc : ∀ a0 a1 a2 a3 a4 a5, Sys2Proof.Laws.FieldLimits.Statement (.vbc a0 a1 a2 a3 a4 a5) := fun _ _ _ _ _ _ h => absurd h (Option.some_ne_none _)
theorem Sys2Proof.Laws.FieldLimits.vld : ∀ a0 a1 a2 a3, Sys2Proof.Laws.FieldLimits.Statement (.vld a0 a1 a2 a3) := fun _ _ _ _ h => absurd h (Option.some_ne_none _)
theorem Sys2Proof.Laws.FieldLimits.vst : ∀ a0 a1 a2 a3, Sys2Proof.Laws.FieldLimits.Statement (.vst a0 a1 a2 a3) := fun _ _ _ _ h => absurd h (Option.some_ne_none _)
theorem Sys2Proof.Laws.FieldLimits.vldm : ∀ a0 a1 a2 a3 a4, Sys2Proof.Laws.FieldLimits.Statement (.vldm a0 a1 a2 a3 a4) := fun _ _ _ _ _ h => absurd h (Option.some_ne_none _)
theorem Sys2Proof.Laws.FieldLimits.vgx : ∀ a0 a1 a2 a3 a4, Sys2Proof.Laws.FieldLimits.Statement (.vgx a0 a1 a2 a3 a4) := fun _ _ _ _ _ h => absurd h (Option.some_ne_none _)
theorem Sys2Proof.Laws.FieldLimits.vsx : ∀ a0 a1 a2 a3 a4, Sys2Proof.Laws.FieldLimits.Statement (.vsx a0 a1 a2 a3 a4) := fun _ _ _ _ _ h => absurd h (Option.some_ne_none _)
theorem Sys2Proof.Laws.FieldLimits.vacr : ∀ a0 a1 a2 a3 a4, Sys2Proof.Laws.FieldLimits.Statement (.vacr a0 a1 a2 a3 a4) := fun _ _ _ _ _ h => absurd h (Option.some_ne_none _)
theorem Sys2Proof.Laws.FieldLimits.vacw : ∀ a0 a1 a2 a3 a4, Sys2Proof.Laws.FieldLimits.Statement (.vacw a0 a1 a2 a3 a4) := fun _ _ _ _ _ h => absurd h (Option.some_ne_none _)
theorem Sys2Proof.Laws.FieldLimits.vvoteAny : ∀ a0 a1 a2, Sys2Proof.Laws.FieldLimits.Statement (.vvoteAny a0 a1 a2) := fun _ _ _ h => absurd h (Option.some_ne_none _)
theorem Sys2Proof.Laws.FieldLimits.vvoteAll : ∀ a0 a1 a2, Sys2Proof.Laws.FieldLimits.Statement (.vvoteAll a0 a1 a2) := fun _ _ _ h => absurd h (Option.some_ne_none _)
theorem Sys2Proof.Laws.FieldLimits.vpatch : ∀ a0 a1 a2, Sys2Proof.Laws.FieldLimits.Statement (.vpatch a0 a1 a2) := fun _ _ _ h => absurd h (Option.some_ne_none _)
theorem Sys2Proof.Laws.FieldLimits.vmov : ∀ a0 a1 a2 a3 a4, Sys2Proof.Laws.FieldLimits.Statement (.vmov a0 a1 a2 a3 a4) := fun _ _ _ _ _ h => absurd h (Option.some_ne_none _)
theorem Sys2Proof.Laws.FieldLimits.vmovVp : ∀ a0 a1, Sys2Proof.Laws.FieldLimits.Statement (.vmovVp a0 a1) := fun _ _ h => absurd h (Option.some_ne_none _)
theorem Sys2Proof.Laws.FieldLimits.vmovPv : ∀ a0 a1 a2, Sys2Proof.Laws.FieldLimits.Statement (.vmovPv a0 a1 a2) := fun _ _ _ h => absurd h (Option.some_ne_none _)
theorem Sys2Proof.Laws.FieldLimits.vnop : ∀ a0, Sys2Proof.Laws.FieldLimits.Statement (.vnop a0) := fun _ h => absurd h (Option.some_ne_none _)
theorem Sys2Proof.Laws.FieldLimits.vseed : ∀ a0 a1, Sys2Proof.Laws.FieldLimits.Statement (.vseed a0 a1) := fun _ _ h => absurd h (Option.some_ne_none _)
theorem Sys2Proof.Laws.FieldLimits.vpop : ∀ a0 a1 a2 a3, Sys2Proof.Laws.FieldLimits.Statement (.vpop a0 a1 a2 a3) := fun _ _ _ _ h => absurd h (Option.some_ne_none _)
theorem Sys2Proof.Laws.FieldLimits.viota : ∀ a0 a1 a2 a3 a4, Sys2Proof.Laws.FieldLimits.Statement (.viota a0 a1 a2 a3 a4) := fun _ _ _ _ _ h => absurd h (Option.some_ne_none _)
theorem Sys2Proof.Laws.FieldLimits.mm : ∀ a0 a1 a2 a3 a4 a5, Sys2Proof.Laws.FieldLimits.Statement (.mm a0 a1 a2 a3 a4 a5) := fun _ _ _ _ _ _ h => absurd h (Option.some_ne_none _)
theorem Sys2Proof.Laws.FieldLimits.mmp : ∀ a0 a1 a2 a3 a4 a5, Sys2Proof.Laws.FieldLimits.Statement (.mmp a0 a1 a2 a3 a4 a5) := fun _ _ _ _ _ _ h => absurd h (Option.some_ne_none _)
theorem Sys2Proof.Laws.FieldLimits.mmr : ∀ a0 a1 a2 a3, Sys2Proof.Laws.FieldLimits.Statement (.mmr a0 a1 a2 a3) := fun _ _ _ _ h => absurd h (Option.some_ne_none _)
theorem Sys2Proof.Laws.FieldLimits.mmag : ∀ a0 a1 a2 a3 a4 a5, Sys2Proof.Laws.FieldLimits.Statement (.mmag a0 a1 a2 a3 a4 a5) := fun _ _ _ _ _ _ h => absurd h (Option.some_ne_none _)
theorem Sys2Proof.Laws.FieldLimits.acz : ∀ a0, Sys2Proof.Laws.FieldLimits.Statement (.acz a0) := fun _ h => absurd h (Option.some_ne_none _)
theorem Sys2Proof.Laws.FieldLimits.acl : ∀ a0 a1 a2, Sys2Proof.Laws.FieldLimits.Statement (.acl a0 a1 a2) := fun _ _ _ h => absurd h (Option.some_ne_none _)
theorem Sys2Proof.Laws.FieldLimits.acs : ∀ a0 a1 a2, Sys2Proof.Laws.FieldLimits.Statement (.acs a0 a1 a2) := fun _ _ _ h => absurd h (Option.some_ne_none _)
theorem Sys2Proof.Laws.FieldLimits.acf : ∀ a0 a1, Sys2Proof.Laws.FieldLimits.Statement (.acf a0 a1) := fun _ _ h => absurd h (Option.some_ne_none _)
theorem Sys2Proof.Laws.FieldLimits.cpy : ∀ a0 a1, Sys2Proof.Laws.FieldLimits.Statement (.cpy a0 a1) := fun _ _ h => absurd h (Option.some_ne_none _)
theorem Sys2Proof.Laws.FieldLimits.cpyz : ∀ a0 a1, Sys2Proof.Laws.FieldLimits.Statement (.cpyz a0 a1) := fun _ _ h => absurd h (Option.some_ne_none _)
theorem Sys2Proof.Laws.FieldLimits.gath : ∀ a0 a1 a2, Sys2Proof.Laws.FieldLimits.Statement (.gath a0 a1 a2) := fun _ _ _ h => absurd h (Option.some_ne_none _)
theorem Sys2Proof.Laws.FieldLimits.scat : ∀ a0 a1 a2, Sys2Proof.Laws.FieldLimits.Statement (.scat a0 a1 a2) := fun _ _ _ h => absurd h (Option.some_ne_none _)
theorem Sys2Proof.Laws.FieldLimits.qfill : ∀ a0 a1, Sys2Proof.Laws.FieldLimits.Statement (.qfill a0 a1) := fun _ _ h => absurd h (Option.some_ne_none _)
theorem Sys2Proof.Laws.FieldLimits.qdrain : ∀ a0 a1, Sys2Proof.Laws.FieldLimits.Statement (.qdrain a0 a1) := fun _ _ h => absurd h (Option.some_ne_none _)
theorem Sys2Proof.Laws.FieldLimits.red : ∀ a0 a1 a2 a3, Sys2Proof.Laws.FieldLimits.Statement (.red a0 a1 a2 a3) := fun _ _ _ _ h => absurd h (Option.some_ne_none _)
theorem Sys2Proof.Laws.FieldLimits.bcst : ∀ a0 a1, Sys2Proof.Laws.FieldLimits.Statement (.bcst a0 a1) := fun _ _ h => absurd h (Option.some_ne_none _)
theorem Sys2Proof.Laws.FieldLimits.plane : ∀ a0 a1 a2 a3, Sys2Proof.Laws.FieldLimits.Statement (.plane a0 a1 a2 a3) := fun _ _ _ _ h => absurd h (Option.some_ne_none _)
theorem Sys2Proof.Laws.FieldLimits.lwr : ∀ a0 a1, Sys2Proof.Laws.FieldLimits.Statement (.lwr a0 a1) := fun _ _ h => absurd h (Option.some_ne_none _)
theorem Sys2Proof.Laws.FieldLimits.ovNodeTake : ∀ a0 a1 a2, Sys2Proof.Laws.FieldLimits.Statement (.ovNodeTake a0 a1 a2) := fun _ _ _ h => absurd h (Option.some_ne_none _)
theorem Sys2Proof.Laws.FieldLimits.ovNodeDone : ∀ a0 a1 a2, Sys2Proof.Laws.FieldLimits.Statement (.ovNodeDone a0 a1 a2) := fun _ _ _ h => absurd h (Option.some_ne_none _)
theorem Sys2Proof.Laws.FieldLimits.ovTileLoad : ∀ a0 a1 a2, Sys2Proof.Laws.FieldLimits.Statement (.ovTileLoad a0 a1 a2) := fun _ _ _ h => absurd h (Option.some_ne_none _)
theorem Sys2Proof.Laws.FieldLimits.ovTileSave : ∀ a0 a1 a2, Sys2Proof.Laws.FieldLimits.Statement (.ovTileSave a0 a1 a2) := fun _ _ _ h => absurd h (Option.some_ne_none _)
theorem Sys2Proof.Laws.FieldLimits.ovTileGo : ∀ a0 a1, Sys2Proof.Laws.FieldLimits.Statement (.ovTileGo a0 a1) := fun _ _ h => absurd h (Option.some_ne_none _)
theorem Sys2Proof.Laws.FieldLimits.ovTileStop : ∀ a0 a1, Sys2Proof.Laws.FieldLimits.Statement (.ovTileStop a0 a1) := fun _ _ h => absurd h (Option.some_ne_none _)
theorem Sys2Proof.Laws.FieldLimits.ovTileHalt : ∀ a0 a1 a2, Sys2Proof.Laws.FieldLimits.Statement (.ovTileHalt a0 a1 a2) := fun _ _ _ h => absurd h (Option.some_ne_none _)
theorem Sys2Proof.Laws.FieldLimits.ovTileStat : ∀ a0 a1, Sys2Proof.Laws.FieldLimits.Statement (.ovTileStat a0 a1) := fun _ _ h => absurd h (Option.some_ne_none _)
theorem Sys2Proof.Laws.FieldLimits.ovOpPlan : ∀ a0 a1 a2, Sys2Proof.Laws.FieldLimits.Statement (.ovOpPlan a0 a1 a2) := fun _ _ _ h => absurd h (Option.some_ne_none _)
theorem Sys2Proof.Laws.FieldLimits.ovOpStep : ∀ a0 a1, Sys2Proof.Laws.FieldLimits.Statement (.ovOpStep a0 a1) := fun _ _ h => absurd h (Option.some_ne_none _)
theorem Sys2Proof.Laws.FieldLimits.ovRowRd : ∀ a0 a1 a2, Sys2Proof.Laws.FieldLimits.Statement (.ovRowRd a0 a1 a2) := fun _ _ _ h => absurd h (Option.some_ne_none _)
theorem Sys2Proof.Laws.FieldLimits.ovErrPop : ∀ a0 a1, Sys2Proof.Laws.FieldLimits.Statement (.ovErrPop a0 a1) := fun _ _ h => absurd h (Option.some_ne_none _)
theorem Sys2Proof.Laws.FieldLimits.ovCkptRoll : ∀ a0 a1, Sys2Proof.Laws.FieldLimits.Statement (.ovCkptRoll a0 a1) := fun _ _ h => absurd h (Option.some_ne_none _)
theorem Sys2Proof.Laws.FieldLimits.tapIdcode : Sys2Proof.Laws.FieldLimits.Statement .tapIdcode := fun _ => rfl
theorem Sys2Proof.Laws.FieldLimits.tapFrzstat : Sys2Proof.Laws.FieldLimits.Statement .tapFrzstat := fun _ => rfl
theorem Sys2Proof.Laws.FieldLimits.tapScanout : ∀ a0, Sys2Proof.Laws.FieldLimits.Statement (.tapScanout a0) := fun _ _ => rfl
theorem Sys2Proof.Laws.FieldLimits.tapMemrd : ∀ a0, Sys2Proof.Laws.FieldLimits.Statement (.tapMemrd a0) := fun _ _ => rfl
theorem Sys2Proof.Laws.FieldLimits.tapBypass : Sys2Proof.Laws.FieldLimits.Statement .tapBypass := fun _ => rfl
theorem Sys2Proof.Laws.FieldLimits.cStallResolve : ∀ a0, Sys2Proof.Laws.FieldLimits.Statement (.cStallResolve a0) := fun _ _ => rfl
theorem Sys2Proof.Laws.FieldLimits.pauseEnd : ∀ a0, Sys2Proof.Laws.FieldLimits.Statement (.pauseEnd a0) := fun _ _ => rfl
theorem Sys2Proof.Laws.FieldLimits.waiteTimeout : ∀ a0, Sys2Proof.Laws.FieldLimits.Statement (.waiteTimeout a0) := fun _ _ => rfl
theorem Sys2Proof.Laws.FieldLimits.blockAwaitGrant : ∀ a0 a1, Sys2Proof.Laws.FieldLimits.Statement (.blockAwaitGrant a0 a1) := fun _ _ _ => rfl
theorem Sys2Proof.Laws.FieldLimits.ringAwaitGrant : ∀ a0 a1, Sys2Proof.Laws.FieldLimits.Statement (.ringAwaitGrant a0 a1) := fun _ _ _ => rfl
theorem Sys2Proof.Laws.FieldLimits.ringRaise : ∀ a0 a1, Sys2Proof.Laws.FieldLimits.Statement (.ringRaise a0 a1) := fun _ _ _ => rfl
theorem Sys2Proof.Laws.FieldLimits.exposedResultWrite : ∀ a0, Sys2Proof.Laws.FieldLimits.Statement (.exposedResultWrite a0) := fun _ _ => rfl
theorem Sys2Proof.Laws.FieldLimits.loadDataLand : ∀ a0, Sys2Proof.Laws.FieldLimits.Statement (.loadDataLand a0) := fun _ _ => rfl
theorem Sys2Proof.Laws.FieldLimits.qfillDataLand : ∀ a0, Sys2Proof.Laws.FieldLimits.Statement (.qfillDataLand a0) := fun _ _ => rfl
theorem Sys2Proof.Laws.FieldLimits.blockRetire : ∀ a0 a1, Sys2Proof.Laws.FieldLimits.Statement (.blockRetire a0 a1) := fun _ _ _ => rfl
theorem Sys2Proof.Laws.FieldLimits.kernelBoundary : ∀ a0, Sys2Proof.Laws.FieldLimits.Statement (.kernelBoundary a0) := fun _ _ => rfl
theorem Sys2Proof.Laws.FieldLimits.tileStopped : ∀ a0, Sys2Proof.Laws.FieldLimits.Statement (.tileStopped a0) := fun _ _ => rfl
theorem Sys2Proof.Laws.FieldLimits.contextDone : ∀ a0, Sys2Proof.Laws.FieldLimits.Statement (.contextDone a0) := fun _ _ => rfl
theorem Sys2Proof.Laws.FieldLimits.debugBreakTaken : ∀ a0, Sys2Proof.Laws.FieldLimits.Statement (.debugBreakTaken a0) := fun _ _ => rfl
theorem Sys2Proof.Laws.FieldLimits.tileLoadComplete : ∀ a0, Sys2Proof.Laws.FieldLimits.Statement (.tileLoadComplete a0) := fun _ _ => rfl
theorem Sys2Proof.Laws.FieldLimits.tileSaveComplete : ∀ a0, Sys2Proof.Laws.FieldLimits.Statement (.tileSaveComplete a0) := fun _ _ => rfl
theorem Sys2Proof.Laws.FieldLimits.ckptRollComplete : ∀ a0, Sys2Proof.Laws.FieldLimits.Statement (.ckptRollComplete a0) := fun _ _ => rfl
theorem Sys2Proof.Laws.FieldLimits.opStepComplete : ∀ a0, Sys2Proof.Laws.FieldLimits.Statement (.opStepComplete a0) := fun _ _ => rfl
theorem Sys2Proof.Laws.FieldLimits.copyStart : ∀ a0 a1, Sys2Proof.Laws.FieldLimits.Statement (.copyStart a0 a1) := fun _ _ _ => rfl
theorem Sys2Proof.Laws.FieldLimits.landingWordArrival : ∀ a0 a1 a2, Sys2Proof.Laws.FieldLimits.Statement (.landingWordArrival a0 a1 a2) := fun _ _ _ _ => rfl
theorem Sys2Proof.Laws.FieldLimits.copyComplete : ∀ a0 a1, Sys2Proof.Laws.FieldLimits.Statement (.copyComplete a0 a1) := fun _ _ _ => rfl
theorem Sys2Proof.Laws.FieldLimits.rtHeaderForm : ∀ a0 a1, Sys2Proof.Laws.FieldLimits.Statement (.rtHeaderForm a0 a1) := fun _ _ _ => rfl
theorem Sys2Proof.Laws.FieldLimits.routeHeader : ∀ a0 a1 a2 a3 a4 a5, Sys2Proof.Laws.FieldLimits.Statement (.routeHeader a0 a1 a2 a3 a4 a5) := fun _ _ _ _ _ _ _ => rfl
theorem Sys2Proof.Laws.FieldLimits.summarySend : ∀ a0 a1 a2 a3, Sys2Proof.Laws.FieldLimits.Statement (.summarySend a0 a1 a2 a3) := fun _ _ _ _ _ => rfl
theorem Sys2Proof.Laws.FieldLimits.summary : ∀ a0 a1 a2 a3 a4 a5 a6, Sys2Proof.Laws.FieldLimits.Statement (.summary a0 a1 a2 a3 a4 a5 a6) := fun _ _ _ _ _ _ _ _ => rfl
theorem Sys2Proof.Laws.FieldLimits.bounce : ∀ a0 a1 a2 a3 a4, Sys2Proof.Laws.FieldLimits.Statement (.bounce a0 a1 a2 a3 a4) := fun _ _ _ _ _ _ => rfl
theorem Sys2Proof.Laws.FieldLimits.routeResend : ∀ a0 a1 a2, Sys2Proof.Laws.FieldLimits.Statement (.routeResend a0 a1 a2) := fun _ _ _ _ => rfl
theorem Sys2Proof.Laws.FieldLimits.reductionContribution : ∀ a0 a1 a2 a3 a4 a5 a6 a7, Sys2Proof.Laws.FieldLimits.Statement (.reductionContribution a0 a1 a2 a3 a4 a5 a6 a7) := fun _ _ _ _ _ _ _ _ _ => rfl
theorem Sys2Proof.Laws.FieldLimits.epochAck : ∀ a0 a1 a2 a3 a4, Sys2Proof.Laws.FieldLimits.Statement (.epochAck a0 a1 a2 a3 a4) := fun _ _ _ _ _ _ => rfl
theorem Sys2Proof.Laws.FieldLimits.reductionTimeout : ∀ a0, Sys2Proof.Laws.FieldLimits.Statement (.reductionTimeout a0) := fun _ _ => rfl
theorem Sys2Proof.Laws.FieldLimits.readRequest : ∀ a0 a1 a2 a3, Sys2Proof.Laws.FieldLimits.Statement (.readRequest a0 a1 a2 a3) := fun _ _ _ _ _ => rfl
theorem Sys2Proof.Laws.FieldLimits.writeRequest : ∀ a0 a1 a2 a3, Sys2Proof.Laws.FieldLimits.Statement (.writeRequest a0 a1 a2 a3) := fun _ _ _ _ _ => rfl
theorem Sys2Proof.Laws.FieldLimits.atomicRequest : ∀ a0 a1 a2 a3 a4 a5 a6, Sys2Proof.Laws.FieldLimits.Statement (.atomicRequest a0 a1 a2 a3 a4 a5 a6) := fun _ _ _ _ _ _ _ _ => rfl
theorem Sys2Proof.Laws.FieldLimits.readResponse : ∀ a0 a1 a2 a3, Sys2Proof.Laws.FieldLimits.Statement (.readResponse a0 a1 a2 a3) := fun _ _ _ _ _ => rfl
theorem Sys2Proof.Laws.FieldLimits.writeResponse : ∀ a0 a1 a2, Sys2Proof.Laws.FieldLimits.Statement (.writeResponse a0 a1 a2) := fun _ _ _ _ => rfl
theorem Sys2Proof.Laws.FieldLimits.atomicResponse : ∀ a0 a1 a2 a3, Sys2Proof.Laws.FieldLimits.Statement (.atomicResponse a0 a1 a2 a3) := fun _ _ _ _ _ => rfl
theorem Sys2Proof.Laws.FieldLimits.barrierArrival : ∀ a0 a1 a2 a3 a4, Sys2Proof.Laws.FieldLimits.Statement (.barrierArrival a0 a1 a2 a3 a4) := fun _ _ _ _ _ _ => rfl
theorem Sys2Proof.Laws.FieldLimits.barrierPhase : ∀ a0 a1 a2 a3 a4, Sys2Proof.Laws.FieldLimits.Statement (.barrierPhase a0 a1 a2 a3 a4) := fun _ _ _ _ _ _ => rfl
theorem Sys2Proof.Laws.FieldLimits.time : ∀ a0 a1 a2 a3, Sys2Proof.Laws.FieldLimits.Statement (.time a0 a1 a2 a3) := fun _ _ _ _ _ => rfl
theorem Sys2Proof.Laws.FieldLimits.management : ∀ a0 a1 a2, Sys2Proof.Laws.FieldLimits.Statement (.management a0 a1 a2) := fun _ _ _ _ => rfl
theorem Sys2Proof.Laws.FieldLimits.linkReplay : ∀ a0, Sys2Proof.Laws.FieldLimits.Statement (.linkReplay a0) := fun _ _ => rfl
theorem Sys2Proof.Laws.FieldLimits.portTraining : ∀ a0 a1 a2 a3 a4, Sys2Proof.Laws.FieldLimits.Statement (.portTraining a0 a1 a2 a3 a4) := fun _ _ _ _ _ _ => rfl
theorem Sys2Proof.Laws.FieldLimits.laneRetire : ∀ a0 a1, Sys2Proof.Laws.FieldLimits.Statement (.laneRetire a0 a1) := fun _ _ _ => rfl
theorem Sys2Proof.Laws.FieldLimits.portFail : ∀ a0, Sys2Proof.Laws.FieldLimits.Statement (.portFail a0) := fun _ _ => rfl
theorem Sys2Proof.Laws.FieldLimits.syncSend : Sys2Proof.Laws.FieldLimits.Statement .syncSend := fun _ => rfl
theorem Sys2Proof.Laws.FieldLimits.packetAccept : Sys2Proof.Laws.FieldLimits.Statement .packetAccept := fun _ => rfl
theorem Sys2Proof.Laws.FieldLimits.dispatchPass : Sys2Proof.Laws.FieldLimits.Statement .dispatchPass := fun _ => rfl
theorem Sys2Proof.Laws.FieldLimits.classPromotion : ∀ a0, Sys2Proof.Laws.FieldLimits.Statement (.classPromotion a0) := fun _ _ => rfl
theorem Sys2Proof.Laws.FieldLimits.sliceExpiry : ∀ a0, Sys2Proof.Laws.FieldLimits.Statement (.sliceExpiry a0) := fun _ _ => rfl
theorem Sys2Proof.Laws.FieldLimits.timedReady : ∀ a0, Sys2Proof.Laws.FieldLimits.Statement (.timedReady a0) := fun _ _ => rfl
theorem Sys2Proof.Laws.FieldLimits.timedStart : ∀ a0, Sys2Proof.Laws.FieldLimits.Statement (.timedStart a0) := fun _ _ => rfl
theorem Sys2Proof.Laws.FieldLimits.nodeComplete : ∀ a0, Sys2Proof.Laws.FieldLimits.Statement (.nodeComplete a0) := fun _ _ => rfl
theorem Sys2Proof.Laws.FieldLimits.xictlGo : ∀ a0, Sys2Proof.Laws.FieldLimits.Statement (.xictlGo a0) := fun _ _ => rfl
theorem Sys2Proof.Laws.FieldLimits.shootdownTlbDone : Sys2Proof.Laws.FieldLimits.Statement .shootdownTlbDone := fun _ => rfl
theorem Sys2Proof.Laws.FieldLimits.hdispRead : Sys2Proof.Laws.FieldLimits.Statement .hdispRead := fun _ => rfl
theorem Sys2Proof.Laws.FieldLimits.hdoneWrite : ∀ a0, Sys2Proof.Laws.FieldLimits.Statement (.hdoneWrite a0) := fun _ _ => rfl
theorem Sys2Proof.Laws.FieldLimits.qtailWrite : ∀ a0 a1, Sys2Proof.Laws.FieldLimits.Statement (.qtailWrite a0 a1) := fun _ _ _ => rfl
theorem Sys2Proof.Laws.FieldLimits.tbinitWrite : ∀ a0, Sys2Proof.Laws.FieldLimits.Statement (.tbinitWrite a0) := fun _ _ => rfl
theorem Sys2Proof.Laws.FieldLimits.rwcfgWrite : ∀ a0 a1, Sys2Proof.Laws.FieldLimits.Statement (.rwcfgWrite a0 a1) := fun _ _ _ => rfl
theorem Sys2Proof.Laws.FieldLimits.keyLoad : ∀ a0, Sys2Proof.Laws.FieldLimits.Statement (.keyLoad a0) := fun _ _ => rfl
theorem Sys2Proof.Laws.FieldLimits.keyClear : ∀ a0, Sys2Proof.Laws.FieldLimits.Statement (.keyClear a0) := fun _ _ => rfl
theorem Sys2Proof.Laws.FieldLimits.clrlost : ∀ a0, Sys2Proof.Laws.FieldLimits.Statement (.clrlost a0) := fun _ _ => rfl
theorem Sys2Proof.Laws.FieldLimits.dbgreqBreak : ∀ a0 a1, Sys2Proof.Laws.FieldLimits.Statement (.dbgreqBreak a0 a1) := fun _ _ _ => rfl
theorem Sys2Proof.Laws.FieldLimits.pttestRun : ∀ a0 a1, Sys2Proof.Laws.FieldLimits.Statement (.pttestRun a0 a1) := fun _ _ _ => rfl
theorem Sys2Proof.Laws.FieldLimits.pttestRet : ∀ a0 a1, Sys2Proof.Laws.FieldLimits.Statement (.pttestRet a0 a1) := fun _ _ _ => rfl
theorem Sys2Proof.Laws.FieldLimits.selfTestComplete : ∀ a0 a1 a2, Sys2Proof.Laws.FieldLimits.Statement (.selfTestComplete a0 a1 a2) := fun _ _ _ _ => rfl
theorem Sys2Proof.Laws.FieldLimits.registerWrite : ∀ a0 a1 a2 a3, Sys2Proof.Laws.FieldLimits.Statement (.registerWrite a0 a1 a2 a3) := fun _ _ _ _ _ => rfl
theorem Sys2Proof.Laws.FieldLimits.rebase : Sys2Proof.Laws.FieldLimits.Statement .rebase := fun _ => rfl
theorem Sys2Proof.Laws.FieldLimits.versionStallTimeout : ∀ a0 a1, Sys2Proof.Laws.FieldLimits.Statement (.versionStallTimeout a0 a1) := fun _ _ _ => rfl
theorem Sys2Proof.Laws.FieldLimits.coppicePass : Sys2Proof.Laws.FieldLimits.Statement .coppicePass := fun _ => rfl
theorem Sys2Proof.Laws.FieldLimits.ckptIntervalTimer : ∀ a0, Sys2Proof.Laws.FieldLimits.Statement (.ckptIntervalTimer a0) := fun _ _ => rfl
theorem Sys2Proof.Laws.FieldLimits.ckptIntervalClose : ∀ a0, Sys2Proof.Laws.FieldLimits.Statement (.ckptIntervalClose a0) := fun _ _ => rfl
theorem Sys2Proof.Laws.FieldLimits.patrolScrub : ∀ a0 a1, Sys2Proof.Laws.FieldLimits.Statement (.patrolScrub a0 a1) := fun _ _ _ => rfl
theorem Sys2Proof.Laws.FieldLimits.rowMovePause : ∀ a0 a1 a2, Sys2Proof.Laws.FieldLimits.Statement (.rowMovePause a0 a1 a2) := fun _ _ _ _ => rfl
theorem Sys2Proof.Laws.FieldLimits.capacityShrink : ∀ a0 a1 a2, Sys2Proof.Laws.FieldLimits.Statement (.capacityShrink a0 a1 a2) := fun _ _ _ _ => rfl
theorem Sys2Proof.Laws.FieldLimits.tileFail : ∀ a0 a1, Sys2Proof.Laws.FieldLimits.Statement (.tileFail a0 a1) := fun _ _ _ => rfl
theorem Sys2Proof.Laws.FieldLimits.hbmRepair : ∀ a0 a1 a2, Sys2Proof.Laws.FieldLimits.Statement (.hbmRepair a0 a1 a2) := fun _ _ _ _ => rfl
theorem Sys2Proof.Laws.FieldLimits.telemetryUpdate : ∀ a0 a1 a2 a3 a4 a5, Sys2Proof.Laws.FieldLimits.Statement (.telemetryUpdate a0 a1 a2 a3 a4 a5) := fun _ _ _ _ _ _ _ => rfl
theorem Sys2Proof.Laws.FieldLimits.hostWrite : ∀ a0 a1 a2, Sys2Proof.Laws.FieldLimits.Statement (.hostWrite a0 a1 a2) := fun _ _ _ _ => rfl
theorem Sys2Proof.Laws.FieldLimits.hostRead : ∀ a0 a1 a2, Sys2Proof.Laws.FieldLimits.Statement (.hostRead a0 a1 a2) := fun _ _ _ _ => rfl
theorem Sys2Proof.Laws.FieldLimits.powerOn : ∀ a0, Sys2Proof.Laws.FieldLimits.Statement (.powerOn a0) := fun _ _ => rfl
theorem Sys2Proof.Laws.FieldLimits.reset : ∀ a0, Sys2Proof.Laws.FieldLimits.Statement (.reset a0) := fun _ _ => rfl
theorem Sys2Proof.Laws.FieldLimits.powerLoss : Sys2Proof.Laws.FieldLimits.Statement .powerLoss := fun _ => rfl
theorem Sys2Proof.Laws.FieldLimits.perst : Sys2Proof.Laws.FieldLimits.Statement .perst := fun _ => rfl
theorem Sys2Proof.Laws.FieldLimits.functionReady : ∀ a0 a1, Sys2Proof.Laws.FieldLimits.Statement (.functionReady a0 a1) := fun _ _ _ => rfl
theorem Sys2Proof.Laws.FieldLimits.freeze : Sys2Proof.Laws.FieldLimits.Statement .freeze := fun _ => rfl
theorem Sys2Proof.Laws.FieldLimits.mctpControl : ∀ a0, Sys2Proof.Laws.FieldLimits.Statement (.mctpControl a0) := fun _ _ => rfl
theorem Sys2Proof.Laws.FieldLimits.getVersion : Sys2Proof.Laws.FieldLimits.Statement .getVersion := fun _ => rfl
theorem Sys2Proof.Laws.FieldLimits.getCapabilities : Sys2Proof.Laws.FieldLimits.Statement .getCapabilities := fun _ => rfl
theorem Sys2Proof.Laws.FieldLimits.negotiateAlgorithms : Sys2Proof.Laws.FieldLimits.Statement .negotiateAlgorithms := fun _ => rfl
theorem Sys2Proof.Laws.FieldLimits.getDigests : Sys2Proof.Laws.FieldLimits.Statement .getDigests := fun _ => rfl
theorem Sys2Proof.Laws.FieldLimits.getCertificate : ∀ a0 a1, Sys2Proof.Laws.FieldLimits.Statement (.getCertificate a0 a1) := fun _ _ _ => rfl
theorem Sys2Proof.Laws.FieldLimits.challenge : ∀ a0, Sys2Proof.Laws.FieldLimits.Statement (.challenge a0) := fun _ _ => rfl
theorem Sys2Proof.Laws.FieldLimits.getMeasurements : ∀ a0 a1, Sys2Proof.Laws.FieldLimits.Statement (.getMeasurements a0 a1) := fun _ _ _ => rfl
theorem Sys2Proof.Laws.FieldLimits.vendorRegisterRead : ∀ a0 a1, Sys2Proof.Laws.FieldLimits.Statement (.vendorRegisterRead a0 a1) := fun _ _ _ => rfl
theorem Sys2Proof.Laws.FieldLimits.vendorRegisterWrite : ∀ a0 a1 a2, Sys2Proof.Laws.FieldLimits.Statement (.vendorRegisterWrite a0 a1 a2) := fun _ _ _ _ => rfl
theorem Sys2Proof.Laws.FieldLimits.vendorStatusQuery : Sys2Proof.Laws.FieldLimits.Statement .vendorStatusQuery := fun _ => rfl
theorem Sys2Proof.Laws.FieldLimits.vendorFreeze : Sys2Proof.Laws.FieldLimits.Statement .vendorFreeze := fun _ => rfl
theorem Sys2Proof.Laws.FieldLimits.illegalWord : Sys2Proof.Laws.FieldLimits.Statement .illegalWord := fun _ => rfl
theorem Sys2Proof.Laws.FieldLimits.dieFailure : ∀ a0, Sys2Proof.Laws.FieldLimits.Statement (.dieFailure a0) := fun _ _ => rfl
theorem Sys2Proof.Laws.FieldLimits.poolPartitionChangeDone : ∀ a0, Sys2Proof.Laws.FieldLimits.Statement (.poolPartitionChangeDone a0) := fun _ _ => rfl
theorem Sys2Proof.Laws.FieldLimits.operandByteArrival : ∀ a0, Sys2Proof.Laws.FieldLimits.Statement (.operandByteArrival a0) := fun _ _ => rfl
theorem Sys2Proof.Laws.FieldLimits.exposedAccessAccept : ∀ a0, Sys2Proof.Laws.FieldLimits.Statement (.exposedAccessAccept a0) := fun _ _ => rfl
theorem Sys2Proof.Laws.FieldLimits.idleFlit : ∀ a0 a1, Sys2Proof.Laws.FieldLimits.Statement (.idleFlit a0 a1) := fun _ _ _ => rfl
theorem Sys2Proof.Laws.FieldLimits.configurationRequest : ∀ a0 a1 a2, Sys2Proof.Laws.FieldLimits.Statement (.configurationRequest a0 a1 a2) := fun _ _ _ _ => rfl
theorem Sys2Proof.Laws.FieldLimits.supervisorStore : ∀ a0 a1 a2 a3 a4, Sys2Proof.Laws.FieldLimits.Statement (.supervisorStore a0 a1 a2 a3 a4) := fun _ _ _ _ _ _ => rfl
end

