-- ==== Sys2Proof/Tests/Slice0.lean ====
section
/-!
SUPPORT. Sys2Proof/Tests/Slice0.lean: tests of the model: field limits, words written out from the spec's encodings, single
steps, and for each statement with hypotheses a state that meets them.
-/

open Sys2Proof Sys2Proof.Machine

/-! ## Field limits (R18): a term for each check that the check refuses -/

theorem test_illformed_control : ∀ i ∈ ([.cmp 0 1 2 10, .ld 1 2 7 0, .ldo 1 2 3 7 0 0, .ldo 1 2 3 0 0 5, .sto 1 2 3 0 0 5,
    .amoAdd 1 2 3 0 0 5, .amoAnd 1 2 3 0 0 6, .amoOr 1 2 3 0 0 7, .amoXor 1 2 3 0 0 5, .amoMin 1 2 3 0 0 5,
    .amoMax 1 2 3 0 0 5, .amoMinn 1 2 3 0 0 5, .amoMaxn 1 2 3 0 0 5, .amoSwap 1 2 3 0 0 5, .amoFadd32 1 2 3 0 5,
    .cas 1 2 3 0 0 5, .fence 0 5, .semRing 1 63 0, .blkPatch 1 2 0 6, .blkPatch 1 2 4 12, .blkPatch 1 2 1 1,
    .blkPatch 1 2 7 0, .sysRd 1 0x006, .sysRd 1 0x02F, .sysWr 1 0x042, .pause 0] : List Instr), i.wf = false := by decide

theorem test_illformed_vector_arith : ∀ i ∈ ([.vadd 1 2 3 0 0 5, .vadd 1 2 3 0 6 2, .vadd 1 2 3 0 3 0, .vadd 1 2 3 0 0 8,
    .vsub 1 2 3 0 0 5, .vmul 1 2 3 0 9 2, .vfma 24 1 2 0 0 0, .vfma 1 2 3 0 0 8, .vfms 25 1 2 0 0 0, .vfms 1 2 3 0 0 6,
    .vmin 1 2 3 0 4 0, .vmin 1 2 3 0 0 1, .vmax 1 2 3 0 12 0, .vabs 1 2 0 0 0 1, .vabs 1 2 0 5 0 0, .vneg 1 2 0 1 0 1,
    .vneg 1 2 0 6 1 0, .vcmp 1 2 3 0 0 0 7, .vcmp 1 2 3 0 6 0 6, .vcmp 1 2 3 0 3 0 0, .vcmp 1 2 3 0 0 1 0] : List Instr),
    i.wf = false := by decide

theorem test_illformed_vector_other : ∀ i ∈ ([.vsel 1 2 3 0 12 0, .vsel 1 2 3 0 0 1, .vand 1 2 3 0 15 0, .vor 1 2 3 0 0 1,
    .vxor 1 2 3 0 12 0, .vandn 1 2 3 0 12 0, .vnot 1 2 0 12 0, .vnot 1 2 0 0 1, .vsll 1 2 3 0 0 0 0, .vsll 1 2 24 0 6 1 1,
    .vsrl 1 2 3 0 5 0 0, .vsra 1 2 3 0 2 0 0, .vcvt 1 2 12 0 0 0 0, .vcvt 1 2 0 0 0 0 0, .vcvt 1 2 0 0 13 0 0,
    .vcvt 1 2 0 0 1 0 5, .vcvt 1 2 0 2 1 0 0, .vq 1 2 0 0 13 0 0, .vq 1 2 0 0 1 0 5, .vq 1 2 0 2 1 0 0, .vdq 1 2 0 2 1 0,
    .vdq 1 2 0 0 12 0, .vbs 1 2 0 1, .vbs 1 2 1 0, .vbsCode 1 2 0 6 1, .vbsCode 1 2 0 3 3, .vsfu 1 2 0 0 4, .vsfu 1 2 0 1 0]
    : List Instr), i.wf = false := by decide

theorem test_illformed_vector_moves : ∀ i ∈ ([.vred 1 2 0 0 0 3, .vred 1 2 0 3 0 0, .vperm 1 2 3 0 5 0, .vperm 1 2 3 0 14 0,
    .vzip 1 2 3 0 12 0 0, .vunzip 1 2 3 0 0 1 0, .vtrH 17 0, .vtrH 0 17, .vtrW 21 0, .vtrW 0 21, .vbc 1 2 4 0 0 0,
    .vbc 1 2 0 0 12 0, .vldm 23 0 0 0 0, .vldm 20 0 2 0 0, .vldm 0 0 3 0 0, .vacr 1 2 3 0 0, .vacw 1 2 3 0 0, .vvoteAny 0 1 12,
    .vvoteAll 0 1 15, .vpatch 1 6 0, .vpatch 1 0 8, .vmov 1 2 0 12 0, .vmov 1 2 0 0 1, .vmovPv 1 2 1, .vpop 1 2 0 12,
    .viota 1 2 0 0 0, .viota 1 2 0 6 1] : List Instr), i.wf = false := by decide

theorem test_illformed_matrix_transfer : ∀ i ∈ ([.mm 3 0 0 0 0 0, .mmp 3 0 0 0 0 0, .mmr 3 0 0 0, .mmag 3 0 0 0 0 0, .acz 3,
    .acl 3 0 0, .acs 3 0 0, .acf 3 0, .red 1 2 3 0, .red 1 2 0 5] : List Instr), i.wf = false := by decide

/-- A word with an ill-formed field is no instruction: its decoder refuses it by name. -/
theorem test_illformed_word_refused : Decode.control 0b001000_00_001_00010_00011_001010_00000 = .error .fieldLimit := by decide

/-! ## Decoding: words written out field by field -/

theorem test_decode_control_add : ∀ p ∈ ([
    (0b000000_10100_01001_11001_00000000000, (.add 20 9 25)),
    (0b000000_11010_00010_00100_00000100000, (.sub 26 2 4)),
    (0b000000_01100_00100_01101_00001000000, (.and 12 4 13)),
    (0b000000_10001_11110_10000_00001100000, (.or 17 30 16)),
    (0b000000_01000_01001_00001_00010000000, (.xor 8 9 1)),
    (0b000000_01100_10110_10100_00010100000, (.andn 12 22 20)),
    (0b000000_01011_10001_10110_00011000000, (.sll 11 17 22)),
    (0b000000_00001_00011_00100_00011100000, (.srl 1 3 4)),
    (0b000000_10101_10000_10011_00100000000, (.sra 21 16 19)),
    (0b000000_10111_11011_10001_00100100000, (.mul 23 27 17)),
    (0b000000_00101_10100_01111_00101000000, (.mulh 5 20 15)),
    (0b000000_11101_10001_10100_00101100000, (.mulhn 29 17 20)),
    (0b000000_01011_11101_00010_00110000000, (.div 11 29 2)),
    (0b000000_00101_00001_00100_00110100000, (.divn 5 1 4))] : List (W32 × Instr)),
    Decode.control p.1 = .ok p.2 := by decide

theorem test_decode_control_rem : ∀ p ∈ ([
    (0b000000_00001_00011_00010_00111000000, (.rem 1 3 2)),
    (0b000000_00001_00110_00101_00111100000, (.remn 1 6 5)),
    (0b000000_11100_11101_01011_01000000000, (.min 28 29 11)),
    (0b000000_11100_00110_10000_01000100000, (.max 28 6 16)),
    (0b000000_00110_00010_00011_01001000000, (.minn 6 2 3)),
    (0b000000_01111_11000_11110_01001100000, (.maxn 15 24 30)),
    (0b000000_10010_00001_0000001010000000, (.clz 18 1)),
    (0b000000_00001_10111_0000001010100000, (.ctz 1 23)),
    (0b000000_00110_01100_0000001011000000, (.pop 6 12)),
    (0b000000_01111_11001_01010_01011100000, (.add32 15 25 10)),
    (0b000000_11110_10110_01110_01100000000, (.sub32 30 22 14)),
    (0b000000_01001_11111_01111_01100100000, (.rol 9 31 15)),
    (0b000000_00101_01101_00010_01101000000, (.ror 5 13 2)),
    (0b000001_00011_10111_0100101000100011, (.addi 3 23 18979))] : List (W32 × Instr)),
    Decode.control p.1 = .ok p.2 := by decide

theorem test_decode_control_andi : ∀ p ∈ ([
    (0b000010_11000_01100_0111011111010011, (.andi 24 12 30675)),
    (0b000011_00010_10111_1110101010100011, (.ori 2 23 60067)),
    (0b000100_11000_00001_0010011001111010, (.xori 24 1 9850)),
    (0b000101_00010_11010_0000000000_011011, (.slli 2 26 27)),
    (0b000101_10011_10000_0000000001_000011, (.srli 19 16 3)),
    (0b000101_11010_11001_0000000010_111010, (.srai 26 25 58)),
    (0b000101_01101_10010_0000000011_000111, (.rori 13 18 7)),
    (0b000110_11011_000001010111100101110, (.li 27 44846)),
    (0b000111_01010_000_10_0110101001100100, (.lik 10 2 27236)),
    (0b00100000_011_00101_00100_000001_00000, (.cmp 3 5 4 1)),
    (0b001001_01_011_10100_0110000001101010, (.cmpi 1 3 20 24682)),
    (0b001010_00101_00001_00100_00000000_010, (.sel 5 1 4 2)),
    (0b00101100_010_00_011_00_001_00000000000, (.cand 2 3 1)),
    (0b00101100_001_00_101_00_111_00000100000, (.cor 1 5 7))] : List (W32 × Instr)),
    Decode.control p.1 = .ok p.2 := by decide

theorem test_decode_control_cxor : ∀ p ∈ ([
    (0b00101100_001_00_011_00_010_00001000000, (.cxor 1 3 2)),
    (0b00101100_111_00_110_00_011_00001100000, (.candn 7 6 3)),
    (0b00101100_010_00_011_0000000010000000, (.cnot 2 3)),
    (0b00101100_011_000000000000010100000, (.cset 3)),
    (0b00101100_010_000000000000011000000, (.cclr 2)),
    (0b001100000_10_000000000000000000011, (.btSet 2 3)),
    (0b001101000_10_00001_0000000000000000, (.btReg 2 1)),
    (0b001110_11_010_000000000000000000000, (.br 3 2)),
    (0b001110_11_001_100000000000000000000, (.brN 3 1)),
    (0b001110_11_000010000000000000000000, (.brA 3)),
    (0b001111_01110_01_0000000000000000000, (.call 14 1)),
    (0b01000000000_11000_0000000000000000, (.ret 24)),
    (0b010001_01111_11000_010_00_01100010000, (.ld 15 24 2 784)),
    (0b010010_11000_11011_0_10_00_10011100001, (.st 24 27 2 1249))] : List (W32 × Instr)),
    Decode.control p.1 = .ok p.2 := by decide

theorem test_decode_control_ldo : ∀ p ∈ ([
    (0b010011_11111_01101_01110_000_001_0_0_010, (.ldo 31 13 14 1 0 2)),
    (0b010100_10101_11100_10001_0000_10_1_0_100, (.sto 21 28 17 2 1 4)),
    (0b010101_01011_01001_11010_1_00000_01_011, (.amoAdd 11 9 26 1 1 3)),
    (0b010101_10000_10110_01010_1_00001_10_100, (.amoAnd 16 22 10 1 2 4)),
    (0b010101_00101_01111_00110_0_00010_10_100, (.amoOr 5 15 6 0 2 4)),
    (0b010101_10001_01000_10110_1_00011_01_010, (.amoXor 17 8 22 1 1 2)),
    (0b010101_10100_01100_00100_1_00100_00_010, (.amoMin 20 12 4 1 0 2)),
    (0b010101_11011_01010_00101_1_00101_11_100, (.amoMax 27 10 5 1 3 4)),
    (0b010101_01001_11011_11000_1_00110_00_011, (.amoMinn 9 27 24 1 0 3)),
    (0b010101_11000_10011_11110_1_00111_10_100, (.amoMaxn 24 19 30 1 2 4)),
    (0b010101_00101_01001_01100_1_01000_00_100, (.amoSwap 5 9 12 1 0 4)),
    (0b010101_10101_10000_11000_001001_10_000, (.amoFadd32 21 16 24 2 0)),
    (0b010110_01010_01000_11110_1_00000_11_100, (.cas 10 8 30 1 3 4)),
    (0b0101110000000000000000000_11_00_100, (.fence 3 4))] : List (W32 × Instr)),
    Decode.control p.1 = .ok p.2 := by decide

theorem test_decode_control_qmark : ∀ p ∈ ([
    (0b01100000000000000000000000000000, .qmark),
    (0b01100100000_01011_0000_000001_011001, (.semRaise 11 1 25)),
    (0b01100100_010_00001_0001_001101_001001, (.semWait 2 1 13 9)),
    (0b01100100_001_00111_0010_101001_011110, (.semTry 1 7 41 30)),
    (0b01100100000_00011_0011_101011_101110, (.semSet 3 43 46)),
    (0b011001_01110_000000100_100101_000000, (.semRead 14 37)),
    (0b01100100000_11000_0101_010100_001101, (.semRing 24 20 13)),
    (0b011010_00001_00000000000000000_1100, (.barArrive 1 12)),
    (0b01101000000_00100_000100000000_0101, (.barWait 4 5)),
    (0b01101000_001_00010_001000000000_0100, (.barTest 1 2 4)),
    (0b01101100000_11000_10001_00000000000, (.lwArm 24 17)),
    (0b011011_00110_00001_00011_00000100000, (.lwGet 6 1 3)),
    (0b01101100_001_01000_00011_00001000000, (.lwTest 1 8 3)),
    (0b01101100000_00001_11000_00001100000, (.lwWait 1 24))] : List (W32 × Instr)),
    Decode.control p.1 = .ok p.2 := by decide

theorem test_decode_control_blkGo : ∀ p ∈ ([
    (0b01110000000_00100_00000000000000_11, (.blkGo 4 3)),
    (0b011100000000000000010000000000_10, (.blkStop 2)),
    (0b011100_00101_0000000100000000000_01, (.blkStatus 5 1)),
    (0b011100_00100_00010_0011_0000_0000_0101, (.blkPatch 4 2 0 5)),
    (0b01110100000_00100_0000000000000000, (.fmtPush 4)),
    (0b01111000000_11101_00000000000_11000, (.winSet 29 24)),
    (0b011110000000000000010000000_00001, (.winRel 1)),
    (0b011110_01001_0000000100000_100_01110, (.winRead 9 4 14)),
    (0b01111100_100_000000000000000000000, (.fqPop 4)),
    (0b100000_10000_000000000000000000000, (.txOpen 16)),
    (0b100000_11101_10010_0001000000000000, (.txCommit 29 18)),
    (0b10000000000_10101_0010000000000000, (.txAbort 21)),
    (0b100000_01011_01101_0011000000000000, (.txStamp 11 13)),
    (0b10000000000_00011_0100000000000000, (.txRelease 3))] : List (W32 × Instr)),
    Decode.control p.1 = .ok p.2 := by decide

theorem test_decode_control_ckptClose : ∀ p ∈ ([
    (0b10000100000000000000000000000000, .ckptClose),
    (0b100001_11011_000000001000000000000, (.ckptMark 27)),
    (0b100010_00100_000000000_000000000001, (.sysRd 4 1)),
    (0b10001000000_00100_0001_000000000011, (.sysWr 4 3)),
    (0b10001100000000000000000000000000, .trapEcall),
    (0b1000110000000000000100001_0010101, (.trapRaise 21)),
    (0b10001100000000000010000000000000, .trapEbreak),
    (0b10010000000000000000000000000000, .uret),
    (0b10010100_111_01100_0000000000_011001, (.waiteSem 7 12 25)),
    (0b10010100_111_00010_0000000100000000, (.waiteVote 7 2)),
    (0b10010100_100_00001_00000010000000_10, (.waiteStream 4 1 2)),
    (0b100110_01001_00011_000000000000000_1, (.cpGo 9 3 1)),
    (0b100110_01101_00000000100000000000_1, (.cpStatus 13 1)),
    (0b100111_00110_01100_0000000000000000, (.rtOpen 6 12))] : List (W32 × Instr)),
    Decode.control p.1 = .ok p.2 := by decide

theorem test_decode_control_rtSend : ∀ p ∈ ([
    (0b100111_10011_10010_0001000000000000, (.rtSend 19 18)),
    (0b100111_10001_00111_0010000000000000, (.rtRoute 17 7)),
    (0b100111_01111_01001_0011000000000000, (.rtStat 15 9)),
    (0b100111_11100_10011_0100000000000000, (.rtClose 28 19)),
    (0b101000_01011_0000000000000000000_01, (.segCnt 11 1)),
    (0b101000_01111_0000000010000000000_11, (.segSig 15 3)),
    (0b101000_10000_0000000100000000000_01, (.segLast 16 1)),
    (0b10100100000000000000000000000000, .nop),
    (0b10100100000000000001_010100011100, (.pause 1308)),
    (0b10100100000_00100_001000000000_0101, (.prefetch 4 5))] : List (W32 × Instr)),
    Decode.control p.1 = .ok p.2 := by decide

theorem test_decode_vector_vadd : ∀ p ∈ ([
    (0b000000_01111_11001_01110_001_1010_0000, (.vadd 15 25 14 1 10 0)),
    (0b000001_10101_11000_01000_111_0000_0010, (.vsub 21 24 8 7 0 2)),
    (0b000010_00011_00101_00000_001_0001_0100, (.vmul 3 5 0 1 1 4)),
    (0b000011_00101_00111_11001_001_1010_0001, (.vfma 5 7 25 1 10 1)),
    (0b000100_10010_11110_10111_110_0010_1000, (.vfms 18 30 23 6 2 8)),
    (0b000101_11101_10110_11011_110_0010_1_000, (.vmin 29 22 27 6 2 1)),
    (0b000110_00101_11011_10010_111_0001_1_000, (.vmax 5 27 18 7 1 1)),
    (0b000111_01101_10110_00000_100_1001_0_0_0_0, (.vabs 13 22 4 9 0 0)),
    (0b000111_00101_11110_00000_010_1011_1_0_0_1, (.vneg 5 30 2 11 1 0)),
    (0b00100000_101_11101_01000_111_1001_1_100, (.vcmp 5 29 8 7 9 1 4)),
    (0b001001_10000_11111_10011_110_0010_1_000, (.vsel 16 31 19 6 2 1)),
    (0b001010_11001_00101_11010_010_0011_1_000, (.vand 25 5 26 2 3 1)),
    (0b001010_10110_11010_11111_101_0110_1_001, (.vor 22 26 31 5 6 1)),
    (0b001010_01010_11110_11000_100_1001_1_010, (.vxor 10 30 24 4 9 1))] : List (W32 × Instr)),
    Decode.block .v p.1 = .ok p.2 := by decide

theorem test_decode_vector_vandn : ∀ p ∈ ([
    (0b001010_00101_01001_11110_010_1101_1_011, (.vandn 5 9 30 2 13 1)),
    (0b001010_11111_00110_00000_100_0111_0_100, (.vnot 31 6 4 7 0)),
    (0b001011_01010_10011_01101_101_0111_0_1_00, (.vsll 10 19 13 5 7 0 1)),
    (0b001011_10010_11110_11011_001_1011_1_0_01, (.vsrl 18 30 27 1 11 1 0)),
    (0b001011_00010_00110_00101_011_0111_0_1_10, (.vsra 2 6 5 3 7 0 1)),
    (0b001100_00110_00010_0000_1_011_0100_0_011, (.vcvt 6 2 0 1 3 4 3)),
    (0b001101_01000_01110_00011_001_0010_0_100, (.vq 8 14 3 1 2 0 4)),
    (0b001110_01100_01111_01011_111_1110_0_010, (.vdq 12 15 11 7 14 2)),
    (0b001111_11011_10101_00000000_0011_00_01, (.vbs 27 21 3 1)),
    (0b001111_00111_00100_00000_001_0101_01_10, (.vbsCode 7 4 1 5 2)),
    (0b010000_10001_01001_00000_010_0000_0_011, (.vsfu 17 9 2 0 3)),
    (0b010001_01000_10000_00000_111_0010_0_0_01, (.vred 8 16 7 2 0 1)),
    (0b010010_11101_11001_01110_011_0100_1_000, (.vperm 29 25 14 3 4 1)),
    (0b010011_00100_00101_00110_010_0101_0_0_1_0, (.vzip 4 5 6 2 5 0 1))] : List (W32 × Instr)),
    Decode.block .v p.1 = .ok p.2 := by decide

theorem test_decode_vector_vunzip : ∀ p ∈ ([
    (0b010011_10010_01000_11011_011_0111_0_0_1_1, (.vunzip 18 8 27 3 7 0 1)),
    (0b010100_00011_00100_0000000000000000, (.vtrH 3 4)),
    (0b010100_01100_10000_0000000000000001, (.vtrW 12 16)),
    (0b010101_00110_00010_00100_001_0101_0001, (.vbc 6 2 4 1 5 1)),
    (0b010110_00001_01000_10010001_11011000, (.vld 1 8 145 216)),
    (0b010111_10011_11110_11100110_10100001, (.vst 19 30 230 161)),
    (0b011000_00110_00100_01_000010_00011001, (.vldm 6 4 1 2 25)),
    (0b011001_01101_01010_11001_101_01111111, (.vgx 13 10 25 5 127)),
    (0b011010_10110_10111_10011_111_11000011, (.vsx 22 23 19 7 195)),
    (0b011011_00110_001_10_00000101_00001010, (.vacr 6 1 2 5 10)),
    (0b011100_11001_011_01_11101110_10000010, (.vacw 25 3 1 238 130)),
    (0b0111010000000_010_00000_101_1011_0000, (.vvoteAny 2 5 11)),
    (0b0111010000000_101_00000_110_0111_0001, (.vvoteAll 5 6 7)),
    (0b01111000000_00010_0110_00000000_0100, (.vpatch 2 6 4))] : List (W32 × Instr)),
    Decode.block .v p.1 = .ok p.2 := by decide

theorem test_decode_vector_vmov : ∀ p ∈ ([
    (0b011111_00100_11011_00000_011_1110_1_000, (.vmov 4 27 3 14 1)),
    (0b011111_10000_00_010_0000000000000001, (.vmovVp 16 2)),
    (0b01111100_110_11111_000000000000_1_010, (.vmovPv 6 31 1)),
    (0b0111110000000000_10011_00000000011, (.vnop 19)),
    (0b10000000000_01101_00000_010_10010000, (.vseed 13 2)),
    (0b100001_10001_00_111_00000_100_0001_0000, (.vpop 17 7 4 1)),
    (0b100010_00111_11101_00000_100_1011_1_000, (.viota 7 29 4 11 1))] : List (W32 × Instr)),
    Decode.block .v p.1 = .ok p.2 := by decide

theorem test_decode_matrix_mm : ∀ p ∈ ([
    (0b000000_01_01011_11010_01100_10001_0111, (.mm 1 11 26 12 17 7)),
    (0b000001_01_01110_01010_10011_10110_1011, (.mmp 1 14 10 19 22 11)),
    (0b000010_01_00100_00010_0000000000_0111, (.mmr 1 4 2 7)),
    (0b000011_01_11001_00111_00100_01010_1111, (.mmag 1 25 7 4 10 15)),
    (0b000100_01_000000000000000000000000, (.acz 1)),
    (0b000101_01_11000_000000000000000_1010, (.acl 1 24 10)),
    (0b000110_01_10001_000000000000000_0010, (.acs 1 17 2)),
    (0b000111_10_10001_0000000000000000000, (.acf 2 17))] : List (W32 × Instr)),
    Decode.block .m p.1 = .ok p.2 := by decide

theorem test_decode_load_cpy : ∀ p ∈ ([
    (0b000000_00010_01000_0000000000000000, (.cpy 2 8)),
    (0b000001_01101_10101_0000000000000000, (.cpyz 13 21)),
    (0b000010_11001_11100_10011_00000000000, (.gath 25 28 19)),
    (0b000011_00101_10011_00110_00000000000, (.scat 5 19 6)),
    (0b00010000_010_11000_0000000000000000, (.qfill 2 24)),
    (0b001000_00010_00100_000000000000_1_011, (.plane 2 4 1 3))] : List (W32 × Instr)),
    Decode.block .l p.1 = .ok p.2 := by decide

theorem test_decode_store_qdrain : ∀ p ∈ ([
    (0b000101_00100_00_001_0000000000000000, (.qdrain 4 1)),
    (0b000110_01011_10110_00000000000_00_010, (.red 11 22 0 2)),
    (0b000111_00100_01000_0000000000000000, (.bcst 4 8)),
    (0b001001_00101_00111_0000000000000000, (.lwr 5 7))] : List (W32 × Instr)),
    Decode.block .s p.1 = .ok p.2 := by decide

theorem test_decode_supervisor_ovNodeTake : ∀ p ∈ ([
    (0b0000000_01100_10001_000_11101_0001011, (.ovNodeTake 12 17 29)),
    (0b0000001_01001_10110_000_10010_0001011, (.ovNodeDone 9 22 18)),
    (0b0000010_00110_00100_000_00101_0001011, (.ovTileLoad 6 4 5)),
    (0b0000011_01101_11111_000_11101_0001011, (.ovTileSave 13 31 29)),
    (0b000010000000_00001_000_00100_0001011, (.ovTileGo 1 4)),
    (0b000010100000_01100_000_01101_0001011, (.ovTileStop 12 13)),
    (0b0000110_11000_01011_000_00110_0001011, (.ovTileHalt 24 11 6)),
    (0b000011100000_01010_000_00100_0001011, (.ovTileStat 10 4)),
    (0b0000000_11111_10011_000_00011_0101011, (.ovOpPlan 31 19 3)),
    (0b000000100000_01111_000_01101_0101011, (.ovOpStep 15 13)),
    (0b0000010_01001_00001_000_00110_0101011, (.ovRowRd 9 1 6)),
    (0b000001100000_01011_000_10111_0101011, (.ovErrPop 11 23)),
    (0b000010000000_01101_000_10110_0101011, (.ovCkptRoll 13 22))] : List (W32 × Instr)),
    Decode.supervisor p.1 = .ok p.2 := by decide

namespace Sys2Proof.Tests

set_option Elab.async false

/-! ## Every statement with hypotheses: states that meet them

Each theorem gives a state and operands that meet the hypotheses of the statement in its name, one for each of its cases. -/

/-- A page of HBM and one of tile 0's own store. -/
def hbmLeaf : Leaf :=
  { base := 0x10000000, size := 2 ^ 30, r := true, w := true, mt := 0, ver := false, ckpt := false, sealed := false, key := 0 }
def storeLeaf : Leaf := { hbmLeaf with base := 0x400000000000, size := 2 ^ 21 }

/-- Tile 0 runs a word of its C stream with g1, g2 and what f makes of it; one page is mapped at virtual address 0. -/
def runState (leaf : Leaf) (g1 g2 : W64) (f : Control → Control) : State :=
  let t := State.reset.tiles[0]
  let k := State.reset.clusters[0]
  { State.reset with
    cur := .control 0
    tiles := State.reset.tiles.set 0 { t with
      status := .run
      control := f { t.control with g := (t.control.g.set 1 g1).set 2 g2, pc := 0x100 } }
    clusters := State.reset.clusters.set 0 { k with tlb := [{ root := 0, va := 0, leaf := leaf, stale := false }] }
    ready := { State.reset.ready with mem := 0xFFF, tile := 1, eng := 0xF00F }
    mem := [(0x10000100, 0xF0), (0x10000101, 0x80), (0x10000107, 0xFF), (0x400000000100, 0x01), (0x400000000108, 0x05), (0x40000000010C, 0x07)] }
def runs (g1 g2 : W64) : State := runState hbmLeaf g1 g2 fun k => k
def runsInStore (g1 g2 : W64) : State := runState storeLeaf g1 g2 fun k => k

theorem test_meets_transfers :
    (runs 0x30 0).cRuns ∧ (runs 0x30 0).ctl.slot = 0 ∧ (runs 0x30 0).ctl.shadow = [] ∧
    (∀ s ∈ ([runState hbmLeaf 0x30 0 fun k => { k with shadow := [0x30] }] : List State),
      s.cRuns ∧ s.ctl.slot = 0 ∧ s.ctl.shadow = [0x30] ∧ (s.g 1).toNat = 0x30 ∧ (s.g 2).toNat ≠ 0x30) ∧
    (∀ s ∈ ([runState hbmLeaf 0 0 fun k => { k with shadow := List.replicate 64 0 }] : List State),
      s.cRuns ∧ s.ctl.slot = 0 ∧ 64 ≤ s.ctl.shadow.length) ∧
    (∀ s ∈ ([runState hbmLeaf 0 0 fun k => { k with slot := 1 }] : List State),
      s.cRuns ∧ s.ctl.slot ≠ 0) := by delta State.cRuns; decide +kernel

theorem test_meets_delaySlots : (runs 0xFFFC 0).cRuns ∧ (runs 0xFFFC 0).ctl.slot = 0 ∧ ((runs 0xFFFC 0).g 1).toNat ≤ 0xFFFC ∧
    ((runs 0xFFFC 0).g 1).toNat % 4 = 0 := by delta State.cRuns; decide +kernel

theorem test_meets_branchTargets : (∀ s ∈ ([runs 0xFFFC 0x10000] : List State), s.cRuns ∧ s.noAnswer ∧
    (s.g 1).toNat = 0xFFFC ∧ 0xFFFC < (s.g 2).toNat) := by
  delta State.cRuns State.noAnswer; decide +kernel

/-- An access of a word of HBM. -/
theorem plain_hbm (s : State) (k : AccessKind) (ea : W64) (n : Nat) (leaf : Leaf) (pa : Nat)
    (h : s.cReach k ea n = .ok (leaf, s.group pa) ∧ pa < 2 ^ 48 ∧ Machine.place pa = .hbm ∧
      (leaf.ver = false ∧ leaf.ckpt = false ∧ leaf.sealed = false) ∧ tget s.seals (pa / 128) = none ∧ s.scratchBusy pa = false ∧
      pa % 128 + n ≤ 128 ∧ ∀ a ∈ s.fabric.answers, a.who ≠ .stream s.curTile 0) : s.PlainAccess k ea n leaf pa := by
  obtain ⟨reach, below, isHbm, unmarked, tag, settled, line, alone⟩ := h
  exact ⟨reach, below, fun o e => (by rw [isHbm] at e; exact nomatch e), unmarked, tag, settled, line, alone⟩

theorem test_meets_loads : (runs 0x100 8).anyPoison 0x10000100 8 = false ∧
    (runs 0x100 8).PlainAccess .read ((runs 0x100 8).g 1 + BitVec.ofInt 64 (0 : BitVec 11).toInt) 8 hbmLeaf 0x10000100 ∧
    (runs 0xF8 8).anyPoison 0x10000100 8 = false ∧
    (runs 0xF8 8).PlainAccess .read ((runs 0xF8 8).g 1 + (runs 0xF8 8).g 2) 8 hbmLeaf 0x10000100 :=
  ⟨by decide +kernel, plain_hbm _ _ _ _ _ _ (by decide +kernel), by decide +kernel, plain_hbm _ _ _ _ _ _ (by decide +kernel)⟩

theorem test_meets_stores : (runs 0x100 8).PlainAccess .write ((runs 0x100 8).g 1 + BitVec.ofInt 64 (0 : BitVec 11).toInt) 8 hbmLeaf 0x10000100 ∧
    (runs 0xF8 8).PlainAccess .write ((runs 0xF8 8).g 1 + (runs 0xF8 8).g 2) 8 hbmLeaf 0x10000100 :=
  ⟨plain_hbm _ _ _ _ _ _ (by decide +kernel), plain_hbm _ _ _ _ _ _ (by decide +kernel)⟩

theorem test_meets_atomics : (runs 0x100 0).anyPoison 0x10000100 8 = false ∧
    (runs 0x100 0).PlainAccess .atomic ((runs 0x100 0).g 1) 8 hbmLeaf 0x10000100 ∧
    leNat ((runs 0x100 0).mem.bytes 0x10000100 4) ≠ ((runs 0x100 0).g 0).toNat % 2 ^ 32 ∧
    (runs 0x100 0).PlainAccess .atomic ((runs 0x100 0).g 1) 4 hbmLeaf 0x10000100 ∧
    leNat ((runs 0x200 0).mem.bytes 0x10000200 4) = ((runs 0x200 0).g 0).toNat % 2 ^ 32 ∧
    (runs 0x200 0).anyPoison 0x10000200 4 = false ∧ (runs 0x200 0).PlainAccess .atomic ((runs 0x200 0).g 1) 4 hbmLeaf 0x10000200 :=
  by and_intros <;> first | exact plain_hbm _ _ _ _ _ _ (by decide +kernel) | decide +kernel

theorem test_meets_misaligned : (runs 0x102 0).cRuns ∧ ∀ n ∈ [4, 8, 16], ((runs 0x102 0).g 1).toNat % n ≠ 0 := by
  delta State.cRuns; decide +kernel

/-- Semaphore 3 of the running tile. -/
def withSem (s : State) (count : BitVec 16) (poison : Bool) : State := s.onTile 0 fun t => t.setSem 3 { count := count, poison := poison }

theorem test_meets_semaphores :
    (∀ s ∈ ([withSem (runs 1 0x10000) 65534 false, withSem (runs 1 0x10000) 65535 false, withSem (runs 1 0x10000) 1 true,
      withSem (runs 1 0x10000) 0 false] : List State), s.cRuns ∧ (s.g 1).toNat = 1 ∧ 65535 < (s.g 2).toNat) ∧
    (∀ s ∈ ([withSem (runs 1 0) 65534 false] : List State), ((s.tile s.curTile).sem 3).poison = false ∧ ((s.tile s.curTile).sem 3).count.toNat = 65534) ∧
    ∀ s ∈ ([withSem (runs 1 0) 0 false] : List State), ((s.tile s.curTile).sem 3).count.toNat < 1 := by delta State.cRuns; decide +kernel

/-- A landing word of the own store. -/
theorem landing_own (s : State) (w : Bool) (ea : W64) (leaf : Leaf) (pa off : Nat)
    (h : s.lwReach w ea = .ok (leaf, pa) ∧ s.anyPoison pa 16 = false ∧ Machine.place pa = .tileStore s.curTile off ∧
      Machine.place (pa + 12) = .tileStore s.curTile (off + 12) ∧ (leaf.sealed = false ∧ pa % 128 + 16 ≤ 128) ∧
      ∀ a ∈ s.fabric.answers, a.who ≠ .stream s.curTile 0) : s.LandingWord w ea leaf pa := by
  obtain ⟨reach, sound, low, high, line, alone⟩ := h
  exact ⟨reach, sound, ⟨off, low, high⟩, line, alone⟩

/-- The landing word at 0x100 of the own store is armed, with GEN 5. -/
theorem test_meets_landingWords : ∀ v ∈ ([5, 6] : List W64), (runsInStore 0x100 v).cRuns ∧
    (runsInStore 0x100 v).LandingWord true ((runsInStore 0x100 v).g 1) storeLeaf 0x400000000100 ∧
    (runsInStore 0x100 v).LandingWord false ((runsInStore 0x100 v).g 1) storeLeaf 0x400000000100 := by
  intro v hv
  simp only [List.mem_cons, List.not_mem_nil, or_false] at hv
  obtain rfl | rfl := hv
  all_goals exact ⟨by delta State.cRuns; decide +kernel, landing_own _ _ _ _ _ 0x100 (by decide +kernel), landing_own _ _ _ _ _ 0x100 (by decide +kernel)⟩

theorem test_meets_landingWords_notReady :
    ∀ s ∈ ([(runsInStore 0x100 6).onTile 0 fun t => { t with user := { t.user with nren := true } }] : List State),
    (s.tile s.curTile).user.nren = true ∧ (s.tile s.curTile).user.inHandler = false := by decide +kernel

theorem test_meets_landingWords_handler :
    ∀ s ∈ ([(runsInStore 0x100 6).onTile 0 fun t => { t with user := { t.user with nren := true, inHandler := true } }] : List State),
    (s.tile s.curTile).user.nren = true ∧ (s.tile s.curTile).user.inHandler = true := by decide +kernel

/-- A node of one tile with barriers in phase 9 at which arr have arrived. -/
def someNode (arr : List Nat) (word0 : W64) (shares : List Share) : Node :=
  { handle := 1, via := 0, turn := 0, counted := false, order := 0, packet := (Vector.replicate 32 0).set 0 word0, phase := .running, cls := 0
    since := 0, start := 0, shares := shares, preempted := false, stopFor := none, stopAt := 0, cause := 0, snapshot := none, tx := none
    did := 0, barriers := Vector.replicate 16 { phase := 9, arrived := arr }, interval := 4, tag := 3, opened := 0, rerun := true
    unrollable := false, closing := .no, timedOk := true, hostDone := false, op := none }
def inNode (s : State) (n : Node) : State :=
  let s := s.onTile 0 fun t => { t with node := 1, share := 0 }
  { s with pool := { s.pool with nodes := [n] } }

theorem test_meets_barriers : ∀ arr ∈ ([[], [0], [1, 2]] : List (List Nat)),
    ∀ n ∈ ([someNode arr 0x80000300000000 []] : List Node),
    ∀ s ∈ ([inNode (runs 9 8) n] : List State),
    s.cRuns ∧ s.tileNode s.curTile = some n ∧ s.barrierReady = true ∧ n.dlev ≠ 4 ∧
      n.barriers[5].phase.toNat = (s.g 1).toNat % 2 ^ 31 ∧ n.barriers[5].phase.toNat ≠ (s.g 2).toNat % 2 ^ 31 := by
  delta State.cRuns; decide +kernel

theorem test_meets_queuesAndWaits : ∀ n ∈ [15, 16],
    ∀ s ∈ ([(runs 1 0).onTile 0 fun t => { t with formats := List.replicate n 3, votes := List.replicate (n - 15) true }] : List State),
    s.cRuns ∧ (s.tile s.curTile).formats.length = n ∧ (s.tile s.curTile).votes = List.replicate (n - 15) true := by
  delta State.cRuns; decide +kernel

/-- No raise is due. -/
theorem no_raises (s : State) (t : BitVec 6) (now : Nat) (h : (s.tile t).port = [] ∧ ∀ x ∈ [BStream.v, .m, .l, .s], s.raiseDue t now x = false) :
    s.noRaises t now := ⟨fun e he => absurd he (by rw [h.1]; exact List.not_mem_nil), fun x => h.2 x (by cases x <;> decide)⟩

/-- A waite has waited for its 9 tc, or has 9 more to wait that pass with its event. -/
def timingOut (i : Instr) (tc : Nat) : State :=
  (runs 1 0).onTile 0 fun t => { t with
    tc := tc
    code := (leBytes 4 ((encode i).getD 0).toNat).zipIdx.filterMap fun e => if e.1 = 0 then none else some (0x100 + e.2, e.1)
    control := { t.control with stalled := true, wait := some 9, since := 20 } }

theorem test_meets_queuesAndWaits_timeout : ∀ i ∈ ([.waiteSem 3 1 7, .waiteVote 3 1, .waiteStream 3 1 2] : List Instr),
    (timingOut i 25).cRuns ∧ (timingOut i 25).ctl.wait = some 9 ∧ ((timingOut i 25).tile 0).controlLive = true ∧
    ((timingOut i 25).tile 0).countPast 20 9 = some (((timingOut i 25).tile 0).toTc 29) ∧
    Decode.control (((timingOut i 25).tile 0).codeWord 0x100) = .ok i ∧
    ((timingOut i 25).setTile 0 (((timingOut i 25).tile 0).toTc 29)).noRaises 0 (((timingOut i 25).tile 0).toTc 29).portNow := by
  intro i hi
  refine ⟨?_, ?_, ?_, ?_, ?_, no_raises _ _ _ ?_⟩ <;> revert i
  · delta State.cRuns; decide +kernel
  all_goals decide +kernel

/-- A window of 8 by 1 rows of i8 at virtual address 0x1000, and its image at 0x200. -/
def smallImage : Vector W64 8 := (((Vector.replicate 8 0).set 0 0x1000).set 1 0x0001000100010008).set 3 0x10000100001
def smallPins : List Held := match (runs 0x200 0).pinImage 0 smallImage with | .ok p => p | _ => []
def withImage (s : State) (image : Vector W64 8) : State :=
  { s with mem := s.mem.setBytes 0x10000200 (image.toList.flatMap fun w => leBytes 8 w.toNat) }

def wrongImage : Vector W64 8 := smallImage.set 1 0x000100010001000F

theorem test_meets_windows :
    (∀ s ∈ ([withImage (runs 0x200 0) smallImage] : List State), s.cRuns ∧ s.noAnswer ∧ s.shoot.busy = false ∧
      (s.tile s.curTile).windowBusy 4 = false ∧ s.readRecord (s.g 1) = .ok smallImage) ∧
    (withImage (runs 0x200 0) smallImage).pinImage 0 smallImage = .ok smallPins ∧
    Image.fieldsOk smallImage ((withImage (runs 0x200 0) smallImage).holdsSnapshot 0) = true ∧
    (pageKeys (((runs 0x200 0).tile 0).pinsWithout 4 ++ smallPins)).length ≤ 512 ∧
    Image.fieldsOk wrongImage ((runs 0x200 0).holdsSnapshot 0) = false ∧ (withImage (runs 0x200 0) wrongImage).readRecord 0x200 = .ok wrongImage := by
  delta State.cRuns State.noAnswer; decide +kernel

theorem test_meets_windows_waiting :
    (∀ s ∈ ([(runs 0x200 0).onTile 0 fun t => { t with latched := some smallImage, control := { t.control with stalled := true } }] : List State),
      s.cRuns ∧ s.ctl.stalled = true ∧ (s.tile s.curTile).latched = some smallImage ∧ s.pinImage s.curTile smallImage = .ok smallPins) ∧
    (∀ s ∈ ([(runs 0 0).onTile 0 fun t =>
        { t with v := { t.v with state := .run, record := [0xB1100000, 0, 0, 0, 0, 0, (encode (.vld 2 4 0 0)).getD 0] } }] : List State),
      s.cRuns ∧ (s.tile s.curTile).windowBusy 4 = true) := by
  delta State.cRuns; decide +kernel

/-- A transaction of the running context with one tentative line. -/
def someTx : Tx := { snapshot := 5, status := none, ended := false, stamp := 0, lines := [8], node := 0, share := some 0 }
def someRecord : Record :=
  { line := 8, data := List.replicate 128 7, stamp := 0, kind := 1, u := false, poison := 0, tag := none, viaCkpt := false, viaPlain := false, intv := 0 }
def inTx (stamp : BitVec 48) : State :=
  let s := (runs 3 0).onTile 0 fun t => { t with tx := some 3 }
  { s with versions := { s.versions with
    clock := 9
    txs := [(3, someTx)]
    records := [(0, someRecord)]
    lines := [(8, { stamp := stamp, chain := [0], owner := 3, intv := 0, tent := true, undo := false })] } }

def inTxs (x : Tx) (more : Table LineMeta) : State :=
  let s := inTx 4
  { s with versions := { s.versions with
    txs := [(3, x)], records := s.versions.records ++ [(1, { someRecord with line := 9 })], lines := s.versions.lines ++ more } }

theorem test_meets_transactions :
    ((runs 3 0).cRuns ∧ (runs 3 0).noAnswer ∧ (runs 3 0).inTxNode = false ∧
      ((runs 3 0).versions.txs.map Prod.fst).Pairwise (· < ·) ∧ (runs 3 0).liveSnaps.length < 4096 ∧ (runs 3 0).versions.rebasing = false ∧
      ((runs 3 0).tile (runs 3 0).curTile).tx = none) ∧
    (∀ s ∈ ([inTx 4] : List State),
      s.cRuns ∧ s.noAnswer ∧ s.inTxNode = false ∧ (s.tile s.curTile).tx = some 3 ∧ tget s.versions.txs 3 = some someTx ∧
      s.g 1 = (3 : Byte).setWidth 64 ∧ (s.line 8).stamp.toNat ≤ someTx.snapshot ∧ s.tentative 8 3 = some (0, someRecord) ∧
      someRecord.data.length = 128 ∧ s.versions.clock.toNat + 1 < 2 ^ 48) ∧
    (∀ s ∈ ([inTx 6] : List State),
      s.cRuns ∧ (s.tile s.curTile).tx = some 3 ∧ tget s.versions.txs 3 = some someTx ∧ someTx.snapshot < (s.line 8).stamp.toNat ∧
      s.g 1 ≠ (4 : Byte).setWidth 64 ∧ s.g 0 ≠ (3 : Byte).setWidth 64) := by
  delta State.cRuns State.noAnswer; decide +kernel

theorem test_meets_transactions_lines :
    (∀ x ∈ ([{ someTx with lines := [] }, { someTx with status := some 1 }, { someTx with status := some 4, ended := true },
        { someTx with status := some 0, ended := true, stamp := 7 }] : List Tx),
      tget (inTxs x []).versions.txs 3 = some x ∧ ((inTxs x []).tile 0).tx = some 3) ∧
    (∀ s ∈ ([inTxs { someTx with lines := [8, 9] } [(9, { stamp := 4, chain := [1], owner := 3, intv := 0, tent := true, undo := false })]] : List State),
      s.tentative 8 3 = some (0, someRecord) ∧ s.tentative 9 3 = some (1, { someRecord with line := 9 }) ∧ ([8, 9] : List Nat).Nodup ∧
      1 ∉ (s.line 8).chain ∧ 0 ∉ (s.line 9).chain) ∧
    (∀ s ∈ ([inNode (inTx 4) { someNode [] 0x10000300000000 [] with tx := some 3 }] : List State),
      s.inTxNode = true ∧ s.nodeTx = some 3 ∧ someTx.status = none) := by decide +kernel

/-- The line at 0x10000100, with a record of it, in the context that holds transaction 3 or none. -/
def lineState (leaf : Leaf) (tx : Option Byte) (x : Tx) (m : LineMeta) (r : Record) (gib : BitVec 10) (tag : Table SealTag) : State :=
  let s := (runState leaf 0x100 8 fun k => k).onTile 0 fun t => { t with tx := tx }
  { s with
    versions := { s.versions with clock := 9, gib := gib, bound := 1, txs := [(3, x)], records := [(0, r)], lines := [(0x200002, m)] }
    seals := tag
    ready := { s.ready with eng := 0x200000F00F }
    keys := { State.reset.keys with slots := [(3, 7)] } }
def verLeaf : Leaf := { hbmLeaf with ver := true }
def ckptLeaf : Leaf := { verLeaf with ckpt := true }
def sealLeaf : Leaf := { hbmLeaf with sealed := true, key := 3 }
def lineMeta (stamp : BitVec 48) (tent : Bool) : LineMeta := { stamp := stamp, chain := [0], owner := 3, intv := 0, tent := tent, undo := false }
def lineTx (status : Option Byte) : Tx := { someTx with status := status, lines := [0x200002] }
def lineRecord (kind : BitVec 2) : Record := { someRecord with line := 0x200002, kind := kind, stamp := if kind = 0 then 4 else 0 }
def goodTag (good : Bool) : Table SealTag := [(0x200002, { key := 7, stamp := 4, good := good })]

/-- An access of the line. -/
theorem line_access (s : State) (k : AccessKind) (ea : W64) (n : Nat) (leaf : Leaf) (pa : Nat)
    (h : s.cReach k ea n = .ok (leaf, s.group pa) ∧ pa < 2 ^ 39 ∧ pa % 128 + n ≤ 128 ∧ ∀ a ∈ s.fabric.answers, a.who ≠ .stream s.curTile 0) :
    s.LineAccess k ea n leaf pa := let ⟨reach, below, line, alone⟩ := h; ⟨reach, below, line, alone⟩

/-- Through VER pages: in place, from the own tentative record, in place at the snapshot, and from an older record; through SEAL pages:
a tag that is good, and one that is not. -/
theorem test_meets_loads_versions :
    (∀ c ∈ ([(none, lineMeta 4 false, lineRecord 0, verLeaf, []), (some 3, lineMeta 4 true, lineRecord 1, verLeaf, []),
        (some 3, lineMeta 4 false, lineRecord 0, verLeaf, []), (some 3, lineMeta 6 false, lineRecord 0, verLeaf, []),
        (none, lineMeta 0 false, lineRecord 0, sealLeaf, goodTag true), (none, lineMeta 0 false, lineRecord 0, sealLeaf, goodTag false)] :
        List (Option Byte × LineMeta × Record × Leaf × Table SealTag)),
      let s := lineState c.2.2.2.1 c.1 (lineTx none) c.2.1 c.2.2.1 1 c.2.2.2.2
      s.LineAccess .read (s.g 1 + BitVec.ofInt 64 (0 : BitVec 11).toInt) 8 c.2.2.2.1 0x10000100 ∧ s.anyPoison (128 * 0x200002) 128 = false ∧
      s.openSlot s.curTile = c.1 ∧ tget s.seals 0x200002 = tget c.2.2.2.2 0x200002) ∧
    (lineState verLeaf (some 3) (lineTx none) (lineMeta 4 true) (lineRecord 1) 1 []).tentative 0x200002 3 = some (0, lineRecord 1) ∧
    (lineState verLeaf (some 3) (lineTx none) (lineMeta 6 false) (lineRecord 0) 1 []).tentative 0x200002 3 = none ∧
    (((lineState verLeaf (some 3) (lineTx none) (lineMeta 6 false) (lineRecord 0) 1 []).records 0x200002).find? fun e =>
      e.2.kind == 0 && decide (e.2.stamp.toNat ≤ 5)) = some (0, lineRecord 0) ∧
    (lineRecord 0).poison = 0 ∧ (lineRecord 0).tag = none ∧ (lineRecord 0).data.length = 128 ∧
    (lineState sealLeaf none (lineTx none) (lineMeta 0 false) (lineRecord 0) 1 (goodTag true)).key 3 = 7 ∧
    State.reset.qtab[0].getLsbD 63 = false := by
  refine ⟨fun c hc => ⟨line_access _ _ _ _ _ _ ?_, ?_⟩, ?_⟩
  · revert c; decide +kernel
  · revert c; decide +kernel
  · decide +kernel

/-- A SNAP window at snapshot 5 of the tile's node, over a line in place and over one that has been written since. -/
def snapState (stamp : Nat) : State :=
  inNode (lineState verLeaf none (lineTx none) (lineMeta (BitVec.ofNat 48 stamp) false) (lineRecord 0) 1 []) { someNode [] 0x300000000 [] with snapshot := some 5 }
def snapUse (snap : Bool) (leaf : Leaf) : Use :=
  { image := (Vector.replicate 8 0).set 1 (if snap then 0x10 else 0), pins := [{ root := 0, va := 0, leaf := leaf, stale := false }], cur := (0, 0, 0)
    ringoff := 0 }

theorem test_meets_loads_snapshot : (∀ st ∈ [4, 6], (snapState st).nodeSnapshot 0 = some 5 ∧
      pinPa (snapUse true verLeaf).pins (vaOf 0x100) = some (verLeaf, (snapState st).group 0x10000100) ∧ (snapState st).quarantined 0x10000100 = false ∧
      (snapState st).anyPoison 0x10000100 8 = false ∧ tget (snapState st).seals 0x200002 = none ∧ ((snapState st).line 0x200002).stamp.toNat = st) ∧
    (((snapState 6).records 0x200002).find? fun e => e.2.kind == 0 && decide (e.2.stamp.toNat ≤ 5)) = some (0, lineRecord 0) ∧
    (snapUse true verLeaf).image.snap = true ∧ (snapUse false verLeaf).image.snap = false := by decide +kernel

/-- Outside transactions: a write that keeps nothing, one that keeps the old version for a live snapshot, with room and without, and one
in a rebase; through SEAL pages: a good tag, a failed one, none. -/
theorem test_meets_stores_versions :
    (∀ c ∈ ([(verLeaf, { lineTx none with ended := true }, 1, []), (verLeaf, lineTx none, 1, []), (verLeaf, lineTx none, 0, []),
        (sealLeaf, lineTx none, 1, goodTag true), (sealLeaf, lineTx none, 1, goodTag false), (sealLeaf, lineTx none, 1, [])] :
        List (Leaf × Tx × BitVec 10 × Table SealTag)),
      let s := lineState c.1 none c.2.1 (lineMeta 4 false) (lineRecord 0) c.2.2.1 c.2.2.2
      s.LineAccess .write (s.g 1 + BitVec.ofInt 64 (0 : BitVec 11).toInt) 8 c.1 0x10000100 ∧ s.openSlot s.curTile = none ∧
      s.versions.rebasing = false ∧ s.keepsOld c.1 0x200002 = (c.1.ver && !c.2.1.ended) ∧
      s.logsUndo s.curWriter c.1 0x200002 = false ∧ ((s.reclaimLine 0x200002).line 0x200002).chain.length < 7 ∧
      ((s.reclaimLine 0x200002).freeRecords = 0 ↔ c.2.2.1 = 0) ∧ s.overdue none = false) ∧
    (∀ s ∈ ([inNode (lineState ckptLeaf none (lineTx none) (lineMeta 4 false) (lineRecord 0) 1 [])
        { someNode [] 0x18000300000000 [] with tag := 3 }] : List State), s.logsUndo s.curWriter ckptLeaf 0x200002 = true) ∧
    (∀ s ∈ ([{ lineState verLeaf none (lineTx none) (lineMeta 4 false) (lineRecord 0) 0 [] with time := { State.reset.time with ns := 1000 } }] : List State),
      s.overdue (some 0) = true) := by
  refine ⟨fun c hc => ⟨line_access _ _ _ _ _ _ ?_, ?_⟩, ?_⟩
  · revert c; decide +kernel
  · revert c; decide +kernel
  · decide +kernel

/-- In an open transaction: doomed, another's tentative line, an own one, too many lines, a new one with room and without. -/
theorem test_meets_stores_transaction :
    (∀ c ∈ ([(lineTx (some 4), lineMeta 4 false, 1), (lineTx none, { lineMeta 4 true with owner := 2 }, 1), (lineTx none, lineMeta 4 true, 1),
        (lineTx none, lineMeta 4 false, 1), (lineTx none, lineMeta 4 false, 0)] : List (Tx × LineMeta × BitVec 10)),
      let s := lineState verLeaf (some 3) c.1 c.2.1 (lineRecord (if c.2.1.tent then 1 else 0)) c.2.2 []
      s.LineAccess .write (s.g 1 + BitVec.ofInt 64 (0 : BitVec 11).toInt) 8 verLeaf 0x10000100 ∧ s.openSlot s.curTile = some 3 ∧
      tget s.versions.txs 3 = some c.1 ∧ c.1.lines.length < 65536 ∧ ((s.reclaimLine 0x200002).line 0x200002).chain.length < 7 ∧
      ((s.reclaimLine 0x200002).freeRecords = 0 ↔ c.2.2 = 0) ∧ (s.versionAt 0x200002 c.1.snapshot).2.2 = none) ∧
    (lineState verLeaf (some 3) (lineTx none) (lineMeta 4 true) (lineRecord 1) 1 []).tentative 0x200002 3 = some (0, lineRecord 1) ∧
    (lineRecord 1).tag = none ∧ ∃ l : List Nat, 65536 ≤ l.length := by
  refine ⟨fun c hc => ⟨line_access _ _ _ _ _ _ ?_, ?_⟩, ?_⟩
  · revert c; decide +kernel
  · revert c; decide +kernel
  · exact ⟨by decide +kernel, rfl, List.replicate 65536 0, (List.length_replicate ..).ge⟩

/-- A write of a block stream through a window of the same page. -/
theorem test_meets_stores_block : (∀ gib ∈ [0, 1],
    ∀ s ∈ ([lineState verLeaf none (lineTx none) (lineMeta 4 false) (lineRecord 0) (BitVec.ofNat 10 gib) []] : List State),
      pinPa (snapUse false verLeaf).pins (vaOf 0x100) = some (verLeaf, s.group 0x10000100) ∧ s.quarantined 0x10000100 = false ∧
      (s.tile 0).pending = [] ∧ s.keepsOld verLeaf 0x200002 = true ∧ s.logsUndo (s.tileWriter 0) verLeaf 0x200002 = false ∧
      ((s.reclaimLine 0x200002).line 0x200002).chain.length < 7 ∧ ((s.reclaimLine 0x200002).freeRecords = 0 ↔ gib = 0)) := by decide +kernel

theorem test_meets_checkpoints :
    (∀ s ∈ ([inNode (runs 0 0) (someNode [] 0x300000000 []), inNode (runs 0 0) (someNode [] 0x18000300000000 []), runs 0 0] : List State),
      s.cRuns ∧ (∀ y ∈ [BStream.v, .m, .l, .s], ((s.tile s.curTile).stream y).state = .idle) ∧
      (s.die (tileDie s.curTile)).queued 0 s.curTile = 0 ∧ (s.die (tileDie s.curTile)).queued 1 s.curTile = 0) ∧
    (someNode [] 0x300000000 []).ckpt = false ∧ (someNode [] 0x18000300000000 []).ckpt = true ∧ (runs 0 0).tileNode 0 = none ∧
    (inNode (runs 0 0) (someNode [] 0x18000300000000 [])).tileNode 0 = some (someNode [] 0x18000300000000 []) := by
  delta State.cRuns; decide +kernel

/-- The user trap registers of the running tile. -/
def withUser (s : State) (raisen inHandler : Bool) (cause : Byte) : State :=
  s.onTile 0 fun t => { t with user := { t.user with raisen := raisen, inHandler := inHandler, ucause := cause } }

theorem test_meets_traps :
    (∀ s ∈ ([withUser (runs 0 0) true false 0] : List State), s.cRuns ∧ (s.tile s.curTile).user.raisen = true ∧
      (s.tile s.curTile).user.inHandler = false ∧ s.g 10 = 0) ∧
    ∀ s ∈ ([withUser (runs 0 0) false false 0] : List State), s.cRuns ∧ (s.tile s.curTile).user.raisen = false := by
  delta State.cRuns; decide +kernel

theorem test_meets_userReturn :
    (∀ s ∈ ([withUser (runs 0 0) true true 0x0C, withUser (runs 0 0) true true 0x80, withUser (runs 0 0) true true 0xFF] : List State),
      s.cRuns ∧ (s.tile s.curTile).user.inHandler = true ∧ s.ctl.slot = 0 ∧
      ((s.tile s.curTile).user.ucause = 0x0C ∨ 128 ≤ (s.tile s.curTile).user.ucause.toNat)) := by
  delta State.cRuns; decide +kernel

/-- Stream L of the running tile in a state. -/
def withL (s : State) (x : RunState) : State := s.onTile 0 fun t => { t with l := { t.l with state := x } }

theorem test_meets_blockControl :
    (∀ s ∈ ([withL (runsInStore 0x40 0x600000) .stopped, withL (runsInStore 0x40 0x600000) .halted] : List State),
      s.cRuns ∧ (s.g 1).toNat % 4 = 0 ∧ (s.g 1).toNat < s.prefixEnd s.curTile ∧
      s.prefixEnd s.curTile ≤ (s.g 2).toNat ∧ (s.tile s.curTile).trapping = none ∧ (s.tile s.curTile).frozen = false ∧
      ∀ z ∈ [BStream.v, .m, .l, .s], ((s.tile s.curTile).stream z).stopDue = false) ∧
    (∀ s ∈ ([withL (runsInStore 0x40 0) .run] : List State), ((s.tile s.curTile).stream (streamOf 2)).state = .run ∧ (s.tile s.curTile).frozen = false) := by
  delta State.cRuns; decide +kernel

/-- A record at 0x40 of the own store: body of one word, depth 2. -/
theorem test_meets_blockPatch : ∀ k ∈ ([0, 1, 2, 3, 4, 5, 6] : List (BitVec 4)),
    ∀ s ∈ ([{ runsInStore 0x40 5 with mem := Memory.setBytes [] 0x400000000040 ([0xB1400000, 1, 2, 3, 4, 5, 6, 7, 8].flatMap (leBytes 4)) }] : List State),
    ∀ w0 ∈ ([leNat (s.mem.bytes (storeAddr s.curTile 0x40) 4)] : List Nat),
    ∀ p ∈ ([patchPlace k.toNat (bits w0 23 21) 0] : List (Nat × Nat × Nat)),
    s.cRuns ∧ s.noAnswer ∧ w0Ok w0 = true ∧ (s.g 1).toNat < s.prefixEnd s.curTile ∧ 0 < bits w0 23 21 ∧ 0 < bits w0 27 24 ∧
      (s.g 2).toNat < 2 ^ (p.2.1 + 1 - p.2.2) ∧ 0x40 + 4 * p.1 + 4 ≤ s.prefixEnd s.curTile ∧
      s.anyPoison (storeAddr s.curTile 0x40) 4 = false ∧ s.anyPoison (storeAddr s.curTile (0x40 + 4 * p.1)) 4 = false := by
  delta State.cRuns State.noAnswer; decide +kernel

/-- A copy of 8 bytes from 0x1000 to 0x2080, and its record at 0x200. -/
def copyRecord : Vector W64 8 := ((((Vector.replicate 8 0).set 0 0x1000).set 1 0x2080).set 2 0x1000008).set 5 0x83
def copyState : State := withImage (runs 0x200 0) copyRecord
def copyHeld : List Held := match copyState.copyPins 0 0 copyRecord with | .ok p => p.1 | _ => []
def someCopy : CopyOp :=
  { id := 7, tile := some 0, node := 0, record := copyRecord, pins := copyHeld, lw := none, running := true, denied := none, performed := none, told := false }
def copying : State := { copyState with dies := copyState.dies.set 0 ((copyState.die 0).setEngine 0 [someCopy]) }

theorem test_meets_copySubmission : copyState.cRuns ∧ copyState.noAnswer ∧ copyState.readRecord (copyState.g 1) = .ok copyRecord ∧
    CopyRecord.fieldsOk copyRecord = true ∧ copyState.copyPins copyState.curTile (copyState.root copyState.curTile) copyRecord = .ok (copyHeld, none) ∧
    copyState.engReady (2 * (tileDie copyState.curTile).toNat + 0) = true ∧
    (pageKeys ((copyState.tile copyState.curTile).pins ++ copyHeld)).length ≤ 512 ∧ (copyState.die (tileDie copyState.curTile)).queued 0 copyState.curTile < 16 ∧
    CopyRecord.fieldsOk (copyRecord.set 6 1) = false := by
  delta State.cRuns State.noAnswer; decide +kernel

/-- Bytes of one line under pins. -/
theorem plain_pin (s : State) (pins : List Held) (va n : Nat) (leaf : Leaf) (pa : Nat)
    (h : pinPa pins (va % 2 ^ 57) = some (leaf, s.group pa) ∧ pa < 2 ^ 48 ∧ (leaf.ver = false ∧ leaf.ckpt = false ∧ leaf.sealed = false) ∧
      tget s.seals (pa / 128) = none ∧ (s.scratchBusy pa = false ∧ s.quarantined pa = false) ∧ (va % 128 + n ≤ 128 ∧ pa % 128 + n ≤ 128)) :
    s.PlainPin pins va n leaf pa := by
  obtain ⟨pinned, below, unmarked, tag, reachable, line⟩ := h
  exact ⟨pinned, below, unmarked, tag, reachable, line⟩

theorem test_meets_copyCompletion : (copying.die 0).engine 0 = [someCopy] ∧ CopyRecord.ycnt copyRecord = 1 ∧ CopyRecord.xlen copyRecord = 8 ∧
    CopyRecord.dst copyRecord % 128 + 8 ≤ 128 ∧ CopyRecord.lwa copyRecord = 0 ∧
    copying.PlainPin copyHeld (CopyRecord.src copyRecord) 8 hbmLeaf 0x10001000 ∧ copying.PlainPin copyHeld (CopyRecord.dst copyRecord) 8 hbmLeaf 0x10002080 ∧
    copying.anyPoison 0x10001000 8 = false ∧ copying.asking (.operation 7) = false ∧ (∀ x ∈ copying.fabric.answers, x.who ≠ .operation 7) ∧
    copying.shoot.busy = false ∧ 0 < CopyRecord.scnt copyRecord ∧
    ((copying.tile 0).sem (CopyRecord.sem copyRecord)).count.toNat + CopyRecord.scnt copyRecord ≤ 65535 :=
  by and_intros <;> first | exact plain_pin _ _ _ _ _ _ (by decide +kernel) | decide +kernel

theorem test_meets_copyCompletion_landing : (∀ s ∈ ([{ copying with dies := copying.dies.set 0 ((copying.die 0).setEngine 0
      [{ someCopy with lw := some 0x400000000100 }]) }] : List State), (s.tile 0).status = .run ∧ 0x400000000100 = s.group (storeAddr 0 0x100) ∧
      (s.die 0).engine 0 = [{ someCopy with lw := some 0x400000000100 }]) := by decide +kernel

theorem test_meets_landingWordArrival : ∀ x ∈ ([.run, .done] : List TileStatus), ∀ s ∈ ([(runsInStore 0 0).onTile 0 fun t => { t with status := x }] : List State),
    s.ownPkg 0x400000000100 = true ∧ Machine.place (localOf 0x400000000100) = .tileStore 0 0x100 ∧
      Machine.place (localOf 0x400000000100 + 12) = .tileStore 0 (0x100 + 12) ∧ s.storage (localOf 0x400000000100) = true ∧ (s.tile 0).status = x := by
  decide +kernel

theorem test_meets_portOrder :
    ([] : List (Nat × PortItem)).Pairwise (fun a b => a.1 < b.1 ∨ a.1 = b.1 ∧ a.2.rank ≤ b.2.rank) ∧
    ∀ n ∈ [0, 1], ∃ s : State, (s.tile 0).status = .run ∧ ((s.tile 0).sem 3).count.toNat + n = 65535 + n ∧ (s.tile 0).trapping = none :=
  ⟨.nil, fun n _ => ⟨withSem (runs 0 0) 65535 false, by decide +kernel, by simp only [Nat.add_right_cancel_iff]; decide +kernel, by decide +kernel⟩⟩

/-! ### Block streams -/

/-- A record of one word at 0x40: interlocked or exposed, no loops. -/
def someRecordWords (interlocked : Bool) : List W32 := [if interlocked then 0xB1100000 else 0xB1000000, 0, 0, 0, 0, 0, 0]
def atWord (interlocked : Bool) : Stream :=
  { Stream.reset with state := .run, pos := 0x40, record := someRecordWords interlocked, nextTc := 5, endTc := 3 }

/-- Stream x of tile 0 is at a word; window n of the tile is w. -/
def blockState (x : BStream) (interlocked : Bool) (windows : List (Nat × Window)) (f : Tile → Tile) : State :=
  { (runs 0 0).onTile 0 (fun t => f ({ t with
      tc := 5
      windows := windows.foldl (fun v (e : Nat × Window) => v.setIfInBounds e.1 (some e.2)) t.windows }.setStream x (atWord interlocked))) with
    cur := .block 0 x
    mem := (List.range 40).map fun i => (0x10001000 + i, 0x38) }

/-- A window of e0 by e1 elements of a format at an address of the mapped page. -/
def imageOf (base fmt e0 e1 pitch : Nat) : Image :=
  (((((Vector.replicate 8 0).set 0 (BitVec.ofNat 64 base)).set 1 (BitVec.ofNat 64 (e0 * 2 ^ 16 + e1 * 2 ^ 32 + 2 ^ 48 + fmt))).set 2
    (BitVec.ofNat 64 pitch)).set 3 (BitVec.ofNat 64 (e0 + e1 * 2 ^ 20 + 2 ^ 40)))
def windowOf (base fmt e0 e1 pitch : Nat) : Window :=
  { image := imageOf base fmt e0 e1 pitch, pins := [{ root := 0, va := 0, leaf := hbmLeaf, stale := false }] }

theorem block_turn (s : State) (tn : BitVec 6) (x : BStream)
    (h : s.cur = .block tn x ∧ (((s.tile tn).stream x).exposed = false ∨ (s.tile tn).frozenAt ((s.tile tn).stream x).nextTc = false) ∧
      ∀ a ∈ s.fabric.answers, a.who ≠ streamAsker tn x) : s.BlockTurn tn x := ⟨h.1, h.2.1, h.2.2⟩

/-- The element-wise forms: no queue among the operands, or a queue with an entry. -/
def vState (interlocked : Bool) (bound : BitVec 2) (n : Nat) : State :=
  blockState .v interlocked [(3, windowOf 0x1000 8 8 1 8)] fun t =>
    { t with queues := t.queues.map fun q => { q with bound := bound, entries := List.replicate n 7 } }

theorem test_meets_vectorTurn : (vState true 0 0).BlockTurn 0 .v ∧ (vState false 0 1).BlockTurn 0 .v :=
  ⟨block_turn _ _ _ (by decide +kernel), block_turn _ _ _ (by decide +kernel)⟩

theorem test_meets_vectorSources :
    (((vState true 0 0).tile 0).atIssue .v).takeSources false [1, 2] [3] = .ok (((vState true 0 0).tile 0).atIssue .v) ∧
    (((vState true 0 1).tile 0).atIssue .v).takeSources false [24, 2] [3] = .ok ((((vState true 0 1).tile 0).atIssue .v).popQueue 0) ∧
    (((vState true 0 0).tile 0).atIssue .v).takeSources false [] [3] = .ok (((vState true 0 0).tile 0).atIssue .v) := by
  decide +kernel

theorem test_meets_vectorQueues :
    (∀ s ∈ ([vState true 0 4, vState true 0 0, vState true 1 1, vState true 2 1] : List State),
      ((s.tile 0).atIssue .v).pending = []) ∧
    (((vState true 0 4).tile 0).atIssue .v).queues[0].entries.length = 4 ∧ (((vState true 0 0).tile 0).atIssue .v).queues[0].entries = [] ∧
    (((vState true 1 1).tile 0).atIssue .v).queues[0].bound = 1 ∧ (((vState true 2 1).tile 0).atIssue .v).queues[0].bound = 2 := by
  decide +kernel

theorem test_meets_vectorFormats :
    (∀ t ∈ ([6, 7, 8, 9, 10, 11] : List (BitVec 4)), 6 ≤ t.toNat ∧ t.toNat ≤ 11 ∧ t ≠ 12 ∧ t ≠ 15) ∧
    (∀ t ∈ ([0, 1, 2] : List (BitVec 4)), t.toNat ≤ 2) ∧ (∀ m ∈ ([0, 1, 8, 9] : List (BitVec 4)), m.toNat % 8 ≤ 1) ∧
    (∀ m ∈ ([0, 4, 12] : List (BitVec 4)), m.toNat % 8 ≤ 4) ∧
    (Instr.vcvt 1 2 1 0 0 0 0).wf = true ∧ (Instr.vq 1 2 3 8 0 0 0).wf = true ∧ (Instr.vdq 1 2 3 8 0 0).wf = true ∧ (Instr.vbs 1 2 8 1).wf = true ∧
    (Instr.vred 1 2 0 0 0 0).wf = true ∧ (31 : Nat) < 2048 / tyWidth 0 ∧ 15 * 16 + 15 < 2048 / tyWidth 8 := by decide +kernel

/-- A value stands for its rational; a rounding sees a magnitude past the largest finite value. -/
theorem test_meets_rounding : (Val.fin false 3 2).rat = some (3 / 2) ∧ (Val.fin true 4 1).rat = some (-4) ∧ (f32.value false 0x3FC00000).rat = some (3 / 2) ∧
    (∀ f ∈ [f32, bf16, f16, e4m3, e5m2, e2m1], (f.value false f.largest).rat ≠ none) ∧ (e2m1.value false e2m1.largest).rat = some 6 ∧ (2 * 6 : Rat) < (13 : Nat) / (1 : Nat) :=
  ⟨by norm_num [Val.rat], by norm_num [Val.rat], by decide +kernel, by decide +kernel, by decide +kernel, by norm_num⟩

theorem test_meets_vectorPredicates :
    (((vState true 0 0).tile 0).atIssue .v).votes = [] ∧
    ∀ t ∈ ([((vState true 0 0).onTile 0 fun t => { t with votes := List.replicate 16 true }).tile 0] : List Tile),
      t.votes.length = 16 ∧ t.v.exposed = false := by decide +kernel

/-- The bytes of a row under one page. -/
theorem plain_bytes (s : State) (pins : List Held) (a : Int) (n : Nat) (used : Nat → Bool) (leaf : Leaf) (pa : Nat)
    (h : (∀ i < n, used i = true → pinPa pins (vaOf (a + i)) = some (leaf, s.group (pa + i))) ∧
      (∀ i < n, used i = true → pa + i < 2 ^ 48 ∧ tget s.seals ((pa + i) / 128) = none ∧ s.scratchBusy (pa + i) = false ∧ s.quarantined (pa + i) = false) ∧
      (leaf.ver = false ∧ leaf.ckpt = false ∧ leaf.sealed = false)) : s.PlainBytes pins a n used leaf pa := ⟨h.1, h.2.1, h.2.2⟩

/-- A vector word through a window of 8 bytes in bounds, in its tile and in the window's use. -/
def vTile : Tile := ((vState true 0 0).tile 0).atIssue .v
def vUse (writer : Bool) : Use := vTile.useOf .v (windowOf 0x1000 8 8 1 8) writer

theorem test_meets_vectorMemory :
    vTile.windows[3] = some (windowOf 0x1000 8 8 1 8) ∧ (windowOf 0x1000 8 8 1 8).image.fmt ≠ 12 ∧ (vUse false).curAddr % 4 = 0 ∧
    (vState true 0 0).PlainBytes (vUse false).pins ((vUse false).curAddr + (0 : Byte).toInt * 256) 256 (fun i => (vUse false).byteIn ((0 : Int) + i)) hbmLeaf 0x10001000 ∧
    (vState true 0 0).PlainBytes (vUse true).pins ((vUse true).curAddr + (0 : Byte).toInt * 256) 256 (fun i => (vUse true).byteIn ((0 : Int) + i)) hbmLeaf 0x10001000 ∧
    (∀ i < 8, (vState true 0 0).anyPoison (0x10001000 + i) 1 = false) ∧ (vTile.pending.filter fun q => q.load).length < 32 ∧
    (windowOf 0x1000 8 8 1 8).image.snap = false ∧ fmtWidth (windowOf 0x1000 8 8 1 8).image.fmt = 8 ∧ vTile.pending = [] :=
  by and_intros <;> first | exact plain_bytes _ _ _ _ _ _ _ (by decide +kernel) | decide +kernel

theorem test_meets_vectorAccumulators :
    vTile.windows[4] = none ∧ (5 : Byte).toNat < (vState true 0 0).bankRows 0 1 ∧ (vState true 0 0).bankRows 0 1 ≤ 256 ∧
    (∀ w ∈ [windowOf 0x1001 8 8 1 8], ((((vState true 0 0).tile 0).atIssue .v).useOf .v w false).curAddr % 4 ≠ 0) ∧
    fmtWidth (windowOf 0x1000 5 8 1 8).image.fmt ∉ [8, 16, 32] ∧ fmtWidth (windowOf 0x1002 9 8 1 8).image.fmt = 32 ∧
    (∀ z ∈ [true, false], ((((vState true 0 0).tile 0).atIssue .v).useOf .v (windowOf 0x1002 9 8 1 8) z).curAddr % 4 ≠ 0) ∧
    (∀ b ∈ ([{ cells := [], flags := 0, poison := false, bad := [1290] }] : List Bank), ((List.range 64).any fun j => b.badAt 5 (64 * 0 + j)) = true) := by
  decide +kernel

theorem test_meets_blockProgress :
    bits (recWord (someRecordWords true) 0) 20 20 = 1 ∧ bits (recWord (someRecordWords false) 0) 20 20 = 0 ∧ recWord (someRecordWords true) 4 = 0 ∧
    recWord (someRecordWords true) 5 = 0 ∧ bits (recWord (someRecordWords true) 0) 27 24 = 1 ∧ bits (recWord (someRecordWords true) 0) 23 21 = 0 ∧
    (0 : Nat) + 1 = bits (recWord (someRecordWords true) 0) 27 24 ∧ (0 : Nat) < ((List.range 0).map fun _ => 1).prod := by decide +kernel

/-! ### Events of block streams, the M, L and S streams -/

/-- Stream V waits at a record of the own store that awaits two raises of semaphore 5, which has n. -/
def awaitRecord : List W32 := [0xB1100000, 0x14020000, 0, 0, 0, 0, 0x7C000000]
def awaiting (n : BitVec 16) (poison : Bool) : State :=
  { (runs 0 0).onTile 0 (fun t => { t.setSem 5 { count := n, poison := poison } with v := { Stream.reset with state := .await, pos := 0x40 } }) with
    cur := .block 0 .v
    mem := Memory.setBytes [] 0x400000000040 (awaitRecord.flatMap fun w => leBytes 4 w.toNat) }

theorem test_meets_blockEvents_await :
    (∀ s ∈ ([awaiting 2 false, awaiting 1 false, awaiting 0 true] : List State), (s.tile 0).status = .run ∧ (s.tile 0).boundary = false ∧
      (s.tile 0).v.state = .await ∧ (s.tile 0).v.pos.toNat + 8 ≤ s.prefixEnd 0 ∧ s.anyPoison (storeAddr 0 0x44) 4 = false ∧ (s.tile 0).v.w1 = none ∧
      (s.tile 0).v.ppoint = false ∧ (s.tile 0).port = [] ∧ (∀ y ∈ [BStream.v, .m, .l, .s], s.raiseDue 0 (s.tile 0).portNow y = false) ∧ s.fabric.answers = [] ∧ bits (leNat (s.mem.bytes (storeAddr 0 0x44) 4)) 25 16 = 2) ∧
    (∀ s ∈ ([awaiting 2 false] : List State), ((s.tile 0).sem 5).count.toNat = 2 ∧ ((s.tile 0).sem 5).poison = false ∧ (s.tile 0).earlierWaits (s.tile 0).portNow .v 5 = false ∧
      s.readBlock 0 0x40 = .ok awaitRecord ∧ badWord .v awaitRecord = none ∧ (s.tile 0).fetchClash .v awaitRecord = false ∧ recDepth awaitRecord = 0) ∧
    ((awaiting 1 false).tile 0).sem 5 = { count := 1, poison := false } ∧ ((awaiting 0 true).tile 0).sem 5 = { count := 0, poison := true } := by
  decide +kernel

/-- A completed block that raises semaphore 5, and one that closes a segment with its signature in W2 and W3. -/
def retired (words : List W32) (f : Stream → Stream) : State :=
  blockState .v true [] fun t => { t with v := f { t.v with record := words, body := 1 } }

theorem test_meets_blockEvents_retire :
    (∀ s ∈ ([retired [0xB1100000, 0, 0, 0, 0, 0, 0x7C000000] id, retired [0xB1100000, 0x14020000, 0, 0, 0, 0, 0x7C000000] id] : List State),
      s.blockComplete 0 .v = true ∧ ((s.tile 0).stream .v).exposed = false ∧ recSegend ((s.tile 0).stream .v).record = false ∧
      ((s.tile 0).stream .v).consumed = false ∧ (s.tile 0).port = [] ∧ ((s.tile 0).sem (recRss ((s.tile 0).stream .v).record)).count = 0) ∧
    recRsn [0xB1100000, 0, 0, 0, 0, 0, 0x7C000000] = 0 := by decide +kernel

/-- A record whose word reads through window 3, a ring window of four slots with semaphores 5 and 6. -/
def ringRecord : List W32 := [0xB1100000, 0, 0, 0, 0, 0, 0x58030002]
def ringImage : Image := ((Vector.replicate 8 0).set 1 0x80).set 4 0x31000000A60000
def ringing (x : BStream) (n : BitVec 16) (due : W32) (pend : List Pending) : State :=
  { blockState x true [(3, { image := ringImage, pins := [] })] (fun t =>
      { t.setSem 5 { count := n, poison := false } with pending := pend, tc := 9, v := { t.v with record := ringRecord, ringDue := due, body := if due = 0 then 0 else 1 } }) with
    lateNext := none }

theorem test_meets_blockEvents_ring :
    (∀ s ∈ ([ringing .v 1 0 [], ringing .v 0 0 []] : List State), (s.tile 0).status = .run ∧ (s.tile 0).v.state = .run ∧ (s.tile 0).v.nestDone = false ∧
      (s.tile 0).v.exposed = false ∧ (s.tile 0).port = [] ∧ (∀ y ∈ [BStream.v, .m, .l, .s], s.raiseDue 0 (s.tile 0).portNow y = false) ∧ ((s.tile 0).ringNeeds .v (s.tile 0).v).head? = some 3 ∧
      (s.tile 0).windows[3] = some { image := ringImage, pins := [] } ∧ (∀ k ∈ ([5, 6] : List (BitVec 6)), (s.tile 0).earlierWaits (s.tile 0).portNow .v k = false) ∧
      ((s.tile 0).sem 5).poison = false) ∧
    (∀ s ∈ ([ringing .v 0 8 []] : List State), s.asking (streamAsker 0 .v) = false ∧
      (List.range 32).find? (fun j => (s.tile 0).v.ringDue.getLsbD j) = some 3 ∧ ringImage.ns ≤ 15 ∧ ((s.tile 0).sem 6).count.toNat < 65535) := by
  decide +kernel

/-- A result and a load in flight. -/
def inFlight (landed load : Bool) : Pending := { due := 8, stream := .v, landed := landed, load := load, what := .vreg 4 77, kept := none }

theorem test_meets_blockEvents_flight : (∀ s ∈ ([ringing .v 1 0 [inFlight true false]] : List State), (s.tile 0).pending = [inFlight true false] ∧
      (s.tile 0).operandLate = false ∧ (s.tile 0).portBusy = false ∧ (s.tile 0).pastIssues 8 = true) ∧
    (∀ s ∈ ([ringing .v 1 0 [{ inFlight false true with kept := some { window := 3, again := true, pieces := [] } }]] : List State),
      s.rereadOne 0 { inFlight false true with kept := some { window := 3, again := true, pieces := [] } } = .ok { inFlight false true with kept := none }) ∧
    (inFlight false true).load = true ∧ (inFlight false true).landed = false ∧ (inFlight false false).load = false := by decide +kernel

/-- A block of 17 tc that closes a segment: with the right signature, a wrong one, and none. -/
def closing (w2 w3 : W32) : State :=
  blockState .v true [] fun t => { t with v := { t.v with record := [0xB1180000, 0, w2, w3, 0, 0, 0x7C000000], body := 1, count := 17, crc := 5 } }

theorem test_meets_segmentCheck :
    (∀ s ∈ ([closing 17 0xFFFFFFFA, closing 17 0, closing 0 0] : List State), (s.tile 0).status = .run ∧ (s.tile 0).boundary = false ∧
      s.fabric.answers = [] ∧ s.blockComplete 0 .v = true ∧ recSegend ((s.tile 0).stream .v).record = true ∧ ((s.tile 0).stream .v).consumed = false ∧
      recRsn ((s.tile 0).stream .v).record = 0 ∧ ((s.tile 0).stream .v).exposed = false ∧ (s.tile 0).port = [] ∧ (s.tile 0).trapping = none ∧
      (∀ x ∈ [BStream.v, .m, .l, .s], ((s.tile 0).stream x).exposedRun = false ∧ ((s.tile 0).stream x).stopDue = false)) ∧
    (∀ r ∈ ([[0xB1180000, 0x14020001, 17, 0, 0, 0, 0x7C000000]] : List (List W32)), recSegend r = true ∧ recRsn r ≠ 0) ∧
    (∀ s ∈ ([closing 17 0] : List State), s.physOfTile 0 = some 0 ∧ (s.cluster (tileCluster 0)).phys[0]?.isSome = true ∧ (s.die (tileDie 0)).log.length < 1024) ∧
    ~~~((closing 0 0).tile 0).v.crc = 0xFFFFFFFA ∧ ((closing 0 0).tile 0).v.count = 17 := by decide +kernel

/-- M at a word, with format words, and with windows of one element: E4M3 operands (3, 4), a scale (5), an n32 (6), an f32 (7). -/
def mState (formats : List W32) : State :=
  blockState .m true [(3, windowOf 0x1000 3 1 1 1), (4, windowOf 0x1008 3 1 1 1), (5, windowOf 0x1010 11 1 1 1), (6, windowOf 0x1018 9 1 1 4),
    (7, windowOf 0x1020 0 1 1 4)] fun t => { t with formats := formats, m := { t.m with nextTc := 5 } }
def mTile (formats : List W32) : Tile := ((mState formats).tile 0).atIssue .m
def mIssue (formats : List W32) : State := (mState formats).onTile 0 fun u => u.atIssue .m
/-- The first element of a window, as an operand gives it. -/
def element (formats : List W32) (w : Window) : Option Nat :=
  match (mIssue formats).cell 0 ((mTile formats).useOf .m w false) 1 0 0 0 with | .ok c => c.raw | _ => none

/-- An operand of one element. -/
theorem operand_one (s : State) (u : Use) (v : Option Nat) (h : s.cell 0 u 1 (u.c 0 + (0 : Nat)) (u.c 1 + (0 + 0 : Nat)) (u.c 2) = .ok { raw := v, bad := none }) :
    s.Operand 0 u 1 0 1 1 fun _ _ => v := by
  intro x hx y hy
  obtain rfl : x = 0 := by omega
  obtain rfl : y = 0 := by omega
  exact h

theorem test_meets_matrixTurn : (mState [0x33]).BlockTurn 0 .m := block_turn _ _ _ (by decide +kernel)

/-- mm of E4M3 operands without scales, or with a scale of A. -/
theorem test_meets_matrixProducts :
    (mIssue [0x33]).Operand 0 ((mTile [0x33]).useOf .m (windowOf 0x1000 3 1 1 1) false) 1 0 1 1 (fun _ _ => some 0x38) ∧
    (mIssue [0x33]).Operand 0 ((mTile [0x33]).useOf .m (windowOf 0x1008 3 1 1 1) false) 1 0 1 1 (fun _ _ => some 0x38) ∧
    (mIssue [0x133]).Operand 0 ((mTile [0x133]).useOf .m (windowOf 0x1010 11 1 1 1) false) 1 0 1 1 (fun _ _ => some 0x38) ∧
    FormatWord.ok ⟨0x33⟩ .mm = true ∧ FormatWord.ok ⟨0x133⟩ .mm = true ∧ (mTile [0x33]).formats = [0x33] ∧ (mTile [0x33]).m.exposed = false ∧
    (mTile [0x33]).windows[3] = some (windowOf 0x1000 3 1 1 1) ∧ (mTile [0x33]).windows[4] = some (windowOf 0x1008 3 1 1 1) ∧
    (windowOf 0x1000 3 1 1 1).image.extent 0 = 1 ∧ (windowOf 0x1000 3 1 1 1).image.extent 1 = 1 ∧ (windowOf 0x1000 3 1 1 1).image.extent 2 = 1 ∧
    16 * 2 + 1 ≤ (mState [0x33]).bankRows 0 1 ∧ (mTile [0x33]).banks[1].badRows 32 1 1 = [] := by
  refine ⟨operand_one _ _ _ ?_, operand_one _ _ _ ?_, operand_one _ _ _ ?_, ?_⟩ <;> decide +kernel

/-- mmp of i8 by planes, and mmag with its index window, whose adapter 0 lies in bounds. -/
theorem test_meets_matrixProducts_forms :
    (mIssue [0x33]).Operand 0 ((mTile [0x33]).useOf .m (windowOf 0x1018 9 1 1 4) false) 1 0 1 1 (fun _ _ => element [0x33] (windowOf 0x1018 9 1 1 4)) ∧
    FormatWord.ok ⟨0x10C8⟩ .mmp = true ∧ FormatWord.ok ⟨0x33⟩ .mmag = true ∧
    (windowOf 0x1018 9 1 1 4).image.fmt = 9 ∧ (mTile [0x33]).windows[6] = some (windowOf 0x1018 9 1 1 4) := by
  refine ⟨operand_one _ _ _ ?_, ?_⟩ <;> decide +kernel

theorem test_meets_matrixBlocks :
    ((mTile []).useOf .m (windowOf 0x1000 3 1 1 1) false).image.inBounds 0 0 0 = true ∧ (mState []).anyPoison 0x10001000 1 = false ∧
    (mState []).PlainBytes ((mTile []).useOf .m (windowOf 0x1000 3 1 1 1) false).pins
      (((mTile []).useOf .m (windowOf 0x1000 3 1 1 1) false).addr 0 0 0) 1 (fun _ => true) hbmLeaf 0x10001000 ∧
    (mTile []).formats = [] ∧ FormatWord.ok ⟨0xFFFFFFFF⟩ .mm = false ∧ (mTile [0x33]).windows[9] = none ∧
    (windowOf 0x1018 9 1 1 4).image.fmt ∈ [0, 6, 9] ∧ (List.replicate 16 (some (Val.fin false 1 1))).length = 16 ∧
    (Val.fin false 3 2).rat ≠ none :=
  ⟨by decide +kernel, by decide +kernel, plain_bytes _ _ _ _ _ _ _ (by decide +kernel), by decide +kernel⟩

/-- mmr of an f32 score with one k, acl and acs through the f32 window, acf through the n32 window. -/
theorem test_meets_matrixBanks :
    (mIssue [0x20090]).Operand 0 ((mTile [0x20090]).useOf .m (windowOf 0x1020 0 1 1 4) false) 1 0 1 1 (fun _ _ => some 0x38383838) ∧
    (mIssue [0x20090]).Operand 0 ((mTile [0x20090]).useOf .m (windowOf 0x1018 9 1 1 4) false) 1 0 1 1 (fun _ _ => element [0x20090] (windowOf 0x1018 9 1 1 4)) ∧
    (mState []).PlainBytes ((mTile []).useOf .m (windowOf 0x1020 0 1 1 4) true).pins
      (((mTile []).useOf .m (windowOf 0x1020 0 1 1 4) true).addr 0 0 0) 4 (fun _ => true) hbmLeaf 0x10001020 ∧
    (mState []).PlainBytes ((mTile []).useOf .m (windowOf 0x1018 9 1 1 4) true).pins
      (((mTile []).useOf .m (windowOf 0x1018 9 1 1 4) true).addr 0 0 0) 4 (fun _ => true) hbmLeaf 0x10001018 ∧
    FormatWord.ok ⟨0x20090⟩ .mmr = true ∧ (windowOf 0x1020 0 1 1 4).image.fmt = FormatWord.afmt ⟨0x20090⟩ ∧
    (mTile [0x20090]).windows[7] = some (windowOf 0x1020 0 1 1 4) ∧ (mTile [0x20090]).windows[6] = some (windowOf 0x1018 9 1 1 4) ∧
    (mTile []).banks[1].poison = false ∧ (mTile []).banks[1].bad = [] ∧ (mTile []).pending = [] := by
  refine ⟨operand_one _ _ _ ?_, operand_one _ _ _ ?_, plain_bytes _ _ _ _ _ _ _ ?_, plain_bytes _ _ _ _ _ _ _ ?_, ?_⟩ <;> decide +kernel

/-- L and S at a word, with two i8 windows of two elements that share no byte, an index window and a plane window. -/
def xState (x : BStream) (entries : Nat) : State :=
  blockState x true [(3, windowOf 0x1100 8 2 1 2), (4, windowOf 0x1000 8 2 1 2), (5, windowOf 0x1200 9 1 1 4), (6, windowOf 0x1180 12 8 1 1),
    (7, windowOf 0x1000 8 8 1 8)] fun t => { t with queues := t.queues.map fun q => { q with entries := List.replicate entries 7, bound := 2 } }
def xTile (x : BStream) : Tile := ((xState x 0).tile 0).atIssue x

/-- One byte of a window lies in sound storage of one leaf. -/
def byteOk (s : State) (pins : List Held) (a : Int) (leaf : Leaf) (p : Nat) : Bool :=
  decide (pinPa pins (vaOf a) = some (leaf, s.group p)) && decide (p < 2 ^ 48) && decide (tget s.seals (p / 128) = none) && !s.scratchBusy p && !s.quarantined p

theorem plain_window (s : State) (u : Use) (leaf : Leaf) (place : Nat → Nat → Nat → Nat)
    (h : ((List.range (u.image.bound 0)).all fun i => (List.range (u.image.bound 1)).all fun j => (List.range (u.image.bound 2)).all fun k =>
        ((List.range ((fmtWidth u.image.fmt + 7) / 8)).all fun n => byteOk s u.pins (u.addr i j k + n) leaf (place i j k + n)) &&
        !s.anyPoison (place i j k) ((fmtWidth u.image.fmt + 7) / 8)) = true ∧ (leaf.ver = false ∧ leaf.ckpt = false ∧ leaf.sealed = false)) :
    s.PlainWindow u leaf place := by
  intro i hi j hj k hk
  obtain ⟨h, hl⟩ := h
  simp only [List.all_eq_true, List.mem_range, Bool.and_eq_true, Bool.not_eq_true', byteOk, decide_eq_true_eq] at h
  obtain ⟨hb, hp⟩ := h i hi j hj k hk
  exact ⟨⟨fun n hn _ => (hb n hn).1.1.1.1, fun n hn _ => ⟨(hb n hn).1.1.1.2, (hb n hn).1.1.2, (hb n hn).1.2, (hb n hn).2⟩, hl⟩, hp⟩

theorem test_meets_boxMoves : (xState .l 0).BlockTurn 0 .l ∧ (xState .s 0).BlockTurn 0 .s ∧
    (∀ t ∈ [xTile .l, xTile .s], t.windows[3] = some (windowOf 0x1100 8 2 1 2) ∧ t.windows[4] = some (windowOf 0x1000 8 2 1 2) ∧
      t.windows[5] = some (windowOf 0x1200 9 1 1 4) ∧ t.windows[6] = some (windowOf 0x1180 12 8 1 1) ∧ t.windows[8] = none) ∧
    (windowOf 0x1100 8 2 1 2).image.boxCount = (windowOf 0x1000 8 2 1 2).image.boxCount ∧ (windowOf 0x1200 9 1 1 4).image.boxCount = 1 ∧
    (xState .l 0).PlainWindow ((xTile .l).useOf .l (windowOf 0x1000 8 2 1 2) false) hbmLeaf (fun i j _ => 0x10001000 + 2 * j + i) ∧
    (xState .l 0).PlainWindow ((xTile .l).useOf .l (windowOf 0x1100 8 2 1 2) true) hbmLeaf (fun i j _ => 0x10001100 + 2 * j + i) ∧
    (xState .s 0).PlainWindow ((xTile .s).useOf .s (windowOf 0x1000 8 2 1 2) false) hbmLeaf (fun i j _ => 0x10001000 + 2 * j + i) ∧
    (xState .s 0).PlainWindow ((xTile .s).useOf .s (windowOf 0x1100 8 2 1 2) true) hbmLeaf (fun i j _ => 0x10001100 + 2 * j + i) ∧
    (∀ i < 2, ∀ i' < 2, 0x10001000 + i + 1 ≤ 0x10001100 + i') :=
  by and_intros <;> first | exact block_turn _ _ _ (by decide +kernel) | exact plain_window _ _ _ _ (by decide +kernel) | decide +kernel

/-- qfill and qdrain through a window of 8 bytes; a full queue, and one with room. -/
theorem test_meets_boxMoves_queues :
    (((xState .l 4).tile 0).atIssue .l).queues[2].entries.length = 4 ∧ (xTile .l).queues[2].entries.length + (xTile .l).pushesDue 2 < 4 ∧
    ((xTile .l).stream .l).exposed = false ∧ (xState .s 1).fabric.answers = [] ∧ (((xState .s 1).tile 0).atIssue .s).queues[2].entries = [7] ∧
    (∀ y ∈ [BStream.l, .s], (xState y 0).unperformed (streamAsker 0 y) = [] ∧ ((xTile y).stream y).redLeft = none ∧ ((xTile y).pending = [])) ∧
    (xTile .l).vExposed = false ∧ (∀ s ∈ ([blockState .l false [] id] : List State), ((s.tile 0).stream .l).exposed = true ∧ (s.tile 0).vExposed = false) := by
  decide +kernel

theorem test_meets_boxMoves_bytes :
    (xState .l 0).PlainBytes ((xTile .l).useOf .l (windowOf 0x1000 8 8 1 8) false).pins ((xTile .l).useOf .l (windowOf 0x1000 8 8 1 8) false).curAddr 256
      (fun i => i < 8) hbmLeaf 0x10001000 := plain_bytes _ _ _ _ _ _ _ (by decide +kernel)

/-! ### Steps -/

/-- Tile 0 runs, with a word of its code at 0x100, as the agent in focus or named by the agenda. -/
def atCode (word : Nat) (pc : BitVec 17) : State :=
  { (runs 0 0).onTile 0 (fun t => { t with
      code := (List.range 4).filterMap fun i => if word / 256 ^ i % 256 = 0 then none else some (0x100 + i, BitVec.ofNat 8 (word / 256 ^ i))
      control := { t.control with pc := pc } }) with focus := .control 0, agenda := [] }
def fetched (s : State) : W32 :=
  BitVec.ofNat 32 ((List.range 4).map fun j => ((tget (s.tile 0).code ((s.tile 0).control.pc.toNat + j)).getD 0).toNat * 256 ^ j).sum

theorem test_meets_stepRuns_control :
    (∀ s ∈ ([atCode 0x02FB8920 0x100, atCode 0xFFFFFFFF 0x100, atCode 0x02FB8920 0x10000] : List State), s.powered = true ∧ s.frozen = false ∧ s.agenda = [] ∧
      (s.tile 0).boundary = false ∧ (s.tile 0).halt = 0 ∧ (s.tile 0).ending = false ∧ (s.tile 0).debug = false ∧ (s.tile 0).trapping = none ∧
      (s.tile 0).control.closing = false ∧ (s.tile 0).control.pause = 0 ∧ s.timedWait 0 = false ∧ s.fabric.answers = [] ∧ s.fabric.moved = []) ∧
    (∀ s ∈ ([atCode 0x02FB8920 0x100] : List State), s.arrivalOf 0 = .plain ∧ Decode.control (fetched s) = .ok (.mul 23 27 17)) ∧
    (∀ s ∈ ([atCode 0xFFFFFFFF 0x100] : List State), s.arrivalOf 0 = .plain ∧ Decode.control (fetched s) = .error .unassigned) := by decide +kernel

theorem test_meets_stepRuns_block :
    (∀ s ∈ ([blockState .v true [] fun t => { t with v := { t.v with record := [0xB1100000, 0, 0, 0, 0, 0, 0x7C000000] } }] : List State),
      (s.tile 0).status = .run ∧ (s.tile 0).v.state = .run ∧ recInterlocked (s.tile 0).v.record = true ∧ (s.tile 0).v.nestDone = false ∧
      (s.tile 0).v.ringDue = 0 ∧ (s.tile 0).ringNeeds .v (s.tile 0).v = [] ∧ Decode.block .v (recBody (s.tile 0).v.record 0) = .ok (.vmov 0 0 0 0 0)) := by
  decide +kernel

/-- Supervisor 0 at a word of HBM. -/
def supAt (word : Nat) : State :=
  { (runs 0 0).onCluster 0 (fun k => { k with pc := 0x1000, mode := 3 }) with
    cur := .supervisor 0, focus := .supervisor 0, agenda := [], mem := Memory.setBytes [] 0x1000 (leBytes 4 word) }

theorem test_meets_stepRuns_supervisor :
    (∀ s ∈ ([supAt 0x0E05028B] : List State), (s.cluster 0).wait = none ∧ s.supInterrupt 0 = none ∧ s.fabric.moved = [] ∧ s.powered = true ∧ s.frozen = false) ∧
    (supAt 0x0E05028B).rvFetch 0 = .ok (0x0E05028B, 4) ∧ Decode.supervisor 0x0E05028B = .ok (.ovTileStat 10 5) ∧
    (supAt 0x33).rvFetch 0 = .ok (0x33, 4) ∧ (0x33 : W32).toNat % 128 ≠ 0x0B ∧ (0x33 : W32).toNat % 128 ≠ 0x2B := by
  decide +kernel

theorem test_meets_memoryForm : State.reset.mem.wf = true ∧ (match step (atCode 0x02FB8920 0x100) with | .next _ => true | _ => false) = true := by decide +kernel

theorem test_meets_frozenHolds :
    (∀ s ∈ ([{ State.reset with frozen := true, powered := true, agenda := [.event .tapFrzstat] }] : List State),
      s.frozen = true ∧ s.powered = true ∧ s.fabric.moved = [] ∧ s.agenda = [.event .tapFrzstat]) ∧
    (∀ h, Activity.event .tapFrzstat ≠ .event (.powerOn h) ∧ Activity.event .tapFrzstat ≠ .event (.reset h)) ∧
    Activity.event .tapFrzstat ≠ .event .powerLoss := by
  refine ⟨by decide +kernel, fun h => ⟨nofun, nofun⟩, nofun⟩

/-! ### Routing -/

def words (a : Nat) (l : List Nat) : Memory := l.zipIdx.foldl (fun m e => m.setBytes (a + 8 * e.2) (leBytes 8 e.1)) []
def someHeld : Held := { root := 0, va := 0, leaf := hbmLeaf, stale := false }
def someRoute : Route := { pkg := 5, die := 2, handle := 7, standby := false, spkg := 0, sdie := 0, shandle := 0 }
def entryOf (token first second : Nat) : BitVec 128 := BitVec.ofNat 128 (token + first * 2 ^ 32 + second * 2 ^ 48)
def sendBlock : Vector W64 8 := ((((Vector.replicate 8 0).set 0 0x800).set 1 0x1000).set 2 0x2000).set 3 (BitVec.ofNat 64 (2 + 2 ^ 16 + 100 * 2 ^ 32 + 9 * 2 ^ 48))
def tokenOf (i : Nat) (st : TokenState) (e : BitVec 128) (seq : W32) : Token :=
  { idx := i, entry := e, state := st, second := false, seq := seq, pkg := 5, die := 2, handle := 7 }
def sendOf (tokens : List Token) (resend : List Nat) : SendHandle :=
  { id := 3, tile := some 0, node := 1, block := sendBlock, pins := [someHeld], tokens := tokens, rerouted := [], listing := [], resend := resend, denied := none
    deliv := 4, bounce := 5, overs := 6, resent := 7, raised := true }
def recvOf (opened : Bool) (slotu : Nat) : RecvHandle :=
  { opened := opened, id := 4, tile := 0, node := 1, buf := 0x3000, lwa := 0, expert := 33, cap := 4, slotu := slotu, phase := 9, pins := [someHeld], accept := 1
    dup := 2, refused := 3, bytes := 400
    sources := [{ phase := 9, pkg := 5, die := 2, base := 10, accepted := BitVec.ofNat 256 (2 ^ 12 + 2 ^ 11), refused := 0, since := 3 }] }

/-- The running tile's block at 0x200, with its die as f makes it. -/
def routing (block : List Nat) (entries : List (BitVec 128)) (f : Die → Die) : State :=
  let s := runs 0x200 0
  { s with
    mem := words 0x10000200 block ++ words 0x10000800 (entries.flatMap fun e => [e.toNat % 2 ^ 64, e.toNat / 2 ^ 64])
    dies := s.dies.set 0 (f (s.die 0))
    ready := { s.ready with eng := 0xFF00 } }
def noDie (d : Die) : Die := d

theorem test_meets_routingCommands :
    (∀ s ∈ ([routing [0x21, 0, 0, 0, 0, 0, 0, 0] [] noDie, routing [0x80000021, 0, 0, 0, 0, 0, 0, 0] [] noDie] : List State), s.cRuns ∧
      s.anyPoison 0x10000200 64 = false ∧ s.engReady (8 + (tileDie s.curTile).toNat) = true) ∧
    (routing [0x21, 0, 0, 0, 0, 0, 0, 0] [] noDie).PlainAccess .read ((routing [0x21, 0, 0, 0, 0, 0, 0, 0] [] noDie).g 1) 64 hbmLeaf 0x10000200 ∧
    (routing [0x21, 0, 0, 0, 0, 0, 0, 0] [] noDie).PlainAccess .write ((routing [0x21, 0, 0, 0, 0, 0, 0, 0] [] noDie).g 1) 64 hbmLeaf 0x10000200 ∧
    leNat ((routing [0x21, 0, 0, 0, 0, 0, 0, 0] [] noDie).mem.bytes 0x10000200 8) = 0x21 ∧
    leNat ((routing [0x80000021, 0, 0, 0, 0, 0, 0, 0] [] noDie).mem.bytes 0x10000200 8) / 2 ^ 31 % 2 = 1 :=
  ⟨by delta State.cRuns; decide +kernel, plain_hbm _ _ _ _ _ _ (by decide +kernel), plain_hbm _ _ _ _ _ _ (by decide +kernel), by decide +kernel, by decide +kernel⟩

/-- rt.open of expert 33 in phase 9, with a free handle, with the pair open already, and with none free. -/
def openWords : List Nat := [0x3000, 0, 33 + 4 * 2 ^ 16 + 3 * 2 ^ 32 + 9 * 2 ^ 48, 0, 0, 0, 0, 0]
def opening (f : Die → Die) : State := routing openWords [] f
def openHeld : List Held := match (opening noDie).pinRanges 0 ((opening noDie).root 0) .write [(0x3000, 1536)] [] with | .ok p => p | _ => []
def withRecv (d : Die) : Die := { d with recvs := d.recvs.set 1 (recvOf true 3) }
def allRecv (d : Die) : Die := { d with recvs := Vector.replicate 64 (recvOf true 3) }

theorem test_meets_routingCommands_open :
    (opening noDie).pinRanges 0 ((opening noDie).root 0) .write [(0x3000, 1536)] [] = .ok openHeld ∧
    (pageKeys (((opening noDie).tile 0).pins ++ openHeld)).length ≤ 512 ∧ ((opening noDie).die 0).recvs[0].opened = false ∧
    ((opening withRecv).die 0).recvs[0].opened = false ∧ ((opening withRecv).die 0).recvs[1].expert = 33 ∧ ((opening withRecv).die 0).recvs[1].phase = 9 ∧
    (∀ i : Fin 64, ((opening allRecv).die 0).recvs[i].opened = true) := by decide +kernel

/-- rt.send of two tokens: of a known expert, of one with no route, and of none with a valid number. -/
def sendWords : List Nat := [0x800, 0x1000, 0x2000, 2 + 2 ^ 16 + 100 * 2 ^ 32 + 9 * 2 ^ 48, 323, 0, 0, 0]
def twoEntries : List (BitVec 128) := [entryOf 3 33 34, entryOf 4 33 34]
def withRoutes (d : Die) : Die := { d with routes := tput (tput d.routes 33 someRoute) 34 someRoute }
def sending : State := routing sendWords twoEntries withRoutes
def listHeld : List Held := match sending.pinRanges 0 (sending.root 0) .read [(0x800, 32)] [] with | .ok p => p | _ => []

theorem test_meets_routingCommands_send :
    sending.pinRanges 0 (sending.root 0) .read [(0x800, 32)] [] = .ok listHeld ∧
    sending.readEntries 0 sending.cAsker listHeld sendBlock = .ok twoEntries ∧
    (∀ k ∈ [3, 4], (entryOf k 33 34).toNat / 2 ^ 97 = 0 ∧ Entry.first (entryOf k 33 34) = 33 ∧ Entry.second (entryOf k 33 34) = 34) ∧
    tget (sending.die 0).routes 33 = some someRoute ∧ tget (sending.die 0).routes 34 = some someRoute ∧
    (sending.die 0).sending 0 = none ∧ tget ((routing sendWords twoEntries noDie).die 0).routes 33 = none ∧ (entryOf 4 5000 0).toNat / 2 ^ 97 = 0 ∧
    4095 < Entry.first (entryOf 4 5000 0) := by decide +kernel

/-- rt.stat and rt.close of an open receive handle and of send handles that wait and that are done. -/
def withSends (d : Die) : Die :=
  { withRecv d with sends := (d.sends.set 0 (some (sendOf [tokenOf 0 .sent (entryOf 3 33 34) 11] []))).set 2 (some (sendOf [tokenOf 0 .acked 0 0] [])) }
theorem test_meets_routingCommands_close : ((routing [257] [] withSends).die 0).recvs[1].opened = true ∧
    (((routing [0] [] withSends).die 0).sending 0).map SendHandle.unack = some 1 ∧
    (((routing [2] [] withSends).die 0).sending 2).map (fun x => (x.unack, x.raised)) = some (0, true) ∧
    ((routing [256] [] withSends).die 0).recvs[0].opened = false ∧ ((routing [1] [] withSends).die 0).sending 1 = none := by decide +kernel

/-- An engine that is not ready, and a send whose tokens are resolved before its overflow list is written. -/
theorem test_meets_routingCommands_waiting :
    (∀ s ∈ ([{ routing [0x21, 0, 0, 0, 0, 0, 0, 0] [] noDie with ready := { State.reset.ready with mem := 0xFFF, tile := 1 } }] : List State),
      s.engReady (8 + (tileDie s.curTile).toNat) = false ∧ s.anyPoison 0x10000200 64 = false ∧
      s.cReach .read (s.g 1) 64 = .ok (hbmLeaf, s.group 0x10000200)) ∧
    (sendOf [tokenOf 0 .acked 0 0] []).unack = 0 ∧ { sendOf [tokenOf 0 .acked 0 0] [] with raised := false }.raised = false := by decide +kernel

/-- The paths to package 5, and an engine with one send in hand. -/
def withPaths (d : Die) : Die := { d with paths := (List.range 64).map fun i => (320 + i, 0x81) }
def someSend (resend : List Nat) : SendHandle := sendOf [tokenOf 0 .sent (entryOf 3 33 34) 11, tokenOf 1 .unformed (entryOf 4 33 34) 0] resend
def engine (resend : List Nat) : State := routing [] twoEntries fun d => withPaths (withRoutes { d with sends := d.sends.set 1 (some (someSend resend)) })
def sameEntry (k : Nat) : BitVec 128 := BitVec.ofNat 128 (leNat ((engine []).mem.bytes (0x10000800 + 16 * k) 16))

theorem test_meets_routingEngine_send :
    (∀ s ∈ ([engine [], engine [0]] : List State), (∀ i : Fin 16, i.val ≠ 1 → (s.die 0).sends[i] = none) ∧
      s.asking (.operation 3) = false ∧ s.fabric.answers = [] ∧ s.fabric.pkg = 0 ∧ s.dieGone 5 2 = false ∧ s.anyPoison 0x10001180 100 = false ∧
      s.anyPoison 0x10000810 16 = false ∧ s.anyPoison 0x10001200 100 = false) ∧
    ((engine []).die 0).sending 1 = some (someSend []) ∧ ((engine [0]).die 0).sending 1 = some (someSend [0]) ∧
    ((someSend []).tokens.find? fun j => j.state == .unformed) = some (tokenOf 1 .unformed (entryOf 4 33 34) 0) ∧
    sameEntry 1 = entryOf 4 33 34 ∧ Entry.ok (sameEntry 1) = true ∧ tget ((engine []).die 0).routes 33 = some someRoute ∧
    (((engine []).die 0).pair 9 5 2 7).next < (((engine []).die 0).pair 9 5 2 7).base + 256 ∧ ((engine []).die 0).closing = [] ∧
    (pinned [someHeld] 0x1263).isSome = true := by decide +kernel

theorem test_meets_routingEngine_bytes :
    (engine []).PlainPin [someHeld] 0x810 16 hbmLeaf 0x10000810 ∧ (engine []).PlainPin [someHeld] 0x1200 100 hbmLeaf 0x10001200 ∧
    (engine [0]).PlainPin [someHeld] 0x1180 100 hbmLeaf 0x10001180 := by
  refine ⟨plain_pin _ _ _ _ _ _ ?_, plain_pin _ _ _ _ _ _ ?_, plain_pin _ _ _ _ _ _ ?_⟩ <;> decide +kernel

/-- Headers 10, 11 and 13 of package 5 arrive at a buffer that has taken 11 and 12. -/
def receiving (r : RecvHandle) : State := routing [] [] fun d => withPaths { d with recvs := d.recvs.set 6 r }
def headerOf (seq : Nat) : BitVec 256 := routeHeader 100 77 0 0 33 2 5 9 seq
def someMessage (kind : Nat) : BitVec 128 := messageHeader 0 0 kind 2 5 0 100

theorem test_meets_routingEngine_receive :
    (∀ s ∈ ([receiving (recvOf true 3), receiving (recvOf false 0)] : List State), s.versions.waiting = [] ∧ s.asking (.operation 4) = false ∧
      s.fabric.answers = [] ∧ headerDpkg (someMessage 0x10) = s.fabric.pkg.toNat) ∧
    (∀ k ∈ [0x10, 0x11, 0x12], headerOk (someMessage k) k = true) ∧
    ((receiving (recvOf true 3)).die 0).recv 6 = recvOf true 3 ∧ ((receiving (recvOf false 0)).die 0).recv 6 = recvOf false 0 ∧
    (headerFields (headerOf 11)).seq = 11 ∧ (headerFields (headerOf 11)).expert = 33 ∧ (headerFields (headerOf 11)).phase = 9 ∧ (headerFields (headerOf 11)).len = 100 ∧
    ((recvOf true 3).source 9 5 2).has ((recvOf true 3).source 9 5 2).accepted 11 = true ∧
    ((recvOf true 3).source 9 5 2).has ((recvOf true 3).source 9 5 2).accepted 13 = false ∧
    ((recvOf true 3).source 9 5 2).has ((recvOf true 3).source 9 5 2).refused 13 = false ∧ (recvOf true 3).lwa = 0 ∧ (recvOf false 0).lwa = 0 := by decide +kernel

theorem test_meets_routingEngine_slot : (receiving (recvOf true 3)).PlainPin [someHeld] 0x3180 32 hbmLeaf 0x10003180 ∧
    (receiving (recvOf true 3)).PlainPin [someHeld] 0x3200 100 hbmLeaf 0x10003200 := by
  refine ⟨plain_pin _ _ _ _ _ _ ?_, plain_pin _ _ _ _ _ _ ?_⟩ <;> decide +kernel

/-- A state whose flits have been counted: what State.Comes asks for. -/
theorem test_meets_comes : (∃ s0 : State, s0.counted 2 (someMessage 0x11) = (engine []).counted 2 (someMessage 0x11)) ∧
    (engine []).versions.waiting = [] := ⟨⟨engine [], rfl⟩, by decide +kernel⟩

/-- A summary that leaves a token open, and the bounce of a token that has a second expert. -/
theorem test_meets_routingEngine_tokens : (someSend []).tokens.filter (fun j => j.state == .sent && j.pkg == 5 && j.seq == 11) = [tokenOf 0 .sent (entryOf 3 33 34) 11] ∧
    Entry.nosec (entryOf 3 33 34) = false ∧ Block.sendPhase sendBlock = 9 ∧ headerSpkg (someMessage 0x11) = 5 ∧ headerSdie (someMessage 0x11) = 2 ∧
    (5 : BitVec 10) ≠ (engine []).fabric.pkg := by decide +kernel

/-! ### Supervisors, tiles, messages, the pool, the platform -/

/-- Supervisor 1 with x3 and x4, tile 5 of its cluster as g makes it, and the nodes of the pool. -/
def supState (x3 x4 : W64) (mode : BitVec 2) (g : Tile → Tile) (nodes : List Node) : State :=
  let s := (State.reset.onCluster 1 fun k => { k with mode := mode, x := (k.x.set 3 x3).set 4 x4, pc := 0x1000 }).onTile 5 g
  { s with
    cur := .supervisor 1
    mem := [(0x30000100, 0xF0), (0x400000000108, 5)]
    ready := { s.ready with mem := 0xFFF, tile := 0xFF, eng := 0xFF00 }
    pool := { s.pool with nodes := nodes } }
def sameTile (t : Tile) : Tile := t
def withStatus (x : TileStatus) (t : Tile) : Tile := { t with status := x, node := 1, share := 0 }
def shareOf (i : Nat) (phase : SharePhase) (tile : BitVec 6) (cause : Option Byte) : Share :=
  { index := i, phase := phase, tile := tile, savedBy := none, own := false, closed := true, reported := cause, ended := cause.isSome, endedIn := 0
    base := 0x1000000, written := [], home := none, dirtyA := Dirty.none, dirtyB := Dirty.none }
def timedNode : Node := someNode [] 0x40000000000000 [shareOf 0 .loaded 5 none]
def ckptNode : Node := someNode [] 0x18000000000000 [shareOf 0 .held 5 none]

/-- Base instructions: a load and a store at 0x30000100. -/
theorem test_meets_supervisor_base :
    (∀ s ∈ ([supState 0x30000100 7 3 sameTile []] : List State), (s.cluster 1).translates .load = false ∧ (s.cluster 1).translates .store = false ∧
      Machine.place 0x30000100 = .hbm ∧ (∀ i < 8, s.storage (0x30000100 + i) = true ∧ s.quarantined (0x30000100 + i) = false ∧ s.carveOut (0x30000100 + i) = false) ∧
      s.scratchBusy 0x30000100 = false ∧ s.anyPoison 0x30000100 8 = false) := by decide +kernel

theorem test_meets_supervisor_tiles :
    ((supState 1 0 0 sameTile []).cluster 1).mode = 0 ∧ ((supState 1 0 1 sameTile []).cluster 1).mode ≠ 0 ∧
    (∀ x ∈ ([.empty, .run, .ready, .stopped, .retired, .faulted] : List TileStatus), ((supState 1 0 1 (withStatus x) []).tile 5).status = x) ∧
    (supState 1 0 1 (withStatus .run) [timedNode]).tileNode 5 = some timedNode ∧ timedNode.timed = true ∧
    (supState 1 0 1 (withStatus .run) [someNode [] 0 [shareOf 0 .loaded 5 none]]).tileNode 5 = some (someNode [] 0 [shareOf 0 .loaded 5 none]) ∧
    (someNode [] 0 []).timed = false ∧
    (∀ s ∈ ([supState 1 0 1 (withStatus .ready) []] : List State), (s.tile 5).unpinned = [] ∧ (s.tile 5).port = [] ∧ (s.tile 5).pending = [] ∧
      s.tileNode 5 = none ∧ (s.tile 5).halt = 0 ∧ ∀ z ∈ [BStream.v, .m, .l, .s], ((s.tile 5).stream z).state ≠ .halted) := by decide +kernel

/-- A save of a stopped tile, a load of share 0 of node 1, a node placed on tile 5. -/
def placedNode : Node := someNode [] 0 [shareOf 0 .placed 5 none]
def handedNode : Node := someNode [] 0 [shareOf 0 .handed 5 none]
def loadRequest : Nat := 5 + 2 ^ 16

/-- Operand memory in HBM that every stack of which is ready. -/
theorem usable_hbm (s : State) (a n : Nat) (h : a + (ceilDiv n 256) * 256 ≤ hbmEnd ∧ (∀ z < 8, wbit s.ready.mem z = true) ∧ wbit s.ready.eng 36 = false ∧
    (s.qtab.toList.all fun q => !wbit q 63) = true) : s.supUnusable a n = none := by
  have hq : ∀ x, s.quarantined x = false := fun x => List.any_eq_false.mpr fun q hm => by
    have := List.all_eq_true.mp h.2.2.2 q hm; simp at this; simp [this]
  have hc : ∀ x, s.carveOut x = false := fun x => by unfold State.carveOut; rw [h.2.2.1]; rfl
  have hs : ∀ x < hbmEnd, s.storage x = true := fun x hx => by
    unfold State.storage Machine.place; rw [if_pos hx]; exact h.2.1 _ (Nat.xor_lt_two_pow (n := 3) (Nat.xor_lt_two_pow (by unfold bits; omega) (by unfold bits; omega)) (by unfold bits; omega))
  refine List.find?_eq_none.mpr fun x hx => ?_
  obtain ⟨y, hy, rfl⟩ := List.mem_map.mp hx
  have : y < ceilDiv n 256 := List.mem_range.mp hy
  rw [hs _ (by omega), hc, hq]; decide

theorem test_meets_supervisor_images :
    (∀ s ∈ ([supState 0 0x30000000 1 (withStatus .stopped) []] : List State), s.tileNode 5 = none) ∧
    (supState 0 0x30000000 1 (withStatus .stopped) []).supUnusable 0x30000000 0x600000 = none ∧
    (supState (BitVec.ofNat 64 loadRequest) 0x30000000 1 sameTile [handedNode]).supUnusable 0x30000000 0xC00000 = none ∧
    (supState (BitVec.ofNat 64 loadRequest) 0x30000000 1 sameTile [handedNode]).supUnusable handedNode.cimg handedNode.clen = none ∧
    (∀ s ∈ ([supState (BitVec.ofNat 64 loadRequest) 0x30000000 1 sameTile [handedNode]] : List State), (s.tile 5).status = .empty ∧
      (s.die 0).stepping = false ∧ s.loadTarget loadRequest true (ImageHeader.of []) = some (handedNode, shareOf 0 .handed 5 none) ∧ handedNode.npool = 0 ∧
      handedNode.nrows ≤ s.rows 0 5 ∧ handedNode.nacc ≤ s.rows 1 5 ∧ s.poison = []) :=
  by and_intros <;> first | exact usable_hbm _ _ _ (by decide +kernel) | decide +kernel

theorem test_meets_supervisor_nodes :
    (supState 0x30000000 2 1 sameTile []).dispatchPass.takeNode 2 = none ∧
    (supState 0x30000000 2 1 sameTile [placedNode]).dispatchPass.takeNode 2 = some placedNode ∧
    (supState 0x30000000 2 1 sameTile [placedNode]).supUnusable 0x30000000 256 = none ∧
    (supState 1 5 1 sameTile [ckptNode]).node? 1 = some ckptNode ∧ (ckptNode.shares.any fun z => z.heldBy 1) = true ∧
    (supState 1 5 1 sameTile []).node? 1 = none ∧ ckptNode.ckpt = true ∧ ckptNode.unrollable = false ∧
    (supState 1 5 1 sameTile [ckptNode]).nodeBusy ckptNode = false ∧ (∀ t : BitVec 6, ((supState 1 5 1 sameTile [ckptNode]).tile t).status = .empty) := by
  decide +kernel

theorem test_meets_supervisor_points :
    (∀ s ∈ ([supState 1 0x30000000 1 sameTile []] : List State), (s.die 0).stepping = false ∧ (s.die 0).partition = none ∧ 1 ≤ (s.die 0).maxop.toNat ∧
      (s.die 0).point = 0 ∧ s.doomed 0 1 = [] ∧ (∀ t : BitVec 6, (s.tile t).claims = false) ∧ (s.die 0).phys 0 5 0 3 = some 3 ∧
      (s.die 0).log = [] ∧ s.supUnusable 0x30000000 4096 = none) ∧
    (∀ s ∈ ([(supState 0x30000000 0 1 sameTile []).onDie 0 fun d => { d with log := [ErrorRecord.blank] }] : List State),
      (s.die 0).log = [ErrorRecord.blank] ∧ s.supUnusable 0x30000000 64 = none) := by decide +kernel

/-- Tile 5 in its node, as g makes it. -/
def kernelNode : Node := { someNode [] 0 [shareOf 0 .loaded 5 none] with packet := ((Vector.replicate 32 0).set 7 0x20001000000).set 8 4 }
def tileState (g : Tile → Tile) (nodes : List Node) : State := supState 1 0 1 g nodes
def atKer (x : TileStatus) (boundary : Bool) (t : Tile) : Tile :=
  { withStatus x t with boundary := boundary, control := { t.control with pc := BitVec.ofNat 17 kernelNode.ker } }
def pausing (t : Tile) : Tile := { withStatus .run t with tc := 30, control := { t.control with pc := 0x100, pause := 7, since := 20 } }
def stalledWait (t : Tile) : Tile :=
  { withStatus .run t with
    tc := 30
    code := (((encode (.waiteStream 3 2 1)).getD 0).toNat |> leBytes 4).zipIdx.filterMap fun e => if e.1 = 0 then none else some (0x100 + e.2, e.1)
    control := { t.control with pc := 0x100, stalled := true, wait := some 9, since := 20 } }

theorem test_meets_tileEvents_control :
    (∀ s ∈ ([tileState pausing []] : List State), (s.tile 5).control.pause ≠ 0 ∧ (s.tile 5).countPast (s.tile 5).control.since (s.tile 5).control.pause = some (s.tile 5)) ∧
    (∀ s ∈ ([tileState stalledWait []] : List State), (s.tile 5).controlLive = true ∧ (s.tile 5).control.stalled = true ∧ (s.tile 5).control.wait = some 9 ∧
      (s.tile 5).port = [] ∧ Decode.control ((s.tile 5).codeWord 0x100) = .ok (.waiteStream 3 2 1) ∧ ((s.tile 5).stream (streamOf 1)).ended = true ∧
      (s.tile 5).countPast (s.tile 5).control.since 9 = some (s.tile 5) ∧ ∀ z ∈ [BStream.v, .m, .l, .s], ((s.tile 5).stream z).state ≠ .run) := by decide +kernel

theorem test_meets_tileEvents_life :
    (∀ s ∈ ([tileState (atKer .stopping false) [kernelNode]] : List State), s.tileNode 5 = some kernelNode ∧ (s.tile 5).boundary = false ∧ (s.tile 5).ending = false ∧
      (s.tile 5).trapping = none ∧ (s.tile 5).debug = false ∧ (s.tile 5).halt = 0 ∧ (s.tile 5).control.slot = 0 ∧ (s.tile 5).control.stalled = false ∧
      (s.tile 5).control.pc.toNat = kernelNode.ker ∧ (s.tile 5).control.iter.toNat < kernelNode.trip ∧ (s.tile 5).stopsDue = false ∧ s.streamsAsking 5 = false) ∧
    ((tileState (atKer .stopping true) [kernelNode]).tile 5).boundary = true ∧
    (∀ s ∈ ([tileState (fun t => { withStatus .run t with ending := true }) []] : List State), (s.tile 5).ending = true ∧ (s.tile 5).stopsDue = false ∧
      s.streamsAsking 5 = false ∧ s.opsBusy 5 = false ∧ s.pool.nodes = []) ∧
    ((tileState (fun t => { withStatus .run t with debug := true }) []).tile 5).debug = true ∧
    (∀ s ∈ ([tileState (fun t => { withStatus .loading t with transfer := { t.transfer with pkt := true } }) [someNode [] 0 [shareOf 0 .handed 5 none]]] : List State),
      (s.tile 5).status = .loading ∧ (s.tile 5).transfer.pkt = true ∧ s.tileNode 5 = some (someNode [] 0 [shareOf 0 .handed 5 none])) ∧
    (∀ s ∈ ([tileState (withStatus .saving) []] : List State), (s.tile 5).status = .saving ∧ s.tileNode 5 = none ∧ s.opsBusy 5 = false ∧ s.streamsAsking 5 = false ∧
      ∀ p : Fin 5, (s.cluster 1).phys[p].pendingQuar = false) := by decide +kernel

theorem test_meets_tileEvents_waits :
    (∀ s ∈ ([((tileState sameTile []).onDie 0 fun d => { d with stepping := true, target := 3 }).onCluster 1 fun k => { k with wait := some (.step 7) }] : List State),
      (s.die 0).stepping = true ∧ (s.die 0).shrinks = [] ∧ (s.cluster 1).wait = some (.step 7)) ∧
    (∀ s ∈ ([(tileState sameTile [ckptNode]).onCluster 1 fun k => { k with wait := some (.roll 7 1) }] : List State),
      s.node? 1 = some ckptNode ∧ s.nodeBusy ckptNode = false ∧ ((s.rollback ckptNode).cluster 1).wait = some (.roll 7 1)) ∧
    ((tileState sameTile []).cluster 1).wait = none ∧ Machine.place 0x30000100 = .hbm ∧ (tileState sameTile []).scratchBusy 0x30000100 = false ∧
    (∀ j < 8, (tileState sameTile []).storage (0x30000100 + j) = true ∧ (tileState sameTile []).quarantined (0x30000100 + j) = false ∧
      (tileState sameTile []).carveOut (0x30000100 + j) = false) := by decide +kernel

/-- A context of one loaded share: its last instruction ends it, its image is being loaded, and it is being saved for the first time. -/
def loadedNode : Node := { someNode [] 0 [shareOf 0 .loaded 5 none] with packet := (Vector.replicate 32 0).set 9 2 }
def transferring (x : TileStatus) (t : Tile) : Tile := { withStatus x t with transfer := { t.transfer with addr := 0x30000000 } }
theorem test_meets_tileEvents_context :
    (∀ s ∈ ([tileState (fun t => { withStatus .run t with ending := true }) [loadedNode]] : List State), (s.tile 5).ending = true ∧ (s.tile 5).trapping = none ∧
      (s.tile 5).stopsDue = false ∧ s.streamsAsking 5 = false ∧ s.opsBusy 5 = false ∧ s.pool.nodes = [loadedNode]) ∧
    (∀ s ∈ ([tileState (transferring .loading) [loadedNode]] : List State), (s.tile 5).status = .loading ∧ s.tileNode 5 = some loadedNode ∧
      (s.tile 5).transfer.pkt = false) ∧
    (∀ s ∈ ([tileState (transferring .saving) [loadedNode]] : List State), (s.tile 5).status = .saving ∧ s.tileNode 5 = some loadedNode ∧
      loadedNode.share? (s.tile 5).share = some (shareOf 0 .loaded 5 none) ∧ loadedNode.ckpt = false ∧ (s.tile 5).port = [] ∧ s.opsBusy 5 = false ∧
      s.streamsAsking 5 = false ∧ s.poison = [] ∧ loadedNode.nrows ≤ 4096 ∧ s.physOfTile 5 = some 1 ∧ (s.cluster (tileCluster 5)).phys[1].pendingQuar = false ∧
      (s.tile 5).transfer.addr + 0x600000 ≤ 2 ^ 39) := by decide +kernel

/-- The forms of TileEvents that end a word of the C stream, in a transaction. -/
theorem test_meets_tileEvents_words : (inTx 4).cRuns ∧ (inTx 4).noAnswer ∧ (inTx 4).inTxNode = false ∧ (inTx 4).versions.rebasing = false ∧
    ((inTx 4).tile 0).tx = some 3 ∧ tget (inTx 4).versions.txs 3 = some someTx ∧ (inTx 4).g 1 = (3 : Byte).setWidth 64 ∧
    ((runs 3 0).tile 0).formats.length < 16 := by delta State.cRuns State.noAnswer; decide +kernel

/-- A message of package 5 arrives; g makes the state. -/
def messageOf (kind arg : Nat) : BitVec 128 := messageHeader arg 77 kind 2 5 0 10
def fabricState (g : Fabric → Fabric) : State :=
  let s := State.reset
  { s with mem := [(0x10000100, 0xF0)], ready := { s.ready with mem := 0xFFF, tile := 1, eng := 0xF000 }, fabric := g s.fabric }
def sameFabric (f : Fabric) : Fabric := f
def askOf (k : AskKind) : Request := { tag := 77, die := 0, who := .stream 3 0, kind := k, addr := 5 * 2 ^ 48 + 0x1000, size := 8 }

theorem test_meets_fabric_accesses :
    (∀ k ∈ [1, 2, 3, 4, 5, 6, 0x18, 0x19, 0x20, 0x21, 0x28, 0x30], headerOk (messageOf k 0) k = true ∧ headerDpkg (messageOf k 0) = (fabricState sameFabric).fabric.pkg.toNat) ∧
    (∀ s ∈ ([fabricState sameFabric] : List State), s.versions.waiting = [] ∧ localOf (headerArg (messageOf 1 0x10000100)) = 0x10000100 ∧ Machine.place 0x10000100 = .hbm ∧
      tget s.seals (0x10000100 / 128) = none ∧ s.scratchBusy 0x10000100 = false ∧ s.anyPoison 0x10000100 8 = false ∧
      (∀ y < 128, s.storage (0x10000100 + y) = true ∧ s.quarantined (0x10000100 + y) = false ∧ s.carveOut (0x10000100 + y) = false) ∧
      homeCombine 0 8 (leNat (s.mem.bytes 0x10000100 8)) 7 0 = some 0xF7) ∧
    (∀ s ∈ ([fabricState fun f => { f with requests := [askOf .read] }] : List State), s.fabric.requests = [askOf .read] ∧ s.fabric.held = [] ∧ s.fabric.answers = [] ∧
      s.bridge.waiting = [] ∧ (askOf .read).tag.toNat = headerTag (messageOf 2 0) ∧ (askOf .read).addr / 2 ^ 48 = headerSpkg (messageOf 2 0)) := by decide +kernel

def domainNode : Node := { someNode [] 0x200000300000000 [] with packet := ((Vector.replicate 32 0).set 0 0x200000300000000).set 10 0x200000000, barriers := Vector.replicate 16 { phase := 9, arrived := [] } }

theorem test_meets_fabric_units :
    (fabricState sameFabric).pool.nodes = [] ∧ domainNode.dlev = 4 ∧ domainNode.phase = .running ∧ (domainNode.barrier 3).arrived = [] ∧ 2 ≤ domainNode.members ∧
    headerArg (messageOf 0x28 0) = 0 ∧ (∀ x, ((fabricState sameFabric).port x).up = false) ∧ (fabricState sameFabric).time.en = false ∧
    (∀ s ∈ ([{ fabricState sameFabric with time := { State.reset.time with en := true, gm := 7, ns := 5 } }] : List State),
      s.time.en = true ∧ s.time.gm ≠ s.fabric.pkg ∧ (s.port 2).delay = 0 ∧ s.time.synced = false ∧ s.time.ns.toNat < 6) := by decide +kernel

theorem test_meets_fabric_ports :
    (∀ s ∈ ([(fabricState sameFabric).onPort 2 fun x => { x with state := 2 }] : List State), (s.port 2).up = true ∧ (s.port 2).bad = 0 ∧
      (∀ x, x ≠ 2 → (s.port x).up = false) ∧ s.fabric.txq = [] ∧ s.fabric.requests = [] ∧ s.bridge.waiting = []) ∧
    (∀ s ∈ ([{ fabricState sameFabric with mgmt := { State.reset.mgmt with bootOk := true } }] : List State), (s.port 2).state = 0 ∧ (s.port 2).up = false ∧
      s.fabric.txq = [] ∧ s.mgmt.bootOk = true ∧ s.ready.onceEng.getLsbD 18 = false) ∧
    (((fabricState sameFabric).onPort 2 fun x => { x with state := 5 }).port 2).state = 5 := by decide +kernel

/-- Reduction window 6, enabled, at epoch 3 with four lines. -/
def windowState (busy : Bool) (ns : W64) : State :=
  let s := fabricState sameFabric
  { s with time := { s.time with ns := ns } }.setRedWindow 6 { s.redWindow 6 with
    en := true, lines := 4, ncon := 2, epoch := 3, progress := 5, parts := [], merged := [], given := [], busy := busy }

theorem test_meets_fabric_windows : (∀ s ∈ ([windowState false 0, windowState true 1000005] : List State), (s.redWindow 6).en = true ∧ (s.redWindow 6).epoch.toNat = 3 ∧
      2 ≤ (s.redWindow 6).lines.toNat ∧ (s.redWindow 6).merged = [] ∧ (s.redWindow 6).given = [] ∧ (s.redWindow 6).home = s.fabric.pkg.toNat) ∧
    ((windowState true 1000005).redWindow 6).busy = true ∧ ((windowState true 1000005).redWindow 6).progress + 1000000 ≤ (windowState true 1000005).time.ns.toNat ∧
    ((fabricState sameFabric).redWindow 6).en = false := by decide +kernel

/-- This package's contribution to line 1 of epoch 3 is in hand when the other contributor's comes. -/
def ownPart : Part := { contributor := 0, epoch := 3, line := 1, level := 0, values := List.replicate 32 0x3F800000, err := false, attr := 0 }
def mergeState : State :=
  let s := windowState false 0
  s.setRedWindow 6 { s.redWindow 6 with ncon := 1, list := 0x2000000, parts := [ownPart], given := (List.range 64).map fun j => (j, 4) }

theorem test_meets_fabric_merge :
    (mergeState.redWindow 6).ncon = 1 ∧ mergeState.redPackage (mergeState.redWindow 6) 0 = mergeState.fabric.pkg.toNat ∧
    (mergeState.redWindow 6).home = mergeState.fabric.pkg.toNat ∧ (mergeState.redWindow 6).accm = false ∧ (mergeState.redWindow 6).merged = [] ∧
    (3 : W32) = (mergeState.redWindow 6).epoch ∧ (1 : BitVec 23).toNat < (mergeState.redWindow 6).lines.toNat ∧ (mergeState.redWindow 6).parts = [ownPart] ∧
    ownPart.values.length = (mergeState.redWindow 6).perLine ∧ (mergeState.redWindow 6).lineGiven 3 1 = true ∧
    localOf ((mergeState.redWindow 6).start + 128 * 1) < 2 ^ 39 ∧ mergeState.versions.waiting = [] ∧
    ((mergeState.redWindow 6).epoch.toNat + 2 ≤ (5 : W32).toNat ∧ (mergeState.redWindow 6).lines.toNat ≤ (4 : BitVec 23).toNat) := by decide +kernel

/-- A port that trains with two bad lanes, and one that loses its second. -/
theorem test_meets_fabric_lanes : (∀ s ∈ ([(fabricState sameFabric).onPort 2 fun x => { x with state := 1 }] : List State), (s.port 2).state = 1 ∧ s.fabric.txq = []) ∧
    (6 : BitVec 9) = BitVec.twoPow 9 1 ||| BitVec.twoPow 9 2 ∧
    (∀ s ∈ ([(fabricState sameFabric).onPort 2 fun x => { x with state := 3, bad := 2 }] : List State), (s.port 2).up = true ∧
      (s.port 2).bad = BitVec.twoPow 9 1 ∧ (s.port 2).bad.getLsbD 2 = false) := by decide +kernel

/-- The pool with nodes, at 5 ms. -/
def poolState (nodes : List Node) (f : Pool → Pool) : State :=
  let s := State.reset
  { s with
    mem := [(0x10000100, 0xF0)]
    ready := { s.ready with mem := 0xFFF, tile := 0xFFFF, eng := 0xFFEFFFFFFFFF }
    time := { s.time with ns := 5000000 }
    pool := f { s.pool with nodes := nodes } }
def samePool (p : Pool) : Pool := p
def queued : State := (poolState [] samePool).setQueue 9 { (poolState [] samePool).queue 9 with en := true, base := 0x100001, head := 2, tail := 5, lsize := 4 }
def readyNode (word0 : W64) : Node := { someNode [] word0 [] with phase := .ready, cls := 2 }
def hostWord : W64 := 0x498000000007

theorem test_meets_pool_intake :
    (poolState [] samePool).poolReady = true ∧ { State.reset with ready := { State.reset.ready with eng := 0 } }.poolReady = false ∧ queued.pool.live.length < 16384 ∧
    queued.nextQueue.2 = some 9 ∧ queued.poolReady = true ∧ (readyNode hostWord).tclass = 3 ∧ (readyNode hostWord).mode = 0 ∧ (poolState [] samePool).fabric.early = [] ∧
    0 < (((poolState [readyNode hostWord] samePool).setQueue 9 { (poolState [] samePool).queue 9 with deficit := 5 }).queue (BitVec.ofNat 8 (readyNode hostWord).queue)).deficit := by
  decide +kernel

def runningNode (word0 : W64) (shares : List Share) : Node := someNode [] word0 shares
def waitingTimed : Node := { someNode [] 0x40000000000000 [shareOf 0 .unplaced 0 none] with phase := .waiting, timedOk := false }

theorem test_meets_pool_nodes :
    (poolState [readyNode 0] samePool).node? 1 = some (readyNode 0) ∧ (readyNode 0).phase = .ready ∧
    (poolState [readyNode 0] fun p => { p with age2 := 5000 }).pool.age2.toNat ≠ 0 ∧
    (readyNode 0).since + 1000 * (poolState [readyNode 0] fun p => { p with age2 := 5000 }).pool.age2.toNat ≤ (poolState [] samePool).time.ns.toNat ∧
    waitingTimed.timed = true ∧ waitingTimed.timedOk = false ∧ waitingTimed.tstamp ≤ 5000000 ∧ waitingTimed.cause = 0 ∧ (∀ y ∈ waitingTimed.shares, y.phase = .unplaced) ∧
    (poolState [waitingTimed] samePool).readyDue waitingTimed = true ∧
    (runningNode 0 [shareOf 0 .handed 5 (some 5)]).tclass = 0 ∧ (∀ y ∈ (runningNode 0 [shareOf 0 .handed 5 (some 5)]).shares, y.reported ≠ none) ∧
    (poolState [runningNode 0 [shareOf 0 .handed 5 (some 5)]] samePool).nodeQuiet (runningNode 0 [shareOf 0 .handed 5 (some 5)]) = true ∧
    { runningNode hostWord [] with hostDone := true }.tclass ≠ 0 ∧
    ckptNode.ckpt = true ∧ ckptNode.phase = .running ∧ ckptNode.opened + 1000 * ckptNode.cki ≤ 5000000 ∧ (poolState [ckptNode] samePool).closeReady ckptNode = true := by
  decide +kernel

/-- A tile node beside a host node that runs: EMPTY tiles, none at present, and none that could serve it. -/
def hostRunning : Node := { runningNode hostWord [] with handle := 2 }
def tileNodeOf (shares : List Share) (rows : Nat) : Node :=
  { someNode [] 0x780200000009 shares with packet := ((((Vector.replicate 32 0).set 0 0x780200000009).set 1 0xFFFFF).set 9 (BitVec.ofNat 64 rows)), phase := .ready }
def twoShares : List Share := [shareOf 0 .unplaced 0 none, shareOf 1 .unplaced 0 none]
def withDeficit (s : State) (q : Byte) : State := s.setQueue q { s.queue q with deficit := 5 }
def placing (rows : Nat) (x : TileStatus) : State :=
  let s := withDeficit (poolState [hostRunning, tileNodeOf twoShares rows] samePool) (BitVec.ofNat 8 (tileNodeOf twoShares rows).queue)
  { s with tiles := s.tiles.map (fun t => { t with status := x }), ready := { s.ready with mem := 0xFFFFFFFFFFF } }

theorem test_meets_pool_placement : ∀ n ∈ ([tileNodeOf twoShares 8] : List Node),
    hostRunning.tclass = 3 ∧ hostRunning.phase = .running ∧ n.tclass = 0 ∧ n.mode = 0 ∧ n.phase = .ready ∧ n.preempted = false ∧ n.cause = 0 ∧
    (∀ s ∈ ([placing 8 .empty] : List State), s.poolReady = true ∧ s.choose n false [] = some [(0, 0), (1, 1)] ∧ (s.choose n true []).isSome = true ∧
      0 < (s.queue (BitVec.ofNat 8 n.queue)).deficit) ∧
    (∀ s ∈ ([placing 8 .run] : List State), s.choose n false [] = none ∧ (s.choose n true []).isSome = true) ∧
    (placing 8000 .empty).choose (tileNodeOf twoShares 8000) true [] = none := by decide +kernel

/-- Two host nodes of different classes; a supervisor that waits for the rollback of node 1; a tile that holds a claimed row. -/
theorem test_meets_pool_more :
    (∀ n ∈ ([{ readyNode hostWord with handle := 2, cls := 1 }] : List Node), n.handle ≠ (readyNode hostWord).handle ∧ n.cls.toNat < (readyNode hostWord).cls.toNat ∧
      n.tclass = 3 ∧ n.mode = 0) ∧
    ((poolState [] samePool).onCluster 1 fun k => { k with wait := some (.roll 7 1) }).rollWaits 1 = true := by decide +kernel

/-- Node 1 runs past its slice while node 2 of its class and of another queue is held back. -/
def sliceNode : Node := { someNode [] 0x480100000007 [shareOf 0 .loaded 5 none] with packet := ((Vector.replicate 32 0).set 0 0x480100000007).set 1 0xFFFFF }
def rivalNode : Node :=
  { someNode [] 0x400100000008 [shareOf 0 .unplaced 0 none] with packet := ((Vector.replicate 32 0).set 0 0x400100000008).set 1 0xFFFFF, handle := 2, phase := .ready }
def sliced : State := (poolState [sliceNode, rivalNode] fun p => { p with slice := 5000, reserving := [2] }).onTile 5 fun t => { t with status := .run, node := 1 }

theorem test_meets_pool_slice : sliced.node? 1 = some sliceNode ∧ sliceNode.tclass = 0 ∧ sliceNode.timed = false ∧
    sliceNode.start + 1000 * sliced.pool.slice.toNat ≤ sliced.time.ns.toNat ∧
    (sliced.pool.nodes.find? fun m => decide (m.phase = .ready) && m.cls == sliceNode.cls && m.queue != sliceNode.queue && sliced.pool.reserving.contains m.handle &&
      sliceNode.tilesYielded.any fun t => sliced.couldUse m t) = some rivalNode ∧
    (sliced.tile 5).status = .run ∧ (sliced.tile 5).node = 1 := by decide +kernel

theorem test_meets_pool_units :
    (∀ s ∈ ([poolState [] samePool] : List State), s.versions.rebasing = false ∧ s.versions.lines = [] ∧ s.versions.waiting = [] ∧ (∀ j : BitVec 6, (s.redWindow j).parts = []) ∧
      s.liveSnaps = [] ∧ s.versions.txs = [] ∧ (s.tile 3).control.denied = none ∧ s.storage 0x10000140 = true ∧ Machine.place 0x10000140 = .hbm ∧
      (s.die 0).stepping = false ∧ (s.die 0).retired = [] ∧ (s.die 0).shrinks = [] ∧ (s.die 0).failed = false ∧ (s.die 0).partition = none ∧
      (s.tile 5).status = .empty ∧ s.physOfTile 5 = some 1) ∧
    (∀ j : Fin 5, (((poolState [] samePool).onCluster 1 fun k => { k with phys := k.phys.set 4 { k.phys[4] with state := 3 } }).cluster (tileCluster 5)).phys[j].state ≠ 1) ∧
    ((poolState [] samePool).die (unitDie 2 5)).passes 2 5 100 ((poolState [] samePool).die (unitDie 2 5)).point.toNat = true ∧
    (∀ s ∈ ([(poolState [] samePool).onDie 1 fun d => { d with stepping := true, failed := true, partition := some 65536, scratch := 10000 }] : List State),
      (s.die 1).stepping = true ∧ (s.die 1).failed = true ∧ (s.die 1).partition = some 65536 ∧ (s.die 1).scratch ≤ 65536) := by decide +kernel

/-- Registers: a shootdown, the host done register, a reduction window, tile tests. -/
theorem test_meets_platform_registers :
    (poolState [] samePool).shoot.busy = false ∧ (∀ z : BitVec 4, ((poolState [] samePool).cluster z).tlb = []) ∧ (∀ z : BitVec 6, ((poolState [] samePool).tile z).pins = []) ∧
    (poolState [] samePool).bridge.waiting = [] ∧ (poolState [] samePool).asking .unit = false ∧ (poolState [] samePool).engReady 33 = true ∧
    (poolState [] samePool).pool.mirror = false ∧ (poolState [] samePool).hdisp / 2 ^ 63 % 2 = 0 ∧
    (poolState [] fun p => { p with hdisp := [5] }).hdisp / 2 ^ 63 % 2 = 1 ∧ (poolState [] samePool).time.en = false ∧
    ((poolState [] samePool).redWindow 7).en = false ∧ Machine.place 0x500000003820 = .register 0x3820 ∧ Machine.place 0x500000000108 = .register 0x108 := by decide +kernel

/-- A shootdown that waits for an access; a supervisor in machine mode; the test port and the endpoint. -/
theorem test_meets_platform_units :
    (∀ s ∈ ([{ fabricState (fun f => { f with requests := [askOf .read] }) with shoot := { State.reset.shoot with busy := true, waits := [77] } }] : List State),
      ∃ r ∈ s.fabric.requests, r.tag ∈ s.shoot.waits) ∧
    ((supState 0 0 3 sameTile []).cluster (supState 0 0 3 sameTile []).curCluster).mode = 3 ∧
    (poolState [] samePool).powered = true ∧ (poolState [] samePool).fabric.moved = [] ∧ (poolState [] samePool).frozen = false ∧
    (2 : BitVec 6) ∉ ([0x01, 0x10, 0x11, 0x12] : List (BitVec 6)) ∧ (0x85 : Byte).toNat ∉ [0x81, 0x82, 0x83, 0x84, 0xE0, 0xE1, 0xE3] := by decide +kernel

/-- The host reads and writes HBM through window 3; the management endpoint is open. -/
def hostState : State :=
  let s := poolState [] samePool
  { s with
    bridge := { s.bridge with hosten := true, wins := s.bridge.wins.set 3 0x8000000000000000 }
    mgmt := { s.mgmt with bootOk := true } }

theorem test_meets_platform_host :
    (∀ s ∈ ([hostState] : List State), s.bridge.hosten = true ∧ s.bridge.waiting = [] ∧ s.asking .unit = false ∧ s.fabric.answers = [] ∧ s.engReady 32 = true ∧
      s.mgmt.bootOk = true ∧ s.engReady 38 = true ∧ s.ownPkg 0x10000100 = true ∧ s.anyPoison 0x10000100 8 = false ∧
      (∀ y < 128, s.storage (0x10000100 + y) = true ∧ s.quarantined (0x10000100 + y) = false ∧ s.carveOut (0x10000100 + y) = false)) ∧
    (hostState.bridge.wins[3]).getLsbD 63 = true ∧ (hostState.bridge.wins[4]).getLsbD 63 = false ∧ (poolState [] samePool).bridge.hosten = false ∧
    hostState.ready.onceMem = 0 ∧ hostState.frozen = false := by decide +kernel

end Sys2Proof.Tests
end

/-! ## Words and instructions (R17, R18): what a raw decoder reads is encoded by its word, and the word of an instruction is read back -/

namespace Sys2Proof.Decode

theorem fb_toNat (w : W32) (lo len : Nat) : (fb w lo len).toNat = fld w lo len := by
  simp [fb, fld]

/-! ### A word is the sum of its fields

A field is a difference of two of the word's low parts, so the fields of a layout add up to the word by telescoping. -/

/-- The number in the lowest `k` bits of a word. -/
def low (w : W32) (k : Nat) : Int := ((w.toNat % 2 ^ k : Nat) : Int)

theorem low_zero (w : W32) : low w 0 = 0 := by simp [low]
theorem low_all (w : W32) : low w 32 = w.toNat := by simp [low, Nat.mod_eq_of_lt w.isLt]

theorem fld_mul (w : W32) (lo len : Nat) : (fld w lo len : Int) * 2 ^ lo = low w (lo + len) - low w lo := by
  have h : w.toNat % 2 ^ (lo + len) = w.toNat % 2 ^ lo + 2 ^ lo * fld w lo len := by
    rw [pow_add, Nat.mod_mul]; rfl
  simp only [low, h]; push_cast; ring

theorem cast_fld_mul (w : W32) (lo len S : Nat) (h : S = 2 ^ lo) :
    ((fld w lo len * S : Nat) : Int) = low w (lo + len) - low w lo := by
  rw [← fld_mul, h]; norm_cast

theorem fld_eq_iff (w : W32) (lo len c : Nat) : fld w lo len = c ↔ low w (lo + len) - low w lo = c * 2 ^ lo := by
  rw [← fld_mul, mul_left_inj' (by positivity)]; exact Nat.cast_inj.symm

theorem some_ofNat_of_low {w : W32} {n : Nat} (h : (n : Int) = low w 32) : some (BitVec.ofNat 32 n) = some w := by
  rw [low_all] at h
  rw [Nat.cast_inj.1 h, BitVec.ofNat_toNat, BitVec.setWidth_eq]

/-! ### What a stream decodes is encoded by that very word -/

/-- The instruction that a raw decoder found, if any, has the word `w`. -/
def EncodedBy (w : W32) (o : Option Instr) : Prop := ∀ i, o = some i → encode i = some w

theorem EncodedBy.none (w : W32) : EncodedBy w none := fun _ h => nomatch h

theorem EncodedBy.some {w : W32} {i : Instr} (h : encode i = some w) : EncodedBy w (some i) := by
  rintro _ ⟨⟩; exact h

theorem EncodedBy.ite {w : W32} {p : Prop} [Decidable p] {a b : Option Instr} (ha : p → EncodedBy w a)
    (hb : EncodedBy w b) : EncodedBy w (if p then a else b) := by
  split
  · exact ha ‹_›
  · exact hb

theorem encodedBy_rawC (w : W32) : EncodedBy w (rawC w) := by
  unfold rawC
  split
  all_goals
    repeat' first
      | exact EncodedBy.none w
      | refine EncodedBy.ite (fun h => ?_) ?_
      | refine EncodedBy.some (some_ofNat_of_low ?_)
  all_goals
    simp only [fld_eq_iff, fb_toNat, Nat.cast_add, cast_fld_mul, Nat.reducePow, Nat.reduceAdd, low_zero] at *
    omega

theorem encodedBy_rawV (w : W32) : EncodedBy w (rawV w) := by
  unfold rawV
  split
  all_goals
    repeat' first
      | exact EncodedBy.none w
      | refine EncodedBy.ite (fun h => ?_) ?_
      | refine EncodedBy.some (some_ofNat_of_low ?_)
  all_goals
    simp only [fld_eq_iff, fb_toNat, Nat.cast_add, cast_fld_mul, Nat.reducePow, Nat.reduceAdd, low_zero] at *
    omega

theorem encodedBy_rawM (w : W32) : EncodedBy w (rawM w) := by
  unfold rawM
  split
  all_goals
    repeat' first
      | exact EncodedBy.none w
      | refine EncodedBy.ite (fun h => ?_) ?_
      | refine EncodedBy.some (some_ofNat_of_low ?_)
  all_goals
    simp only [fld_eq_iff, fb_toNat, Nat.cast_add, cast_fld_mul, Nat.reducePow, Nat.reduceAdd, low_zero] at *
    omega

theorem encodedBy_rawL (w : W32) : EncodedBy w (rawL w) := by
  unfold rawL
  split
  all_goals
    repeat' first
      | exact EncodedBy.none w
      | refine EncodedBy.ite (fun h => ?_) ?_
      | refine EncodedBy.some (some_ofNat_of_low ?_)
  all_goals
    simp only [fld_eq_iff, fb_toNat, Nat.cast_add, cast_fld_mul, Nat.reducePow, Nat.reduceAdd, low_zero] at *
    omega

theorem encodedBy_rawS (w : W32) : EncodedBy w (rawS w) := by
  unfold rawS
  split
  all_goals
    repeat' first
      | exact EncodedBy.none w
      | refine EncodedBy.ite (fun h => ?_) ?_
      | refine EncodedBy.some (some_ofNat_of_low ?_)
  all_goals
    simp only [fld_eq_iff, fb_toNat, Nat.cast_add, cast_fld_mul, Nat.reducePow, Nat.reduceAdd, low_zero] at *
    omega

theorem encodedBy_rawOv (w : W32) : EncodedBy w (rawOv w) := by
  unfold rawOv
  split
  all_goals
    repeat' first
      | exact EncodedBy.none w
      | refine EncodedBy.ite (fun h => ?_) ?_
      | refine EncodedBy.some (some_ofNat_of_low ?_)
  all_goals
    simp only [fld_eq_iff, fb_toNat, Nat.cast_add, cast_fld_mul, Nat.reducePow, Nat.reduceAdd, low_zero] at *
    omega

/-! ### The fields of a word that is a sum of operands

The words of `encode` are sums `A + x * S` with the lowest operand last. A field below, above or at the place of `x` is found by
looking at `A` alone. -/

theorem fld_ofNat (n lo len : Nat) (h : lo + len ≤ 32) : fld (BitVec.ofNat 32 n) lo len = n / 2 ^ lo % 2 ^ len := by
  unfold fld
  rw [BitVec.toNat_ofNat, show 32 = lo + (32 - lo) by omega, pow_add, Nat.mod_mul_right_div_self]
  exact Nat.mod_mod_of_dvd _ (pow_dvd_pow 2 (by omega))

theorem field_below (A x S D M : Nat) (h : S % (D * M) = 0) : (A + x * S) / D % M = A / D % M := by
  obtain ⟨q, rfl⟩ := Nat.dvd_of_mod_eq_zero h
  rcases Nat.eq_zero_or_pos D with rfl | hD
  · simp
  · rw [show x * (D * M * q) = D * (M * (x * q)) by ring, Nat.add_mul_div_left _ _ hD, Nat.add_mul_mod_self_left]

theorem field_above {m : Nat} (A S D M : Nat) (x : BitVec m) (hA : A / S % 2 ^ m = 0) (h : D % (S * 2 ^ m) = 0) :
    (A + x.toNat * S) / D % M = A / D % M := by
  obtain ⟨j, rfl⟩ := Nat.dvd_of_mod_eq_zero h
  rcases Nat.eq_zero_or_pos S with rfl | hS
  · simp
  · obtain ⟨q, hq⟩ := Nat.dvd_of_mod_eq_zero hA
    simp only [← Nat.div_div_eq_div_mul, Nat.add_mul_div_right _ _ hS, hq, Nat.mul_add_div (Nat.two_pow_pos m),
      Nat.mul_div_cancel_left _ (Nat.two_pow_pos m), Nat.div_eq_of_lt x.isLt, add_zero]

theorem field_at {m : Nat} (A S M : Nat) (x : BitVec m) (hS : 1 ≤ S) (hM : M = 2 ^ m) (hA : A / S % M = 0) :
    (A + x.toNat * S) / S % M = x.toNat := by
  subst hM
  rw [Nat.add_mul_div_right _ _ hS, Nat.add_mod, hA, zero_add, Nat.mod_mod, Nat.mod_eq_of_lt x.isLt]

/-! ### The word of an instruction is read back

The rows of the table stand in order, the C stream first, so a range of constructors is a part of a stream's map. Where a field of
another row overlaps an operand, `omega` sees that the row's fixed bits differ. -/

theorem rawC_word_compute {i : Instr} {w : W32} (hi : 0 ≤ i.ctorIdx ∧ i.ctorIdx ≤ 39) (h : encode i = some w) :
    rawC w = some i := by
  cases i <;> simp only [Instr.ctorIdx, Nat.reduceLeDiff, and_true, and_false] at hi
  all_goals
    cases h
    simp only [rawC, fb, fld_ofNat, field_below, field_above, field_at, BitVec.ofNat_toNat, BitVec.setWidth_eq, Nat.reduceAdd,
      Nat.reduceMul, Nat.reducePow, Nat.reduceMod, Nat.reduceDiv, Nat.reduceLeDiff, Nat.reduceEqDiff, and_true, true_and, and_false,
      false_and, ↓reduceIte]
  all_goals simp (disch := omega) only [if_neg]

theorem rawC_word_memory {i : Instr} {w : W32} (hi : 40 ≤ i.ctorIdx ∧ i.ctorIdx ≤ 79) (h : encode i = some w) :
    rawC w = some i := by
  cases i <;> simp only [Instr.ctorIdx, Nat.reduceLeDiff, and_true, and_false] at hi
  all_goals
    cases h
    simp only [rawC, fb, fld_ofNat, field_below, field_above, field_at, BitVec.ofNat_toNat, BitVec.setWidth_eq, Nat.reduceAdd,
      Nat.reduceMul, Nat.reducePow, Nat.reduceMod, Nat.reduceDiv, Nat.reduceLeDiff, Nat.reduceEqDiff, and_true, true_and, and_false,
      false_and, ↓reduceIte]
  all_goals simp (disch := omega) only [if_neg]

theorem rawC_word_system {i : Instr} {w : W32} (hi : 80 ≤ i.ctorIdx ∧ i.ctorIdx ≤ 121) (h : encode i = some w) :
    rawC w = some i := by
  cases i <;> simp only [Instr.ctorIdx, Nat.reduceLeDiff, and_true, and_false] at hi
  all_goals
    cases h
    simp only [rawC, fb, fld_ofNat, field_below, field_above, field_at, BitVec.ofNat_toNat, BitVec.setWidth_eq, Nat.reduceAdd,
      Nat.reduceMul, Nat.reducePow, Nat.reduceMod, Nat.reduceDiv, Nat.reduceLeDiff, Nat.reduceEqDiff, and_true, true_and, and_false,
      false_and, ↓reduceIte]
  all_goals simp (disch := omega) only [if_neg]

theorem rawV_word_arithmetic {i : Instr} {w : W32} (hi : 122 ≤ i.ctorIdx ∧ i.ctorIdx ≤ 146) (h : encode i = some w) :
    rawV w = some i := by
  cases i <;> simp only [Instr.ctorIdx, Nat.reduceLeDiff, and_true, and_false] at hi
  all_goals
    cases h
    simp only [rawV, fb, fld_ofNat, field_below, field_above, field_at, BitVec.ofNat_toNat, BitVec.setWidth_eq, Nat.reduceAdd,
      Nat.reduceMul, Nat.reducePow, Nat.reduceMod, Nat.reduceDiv, Nat.reduceLeDiff, Nat.reduceEqDiff, and_true, true_and, and_false,
      false_and, ↓reduceIte]

theorem rawV_word_rearrange {i : Instr} {w : W32} (hi : 147 ≤ i.ctorIdx ∧ i.ctorIdx ≤ 170) (h : encode i = some w) :
    rawV w = some i := by
  cases i <;> simp only [Instr.ctorIdx, Nat.reduceLeDiff, and_true, and_false] at hi
  all_goals
    cases h
    simp only [rawV, fb, fld_ofNat, field_below, field_above, field_at, BitVec.ofNat_toNat, BitVec.setWidth_eq, Nat.reduceAdd,
      Nat.reduceMul, Nat.reducePow, Nat.reduceMod, Nat.reduceDiv, Nat.reduceLeDiff, Nat.reduceEqDiff, and_true, true_and, and_false,
      false_and, ↓reduceIte]
  all_goals simp (disch := omega) only [if_neg]

theorem rawM_word {i : Instr} {w : W32} (hi : 171 ≤ i.ctorIdx ∧ i.ctorIdx ≤ 178) (h : encode i = some w) :
    rawM w = some i := by
  cases i <;> simp only [Instr.ctorIdx, Nat.reduceLeDiff, and_true, and_false] at hi
  all_goals
    cases h
    simp only [rawM, fb, fld_ofNat, field_below, field_above, field_at, BitVec.ofNat_toNat, BitVec.setWidth_eq, Nat.reduceAdd,
      Nat.reduceMul, Nat.reducePow, Nat.reduceMod, Nat.reduceDiv, Nat.reduceLeDiff,
      ↓reduceIte]

theorem rawL_or_rawS_word {i : Instr} {w : W32} (hi : 179 ≤ i.ctorIdx ∧ i.ctorIdx ≤ 188) (h : encode i = some w) :
    rawL w = some i ∨ rawS w = some i := by
  cases i <;> simp only [Instr.ctorIdx, Nat.reduceLeDiff, and_true, and_false] at hi
  case cpy | cpyz | gath | scat | qfill | plane =>
    left
    cases h
    unfold rawL
    simp only [fb, fld_ofNat, field_below, field_above, field_at, BitVec.ofNat_toNat, BitVec.setWidth_eq, Nat.reduceAdd,
      Nat.reduceMul, Nat.reducePow, Nat.reduceMod, Nat.reduceDiv, Nat.reduceLeDiff, and_true, ↓reduceIte]
  case qdrain | red | bcst | lwr =>
    right
    cases h
    unfold rawS
    simp only [fb, fld_ofNat, field_below, field_above, field_at, BitVec.ofNat_toNat, BitVec.setWidth_eq, Nat.reduceAdd,
      Nat.reduceMul, Nat.reducePow, Nat.reduceMod, Nat.reduceDiv, Nat.reduceLeDiff, and_true, ↓reduceIte]

theorem rawOv_word {i : Instr} {w : W32} (hi : 189 ≤ i.ctorIdx ∧ i.ctorIdx ≤ 201) (h : encode i = some w) :
    rawOv w = some i := by
  cases i <;> simp only [Instr.ctorIdx, Nat.reduceLeDiff, and_true, and_false] at hi
  all_goals
    cases h
    simp only [rawOv, fb, fld_ofNat, field_below, field_above, field_at, BitVec.ofNat_toNat, BitVec.setWidth_eq, Nat.reduceAdd,
      Nat.reduceMul, Nat.reducePow, Nat.reduceMod, Nat.reduceDiv, Nat.reduceLeDiff, Nat.reduceEqDiff, and_true, true_and, and_false,
      false_and, ↓reduceIte]
  all_goals simp (disch := omega) only [if_neg]

/-- An event has no word. -/
theorem ctorIdx_of_encode {i : Instr} {w : W32} (h : encode i = some w) : i.ctorIdx ≤ 201 := by
  cases i <;> cases h <;> simp only [Instr.ctorIdx, Nat.reduceLeDiff]

theorem raw_word {i : Instr} {w : W32} (h : encode i = some w) :
    rawC w = some i ∨ rawV w = some i ∨ rawM w = some i ∨ rawL w = some i ∨ rawS w = some i ∨ rawOv w = some i := by
  have hlt := ctorIdx_of_encode h
  by_cases h1 : i.ctorIdx ≤ 39
  · exact .inl (rawC_word_compute ⟨Nat.zero_le _, h1⟩ h)
  by_cases h2 : i.ctorIdx ≤ 79
  · exact .inl (rawC_word_memory ⟨by omega, h2⟩ h)
  by_cases h3 : i.ctorIdx ≤ 121
  · exact .inl (rawC_word_system ⟨by omega, h3⟩ h)
  by_cases h4 : i.ctorIdx ≤ 146
  · exact .inr (.inl (rawV_word_arithmetic ⟨by omega, h4⟩ h))
  by_cases h5 : i.ctorIdx ≤ 170
  · exact .inr (.inl (rawV_word_rearrange ⟨by omega, h5⟩ h))
  by_cases h6 : i.ctorIdx ≤ 178
  · exact .inr (.inr (.inl (rawM_word ⟨by omega, h6⟩ h)))
  by_cases h7 : i.ctorIdx ≤ 188
  · rcases rawL_or_rawS_word ⟨by omega, h7⟩ h with hl | hs
    · exact .inr (.inr (.inr (.inl hl)))
    · exact .inr (.inr (.inr (.inr (.inl hs))))
  · exact .inr (.inr (.inr (.inr (.inr (rawOv_word ⟨by omega, hlt⟩ h)))))

theorem checked_eq_ok {o : Option Instr} {i : Instr} : checked o = .ok i ↔ o = some i ∧ i.wf = true := by
  unfold checked
  split
  · simp
  · next j =>
    split
    · next hj =>
      simp only [Except.ok.injEq, Option.some.injEq]
      constructor
      · rintro rfl; exact ⟨rfl, hj⟩
      · exact And.left
    · next hj => simp; rintro rfl; simpa using hj

theorem checked_sound {o : Option Instr} {i : Instr} {w : W32} (ho : EncodedBy w o) (h : checked o = .ok i) :
    i.wf = true ∧ encode i = some w := by
  obtain ⟨hi, hwf⟩ := checked_eq_ok.1 h
  exact ⟨hwf, ho i hi⟩

/-- Settles O48: each decoder's rows give back the word that they matched, and each row's word meets its own conditions and none
of those of the rows before it. -/
theorem roundTrip : Obligations.RoundTrip := by
  intro i
  simp only [List.forall_mem_cons, List.exists_mem_cons_iff, List.not_mem_nil, false_implies, implies_true, false_and, exists_false,
    or_false, and_true]
  constructor
  · exact ⟨fun w => checked_sound (encodedBy_rawC w), fun w => checked_sound (encodedBy_rawV w),
      fun w => checked_sound (encodedBy_rawM w), fun w => checked_sound (encodedBy_rawL w),
      fun w => checked_sound (encodedBy_rawS w), fun w => checked_sound (encodedBy_rawOv w)⟩
  · intro w hwf h
    have hok {o : Option Instr} (ho : o = some i) : checked o = .ok i := checked_eq_ok.2 ⟨ho, hwf⟩
    exact (raw_word h).imp hok (Or.imp hok (Or.imp hok (Or.imp hok (Or.imp hok hok))))

end Sys2Proof.Decode

/-! ## Traps of the C stream (R104, R105, R243, R310) -/

namespace Sys2Proof.Machine

/-! ### What a request to stop the streams leaves alone -/

/-- A part of a tile that neither a result written, nor a stream, nor a queue's binding changes is as it was when streams stop. -/
theorem Tile.stopStream_keeps {α : Type} (p : Tile → α) (hl : ∀ (t : Tile) x, p (t.applyLate x) = p t)
    (hp : ∀ (t : Tile) l, p { t with pending := l } = p t) (hs : ∀ (t : Tile) x y, p (t.setStream x y) = p t)
    (hq : ∀ (t : Tile) q, p { t with queues := q } = p t) (t : Tile) (x : BStream) : p (t.stopStream x) = p t := by
  have hu : ∀ u : Tile, p (u.unbind x) = p u := fun u => by
    cases x
    case v | m => rfl
    case l | s => exact hq _ _
  unfold Tile.stopStream
  dsimp only
  split
  · rw [Tile.write_keeps p hl hp, hu, hs]
  · rfl

theorem Tile.stopDueNow_keeps {α : Type} (p : Tile → α) (hl : ∀ (t : Tile) x, p (t.applyLate x) = p t)
    (hp : ∀ (t : Tile) l, p { t with pending := l } = p t) (hs : ∀ (t : Tile) x y, p (t.setStream x y) = p t)
    (hq : ∀ (t : Tile) q, p { t with queues := q } = p t) (t : Tile) : p t.stopDueNow = p t := by
  have h : ∀ (u : Tile) x, p (u.stopIfDue x) = p u := fun u x => by
    unfold Tile.stopIfDue
    split
    · exact (Tile.stopStream_keeps p hl hp hs hq _ x).trans (hs _ _ _)
    · rfl
  simp only [Tile.stopDueNow, h]

theorem Tile.applyLate_sems (t : Tile) (x : Late) : (t.applyLate x).sems = t.sems := by
  cases x <;> simp only [Tile.applyLate]
  case vreg => unfold Tile.setVreg; split <;> rfl
  case preg => unfold Tile.setPreg; split <;> rfl
  case push => rfl
  case acc => unfold Tile.setBank; split <;> rfl

theorem Tile.stopDueNow_status (t : Tile) : t.stopDueNow.status = t.status :=
  Tile.stopDueNow_keeps _ Tile.applyLate_status (fun _ _ => rfl) (fun _ x _ => by cases x <;> rfl) (fun _ _ => rfl) t

theorem Tile.stopDueNow_sems (t : Tile) : t.stopDueNow.sems = t.sems :=
  Tile.stopDueNow_keeps _ Tile.applyLate_sems (fun _ _ => rfl) (fun _ x _ => by cases x <;> rfl) (fun _ _ => rfl) t

/-- The streams that are to stop do; a trap that waited for them is then taken. -/
theorem Tile.applyStops_eq (t : Tile) : t.applyStops = match t.trapping with
    | some (r, _) => if t.stopDueNow.stopsDue then t.stopDueNow else ({ t.stopDueNow with trap := r, trapping := none }).enter .faulted
    | none => t.stopDueNow := by
  rw [← t.stopDueNow_trapping]; rfl

theorem Tile.applyStops_control (t : Tile) : t.applyStops.control = t.control := by
  rw [t.applyStops_eq, ← t.stopDueNow_control]
  split
  · split <;> rfl
  · rfl

theorem Tile.applyStops_sems (t : Tile) : t.applyStops.sems = t.sems := by
  rw [t.applyStops_eq, ← t.stopDueNow_sems]
  split
  · split <;> rfl
  · rfl

theorem Tile.takeTrap_sems (t : Tile) (r : TrapRecord) : (t.takeTrap r).sems = t.sems := by
  unfold Tile.takeTrap
  split
  · rw [Tile.applyStops_sems]
    split
    · rfl
    · split <;> rfl
  · rfl

theorem Tile.requestStop_control (t : Tile) (f : BStream → Bool) : (t.requestStop f).control = t.control :=
  Tile.applyStops_control _

theorem Tile.mustStop_stream (t : Tile) (f : BStream → Bool) (x : BStream) : (t.mustStop f).stream x = { t.stream x with
    stopDue := (t.stream x).stopDue || (f x && (decide ((t.stream x).state = .await) || decide ((t.stream x).state = .run))) } := by
  cases x <;> rfl

/-- Where the streams stop at once, a request to stop them is done in its step, and the tile runs on. -/
theorem Tile.requestStop_eq (t : Tile) (f : BStream → Bool) (h : t.stopsAtOnce) :
    t.requestStop f = (t.mustStop f).stopDueNow := by
  unfold Tile.requestStop
  rw [Tile.applyStops_eq, show (t.mustStop f).trapping = none from h.1]

theorem Tile.requestStop_stopped (t : Tile) (h : t.stopsAtOnce) (x : BStream) :
    ((t.requestStop fun _ => true).stream x).state ≠ .await ∧ ((t.requestStop fun _ => true).stream x).state ≠ .run := by
  have hx : ∀ y, ((t.mustStop fun _ => true).stream y).exposedRun = false := fun y => by
    rw [t.mustStop_stream]; exact (h.2 y).1
  rw [t.requestStop_eq _ h, Tile.stopDueNow_stream _ hx, t.mustStop_stream]
  unfold Stream.stopped
  by_cases hw : (t.stream x).state = .await ∨ (t.stream x).state = .run
  · have hd : (decide ((t.stream x).state = .await) || decide ((t.stream x).state = .run)) = true := by simpa using hw
    simp [hd, Stream.stop_state, hw]
  · have hd : (decide ((t.stream x).state = .await) || decide ((t.stream x).state = .run)) = false := by simpa using hw
    simpa [hd, (h.2 x).2] using hw

theorem Tile.stopsAtOnce.withControl {t : Tile} (h : t.stopsAtOnce) (k : Control) : ({ t with control := k } : Tile).stopsAtOnce := by
  have e : ∀ x, ({ t with control := k } : Tile).stream x = t.stream x := fun x => by cases x <;> rfl
  exact ⟨h.1, fun x => by rw [e]; exact h.2 x⟩

/-! ### A program cause -/

theorem ofNat_programCause (c : BitVec 7) : (BitVec.ofNat 8 (128 + c.toNat) : Byte).toNat = 128 + c.toNat := by
  have := c.isLt
  rw [BitVec.toNat_ofNat, Nat.mod_eq_of_lt (by omega)]

/-- A code of trap.raise is at user level where RAISEN is set and no handler runs (R105). -/
theorem Tile.userLevel_program (t : Tile) (c : BitVec 7) :
    t.userLevel (BitVec.ofNat 8 (128 + c.toNat)) = (!t.user.inHandler && t.user.raisen) := by
  have hn : (BitVec.ofNat 8 (128 + c.toNat) == causeNotready) = false :=
    beq_false_of_ne fun e => absurd (congrArg BitVec.toNat e) (by rw [ofNat_programCause]; simp [causeNotready]; omega)
  have hc : decide (0x80 ≤ (BitVec.ofNat 8 (128 + c.toNat)).toNat) = true := by
    rw [ofNat_programCause]; simp
  rw [Tile.userLevel, hn, hc]; simp

theorem programCause_ne_debug (c : BitVec 7) : BitVec.ofNat 8 (128 + c.toNat) ≠ causeDebug :=
  fun e => absurd (congrArg BitVec.toNat e) (by rw [ofNat_programCause]; simp [causeDebug]; omega)

/-- UTVEC counts words: the handler's address ends in two zero bits. -/
theorem utvec_address (v : BitVec 14) : BitVec.ofNat 17 (v.toNat * 4) = (BitVec.append v (0 : BitVec 2)).setWidth 17 := by
  have := v.isLt
  apply BitVec.eq_of_toNat_eq
  have ha : (BitVec.append v (0 : BitVec 2)).toNat = v.toNat * 4 := by
    show (v ++ (0 : BitVec 2)).toNat = _
    rw [BitVec.toNat_append]; simp [Nat.shiftLeft_eq]
  rw [BitVec.toNat_setWidth, ha, BitVec.toNat_ofNat]

theorem userTrap_target (b : BitVec 17) : BitVec.ofNat 16 b.toNat = b.setWidth 16 := by
  apply BitVec.eq_of_toNat_eq; simp

/-- Settles O21. A cause below 0x80 has no user handler, so `State.cTrap_traps` says what it leaves; ecall with g10 = 0 asks the
streams to stop, which leaves the C stream past its word. -/
theorem traps : Obligations.Traps := by
  rintro s c ⟨-, hrun⟩ tl cause saved at_
  have low (cause : Byte) (h1 : cause ≠ causeNotready) (h2 : cause.toNat < 0x80) (h3 : cause ≠ causeDebug) :
      s.CTraps (s.cTrap cause 0) cause 0 := s.cTrap_traps cause 0 hrun (Tile.userLevel_low _ _ h1 h2) h3
  refine ⟨fun hg => ?_, fun hg => ?_, ⟨_, rfl, low _ (by decide) (by decide) (by decide)⟩,
    ⟨_, rfl, low _ (by decide) (by decide) (by decide)⟩, fun hu => ⟨_, rfl, ?_⟩, fun hr hh => ⟨_, rfl, ?_⟩⟩
  · have e : exec .trapEcall s = .next (s.cTrap causeEcall 0) := by
      show Host.Outcome.next _ = _
      rw [if_neg hg]
    exact ⟨_, e, low _ (by decide) (by decide) (by decide)⟩
  · have e : exec .trapEcall s = .next (s.onCur fun t =>
        { ({ t with control := t.control.next } : Tile).requestStop (fun _ => true) with ending := true }) := by
      show Host.Outcome.next _ = _
      rw [if_pos hg, s.cDone_eq, State.onCur_onCur]
    refine ⟨_, e, s.onCur_only _, s.onCur_bytes _, by rw [s.onCur_tile], ?_, fun hs => ?_⟩
    · show Tile.control ((s.onCur _).tile s.curTile) = _
      rw [s.onCur_tile]; exact Tile.requestStop_control _ _
    · have hs' := hs.withControl tl.control.next
      rw [s.onCur_tile]
      refine ⟨?_, fun x => ?_⟩
      · show (Tile.requestStop _ _).status = _
        rw [Tile.requestStop_eq _ _ hs', Tile.stopDueNow_status]; exact hrun
      · have := Tile.requestStop_stopped _ hs' x
        cases x <;> exact this
  · refine s.cTrap_traps _ 0 hrun ?_ (programCause_ne_debug c)
    rw [Tile.userLevel_program]
    change (!tl.user.inHandler && tl.user.raisen) = false
    rcases hu with h | h <;> simp [h]
  · have hu : (s.tile s.curTile).userLevel (BitVec.ofNat 8 (128 + c.toNat)) = true := by
      rw [Tile.userLevel_program]
      change (!tl.user.inHandler && tl.user.raisen) = true
      rw [hr, hh]; rfl
    refine ⟨s.onCur_only _, (s.onCur_tile _).trans ((if_pos hu).trans ?_), s.onCur_bytes _⟩
    simp only [Tile.userTrap, utvec_address, userTrap_target]
    rfl

end Sys2Proof.Machine

/-! ## The port of a tile (R16, R78, R417) -/

namespace Sys2Proof.Machine

/-! ### The order of the port -/

/-- The order of R16: by tc, and in one tc by source. -/
def PortBefore (a b : Nat × PortItem) : Prop := a.1 < b.1 ∨ a.1 = b.1 ∧ a.2.rank ≤ b.2.rank

theorem PortBefore.trans {a b c : Nat × PortItem} (h1 : PortBefore a b) (h2 : PortBefore b c) : PortBefore a c := by
  unfold PortBefore at *; omega

/-- An item goes in front of the first that it must precede. -/
theorem not_portBefore_iff {x y : Nat × PortItem} :
    ¬PortBefore y x ↔ x.1 < y.1 ∨ x.1 = y.1 ∧ x.2.rank < y.2.rank := by
  unfold PortBefore; omega

theorem insertPort_of_before {x y : Nat × PortItem} (r : List (Nat × PortItem)) (h : PortBefore y x) :
    insertPort (y :: r) x = y :: insertPort r x := if_neg fun hx => not_portBefore_iff.2 hx h

theorem insertPort_of_not_before {x y : Nat × PortItem} (r : List (Nat × PortItem)) (h : ¬PortBefore y x) :
    insertPort (y :: r) x = x :: y :: r := if_pos (not_portBefore_iff.1 h)

/-- In an ordered port an item stands behind all that may precede it and in front of all that may not. -/
theorem insertPort_split (l : List (Nat × PortItem)) (x : Nat × PortItem) (h : l.Pairwise PortBefore) :
    ∃ p q, l = p ++ q ∧ insertPort l x = p ++ x :: q ∧ (∀ y ∈ p, PortBefore y x) ∧ ∀ y ∈ q, ¬PortBefore y x := by
  induction l with
  | nil => exact ⟨[], [], rfl, rfl, by simp, by simp⟩
  | cons y r ih =>
    obtain ⟨hy, hr⟩ := List.pairwise_cons.1 h
    by_cases hb : PortBefore y x
    · obtain ⟨p, q, hl, hi, hp, hq⟩ := ih hr
      exact ⟨y :: p, q, by rw [hl]; rfl, by rw [insertPort_of_before r hb, hi]; rfl, List.forall_mem_cons.2 ⟨hb, hp⟩, hq⟩
    · exact ⟨[], y :: r, rfl, insertPort_of_not_before r hb, by simp,
        List.forall_mem_cons.2 ⟨hb, fun z hz hzx => hb ((hy z hz).trans hzx)⟩⟩

theorem insertPort_pairwise (l : List (Nat × PortItem)) (x : Nat × PortItem) (h : l.Pairwise PortBefore) :
    (insertPort l x).Pairwise PortBefore := by
  obtain ⟨p, q, rfl, hi, hp, hq⟩ := insertPort_split l x h
  obtain ⟨h1, h2, h3⟩ := List.pairwise_append.1 h
  rw [hi]
  refine List.pairwise_append.2 ⟨h1, List.pairwise_cons.2 ⟨fun y hy => ?_, h2⟩, fun a ha => ?_⟩
  · have := hq y hy
    unfold PortBefore at *; omega
  · exact List.forall_mem_cons.2 ⟨hp a ha, h3 a ha⟩

/-! ### A raise that is taken -/

theorem Sem.raise_fits {x : Sem} {n : Nat} (h : x.count.toNat + n ≤ 65535) :
    x.raise n = some { x with count := x.count + BitVec.ofNat 16 n } := by
  unfold Sem.raise
  rw [if_neg (by omega), BitVec.ofNat_add, BitVec.ofNat_toNat, BitVec.setWidth_eq]

theorem Sem.raise_overflows {x : Sem} {n : Nat} (h : 65535 < x.count.toNat + n) : x.raise n = none := if_pos h

theorem State.takeRaise_fits (s : State) (tn k : BitVec 6) (n stream : Nat) (err : Bool)
    (h : ((s.tile tn).sem k).count.toNat + n ≤ 65535) :
    s.takeRaise tn k n err stream = s.onTile tn fun u => u.setSem k
      { count := ((s.tile tn).sem k).count + BitVec.ofNat 16 n, poison := ((s.tile tn).sem k).poison || err } := by
  unfold State.takeRaise Sem.raiseError
  cases err <;> simp [Sem.raise_fits h]

/-- The semaphore as a raise that does not fit leaves it: its count stands, an error poisons it. -/
def Tile.poisonSem (t : Tile) (k : BitVec 6) (err : Bool) : Tile :=
  if err then t.setSem k { t.sem k with poison := true } else t

theorem Tile.poisonSem_sem (t : Tile) (k : BitVec 6) (err : Bool) :
    (t.poisonSem k err).sem k = { t.sem k with poison := (t.sem k).poison || err } := by
  cases err <;> simp [Tile.poisonSem]

theorem Tile.poisonSem_status (t : Tile) (k : BitVec 6) (err : Bool) : (t.poisonSem k err).status = t.status := by
  cases err <;> rfl

theorem Tile.poisonSem_stopsAtOnce {t : Tile} (h : t.stopsAtOnce) (k : BitVec 6) (err : Bool) :
    (t.poisonSem k err).stopsAtOnce := by
  have e : ∀ x, (t.poisonSem k err).stream x = t.stream x := fun x => by cases err <;> cases x <;> rfl
  exact ⟨by cases err <;> exact h.1, fun x => by rw [e]; exact h.2 x⟩

/-- The record of SEMOVF that a raise leaves at a tile. -/
def Tile.semovfRecord (t : Tile) (stream : Nat) : TrapRecord :=
  { TrapRecord.none with cause := causeSemovf, stream := BitVec.ofNat 8 stream, addr := BitVec.ofNat 32 t.control.pc.toNat }

theorem State.takeRaise_overflows (s : State) (tn k : BitVec 6) (n stream : Nat) (err : Bool)
    (h : 65535 < ((s.tile tn).sem k).count.toNat + n) :
    (s.takeRaise tn k n err stream).tile tn =
      ((s.tile tn).poisonSem k err).takeTrap (((s.tile tn).poisonSem k err).semovfRecord stream) := by
  cases err
  · simp only [State.takeRaise, Sem.raise_overflows h]
    exact s.onTile_tile tn _
  · simp only [State.takeRaise, Sem.raiseError, Sem.raise_overflows h, if_true, Option.getD_none, State.onTile_onTile, Option.isSome_none,
      Bool.false_eq_true, if_false]
    exact s.onTile_tile tn _

/-- Settles O28: the port is a sorted list into which an item goes behind its equals; a raise that does not fit leaves the count and
takes SEMOVF. -/
theorem portOrder : Obligations.PortOrder := by
  constructor
  · intro l x before (h : l.Pairwise PortBefore)
    obtain ⟨p, q, hl, hi, -, hq⟩ := insertPort_split l x h
    exact ⟨insertPort_pairwise l x h, p, q, hl, hi, hq⟩
  · intro s tn k n src from_ err x t
    refine ⟨s.takeRaise_fits tn k n from_ err, fun h => ?_⟩
    have ht : t.tile tn = _ := s.takeRaise_overflows tn k n from_ err h
    have hk : (t.tile tn).sem k = { x with poison := x.poison || err } := by
      rw [ht, Tile.sem, Tile.takeTrap_sems]; exact Tile.poisonSem_sem _ k err
    refine ⟨by rw [hk], by rw [hk], fun hs hr => ?_⟩
    rw [ht, Tile.takeTrap_faults _ _ ((Tile.poisonSem_status _ k err).trans hr) (Tile.poisonSem_stopsAtOnce hs k err)]
    exact ⟨rfl, rfl⟩

end Sys2Proof.Machine

/-! ## Words written out field by field (R18, R20, R26, R29 to R31) -/

namespace Sys2Proof.Decode

/-- All ones is the word of no row: its opcode is assigned in no stream's map (R18). -/
theorem block_allOnes (x : BStream) : block x 0xFFFFFFFF = .error .unassigned := by
  cases x <;> decide

/-- Settles O47: each word is closed, and its decoder computes. -/
theorem decodeWords : Obligations.DecodeWords := by
  refine ⟨?_, ?_, ?_, ?_, ?_, ?_, ?_, ?_, ?_, block_allOnes, ?_, ?_⟩ <;> decide

end Sys2Proof.Decode

/-! ## Bytes of the own package through plain pages (R249, R250, R395, R396) -/

namespace Sys2Proof.Machine

/-! ### Addresses -/

theorem State.ownPkg_group (s : State) {pa : Nat} (h : pa < 2 ^ 48) : s.ownPkg (s.group pa) = true := by
  simp only [State.ownPkg, State.group, beq_iff_eq]; omega

theorem State.localOf_group (s : State) {pa : Nat} (h : pa < 2 ^ 48) : localOf (s.group pa) = pa := by
  simp only [localOf, State.group]; omega

theorem place_storeAddr (tn : BitVec 6) {off : Nat} (h : off < 0x400000) : place (storeAddr tn off) = .tileStore tn off := by
  have ht := tn.isLt
  have h1 : ¬storeAddr tn off < hbmEnd := by simp only [storeAddr, tileBase, hbmEnd]; omega
  have h2 : tileBase ≤ storeAddr tn off ∧ storeAddr tn off < tileBase + 64 * 0x400000 := by
    simp only [storeAddr, tileBase]; omega
  have h3 : (storeAddr tn off - tileBase) / 0x400000 = tn.toNat ∧ (storeAddr tn off - tileBase) % 0x400000 = off := by
    simp only [storeAddr, tileBase]; omega
  rw [place, if_neg h1, if_pos h2, h3.1, h3.2, BitVec.ofNat_toNat, BitVec.setWidth_eq]

theorem storeAddr_lt (tn : BitVec 6) {off : Nat} (h : off < 0x400000) : storeAddr tn off < 2 ^ 48 := by
  have ht := tn.isLt
  simp only [storeAddr, tileBase]; omega

/-- Bytes of one line are one piece. -/
theorem pieces_line {pa n : Nat} (f : Nat) (h0 : 0 < n) (h : pa % 128 + n ≤ 128) : pieces (f + 2) pa n = [(pa, n)] := by
  have hk : min n (128 - pa % 128) = n := by omega
  simp only [pieces, hk, Nat.sub_self, if_true]
  rw [if_neg (by omega)]

theorem pieces_own {pa n : Nat} (h0 : 0 < n) (h : pa % 128 + n ≤ 128) : pieces (n / 128 + 2) pa n = [(pa, n)] :=
  pieces_line _ h0 h

/-! ### What a store to the physical map changes -/

/-- t differs from s at most in the bytes of memory with their poison, reservations and dirty marks, and in the marks of intervals. -/
structure State.StoreOnly (s t : State) : Prop where
  frame : t = { s with mem := t.mem, poison := t.poison, tiles := t.tiles, pool := t.pool, reservations := t.reservations }
  tile : ∀ z, t.tile z = { s.tile z with dirtyA := (t.tile z).dirtyA, dirtyB := (t.tile z).dirtyB }

theorem State.markUnrollable_pool (s : State) (w : Writer) (leaf : Leaf) (gpa : Nat) :
    s.markUnrollable w leaf gpa = { s with pool := (s.markUnrollable w leaf gpa).pool } := by
  unfold State.markUnrollable
  split
  · split <;> dsimp only <;> split <;> rfl
  · dsimp only
    split <;> rfl

theorem State.markRows_mem (s : State) (pa n : Nat) : (s.markRows pa n).mem = s.mem := by
  unfold State.markRows; split <;> rfl

theorem State.put_mem (s : State) (pa : Nat) (bs : List Byte) : (s.put pa bs).mem = s.mem.setBytes pa bs := State.markRows_mem _ _ _

theorem State.markRows_stores (s : State) (pa n : Nat) : s.StoreOnly (s.markRows pa n) := by
  unfold State.markRows
  split
  next t off _ =>
    refine ⟨rfl, fun z => ?_⟩
    by_cases hz : z = t
    · subst hz; rw [State.onTile_tile]
    · rw [State.onTile_other _ _ _ _ hz]
  next => exact ⟨rfl, fun _ => rfl⟩

theorem State.put_stores (s : State) (pa : Nat) (bs : List Byte) : s.StoreOnly (s.put pa bs) := by
  obtain ⟨hf, ht⟩ := ((({ s with mem := s.mem.setBytes pa bs }).unreserve pa bs.length).clearPoison pa bs.length).markRows_stores pa bs.length
  exact ⟨hf, ht⟩

theorem State.StoreOnly.of_pool {s t : State} {p : Pool} (h : State.StoreOnly { s with pool := p } t) : s.StoreOnly t := ⟨h.frame, h.tile⟩

theorem State.StoreOnly.fabric {s t : State} (h : s.StoreOnly t) : t.fabric = s.fabric := by rw [h.frame]
theorem State.StoreOnly.shoot {s t : State} (h : s.StoreOnly t) : t.shoot = s.shoot := by rw [h.frame]
theorem State.StoreOnly.die {s t : State} (h : s.StoreOnly t) (d : BitVec 2) : t.die d = s.die d := by rw [h.frame]; rfl

/-! ### Reads and writes through a plain page -/

/-- Bytes of one line under a page without VER, CKPT and SEAL, with no tag and no error, read as memory holds them (R396, R399). -/
theorem State.readPart_plain (s : State) {leaf : Leaf} {pa n : Nat} (view : View) (hv : leaf.ver = false) (hs : leaf.sealed = false)
    (htag : tget s.seals (pa / 128) = none) (hopen : s.scratchBusy pa = false) (hbad : s.anyPoison pa n = false) :
    s.readPart leaf view pa n = .ok (s.mem.bytes pa n, false) := by
  have hver : s.versionOf leaf view (pa / 128) = none := by simp [State.versionOf, hv]
  have hnone : s.badPart leaf view pa n = none := by simp [State.badPart, hver, hs, hbad]
  have hview : ∀ g b, s.sealView leaf none g b = b := fun g b => by simp [State.sealView, hs]
  have hmap : ∀ l : List Byte, (l.zipIdx.map fun e => e.1) = l := fun l => List.zipIdx_map_fst 0 l
  simp [State.readPart, hver, hopen, hnone, htag, State.tagOk, hs, hview, hmap]

theorem State.readLocal_plain (s : State) {leaf : Leaf} {pa n : Nat} (view : View) (h0 : 0 < n) (hline : pa % 128 + n ≤ 128)
    (hv : leaf.ver = false) (hs : leaf.sealed = false) (htag : tget s.seals (pa / 128) = none) (hopen : s.scratchBusy pa = false)
    (hbad : s.anyPoison pa n = false) : s.readLocal leaf view pa n = .ok (s.mem.bytes pa n, false) := by
  simp only [State.readLocal, pieces_own h0 hline, List.foldlM_cons, List.foldlM_nil, s.readPart_plain view hv hs htag hopen hbad]
  rfl

/-- Bytes of one line written through a page without VER, CKPT and SEAL, with no tag (R371, R396). -/
theorem State.writePart_plain (s : State) (w : Writer) {leaf : Leaf} {pa : Nat} (bs : List Byte) (stamp : Nat)
    (hplain : leaf.ver = false ∧ leaf.ckpt = false ∧ leaf.sealed = false) (htag : tget s.seals (pa / 128) = none)
    (hopen : s.scratchBusy pa = false) :
    s.writePart w leaf pa bs stamp = .ok ((s.markUnrollable w leaf (s.group pa)).put pa bs) := by
  obtain ⟨hv, hc, hs⟩ := hplain
  have hseal : (s.markUnrollable w leaf (s.group pa)).sealWrite leaf (pa / 128) pa bs.length = s.markUnrollable w leaf (s.group pa) := by
    rw [s.markUnrollable_pool]
    simp [State.sealWrite, hs, htag]
  unfold State.writePart
  simp only [hv, hc, hopen, Bool.and_false, Bool.false_and, Bool.or_false, Bool.false_eq_true, if_false]
  split
  · show Except.ok (((s.markUnrollable w leaf (s.group pa)).sealWrite leaf (pa / 128) pa bs.length).put pa bs) = _
    rw [hseal]
  · rfl

theorem State.writeLocal_plain (s : State) (w : Writer) {leaf : Leaf} {pa : Nat} (bs : List Byte) (h0 : 0 < bs.length)
    (hline : pa % 128 + bs.length ≤ 128) (hplain : leaf.ver = false ∧ leaf.ckpt = false ∧ leaf.sealed = false)
    (htag : tget s.seals (pa / 128) = none) (hopen : s.scratchBusy pa = false) :
    s.writeLocal w leaf pa bs = .ok ((s.markUnrollable w leaf (s.group pa)).put pa bs) := by
  simp only [State.writeLocal, pieces_own h0 hline, List.foldlM_cons, List.foldlM_nil, Nat.sub_self, List.drop_zero, List.take_length,
    s.writePart_plain w bs s.versions.clock.toNat hplain htag hopen]
  rfl

/-! ### Reads and writes through a plain pin -/

theorem State.PlainPin.notRefused {s : State} {pins : List Held} {va n : Nat} {leaf : Leaf} {pa : Nat} (h : s.PlainPin pins va n leaf pa) :
    s.refused (s.group pa) = false := by
  rw [State.refused, s.localOf_group h.below, h.open_.2, Bool.and_false]

/-- What an engine reads through a plain pin, without an error. -/
theorem State.PlainPin.read {s : State} {pins : List Held} {va n : Nat} {leaf : Leaf} {pa : Nat} (h : s.PlainPin pins va n leaf pa)
    (h0 : 0 < n) (hbad : s.anyPoison pa n = false) (d : BitVec 2) (who : Asker) :
    s.readPins d who pins va n = .ok { bytes := s.mem.bytes pa n, bad := [], notes := [] } := by
  have hany : s.readAny who leaf .newest (s.group pa) n = .ok (s.mem.bytes pa n, false) := by
    rw [State.readAny, if_pos (s.ownPkg_group h.below), s.localOf_group h.below]
    exact s.readLocal_plain .newest h0 h.line.2 h.plain.1 h.plain.2.2 h.tag h.open_.1 hbad
  have hgrains : s.readGrains d who leaf (s.group pa) n = .ok { bytes := s.mem.bytes pa n, bad := [], notes := [] } := by
    rw [State.readGrains, hany]; rfl
  simp only [State.readPins, pieces_own h0 h.line.1, List.foldlM_cons, List.foldlM_nil, h.pin, h.notRefused, hgrains,
    Bool.false_eq_true, if_false]
  rfl

/-- Sound bytes are written under a pin in one run (R95). -/
theorem State.writePins_sound {s t : State} {pins : List Held} {va : Nat} {leaf : Leaf} {gpa : Nat} (w : Writer) (d : BitVec 2)
    (who : Asker) (bs : List Byte) (hpin : pinPa pins (va % 2 ^ 57) = some (leaf, gpa)) (hok : s.refused gpa = false)
    (hany : s.writeAny w d who leaf gpa bs = .ok t) : s.writePins w d who pins va bs [] = .ok t := by
  simp only [State.writePins, hpin, hok, runsOf, List.isEmpty_nil, List.foldlM_cons, List.foldlM_nil, Nat.add_zero, List.drop_zero,
    List.take_length, hany, Bool.false_eq_true, if_false, if_true, Bool.false_and, bind, Except.bind, pure, Except.pure]

theorem State.PlainPin.writeAny {s : State} {pins : List Held} {va n : Nat} {leaf : Leaf} {pa : Nat} (h : s.PlainPin pins va n leaf pa)
    (w : Writer) (d : BitVec 2) (who : Asker) (bs : List Byte) (h0 : 0 < bs.length) (hbs : bs.length = n) :
    s.writeAny w d who leaf (s.group pa) bs = .ok ((s.markUnrollable w leaf (s.group pa)).put pa bs) := by
  subst hbs
  rw [State.writeAny, if_pos (s.ownPkg_group h.below), s.localOf_group h.below]
  exact s.writeLocal_plain w bs h0 h.line.2 h.plain h.tag h.open_.1

/-- What an engine writes through a plain pin, from data without an error. -/
theorem State.PlainPin.write {s : State} {pins : List Held} {va n : Nat} {leaf : Leaf} {pa : Nat} (h : s.PlainPin pins va n leaf pa)
    (w : Writer) (d : BitVec 2) (who : Asker) (bs : List Byte) (h0 : 0 < bs.length) (hbs : bs.length = n) :
    s.writePins w d who pins va bs [] = .ok ((s.markUnrollable w leaf (s.group pa)).put pa bs) :=
  s.writePins_sound w d who bs h.pin h.notRefused (h.writeAny w d who bs h0 hbs)

end Sys2Proof.Machine

/-! ## A copy of one row (R95, R96, R417) -/

namespace Sys2Proof.Machine

/-! ### The bytes of the row -/

theorem ofSigned_ofNat {n v : Nat} (h : v < 2 ^ n) : ofSigned n (v : Int) = v := by
  rw [ofSigned, Int.emod_eq_of_lt (Int.natCast_nonneg v) (Int.ofNat_lt.2 h), Int.toNat_natCast]

theorem rowsOf_one (base : Nat) (pitch : Int) (len : Nat) (h : base < 2 ^ 64) : rowsOf base pitch 1 len = [(base, len)] := by
  have hb : ofSigned 64 ((base : Int) + (0 : Nat) * pitch) = base := by
    rw [Nat.cast_zero, Int.zero_mul, Int.add_zero]; exact ofSigned_ofNat h
  have hu : upto 1 = [0] := rfl
  rw [rowsOf, hu, List.map_singleton, hb]

theorem CopyRecord.word_lt (r : CopyRecord) (j : Nat) : r.word j < 2 ^ 64 := (r[j]?.getD 0).isLt

/-- What the engine reads of a plain source leaves the state as it is. -/
theorem State.PlainPin.engineRead {s : State} {pins : List Held} {va n : Nat} {leaf : Leaf} {pa : Nat} (h : s.PlainPin pins va n leaf pa)
    (h0 : 0 < n) (hbad : s.anyPoison pa n = false) (d : BitVec 2) (who : Asker) (tile : Option (BitVec 6)) (node : W32) :
    s.engineRead d who tile node pins va n = .ok (s, { bytes := s.mem.bytes pa n, bad := [], notes := [] }) := by
  rw [State.engineRead, h.read h0 hbad d who]; rfl

/-- The state once the bytes of the row stand at the destination. -/
def State.rowMoved (s : State) (o : CopyOp) (leaf : Leaf) (src dst n : Nat) : State :=
  (s.markUnrollable o.writer leaf (s.group dst)).put dst (s.mem.bytes src n)

theorem Memory.length_bytes (m : Memory) (a n : Nat) : (m.bytes a n).length = n := by
  induction n generalizing a with
  | zero => rfl
  | succ n ih => rw [Memory.bytes, List.length_cons, ih]

theorem State.rowMoved_stores (s : State) (o : CopyOp) (leaf : Leaf) (src dst n : Nat) : s.StoreOnly (s.rowMoved o leaf src dst n) := by
  have h := (s.markUnrollable o.writer leaf (s.group dst)).put_stores dst (s.mem.bytes src n)
  rw [State.rowMoved]
  rw [s.markUnrollable_pool] at h ⊢
  exact h.of_pool

theorem State.rowMoved_mem (s : State) (o : CopyOp) (leaf : Leaf) (src dst n : Nat) :
    (s.rowMoved o leaf src dst n).mem = s.mem.setBytes dst (s.mem.bytes src n) := by
  rw [State.rowMoved, State.put_mem, s.markUnrollable_pool]

theorem State.runCopy_row (s : State) (d : BitVec 2) (o : CopyOp) {lf lt : Leaf} {src dst : Nat} 
    (hy : CopyRecord.ycnt o.record = 1) (h0 : 0 < CopyRecord.xlen o.record) (hline : CopyRecord.dst o.record % 128 + CopyRecord.xlen o.record ≤ 128)
    (hs : s.PlainPin o.pins (CopyRecord.src o.record) (CopyRecord.xlen o.record) lf src)
    (ht : s.PlainPin o.pins (CopyRecord.dst o.record) (CopyRecord.xlen o.record) lt dst)
    (hbad : s.anyPoison src (CopyRecord.xlen o.record) = false) :
    s.runCopy d o =
      .ok ⟨s.rowMoved o lt src dst (CopyRecord.xlen o.record), [(CopyRecord.xlen o.record, false, s.group dst)], false⟩ := by
  have hsrc : CopyRecord.sources o.record = [(CopyRecord.src o.record, CopyRecord.xlen o.record)] := by
    rw [CopyRecord.sources, hy]; exact rowsOf_one _ _ _ (CopyRecord.word_lt _ 0)
  have hdst : CopyRecord.destinations o.record = [(CopyRecord.dst o.record, CopyRecord.xlen o.record)] := by
    rw [CopyRecord.destinations, hy]; exact rowsOf_one _ _ _ (CopyRecord.word_lt _ 1)
  have hlen := s.mem.length_bytes src (CopyRecord.xlen o.record)
  have hw := ht.write o.writer d (.operation o.id) (s.mem.bytes src (CopyRecord.xlen o.record)) (by rw [hlen]; exact h0) hlen
  have hpiece : (CopyRun.mk s [] false).piece d o (CopyRecord.src o.record) (CopyRecord.dst o.record) (CopyRecord.xlen o.record) =
      .ok ⟨s.rowMoved o lt src dst (CopyRecord.xlen o.record), [(CopyRecord.xlen o.record, false, s.group dst)], false⟩ := by
    simp only [CopyRun.piece, hs.engineRead h0 hbad, ht.pin, bind, Except.bind, hw]
    rfl
  simp only [State.runCopy, hsrc, hdst, List.zip_cons_cons, List.zip_nil_right, List.foldlM_cons, List.foldlM_nil, pieces_own h0 hline,
    Nat.sub_self, Nat.add_zero, hpiece]
  rfl

/-! ### Its arrival and its raise -/

/-- What reaches the port of a running tile waits there (R417). -/
def Tile.received (u : Tile) (i : PortItem) : Tile := { u with port := insertPort u.port (u.tc, i) }

theorem State.atPort_running (s : State) (tn : BitVec 6) (i : PortItem) (h : (s.tile tn).status = .run ∨ (s.tile tn).status = .stopping) :
    s.atPort tn i = s.onTile tn fun u => u.received i := if_pos h

theorem State.unperformed_of_not_asking {s : State} {who : Asker} (h : s.asking who = false) : s.unperformed who = [] := by
  simp only [State.asking, Bool.or_eq_false_iff, List.any_eq_false] at h
  simp only [State.unperformed, List.map_eq_nil_iff, List.filter_eq_nil_iff, Bool.and_eq_true, not_and_or]
  exact fun r hr => .inl (h.1 r hr)

theorem State.markUnrollable_tile (s : State) (w : Writer) (leaf : Leaf) (gpa : Nat) (z : BitVec 6) :
    (s.markUnrollable w leaf gpa).tile z = s.tile z := by rw [s.markUnrollable_pool]; rfl

theorem State.markUnrollable_fabric (s : State) (w : Writer) (leaf : Leaf) (gpa : Nat) :
    (s.markUnrollable w leaf gpa).fabric = s.fabric := by rw [s.markUnrollable_pool]

/-- An arrival at a landing word of a running tile, from an agent without unfinished writes elsewhere. -/
theorem State.arriveAt_running (s : State) (w : Writer) (d : BitVec 2) (who : Asker) (src gpa b : Nat) (err : Bool) (tn : BitVec 6) {off : Nat}
    (hown : s.ownPkg gpa = true) (hplace : Machine.place (localOf gpa) = Place.tileStore tn off)
    (hr : (s.tile tn).status = .run ∨ (s.tile tn).status = .stopping) (hwho : s.asking who = false) :
    s.arriveAt w d who src gpa b err =
      (s.markUnrollable w openLeaf gpa).onTile tn fun u => u.received (.arrival src off b err) := by
  have hun : (s.markUnrollable w openLeaf gpa).unperformed who = [] := by
    rw [State.unperformed, s.markUnrollable_fabric]; exact State.unperformed_of_not_asking hwho
  have hown' : (s.markUnrollable w openLeaf gpa).ownPkg gpa = true := by
    rw [State.ownPkg, s.markUnrollable_fabric]; exact hown
  simp only [State.arriveAt, hun, hown', State.arrive, hplace, List.isEmpty_nil, Bool.and_true, if_true]
  refine State.atPort_running _ tn _ ?_
  rw [s.markUnrollable_tile]; exact hr

theorem State.arrivalWaits_own (s : State) (tn : BitVec 6) {off : Nat} (hoff : off < 0x400000) :
    s.arrivalWaits (some tn) (s.group (storeAddr tn off)) = false := by
  rw [State.arrivalWaits, s.localOf_group (storeAddr_lt tn hoff), place_storeAddr tn hoff]
  simp

/-- The raise of n, without an error, as it reaches a tile or is taken by it. -/
def Tile.raisedBy (u : Tile) (src : Nat) (k : BitVec 6) (n : Nat) : Tile :=
  if n = 0 then u
  else if u.status = .run ∨ u.status = .stopping then u.received (.raise src k n false 0)
  else u.setSem k { u.sem k with count := (u.sem k).count + BitVec.ofNat 16 n }

theorem State.raiseSem_fits (s : State) (src : Nat) (tn k : BitVec 6) (n : Nat) (h : ((s.tile tn).sem k).count.toNat + n ≤ 65535) :
    s.raiseSem src tn k n false = s.onTile tn fun u => u.raisedBy src k n := by
  by_cases hn : n = 0
  · simp [State.raiseSem, State.onTile, Tile.raisedBy, hn]
  · rw [State.raiseSem, if_neg hn]
    by_cases hr : (s.tile tn).status = .run ∨ (s.tile tn).status = .stopping
    · rw [State.atPort_running _ _ _ hr]
      simp only [State.onTile, Tile.raisedBy, hn, hr, if_false, if_true]
    · rw [State.atPort, if_neg hr, State.takeItem, s.takeRaise_fits tn k n 0 false h, Bool.or_false]
      simp only [State.onTile, Tile.raisedBy, hn, hr, if_false]

/-! ### Its end -/

theorem State.shootCheck_idle {s : State} (h : s.shoot.busy = false) : s.shootCheck = s := by
  simp [State.shootCheck, h]

/-- What the end of a copy leaves of its tile: DONE, the raise and the pins (R95, R96). -/
def Tile.copyEnded (u : Tile) (e : BitVec 1) (op : Nat) (k : BitVec 6) (n : Nat) : Tile :=
  let v := (u.setCopy e { u.copy e with done := (u.copy e).done + 1 }).raisedBy e.toNat k n
  { v with opPins := v.opPins.filter fun p => p.op != op }

theorem State.endCopy_fits (s : State) (d : BitVec 2) (e : BitVec 1) (o : CopyOp) (tn : BitVec 6) (ht : o.tile = some tn)
    (hb : s.shoot.busy = false)
    (h : ((s.tile tn).sem (CopyRecord.sem o.record)).count.toNat + CopyRecord.scnt o.record ≤ 65535) :
    s.endCopy d e o false =
      ((s.onDie d fun x => x.setEngine e ((x.engine e).filter fun y => y.id != o.id)).dropAnswers (.operation o.id)).onTile tn
        fun u => u.copyEnded e o.id (CopyRecord.sem o.record) (CopyRecord.scnt o.record) := by
  simp only [State.endCopy, ht, Bool.or_false]
  rw [State.raiseSem_fits _ _ _ _ _ (by rw [State.onTile_tile]; exact h), State.onTile_onTile, State.endPins, State.onTile_onTile]
  exact State.shootCheck_idle hb

/-- The tile once a copy's arrival has reached its port, if the copy has a landing word. -/
def Tile.told (u : Tile) (lw : Option Nat) (e : BitVec 1) (off n : Nat) : Tile :=
  if lw = none then u else u.received (.arrival e.toNat off n false)

/-- No answer waits for an operation: none of its accesses at other packages has failed. -/
theorem State.noAnswer_any {s : State} {who : Asker} (h : ∀ x ∈ s.fabric.answers, x.who ≠ who) (q : Answer → Bool) :
    (s.fabric.answers.any fun a => a.who == who && q a) = false :=
  List.any_eq_false.2 fun a ha => by simp [h a ha]

theorem State.noAnswer_writes {s : State} {who : Asker} (h : ∀ x ∈ s.fabric.answers, x.who ≠ who) (g k : Nat) :
    s.writeFailed who g k = false := by
  simp only [State.writeFailed, Bool.and_assoc]; exact State.noAnswer_any h _

/-- A copy of one row without a landing word, with nothing unfinished at other packages, ends. -/
theorem State.finishCopy_untold (s : State) (d : BitVec 2) (e : BitVec 1) (o : CopyOp) {n at_ : Nat}
    (hp : o.performed = some ([(n, false, at_)], false)) (htold : o.told = false) (hlw : o.lw = none)
    (hask : s.asking (.operation o.id) = false) (hans : ∀ x ∈ s.fabric.answers, x.who ≠ .operation o.id) :
    s.finishCopy d e o = s.endCopy d e o false := by
  simp [State.finishCopy, hp, hask, htold, hlw, State.noAnswer_any hans]

/-- The state once the arrival of a copy waits at the port of its landing word's tile. -/
def State.toldAt (s : State) (o : CopyOp) (gpa : Nat) (tn : BitVec 6) (i : PortItem) : State :=
  (s.markUnrollable o.writer openLeaf gpa).onTile tn fun u => u.received i

theorem State.toldAt_pool (s : State) (o : CopyOp) (gpa : Nat) (tn : BitVec 6) (i : PortItem) :
    s.toldAt o gpa tn i =
      State.onTile { s with pool := (s.markUnrollable o.writer openLeaf gpa).pool } tn fun u => u.received i := by
  rw [State.toldAt, ← s.markUnrollable_pool]

/-- One with a landing word in its own tile tells it first. -/
theorem State.finishCopy_told (s : State) (d : BitVec 2) (e : BitVec 1) (o : CopyOp) (tn : BitVec 6) {off n at_ gpa : Nat}
    (hp : o.performed = some ([(n, false, at_)], false)) (htold : o.told = false) (ht : o.tile = some tn) (hlw : o.lw = some gpa)
    (hown : s.ownPkg gpa = true) (hplace : Machine.place (localOf gpa) = Place.tileStore tn off)
    (hr : (s.tile tn).status = .run ∨ (s.tile tn).status = .stopping)
    (hask : s.asking (.operation o.id) = false) (hans : ∀ x ∈ s.fabric.answers, x.who ≠ .operation o.id) :
    s.finishCopy d e o = (s.toldAt o gpa tn (.arrival e.toNat off n false)).endCopy d e o false := by
  have harr : s.arriveAt o.writer d (.operation o.id) e.toNat gpa n false = s.toldAt o gpa tn (.arrival e.toNat off n false) :=
    s.arriveAt_running o.writer d (.operation o.id) e.toNat gpa n false tn hown hplace hr hask
  have hfab : (s.toldAt o gpa tn (.arrival e.toNat off n false)).fabric = s.fabric := by rw [State.toldAt_pool]; rfl
  have hwait : (s.toldAt o gpa tn (.arrival e.toNat off n false)).arrivalWaits (some tn) gpa = false := by
    simp [State.arrivalWaits, hplace]
  have hask' : (s.toldAt o gpa tn (.arrival e.toNat off n false)).asking (.operation o.id) = false := by
    rw [State.asking, hfab]; exact hask
  simp [State.finishCopy, hp, hask, htold, hlw, State.noAnswer_writes hans, harr, ht, hwait, hask', hfab, State.noAnswer_any hans]

theorem State.place_group_storeAddr (s : State) (tn : BitVec 6) {off : Nat} (hoff : off < 0x400000) :
    Machine.place (localOf (s.group (storeAddr tn off))) = Place.tileStore tn off := by
  rw [s.localOf_group (storeAddr_lt tn hoff), place_storeAddr tn hoff]

theorem State.toldAt_keeps (s : State) (o : CopyOp) (e : BitVec 1) (n : Nat) (tn : BitVec 6) {gpa : Nat} (off : Nat) (hlw : o.lw = some gpa) :
    (s.toldAt o gpa tn (.arrival e.toNat off n false)).mem = s.mem ∧ (s.toldAt o gpa tn (.arrival e.toNat off n false)).dies = s.dies ∧
      (s.toldAt o gpa tn (.arrival e.toNat off n false)).shoot = s.shoot ∧
      (s.toldAt o gpa tn (.arrival e.toNat off n false)).tile tn = (s.tile tn).told o.lw e off n := by
  rw [State.toldAt_pool, Tile.told, if_neg (by rw [hlw]; exact Option.some_ne_none _), State.onTile_tile]
  generalize (s.markUnrollable o.writer openLeaf gpa).pool = p
  exact ⟨rfl, rfl, rfl, rfl⟩

/-- A copy of one row that has nothing unfinished at other packages tells its landing word and ends. -/
theorem State.finishCopy_row (s : State) (d : BitVec 2) (e : BitVec 1) (o : CopyOp) (tn : BitVec 6) (off n at_ : Nat)
    (hp : o.performed = some ([(n, false, at_)], false)) (htold : o.told = false) (ht : o.tile = some tn)
    (hlw : o.lw = none ∨ ((s.tile tn).status = .run ∨ (s.tile tn).status = .stopping) ∧ off < 0x400000 ∧
      o.lw = some (s.group (storeAddr tn off)))
    (hask : s.asking (.operation o.id) = false) (hans : ∀ x ∈ s.fabric.answers, x.who ≠ .operation o.id) :
    ∃ t : State, s.finishCopy d e o = t.endCopy d e o false ∧ t.mem = s.mem ∧ t.dies = s.dies ∧ t.shoot = s.shoot ∧
      t.tile tn = (s.tile tn).told o.lw e off n := by
  rcases hlw with hlw | ⟨hr, hoff, hlw⟩
  · exact ⟨s, s.finishCopy_untold d e o hp htold hlw hask hans, rfl, rfl, rfl, by rw [Tile.told, if_pos hlw]⟩
  · exact ⟨_, s.finishCopy_told d e o tn hp htold ht hlw (s.ownPkg_group (storeAddr_lt tn hoff)) (s.place_group_storeAddr tn hoff) hr hask hans,
      s.toldAt_keeps o e n tn off hlw⟩

theorem Tile.raisedBy_keeps {α : Type} (p : Tile → α) (hport : ∀ u q, p { u with port := q } = p u)
    (hsem : ∀ u k x, p (Tile.setSem u k x) = p u) (u : Tile) (src : Nat) (k : BitVec 6) (n : Nat) : p (u.raisedBy src k n) = p u := by
  unfold Tile.raisedBy
  split
  · rfl
  · split
    · exact hport _ _
    · exact hsem _ _ _

theorem Tile.copyEnded_copies (u : Tile) (e : BitVec 1) (op : Nat) (k : BitVec 6) (n : Nat) :
    (u.copyEnded e op k n).copies[e.toNat] = { u.copies[e.toNat] with done := u.copies[e.toNat].done + 1 } := by
  have h : (u.copyEnded e op k n).copies = u.copies.set e.toNat { u.copy e with done := (u.copy e).done + 1 } :=
    Tile.raisedBy_keeps Tile.copies (fun _ _ => rfl) (fun _ _ _ => rfl) (u.setCopy e { u.copy e with done := (u.copy e).done + 1 }) e.toNat k n
  simp only [h, Vector.getElem_set_self]; rfl

theorem Tile.copyEnded_control (u : Tile) (e : BitVec 1) (op : Nat) (k : BitVec 6) (n : Nat) :
    (u.copyEnded e op k n).control = u.control :=
  Tile.raisedBy_keeps Tile.control (fun _ _ => rfl) (fun _ _ _ => rfl) (u.setCopy e { u.copy e with done := (u.copy e).done + 1 }) e.toNat k n

theorem Tile.copyEnded_pins (u : Tile) (e : BitVec 1) (op : Nat) (k : BitVec 6) (n : Nat) : ∀ p ∈ (u.copyEnded e op k n).opPins, p.op ≠ op :=
  fun _ hp => by simpa using (List.mem_filter.1 hp).2

/-- A copy that raises nothing leaves semaphores and port. -/
theorem Tile.copyEnded_silent (u : Tile) (e : BitVec 1) (op : Nat) (k : BitVec 6) :
    (u.copyEnded e op k 0).sems = u.sems ∧ (u.copyEnded e op k 0).port = u.port := ⟨rfl, rfl⟩

theorem Tile.copyEnded_running (u : Tile) (e : BitVec 1) (op : Nat) (k : BitVec 6) {n : Nat} (hn : 0 < n)
    (hr : u.status = .run ∨ u.status = .stopping) :
    (u.copyEnded e op k n).sems = u.sems ∧ (u.copyEnded e op k n).port = insertPort u.port (u.tc, .raise e.toNat k n false 0) := by
  have h : (u.setCopy e { u.copy e with done := (u.copy e).done + 1 }).raisedBy e.toNat k n =
      (u.setCopy e { u.copy e with done := (u.copy e).done + 1 }).received (.raise e.toNat k n false 0) := by
    rw [Tile.raisedBy, if_neg (by omega), if_pos]; exact hr
  rw [Tile.copyEnded, h]; exact ⟨rfl, rfl⟩

theorem Tile.copyEnded_stopped (u : Tile) (e : BitVec 1) (op : Nat) (k : BitVec 6) {n : Nat} (hn : 0 < n)
    (hr : ¬(u.status = .run ∨ u.status = .stopping)) :
    (u.copyEnded e op k n).sem k = { u.sem k with count := (u.sem k).count + BitVec.ofNat 16 n } := by
  have h : (u.setCopy e { u.copy e with done := (u.copy e).done + 1 }).raisedBy e.toNat k n =
      (u.setCopy e { u.copy e with done := (u.copy e).done + 1 }).setSem k { u.sem k with count := (u.sem k).count + BitVec.ofNat 16 n } := by
    rw [Tile.raisedBy, if_neg (by omega), if_neg]; · rfl
    exact hr
  rw [Tile.copyEnded, h]; exact Tile.sem_setSem _ _ _

theorem Tile.told_keeps {α : Type} (p : Tile → α) (hport : ∀ u q, p { u with port := q } = p u) (u : Tile) (lw : Option Nat) (e : BitVec 1)
    (off n : Nat) : p (u.told lw e off n) = p u := by
  unfold Tile.told
  split
  · rfl
  · exact hport _ _

theorem Tile.told_port (u : Tile) (lw : Option Nat) (e : BitVec 1) (off n : Nat) :
    (u.told lw e off n).port = if lw = none then u.port else insertPort u.port (u.tc, .arrival e.toNat off n false) := by
  unfold Tile.told; split <;> rfl

/-! ### The obligation -/

theorem engine_filter_head {o : CopyOp} {rest : List CopyOp} (h : ∀ x ∈ rest, x.id ≠ o.id) :
    (o :: rest).filter (fun y => y.id != o.id) = rest := by
  rw [List.filter_cons_of_neg (by simp)]
  exact List.filter_eq_self.2 fun x hx => by simpa using h x hx

/-- The engine's oldest copy, while it runs, performs its row and goes on to its end. -/
theorem execCopyComplete_row (s t : State) (d : BitVec 2) (e : BitVec 1) (o : CopyOp) (rest : List CopyOp)
    (a : List (Nat × Bool × Nat)) (err : Bool) (hq : (s.die d).engine e = o :: rest) (hrun : o.running = true) (hp : o.performed = none) (h : s.runCopy d o = .ok ⟨t, a, err⟩) :
    execCopyComplete d e s = .next ((t.onDie d fun x => x.setEngine e ({ o with performed := some (a, err) } :: rest)).finishCopy d e
      { o with performed := some (a, err) }) := by
  simp only [execCopyComplete, hq, hrun, hp, h, Bool.not_true, Bool.false_eq_true, if_false, Option.isSome_none]

@[simp] theorem Die.engine_setEngine (d : Die) (e : BitVec 1) (q : List CopyOp) : (d.setEngine e q).engine e = q :=
  Vector.getElem_set_self _

/-- What a completed copy has left of the memory and of its engine. -/
theorem State.endCopy_engine (s : State) (d : BitVec 2) (e : BitVec 1) (o : CopyOp) (rest : List CopyOp) (tn : BitVec 6) (f : Tile → Tile)
    (hq : (s.die d).engine e = o :: rest) (hid : ∀ x ∈ rest, x.id ≠ o.id) :
    ((((s.onDie d fun x => x.setEngine e ((x.engine e).filter fun y => y.id != o.id)).dropAnswers (.operation o.id)).onTile tn f).die d).engine e =
      rest := by
  have h := s.onDie_die d fun x => x.setEngine e ((x.engine e).filter fun y => y.id != o.id)
  refine (congrArg (fun x => Die.engine x e) h).trans ?_
  rw [Die.engine_setEngine, hq, engine_filter_head hid]

/-- Settles O26: through plain pins the row is one read and one write, after which the copy tells its landing word and ends. -/
theorem copyCompletion : Obligations.CopyCompletion := by
  intro s d e o rest tn lf lt src dst off r n hq hid hrun hperf htold htile hy h0 hline runs hlw hs ht hbad hask hans hbusy k before port told hfit
  obtain ⟨o', ho'⟩ : ∃ o' : CopyOp, o' = { o with performed := some ([(n, false, s.group dst)], false) } := ⟨_, rfl⟩
  obtain ⟨v, hv⟩ : ∃ v : State, v = (s.rowMoved o lt src dst n).onDie d fun x => x.setEngine e (o' :: rest) := ⟨_, rfl⟩
  have hmoved := s.rowMoved_stores o lt src dst n
  have hvtile : v.tile tn = { s.tile tn with dirtyA := (v.tile tn).dirtyA, dirtyB := (v.tile tn).dirtyB } := by
    rw [hv]; exact hmoved.tile tn
  have hvfabric : v.fabric = s.fabric := by rw [hv]; exact hmoved.fabric
  have hvengine : (v.die d).engine e = o' :: rest := by rw [hv, State.onDie_die, Die.engine_setEngine]
  have hvmem : v.mem = s.mem.setBytes dst (s.mem.bytes src n) := by rw [hv]; exact s.rowMoved_mem o lt src dst n
  have hvshoot : v.shoot = s.shoot := by rw [hv]; exact hmoved.shoot
  have hexec : execCopyComplete d e s = .next (v.finishCopy d e o') := by
    rw [execCopyComplete_row s _ d e o rest _ _ hq hrun hperf (s.runCopy_row d o hy h0 hline hs ht hbad), hv, ho']
  have hvstatus : (v.tile tn).status = (s.tile tn).status := by rw [hvtile]
  obtain ⟨w, hfin, hwmem, hwdies, hwshoot, hwtile⟩ := v.finishCopy_row d e o' tn off n (s.group dst) (by rw [ho']) (by rw [ho']; exact htold)
    (by rw [ho']; exact htile) (by rw [hvstatus, State.group, hvfabric, ho']; exact hlw) (by rw [State.asking, hvfabric, ho']; exact hask)
    (by rw [hvfabric, ho']; exact hans)
  have hwtile' : w.tile tn = ({ s.tile tn with dirtyA := (v.tile tn).dirtyA, dirtyB := (v.tile tn).dirtyB } : Tile).told o'.lw e off n := by
    rw [hwtile, ← hvtile]
  have hkeep : ∀ {α : Type} (p : Tile → α), (∀ u q, p { u with port := q } = p u) →
      p (w.tile tn) = p { s.tile tn with dirtyA := (v.tile tn).dirtyA, dirtyB := (v.tile tn).dirtyB } := fun p hp => by
    rw [hwtile', Tile.told_keeps p hp]
  have hsems : (w.tile tn).sems = (s.tile tn).sems := hkeep Tile.sems fun _ _ => rfl
  have hsem : (w.tile tn).sem k = before := by rw [Tile.sem, hsems]; rfl
  have hstatus : (w.tile tn).status = (s.tile tn).status := hkeep Tile.status fun _ _ => rfl
  have hport : (w.tile tn).port = told := by rw [hwtile', Tile.told_port, ho']
  have htc : (w.tile tn).tc = (s.tile tn).tc := hkeep Tile.tc fun _ _ => rfl
  have hend := w.endCopy_fits d e o' tn (by rw [ho']; exact htile) (by rw [hwshoot, hvshoot]; exact hbusy) (by rw [ho']; exact hsem ▸ hfit)
  obtain ⟨t, ht⟩ : ∃ t : State, t = w.endCopy d e o' false := ⟨_, rfl⟩
  have htmem : t.mem = s.mem.setBytes dst (s.mem.bytes src n) := by rw [ht, hend, ← hvmem, ← hwmem]; rfl
  have httile : t.tile tn = (w.tile tn).copyEnded e o.id k (CopyRecord.scnt r) := by
    rw [ht, hend, State.onTile_tile, ho']; rfl
  have hlen := s.mem.length_bytes src n
  refine ⟨t, by rw [ht, ← hfin]; exact hexec, ?_, ?_, ?_, ?_, ?_, ?_, ?_, ?_⟩
  · have h := s.mem.bytes_setBytes dst (s.mem.bytes src n)
    rw [hlen] at h
    rw [htmem, h]
  · intro p hp
    rw [State.byte, htmem]
    exact s.mem.byte_setBytes_other dst _ p (by rw [hlen]; exact hp)
  · rw [ht, hend]
    exact w.endCopy_engine d e o' rest tn _ (by rw [State.die, hwdies]; exact hvengine) (by rw [ho']; exact hid)
  · rw [httile, Tile.copyEnded_copies, hkeep Tile.copies fun _ _ => rfl]
  · intro h0
    rw [httile, h0]
    exact ⟨hsem, hport⟩
  · intro hpos
    split
    next hr =>
      obtain ⟨hs, hp⟩ := (w.tile tn).copyEnded_running e o.id k hpos (by rw [hstatus]; exact hr)
      exact ⟨by rw [httile, Tile.sem, hs]; exact hsem, by rw [httile, hp, hport, htc]⟩
    next hr =>
      rw [httile, (w.tile tn).copyEnded_stopped e o.id k hpos (by rw [hstatus]; exact hr), hsem]
  · rw [httile]; exact Tile.copyEnded_pins _ _ _ _ _
  · rw [httile, Tile.copyEnded_control, hkeep Tile.control fun _ _ => rfl]

end Sys2Proof.Machine

/-! ## What a step runs (R17 to R19, R31, R208) -/

namespace Sys2Proof.Machine

/-! ### The agent that acts -/

theorem step_event (s : State) (i : Instr) (rest : List Activity) (hp : s.powered = true) (hf : s.frozen = false)
    (ha : s.agenda = .event i :: rest) : step s = (Next.run i { s with agenda := rest }).outcome := by
  have ht : State.takes { s with agenda := rest } i = true := by simp [State.takes, hp, hf]
  simp only [step, ha, State.perform, ht, if_true]

theorem step_stopped (s : State) (ha : s.agenda = []) (h : s.frozen = true ∨ s.powered = false) : step s = .fault .stopped := by
  have h' : s.frozen = true ∨ (!s.powered) = true := h.imp_right fun hp => by rw [hp]; rfl
  simp only [step, ha, h', if_true]

/-- The agent in focus, or the one that the agenda names. -/
theorem step_issue (s u : State) (g : Agent) (rest : List Activity) (hp : s.powered = true) (hf : s.frozen = false)
    (h : (s.agenda = [] ∧ g = s.focus ∧ u = s) ∨ (s.agenda = .issue g :: rest ∧ u = { s with agenda := rest })) :
    step s = (u.issue g).outcome := by
  rcases h with ⟨ha, rfl, rfl⟩ | ⟨ha, rfl⟩
  · simp only [step, ha, hp, hf, Bool.not_true, Bool.false_eq_true, or_self, if_false]
  · simp only [step, ha, State.perform, hp, hf, Bool.not_true, Bool.false_eq_true, or_self, if_false]

theorem State.afterPaths_unmoved {s : State} (h : s.fabric.moved = []) : s.afterPaths = s := by
  simp [State.afterPaths, h]

/-! ### The C stream -/

/-- Bytes, least significant first, weigh powers of 256 (R7). -/
theorem leNat_map_range (f : Nat → Byte) (n : Nat) :
    leNat ((List.range n).map f) = ((List.range n).map fun j => (f j).toNat * 256 ^ j).sum := by
  induction n generalizing f with
  | zero => rfl
  | succ n ih =>
    have h : (fun j => (f (j + 1)).toNat * 256 ^ (j + 1)) = fun j => 256 * ((f (j + 1)).toNat * 256 ^ j) := by
      funext j; rw [pow_succ]; ac_rfl
    simp only [List.range_succ_eq_map, List.map_cons, List.map_map, leNat, List.sum_cons, pow_zero, Nat.mul_one, Function.comp_def,
      Nat.succ_eq_add_one, ih, h, List.sum_map_mul_left]

theorem Tile.codeWord_eq_sum (t : Tile) (pc : Nat) :
    t.codeWord pc = BitVec.ofNat 32 ((List.range 4).map fun j => ((tget t.code (pc + j)).getD 0).toNat * 256 ^ j).sum := by
  rw [Tile.codeWord, upto, leNat_map_range]
  simp only [tval]

/-- A tile whose C stream goes on to its word: it runs, and nothing holds it. -/
structure Tile.FreeRun (t : Tile) : Prop where
  status : t.status = .run
  boundary : t.boundary = false
  halt : t.halt = 0
  ending : t.ending = false
  debug : t.debug = false
  trapping : t.trapping = none
  streams : ∀ z, (t.stream z).stopDue = false ∧ (t.stream z).state ≠ .halted

theorem Tile.FreeRun.live {t : Tile} (h : t.FreeRun) : t.live = true := by
  simp [Tile.live, h.status, h.boundary]

theorem Tile.FreeRun.controlLive {t : Tile} (h : t.FreeRun) (hc : t.control.closing = false) : t.controlLive = true := by
  simp [Tile.controlLive, h.live, h.ending, h.halt, hc, h.trapping]

theorem State.boundaryDue_run {s : State} {tn : BitVec 6} (h : (s.tile tn).status = .run) : s.boundaryDue tn = false := by
  unfold State.boundaryDue
  cases s.tileNode tn with
  | none => rfl
  | some n => simp [h]

/-- The C stream of a tile that nothing holds fetches its word. -/
theorem State.issueControl_fetches (s : State) (tn : BitVec 6) (h : (s.tile tn).FreeRun) (hc : (s.tile tn).control.closing = false)
    (hp : (s.tile tn).control.pause = 0) (ht : s.timedWait tn = false) (ha : s.arrivalOf tn = .plain) :
    s.issueControl tn = State.fetchControl { s with cur := .control tn } tn := by
  have htile : State.tile { s with cur := .control tn } tn = s.tile tn := rfl
  have ht' : State.timedWait { s with cur := .control tn } tn = false := ht
  have ha' : State.arrivalOf { s with cur := .control tn } tn = .plain := ha
  have hb : State.boundaryDue { s with cur := .control tn } tn = false := State.boundaryDue_run h.status
  simp only [State.issueControl, htile, ht', ha', hb, h.controlLive hc, h.debug, hp]
  rfl

theorem State.fetchControl_decoded (s : State) (tn : BitVec 6) {i : Instr} (hpc : (s.tile tn).control.pc.toNat < 0x10000)
    (hd : Decode.control ((s.tile tn).codeWord (s.tile tn).control.pc.toNat) = .ok i) :
    s.fetchControl tn = if ((s.controlTc tn i).tile tn).controlLive = true then .run i (s.controlTc tn i) else .done (s.controlTc tn i) := by
  rw [State.fetchControl, if_neg (by omega)]
  simp only [hd]

theorem State.fetchControl_illegal (s : State) (tn : BitVec 6) (hpc : (s.tile tn).control.pc.toNat < 0x10000)
    (hd : ∀ j, Decode.control ((s.tile tn).codeWord (s.tile tn).control.pc.toNat) ≠ .ok j) : s.fetchControl tn = .run .illegalWord s := by
  cases h : Decode.control ((s.tile tn).codeWord (s.tile tn).control.pc.toNat) with
  | ok j => exact absurd h (hd j)
  | error e =>
    rw [State.fetchControl, if_neg (by omega)]
    simp only [h]

theorem State.fetchControl_end (s : State) (tn : BitVec 6) (hpc : 0x10000 ≤ (s.tile tn).control.pc.toNat) :
    s.fetchControl tn = .done (s.cTrap causeCtlint 0) := if_pos hpc

/-- The supervisor's trap of a C stream in a tile in RUN, with no path entry changed. -/
theorem State.cTrap_afterPaths (s : State) {cause : Byte} (hr : (s.tile s.curTile).status = .run) (hm : s.fabric.moved = [])
    (h1 : cause ≠ causeNotready) (h2 : cause.toNat < 0x80) (h3 : cause ≠ causeDebug) :
    (s.cTrap cause 0).afterPaths = s.cTrap cause 0 ∧ s.CTraps (s.cTrap cause 0) cause 0 :=
  ⟨State.afterPaths_unmoved hm, s.cTrap_traps cause 0 hr ((s.tile s.curTile).userLevel_low cause h1 h2) h3⟩

/-! ### A block stream -/

theorem Tile.stopIfDue_idle {t : Tile} {x : BStream} (h : (t.stream x).stopDue = false) : t.stopIfDue x = t := by
  simp [Tile.stopIfDue, h]

theorem Tile.FreeRun.applyStops {t : Tile} (h : t.FreeRun) : t.applyStops = t := by
  have e : ((((t.stopIfDue .v).stopIfDue .m).stopIfDue .l).stopIfDue .s) = t := by
    rw [Tile.stopIfDue_idle (h.streams .v).1, Tile.stopIfDue_idle (h.streams .m).1, Tile.stopIfDue_idle (h.streams .l).1,
      Tile.stopIfDue_idle (h.streams .s).1]
  simp only [Tile.applyStops, e, h.trapping]

theorem Tile.FreeRun.applyHalts {t : Tile} (h : t.FreeRun) : t.applyHalts = t := by
  have e : (t.onStreams fun b y =>
      if t.halt.getLsbD (streamCode b + 1) &&
        (decide (y.state = .await) || (decide (y.state = .run) && !(y.exposed && t.frozenAt (max t.horizon y.nextTc))))
      then { y with state := .halted, prior := y.state, nextTc := if y.exposed then max y.nextTc t.tc else y.nextTc } else y) = t := by
    simp only [h.halt]
    rfl
  have hn : t.anyHalted = false := by
    simp [Tile.anyHalted, h.halt, (h.streams _).2]
  unfold Tile.applyHalts
  rw [e]
  simp only [hn, Bool.false_eq_true, if_false]

/-- A stream in RUN issues the word at its position when nothing else of its block is due. -/
theorem State.issueRun_word (s : State) (tn : BitVec 6) (z : BStream) (i : Instr) (b : State)
    (hb : b = State.beginTc { s with cur := .block tn z } tn z)
    (hrun : ((b.tile tn).stream z).state = .run) (hnest : ((b.tile tn).stream z).nestDone = false)
    (hdue : ((b.tile tn).stream z).ringDue = 0) (hring : (b.tile tn).ringNeeds z ((b.tile tn).stream z) = [])
    (hdec : Decode.block z (recBody ((b.tile tn).stream z).record ((b.tile tn).stream z).body.toNat) = .ok i) :
    s.issueRun tn z = .run i b := by
  simp only [State.issueRun, ← hb, hrun, hnest, hdue, hring, hdec, ne_eq, not_true_eq_false, false_and, if_false, Bool.false_eq_true,
    List.isEmpty_nil, Bool.not_true]

/-- Of a tile that nothing holds the stream that acts first issues. -/
theorem State.issueBlock_first (s : State) (tn : BitVec 6) (x z : BStream) (h : (s.tile tn).FreeRun) (ht : s.timedWait tn = false)
    (hrun : ((s.tile tn).stream x).state = .run)
    (hz : z = if recInterlocked ((s.tile tn).stream x).record = true then x else (s.tile tn).firstExposed.getD x) :
    s.issueBlock tn x = State.issueRun { s with cur := .block tn x } tn z := by
  have hsame : (State.onTile { s with cur := .block tn x } tn fun u => if u.live then u.applyStops.applyHalts else u) =
      { s with cur := .block tn x } := by
    have htile : State.tile { s with cur := .block tn x } tn = s.tile tn := rfl
    simp only [State.onTile, htile, h.live, h.applyStops, h.applyHalts, if_true]
    exact State.setTile_same _ tn
  have htile : State.tile { s with cur := .block tn x } tn = s.tile tn := rfl
  have ht' : State.timedWait { s with cur := .block tn x } tn = false := ht
  simp only [State.issueBlock, hsame, htile, h.live, ht', hrun, Bool.not_true, Bool.or_self, Bool.false_eq_true, if_false]
  cases hi : recInterlocked ((s.tile tn).stream x).record with
  | true =>
    rw [hi, if_pos rfl] at hz
    simp only [Stream.exposed, hi, hz, Bool.not_true, Bool.false_eq_true, if_false]
  | false =>
    rw [hi, if_neg Bool.false_ne_true] at hz
    simp only [Stream.exposed, hi, hz, Bool.not_false, if_true]
    cases (s.tile tn).firstExposed <;> rfl

/-! ### A supervisor: its fetch depends on neither agenda nor current agent -/

theorem bind_eq_ok {ε α β : Type} {x : Except ε α} {f : α → Except ε β} {b : β} :
    (x >>= f) = .ok b ↔ ∃ a, x = .ok a ∧ f a = .ok b := by
  cases x <;> simp [bind, Except.bind]

section
variable (s : State) (a : List Activity) (g : Agent)

theorem State.rvPte_turn {x : RvAccess} {va : W64} {p e : Nat} (h : s.rvPte x va p = .ok e) :
    State.rvPte { s with agenda := a, cur := g } x va p = .ok e := by
  unfold State.rvPte at h
  split at h
  · cases h
  next hc =>
    split at h
    · cases h
    next hs =>
      split at h
      · cases h
      next hp => exact (if_neg hc).trans ((if_neg hs).trans ((if_neg hp).trans h))

theorem State.rvWalk_turn {k : Cluster} {x : RvAccess} {va : W64} {lv p e : Nat} (h : s.rvWalk k x va lv p = .ok e) :
    State.rvWalk { s with agenda := a, cur := g } k x va lv p = .ok e := by
  induction lv generalizing p with
  | zero => cases h
  | succ lv ih =>
    simp only [State.rvWalk, bind_eq_ok] at h ⊢
    obtain ⟨q, hq, h⟩ := h
    refine ⟨q, s.rvPte_turn a g hq, ?_⟩
    split at h
    · cases h
    next h1 =>
      rw [if_neg h1]
      split at h
      next h2 =>
        rw [if_pos h2]
        split at h
        · cases h
        next h3 => rw [if_neg h3]; exact ih h
      next h2 =>
        rw [if_neg h2]
        split at h
        · cases h
        next h3 => rw [if_neg h3]; exact h

theorem State.rvTranslate_turn {c : BitVec 4} {x : RvAccess} {va : W64} {p : Nat} (h : s.rvTranslate c x va = .ok p) :
    State.rvTranslate { s with agenda := a, cur := g } c x va = .ok p := by
  have hk : State.cluster { s with agenda := a, cur := g } c = s.cluster c := rfl
  have hend : ∀ q : Nat, (if 2 ^ 48 ≤ q ∨ keyRegAt q = true ∧ (s.cluster c).accessMode x ≠ 3 then rvTrap s x.accessFault va else pure q) =
      (.ok p : RvRes Nat) →
      (if 2 ^ 48 ≤ q ∨ keyRegAt q = true ∧ (s.cluster c).accessMode x ≠ 3
        then rvTrap { s with agenda := a, cur := g } x.accessFault va else pure q) = (.ok p : RvRes Nat) := fun q hq => by
    split at hq
    · cases hq
    next h1 => rw [if_neg h1]; exact hq
  simp only [State.rvTranslate, hk] at h ⊢
  by_cases h1 : (!(s.cluster c).translates x) = true
  · rw [if_pos h1, bind_eq_ok] at h ⊢
    obtain ⟨q, hq, h⟩ := h
    exact ⟨q, hq, hend q h⟩
  · rw [if_neg h1] at h ⊢
    by_cases h2 : wbits va 63 47 ≠ 0 ∧ wbits va 63 47 ≠ 0x1FFFF
    · rw [if_pos h2] at h; cases h
    · rw [if_neg h2, bind_eq_ok] at h ⊢
      obtain ⟨q, hq, h⟩ := h
      exact ⟨q, s.rvWalk_turn a g hq, hend q h⟩

theorem State.physRead_turn (p n : Nat) : State.physRead { s with agenda := a, cur := g } p n = s.physRead p n := rfl

/-- A load from what is no register. -/
theorem State.supLoad_storage (x : RvAccess) (va : W64) {p : Nat} (w : Nat) (hp : ∀ o, Machine.place p ≠ Place.register o) :
    s.supLoad x va p w = if !spanAll p w fun q => s.storage q && !s.quarantined q then rvTrap s x.accessFault va
      else if s.scratchBusy p then .error none
      else if (s.physRead p w).2 then rvTrap (s.logError none 0 (.consumed (s.firstBad p w))) x.accessFault va
      else .ok (s, leNat (s.physRead p w).1) := by
  unfold State.supLoad
  split
  next o ho => exact absurd ho (hp o)
  next => rfl

/-- What a fetch loads of memory. -/
theorem State.supLoad_turn {va : W64} {p w : Nat} {r : State × Nat} (h : s.supLoad .fetch va p w = .ok r) :
    ∃ t, State.supLoad { s with agenda := a, cur := g } .fetch va p w = .ok (t, r.2) := by
  have hp : ∀ o, Machine.place p ≠ Place.register o := fun o ho => by
    have hne : ¬(RvAccess.fetch = .load ∧ (w = 4 ∨ w = 8) ∧ p % w = 0 ∧ registerAt p) := fun hx => nomatch hx.1
    simp only [State.supLoad, ho, hne, if_false] at h
    cases h
  rw [s.supLoad_storage .fetch va w hp] at h
  rw [State.supLoad_storage _ .fetch va w hp]
  split at h
  · cases h
  next hc =>
    split at h
    · cases h
    next hs =>
      split at h
      · cases h
      next hr =>
        cases h
        exact ⟨_, (if_neg hc).trans ((if_neg hs).trans (if_neg hr))⟩

theorem State.rvParcel_turn {c : BitVec 4} {va : W64} {v : Nat} (h : s.rvParcel c va = .ok v) :
    State.rvParcel { s with agenda := a, cur := g } c va = .ok v := by
  simp only [State.rvParcel, bind_eq_ok] at h ⊢
  obtain ⟨p, hp, r, hr, h⟩ := h
  obtain ⟨t, ht⟩ := s.supLoad_turn a g hr
  exact ⟨p, s.rvTranslate_turn a g hp, (t, r.2), ht, h⟩

theorem State.rvFetch_turn {c : BitVec 4} {r : W32 × Nat} (h : s.rvFetch c = .ok r) :
    State.rvFetch { s with agenda := a, cur := g } c = .ok r := by
  have hk : State.cluster { s with agenda := a, cur := g } c = s.cluster c := rfl
  simp only [State.rvFetch, hk, bind_eq_ok] at h ⊢
  obtain ⟨lo, hlo, h⟩ := h
  refine ⟨lo, s.rvParcel_turn a g hlo, ?_⟩
  split at h
  next h3 => rw [if_pos h3]; exact h
  next h3 =>
    rw [if_neg h3, bind_eq_ok]
    obtain ⟨hi, hhi, h⟩ := bind_eq_ok.1 h
    exact ⟨hi, s.rvParcel_turn a g hhi, h⟩

theorem State.mip_turn (c : BitVec 4) : State.mip { s with agenda := a, cur := g } c = s.mip c := rfl

/-- The definition is opened as a function: opened at a state, the kernel would search the list of interrupts of a pending word that is
unknown. -/
theorem State.supInterrupt_turn (c : BitVec 4) : State.supInterrupt { s with agenda := a, cur := g } c = s.supInterrupt c := by
  have hc : State.cluster { s with agenda := a, cur := g } c = s.cluster c := rfl
  obtain ⟨f, hf⟩ : ∃ f, f = State.supInterrupt := ⟨_, rfl⟩
  rw [← hf]
  delta State.supInterrupt at hf
  rw [hf]
  simp only [State.mip_turn, hc]

end

theorem isCustom_iff (w : W32) : isCustom w = true ↔ w.toNat % 128 = 0x0B ∨ w.toNat % 128 = 0x2B := by
  simp [isCustom]

/-- A supervisor without a wait or an interrupt has fetched a word. -/
structure State.SupFetches (s : State) (c : BitVec 4) (word : W32) (n : Nat) : Prop where
  wait : (s.cluster c).wait = none
  interrupt : s.supInterrupt c = none
  fetch : s.rvFetch c = .ok (word, n)

section
variable {s : State} {a : List Activity} {c : BitVec 4} {word : W32} {n : Nat} (h : s.SupFetches c word n)
include h

theorem State.SupFetches.turn (a : List Activity) (g : Agent) : State.SupFetches { s with agenda := a, cur := g } c word n :=
  ⟨h.wait, (s.supInterrupt_turn a g c).trans h.interrupt, s.rvFetch_turn a g h.fetch⟩

/-- A word of the extension's opcodes that decodes runs. -/
theorem State.SupFetches.custom {i : Instr} (hc : n = 4 ∧ isCustom word) (hd : Decode.supervisor word = .ok i) :
    State.issueSupervisor { s with agenda := a } c = .run i { s with agenda := a, cur := .supervisor c } := by
  obtain ⟨hw, hi, hf⟩ := h.turn a (.supervisor c)
  simp only [State.issueSupervisor, hw, hi, hf, if_pos hc, hd, Option.isSome_none, Bool.false_eq_true, if_false]

/-- One that is none is the illegal-instruction exception. -/
theorem State.SupFetches.illegal (hc : n = 4 ∧ isCustom word) (hd : ∀ j, Decode.supervisor word ≠ .ok j) :
    State.issueSupervisor { s with agenda := a } c = .done (State.onCluster { s with agenda := a, cur := .supervisor c } c fun k =>
      k.takeTrap false 2 (Config.illegalValue k.pc)) := by
  obtain ⟨hw, hi, hf⟩ := h.turn a (.supervisor c)
  cases hd' : Decode.supervisor word with
  | ok j => exact absurd hd' (hd j)
  | error e =>
    simp only [State.issueSupervisor, hw, hi, hf, if_pos hc, hd', Option.isSome_none, Bool.false_eq_true, if_false]
    rfl

/-- Any other word is one of RV64GC. -/
theorem State.SupFetches.base (hc : ¬(n = 4 ∧ isCustom word)) :
    State.issueSupervisor { s with agenda := a } c = .done (State.rvStep { s with agenda := a, cur := .supervisor c } c word n) := by
  obtain ⟨hw, hi, hf⟩ := h.turn a (.supervisor c)
  simp only [State.issueSupervisor, hw, hi, hf, if_neg hc, Option.isSome_none, Bool.false_eq_true, if_false]

end

/-! ### The obligation -/

theorem decode_wf {o : Option Instr} {i : Instr} (h : Decode.checked o = .ok i) : i.wf = true := (Decode.checked_eq_ok.1 h).2

/-- Settles O49: what a step runs follows from what the agent fetches; a supervisor's fetch reads neither agenda nor current agent. -/
theorem stepRuns : Obligations.StepRuns := by
  intro s u tn x c i g rest after live
  refine ⟨step_stopped s, fun hp hf ha => ?_, fun hp hf hu => ?_⟩
  · rw [step_event s i rest hp hf ha]; rfl
  have hstep := step_issue s u g rest hp hf hu
  obtain ⟨a, rfl⟩ : ∃ a, u = { s with agenda := a } := by
    rcases hu with ⟨-, -, rfl⟩ | ⟨-, rfl⟩ <;> exact ⟨_, rfl⟩
  refine ⟨?_, ?_, ?_⟩
  · rintro rfl v k word ⟨hr, hb, hh, he, hd, ht, hs⟩ hc hpause htimed harr
    have hissue := State.issueControl_fetches { s with agenda := a } tn ⟨hr, hb, hh, he, hd, ht, hs⟩ hc hpause htimed harr
    have hword : (v.tile tn).codeWord (v.tile tn).control.pc.toNat = word := Tile.codeWord_eq_sum _ _
    rw [show step s = (v.fetchControl tn).outcome from hstep.trans (congrArg Next.outcome hissue)]
    refine ⟨fun hpc hdec => ⟨decode_wf hdec, ?_⟩, fun _ hm _ => ⟨fun hpc hdec => ?_, fun hpc => ?_⟩⟩
    · rw [v.fetchControl_decoded tn hpc (by rw [hword]; exact hdec)]
      split <;> rfl
    · obtain ⟨hafter, htraps⟩ := v.cTrap_afterPaths (cause := causeIllegal) hr hm (by decide) (by decide) (by decide)
      rw [v.fetchControl_illegal tn hpc (by rw [hword]; exact hdec)]
      exact ⟨_, congrArg Host.Outcome.next hafter, htraps⟩
    · obtain ⟨hafter, htraps⟩ := v.cTrap_afterPaths (cause := causeCtlint) hr hm (by decide) (by decide) (by decide)
      rw [v.fetchControl_end tn hpc]
      exact ⟨_, congrArg Host.Outcome.next hafter, htraps⟩
  · rintro rfl z b y ⟨hr, hb, hh, he, hd, ht, hs⟩ htimed hrun hyrun hnest hdue hring hdec
    have hfirst := State.issueBlock_first { s with agenda := a } tn x z ⟨hr, hb, hh, he, hd, ht, hs⟩ htimed hrun rfl
    have hword := State.issueRun_word { s with agenda := a, cur := .block tn x } tn z i b rfl hyrun hnest hdue hring hdec
    refine ⟨by cases hz : z <;> rw [hz] at hdec <;> exact decode_wf hdec, ?_⟩
    rw [show step s = (Next.run i b).outcome from hstep.trans (congrArg Next.outcome (hfirst.trans hword))]
    rfl
  · rintro rfl word n hw hi hfetch custom
    have hf : s.SupFetches c word n := ⟨hw, hi, hfetch⟩
    have hcustom : custom ↔ n = 4 ∧ isCustom word := by rw [isCustom_iff]
    refine ⟨fun hc hd => ⟨decode_wf hd, ?_⟩, fun hm hc hd => ?_, fun hm hc => ?_⟩
    · rw [show step s = _ from hstep.trans (congrArg Next.outcome (hf.custom (hcustom.1 hc) hd))]; rfl
    · rw [show step s = _ from hstep.trans (congrArg Next.outcome (hf.illegal (hcustom.1 hc) hd))]
      exact congrArg Host.Outcome.next (State.afterPaths_unmoved hm)
    · rw [show step s = _ from hstep.trans (congrArg Next.outcome (hf.base (mt hcustom.2 hc)))]; rfl

end Sys2Proof.Machine

/-! ## The events of a block stream (R16, R186, R229, R230, R236, R237) -/

namespace Sys2Proof.Machine

/-! ### What does nothing in a quiet tc -/

/-- An event that leaves tile tn as v, and nothing else of the package changed. -/
theorem State.setTile_becomes (s : State) (tn : BitVec 6) (v : Tile) :
    s.OnlyTile (s.setTile tn v) tn ∧ (s.setTile tn v).tile tn = v ∧ s.SameBytes (s.setTile tn v) :=
  ⟨by rw [State.OnlyTile, State.setTile_tile]; rfl, s.setTile_tile tn v, fun _ => rfl⟩

theorem State.dropAnswers_none {s : State} {w : Asker} (h : ∀ a ∈ s.fabric.answers, a.who ≠ w) : s.dropAnswers w = s := by
  have hf : (s.fabric.answers.filter fun a => a.who != w) = s.fabric.answers :=
    List.filter_eq_self.2 fun a ha => by simpa using h a ha
  rw [State.dropAnswers, hf]

theorem State.dropReads_none {s : State} {w : Asker} (h : ∀ a ∈ s.fabric.answers, a.who ≠ w) : s.dropReads w = s := by
  have hf : (s.fabric.answers.filter fun a => a.who != w || (a.kind != .read && a.err)) = s.fabric.answers :=
    List.filter_eq_self.2 fun a ha => by simp [h a ha]
  rw [State.dropReads, hf]

/-- A fault that no error in memory causes. -/
theorem State.blockFail_setTile {s : State} {tn : BitVec 6} {x : BStream} (cause : Byte) (idx : BitVec 4)
    (h : ∀ a ∈ s.fabric.answers, a.who ≠ streamAsker tn x) :
    s.blockFail tn x cause idx .stall = s.setTile tn ((s.tile tn).blockFault x cause idx) := by
  rw [State.blockFail, State.dropAnswers_none h]; rfl

theorem State.takePort_none {s : State} {tn : BitVec 6} {now : Nat} (h : ∀ e ∈ (s.tile tn).port, now ≤ e.1) : s.takePort tn now = s := by
  have hdue : ((s.tile tn).port.filter fun e => decide (e.1 < now)) = [] :=
    List.filter_eq_nil_iff.2 fun e he => by simpa using h e he
  have hrest : ((s.tile tn).port.filter fun e => !decide (e.1 < now)) = (s.tile tn).port :=
    List.filter_eq_self.2 fun e he => by simpa using h e he
  rw [State.takePort, hdue, List.foldl_nil, State.onTile, hrest]
  exact s.setTile_same tn

theorem State.dueRaises_none {s : State} {tn : BitVec 6} {now : Nat} (h : ∀ x, s.raiseDue tn now x = false) : s.dueRaises tn now = s := by
  have honce : ∀ x, s.raiseOnce tn now x = s := fun x => by simp [State.raiseOnce, h x]
  have hstream : ∀ x (l : List Nat), (l.foldl (fun s _ => s.raiseOnce tn now x) s) = s := fun x l => List.foldl_fixed' (fun _ => honce x) l
  simp only [State.dueRaises, List.foldl_cons, List.foldl_nil, hstream]

theorem State.noRaises.raisesOf {s : State} {tn : BitVec 6} {now : Nat} (h : s.noRaises tn now) : s.raisesOf tn now = s := by
  obtain ⟨hport, hdue⟩ := h
  rw [State.raisesOf, State.takePort_none fun e he => (Nat.sub_le now 1).trans (hport e he), State.dueRaises_none hdue, State.takePort_none hport]

/-! ### Streams of a tile -/

theorem Tile.toTc_stream (t : Tile) (now : Nat) (x : BStream) : (t.toTc now).stream x = t.stream x := t.write_stream _ x

theorem Tile.atIssue_stream (t : Tile) (x y : BStream) : (t.atIssue x).stream y = t.stream y := by
  unfold Tile.atIssue
  dsimp only
  split
  · exact t.toTc_stream _ y
  · rfl

/-- What a fetch has read of its record changes no wait of an earlier stream. -/
theorem Tile.earlierWaits_seen (t : Tile) (now : Nat) (x : BStream) (k : BitVec 6) (w : Option W32) :
    (t.setStream x { t.stream x with w1 := w }).earlierWaits now x k = t.earlierWaits now x k := by
  cases x <;> rfl

theorem Tile.setSem_setStream (t : Tile) (x : BStream) (y : Stream) (k : BitVec 6) (z : Sem) :
    (t.setStream x y).setSem k z = (t.setSem k z).setStream x y := by cases x <;> rfl

theorem Tile.setStream_sem (t : Tile) (x : BStream) (y : Stream) (k : BitVec 6) : (t.setStream x y).sem k = t.sem k := by cases x <;> rfl

theorem Tile.setSem_stream (t : Tile) (x : BStream) (k : BitVec 6) (z : Sem) : (t.setSem k z).stream x = t.stream x := by cases x <;> rfl

theorem Sem.take_eq {z : Sem} {n : Nat} (h : n ≤ z.count.toNat) : BitVec.ofNat 16 (z.count.toNat - n) = z.count - BitVec.ofNat 16 n := by
  have hz := z.count.isLt
  apply BitVec.eq_of_toNat_eq
  rw [BitVec.toNat_sub, BitVec.toNat_ofNat, BitVec.toNat_ofNat, Nat.mod_eq_of_lt (by omega : n < 2 ^ 16)]
  omega

/-! ### The await (R229) -/

theorem leNat_lt (l : List Byte) : leNat l < 256 ^ l.length := by
  induction l with
  | nil => exact Nat.one_pos
  | cons b l ih =>
    have hb := b.isLt
    rw [leNat, List.length_cons, pow_succ]
    omega

/-- W1 of the record at a stream's position, read now or before. -/
theorem State.awaitWord_eq {s : State} {tn : BitVec 6} {x : BStream} {w : W32}
    (hw : w = BitVec.ofNat 32 (leNat (s.mem.bytes (storeAddr tn (((s.tile tn).stream x).pos.toNat + 4)) 4)))
    (hpos : ((s.tile tn).stream x).pos.toNat + 8 ≤ s.prefixEnd tn)
    (hp : s.anyPoison (storeAddr tn (((s.tile tn).stream x).pos.toNat + 4)) 4 = false)
    (hseen : ((s.tile tn).stream x).w1 = none ∨ ((s.tile tn).stream x).w1 = some w) : s.awaitWord tn x = .ok w := by
  unfold State.awaitWord
  rcases hseen with h | h
  · have hpos' : ¬((s.tile tn).stream x).pos.toNat + 8 > s.prefixEnd tn := Nat.not_lt.2 hpos
    simp only [h, hpos', State.storeWord, hp, if_false, Bool.false_eq_true, hw]
  · simp only [h]

theorem foldl_mul_pos (l : List Nat) (a : Nat) (ha : 0 < a) (hl : ∀ x ∈ l, 0 < x) : 0 < l.foldl (· * ·) a := by
  induction l generalizing a with
  | nil => exact ha
  | cons x l ih => exact ih _ (Nat.mul_pos ha (hl x List.mem_cons_self)) fun y hy => hl y (List.mem_cons_of_mem _ hy)

theorem recTotal_pos {r : List W32} (h : ∀ j < recDepth r, recTrip r j ≠ 0) : 0 < recTotal r := by
  refine foldl_mul_pos _ 1 Nat.one_pos fun x hx => ?_
  obtain ⟨j, hj, rfl⟩ := List.mem_map.1 hx
  have := List.mem_range.1 hj
  exact Nat.pos_of_ne_zero (h j (by omega))

/-- A nest without qualifiers begins at its first word; a body without words has no issue. -/
theorem nextIssue_first {r : List W32} (h4 : recWord r 4 = 0) (h5 : recWord r 5 = 0) (ht : ∀ j < recDepth r, recTrip r j ≠ 0) :
    nextIssue r 0 0 = some (0, 0) ∨ nextIssue r 0 0 = none ∧ recLen r = 0 := by
  have hq : ∀ j, recQual r j = 0 := fun j => by simp [recQual, h4, h5, bits]
  have hholds : ∀ n, qualHolds r 0 n = true := fun n => rfl
  cases hl : recLen r with
  | zero => right; simp [nextIssue, hl, upto]
  | succ l =>
    left
    have hfind : (upto (l + 1)).find? (fun j => decide (0 ≤ j) && qualHolds r (recQual r j) 0) = some 0 := by
      rw [upto, List.range_succ_eq_map, List.find?_cons_of_pos (by rw [hq, hholds]; rfl)]
    rw [nextIssue, hl, hfind]
    exact if_pos (recTotal_pos ht)

/-- The stream at the first word of the fetched record, in the next tc. -/
def Stream.begun (y : Stream) (r : List W32) (now : Nat) : Stream :=
  { y with
    state := .run, record := r, idx := Vector.replicate 6 0, body := 0, ring := 0, ringDue := 0, ringAt := [], ppoint := false
    started := false, consumed := false, denied := none, queued := none, stalls := 0, blockCount := y.count, t0 := now, nextTc := now
    endTc := now }

theorem Stream.moveTo_first {y : Stream} {p : Option (Nat × Nat)} (hi : y.idx = Vector.replicate 6 0) (hb : y.body = 0)
    (hp : p = some (0, 0) ∨ p = none ∧ recLen y.record = 0) : y.moveTo p = y := by
  rcases hp with rfl | ⟨rfl, hl⟩
  · have hidx : (Vector.ofFn fun (l : Fin 6) => BitVec.ofNat 24 (idxOf y.record 0 l.val)) = y.idx := by
      rw [hi]
      ext i hi'
      simp [idxOf]
    rw [Stream.moveTo, hidx]
    show { y with idx := y.idx, body := 0 } = y
    rw [← hb]
  · rw [Stream.moveTo, hl]
    show { y with body := 0 } = y
    rw [← hb]

/-- A fetched record in order begins. -/
theorem State.fetchBlock_begins {s : State} {tn : BitVec 6} {x : BStream} {r : List W32} (u : Tile)
    (hread : s.readBlock tn (u.stream x).pos.toNat = .ok r) (hbad : badWord x r = none) (hclash : u.fetchClash x r = false)
    (h4 : recWord r 4 = 0) (h5 : recWord r 5 = 0) (ht : ∀ j < recDepth r, recTrip r j ≠ 0) :
    (s.setTile tn u).fetchBlock tn x = s.setTile tn ((u.setStream x ((u.stream x).begun r (u.tc + 1))).bind x r) := by
  have hread' : (s.setTile tn u).readBlock tn (u.stream x).pos.toNat = .ok r := hread
  have htrip : ((upto (recDepth r)).any fun j => recTrip r j == 0) = false :=
    List.any_eq_false.2 fun j hj => by simpa using ht j (List.mem_range.1 hj)
  simp only [State.fetchBlock, State.setTile_tile, hread', hbad, hclash, Bool.false_eq_true, if_false, State.beginBlock, htrip]
  rw [Stream.moveTo_first rfl rfl (nextIssue_first h4 h5 ht), State.onTile, State.setTile_tile, State.setTile_setTile]
  rfl

/-- A block stream is to judge its await: its tile runs, no raise is due, and it has read w as W1 of its next record. -/
structure State.Judges (s : State) (tn : BitVec 6) (x : BStream) (w : W32) : Prop where
  live : (s.tile tn).live = true
  await : ((s.tile tn).stream x).state = .await
  ppoint : ((s.tile tn).stream x).ppoint = false
  raises : s.noRaises tn (s.tile tn).portNow
  word : s.awaitWord tn x = .ok w
  quiet : ∀ a ∈ s.fabric.answers, a.who ≠ streamAsker tn x

/-- The tile once the stream has seen W1. -/
def Tile.saw (t : Tile) (x : BStream) (w : W32) : Tile := t.setStream x { t.stream x with w1 := some w }

def awaitCount (w : W32) : Nat := bits w.toNat 25 16
def awaitSem (w : W32) : BitVec 6 := BitVec.ofNat 6 (bits w.toNat 31 26)

section
variable {s : State} {tn : BitVec 6} {x : BStream} {w : W32} (h : s.Judges tn x w)
include h

theorem State.Judges.awaitGrant : s.awaitGrant tn x =
    if awaitCount w = 0 then (s.setTile tn ((s.tile tn).saw x w)).fetchBlock tn x
    else if ((s.tile tn).sem (awaitSem w)).poison = true then (s.setTile tn ((s.tile tn).saw x w)).blockFail tn x causePoison 12 .stall
    else if ((s.tile tn).sem (awaitSem w)).count.toNat < awaitCount w ∨
      ((s.tile tn).saw x w).earlierWaits (s.tile tn).portNow x (awaitSem w) = true
    then s.setTile tn ((s.tile tn).saw x w).tick
    else (s.setTile tn (((s.tile tn).saw x w).setSem (awaitSem w) { (s.tile tn).sem (awaitSem w) with
      count := BitVec.ofNat 16 (((s.tile tn).sem (awaitSem w)).count.toNat - awaitCount w) })).fetchBlock tn x := by
  simp only [State.awaitGrant, h.live, h.await, h.ppoint, h.raises.raisesOf, h.word, Bool.not_true, Bool.false_and, Bool.or_false,
    ne_eq, not_true_eq_false, decide_false, Bool.false_eq_true, if_false, State.onTile, State.setTile_tile, State.setTile_setTile]
  rfl

theorem State.Judges.poisoned (hn : awaitCount w ≠ 0) (hp : ((s.tile tn).sem (awaitSem w)).poison = true) :
    s.awaitGrant tn x = s.setTile tn (((s.tile tn).saw x w).blockFault x causePoison 12) := by
  rw [h.awaitGrant, if_neg hn, if_pos hp, State.blockFail_setTile (s := s.setTile tn _) causePoison 12 h.quiet, State.setTile_tile, State.setTile_setTile]

theorem State.Judges.waits (hn : awaitCount w ≠ 0) (hp : ((s.tile tn).sem (awaitSem w)).poison = false)
    (hc : ((s.tile tn).sem (awaitSem w)).count.toNat < awaitCount w ∨
      (s.tile tn).earlierWaits (s.tile tn).portNow x (awaitSem w) = true) :
    s.awaitGrant tn x = s.setTile tn ((s.tile tn).saw x w).tick := by
  rw [h.awaitGrant, if_neg hn, if_neg (by rw [hp]; exact Bool.false_ne_true), if_pos]
  rw [Tile.saw, Tile.earlierWaits_seen]; exact hc

theorem State.Judges.granted (taken : Tile)
    (htaken : taken = if awaitCount w = 0 then s.tile tn else (s.tile tn).setSem (awaitSem w) { (s.tile tn).sem (awaitSem w) with
      count := ((s.tile tn).sem (awaitSem w)).count - BitVec.ofNat 16 (awaitCount w) })
    (hc : awaitCount w = 0 ∨ ((s.tile tn).sem (awaitSem w)).poison = false ∧
      awaitCount w ≤ ((s.tile tn).sem (awaitSem w)).count.toNat ∧
      (s.tile tn).earlierWaits (s.tile tn).portNow x (awaitSem w) = false) :
    s.awaitGrant tn x = (s.setTile tn (taken.saw x w)).fetchBlock tn x := by
  rw [h.awaitGrant]
  by_cases hn : awaitCount w = 0
  · rw [if_pos hn] at htaken ⊢; rw [htaken]
  · obtain ⟨hp, hle, he⟩ := hc.resolve_left hn
    rw [if_neg hn] at htaken ⊢
    rw [if_neg (by rw [hp]; exact Bool.false_ne_true), if_neg, htaken, Sem.take_eq hle]
    · simp only [Tile.saw, Tile.setSem_stream, Tile.setSem_setStream]
    · rw [Tile.saw, Tile.earlierWaits_seen, he]; simpa using hle

end

/-! ### A ring window (R186) -/

/-- A block stream is to judge the slot of ring window n. -/
structure State.NeedsSlot (s : State) (tn : BitVec 6) (x : BStream) (n : BitVec 5) (win : Window) (now : Nat) : Prop where
  live : (s.tile tn).live = true
  run : ((s.tile tn).stream x).state = .run
  nest : ((s.tile tn).stream x).nestDone = false
  now_eq : now = if ((s.tile tn).stream x).exposed = true then max (s.tile tn).tc ((s.tile tn).stream x).nextTc else (s.tile tn).portNow
  flows : ((s.tile tn).stream x).exposed = false ∨ (s.tile tn).frozenAt now = false
  raises : s.noRaises tn now
  needs : ((s.tile tn).ringNeeds x ((s.tile tn).stream x)).head? = some n
  window : (s.tile tn).windows[n.toNat] = some win
  quiet : ∀ a ∈ s.fabric.answers, a.who ≠ streamAsker tn x

/-- The semaphore of a window's slot, by the block's side of the ring. -/
def ringSem (x : BStream) (y : Stream) (n : BitVec 5) (win : Window) : BitVec 6 :=
  BitVec.ofNat 6 (if blockWrites x y n = true then win.image.rs + 1 else win.image.rs)

theorem Tile.ringOf_of_needs {t : Tile} {x : BStream} {y : Stream} {n : BitVec 5} {win : Window} {l : List (BitVec 5)}
    (h : t.ringNeeds x y = n :: l) (hw : t.windows[n.toNat] = some win) : t.ringOf n = some win.image := by
  have hn : n ∈ t.ringNeeds x y := h ▸ List.mem_cons_self
  have hsome : (t.ringOf n).isSome = true := by
    unfold Tile.ringNeeds at hn
    split at hn
    · have hp := (List.mem_filter.1 hn).2
      exact (Bool.and_eq_true_iff.1 hp).1
    · cases hn
  have hwin : t.window n = some win := hw
  unfold Tile.ringOf at hsome ⊢
  rw [hwin] at hsome ⊢
  dsimp only at hsome ⊢
  split
  · rfl
  next hr => rw [if_neg hr] at hsome; cases hsome

section
variable {s : State} {tn : BitVec 6} {x : BStream} {n : BitVec 5} {win : Window} {now : Nat} (h : s.NeedsSlot tn x n win now)
include h

theorem State.NeedsSlot.ringGrant : s.ringGrant tn x =
    let k := ringSem x ((s.tile tn).stream x) n win
    if ((s.tile tn).sem k).poison = true then s.blockFail tn x causePoison ((s.tile tn).stream x).body .stall
    else if ((s.tile tn).sem k).count = 0 ∨ (s.tile tn).earlierWaits now x k = true then
      s.onTile tn fun u => if ((s.tile tn).stream x).exposed = true then (u.atIssue x).namedStall x else u.tick
    else s.onTile tn fun u => (u.setSem k { (s.tile tn).sem k with count := ((s.tile tn).sem k).count - 1 }).onStream x
      fun y => { y with ring := y.ring ||| bit32 n } := by
  obtain ⟨l, hl⟩ : ∃ l, (s.tile tn).ringNeeds x ((s.tile tn).stream x) = n :: l := by
    have hn := h.needs
    cases hr : (s.tile tn).ringNeeds x ((s.tile tn).stream x) with
    | nil => rw [hr] at hn; cases hn
    | cons m l => rw [hr] at hn; exact ⟨l, by rw [← Option.some.inj hn]⟩
  have hflow : (((s.tile tn).stream x).exposed && (s.tile tn).frozenAt now) = false := by
    rcases h.flows with hf | hf <;> simp [hf]
  unfold State.ringGrant
  simp only [← h.now_eq, h.live, h.run, h.nest, hflow, hl, Tile.ringOf_of_needs hl h.window, h.raises.raisesOf, Bool.not_true,
    Bool.or_false, ne_eq, not_true_eq_false, decide_false, Bool.false_eq_true, if_false]
  rfl

theorem State.NeedsSlot.poisoned (hp : ((s.tile tn).sem (ringSem x ((s.tile tn).stream x) n win)).poison = true) :
    s.ringGrant tn x = s.setTile tn ((s.tile tn).blockFault x causePoison ((s.tile tn).stream x).body) :=
  h.ringGrant.trans ((if_pos hp).trans (State.blockFail_setTile causePoison _ h.quiet))

theorem State.NeedsSlot.waits (hp : ((s.tile tn).sem (ringSem x ((s.tile tn).stream x) n win)).poison = false)
    (hc : ((s.tile tn).sem (ringSem x ((s.tile tn).stream x) n win)).count = 0 ∨
      (s.tile tn).earlierWaits now x (ringSem x ((s.tile tn).stream x) n win) = true) :
    s.ringGrant tn x = s.setTile tn (if ((s.tile tn).stream x).exposed = true then ((s.tile tn).atIssue x).setStream x
      { (s.tile tn).stream x with
        nextTc := ((s.tile tn).stream x).nextTc + 1
        stalls := if ((s.tile tn).stream x).started = true then ((s.tile tn).stream x).stalls + 1 else 0 }
      else (s.tile tn).tick) := by
  refine h.ringGrant.trans ((if_neg (by rw [hp]; exact Bool.false_ne_true)).trans ((if_pos hc).trans ?_))
  rw [State.onTile]
  split
  next he => rw [Tile.namedStall, Tile.onStream, Tile.atIssue_stream, if_pos he]
  next => rfl

theorem State.NeedsSlot.granted (hp : ((s.tile tn).sem (ringSem x ((s.tile tn).stream x) n win)).poison = false)
    (hc : ((s.tile tn).sem (ringSem x ((s.tile tn).stream x) n win)).count ≠ 0)
    (he : (s.tile tn).earlierWaits now x (ringSem x ((s.tile tn).stream x) n win) = false) :
    s.ringGrant tn x = s.setTile tn (((s.tile tn).setSem (ringSem x ((s.tile tn).stream x) n win)
      { (s.tile tn).sem (ringSem x ((s.tile tn).stream x) n win) with
        count := ((s.tile tn).sem (ringSem x ((s.tile tn).stream x) n win)).count - 1 }).setStream x
      { (s.tile tn).stream x with ring := ((s.tile tn).stream x).ring ||| BitVec.twoPow 32 n.toNat }) := by
  have hno : ¬(((s.tile tn).sem (ringSem x ((s.tile tn).stream x) n win)).count = 0 ∨
      (s.tile tn).earlierWaits now x (ringSem x ((s.tile tn).stream x) n win) = true) := by
    rw [he]; simpa using hc
  refine h.ringGrant.trans ((if_neg (by rw [hp]; exact Bool.false_ne_true)).trans ((if_neg hno).trans ?_))
  rw [State.onTile, Tile.onStream, Tile.setSem_stream]
  rfl

end

/-- A block stream is to raise for ring window n. -/
structure State.RaisesSlot (s : State) (tn : BitVec 6) (x : BStream) (n : BitVec 5) (win : Window) : Prop where
  live : (s.tile tn).live = true
  run : ((s.tile tn).stream x).state = .run
  flows : ((s.tile tn).stream x).exposed = false ∨ (s.tile tn).frozenAt (max (s.tile tn).tc ((s.tile tn).stream x).nextTc) = false
  done : s.asking (streamAsker tn x) = false
  due : (List.range 32).find? (fun j => ((s.tile tn).stream x).ringDue.getLsbD j) = some n.toNat
  window : (s.tile tn).windows[n.toNat] = some win
  quiet : ∀ a ∈ s.fabric.answers, a.who ≠ streamAsker tn x

/-- The semaphore of the other side of the ring. -/
def ringOther (x : BStream) (y : Stream) (n : BitVec 5) (win : Window) : BitVec 6 :=
  BitVec.ofNat 6 (if blockWrites x y n = true then win.image.rs else win.image.rs + 1)

/-- The next position of the block's side of the ring. -/
def ringNext (x : BStream) (y : Stream) (n : BitVec 5) (win : Window) : Nat :=
  ((if blockWrites x y n = true then win.image.wpos else win.image.rpos) + 1) % (win.image.ns + 1)

theorem Tile.performAll_stream (t : Tile) (x y : BStream) : (t.performAll x).stream y = t.stream y := by cases y <;> rfl

section
variable {s : State} {tn : BitVec 6} {x : BStream} {n : BitVec 5} {win : Window} (h : s.RaisesSlot tn x n win)
include h

theorem State.RaisesSlot.ringRaise : s.ringRaise tn x =
    match ((s.tile tn).sem (ringOther x ((s.tile tn).stream x) n win)).raise 1 with
    | none => s.blockFail tn x causeSemovf ((tget ((s.tile tn).stream x).ringAt n.toNat).getD 0) .stall
    | some z => s.onTile tn fun u => (((u.performAll x).setSem (ringOther x ((s.tile tn).stream x) n win) z).setWindow n
        (some { win with image := win.image.setPos (blockWrites x ((s.tile tn).stream x) n) (ringNext x ((s.tile tn).stream x) n win) })).onStream x
          fun y => { y with ring := y.ring &&& ~~~ bit32 n, ringDue := y.ringDue &&& ~~~ bit32 n } := by
  have hflow : (((s.tile tn).stream x).exposed && (s.tile tn).frozenAt (max (s.tile tn).tc ((s.tile tn).stream x).nextTc)) = false := by
    rcases h.flows with hf | hf <;> simp [hf]
  have hwin : (s.tile tn).window n = some win := h.window
  have hfind : (upto 32).find? (fun j => ((s.tile tn).stream x).ringDue.getLsbD j) = some n.toNat := h.due
  have hn : BitVec.ofNat 5 n.toNat = n := by rw [BitVec.ofNat_toNat, BitVec.setWidth_eq]
  unfold State.ringRaise
  simp only [h.live, h.run, hflow, h.done, hfind, hn, hwin, Bool.not_true, Bool.or_false, ne_eq, not_true_eq_false, decide_false,
    Bool.false_eq_true, if_false]
  rfl

theorem State.RaisesSlot.raises (hz : ((s.tile tn).sem (ringOther x ((s.tile tn).stream x) n win)).count.toNat < 65535) :
    s.ringRaise tn x = s.setTile tn (((((s.tile tn).performAll x).setSem (ringOther x ((s.tile tn).stream x) n win)
      { (s.tile tn).sem (ringOther x ((s.tile tn).stream x) n win) with
        count := ((s.tile tn).sem (ringOther x ((s.tile tn).stream x) n win)).count + 1 }).setWindow n
      (some { win with image := win.image.setPos (blockWrites x ((s.tile tn).stream x) n) (ringNext x ((s.tile tn).stream x) n win) })).setStream x
        { (s.tile tn).stream x with
          ring := ((s.tile tn).stream x).ring &&& ~~~ BitVec.twoPow 32 n.toNat
          ringDue := ((s.tile tn).stream x).ringDue &&& ~~~ BitVec.twoPow 32 n.toNat }) := by
  rw [h.ringRaise, Sem.raise_fits (by omega)]
  dsimp only
  rw [State.onTile, Tile.onStream]
  cases x <;> rfl

theorem State.RaisesSlot.overflows (hz : ((s.tile tn).sem (ringOther x ((s.tile tn).stream x) n win)).count.toNat = 65535) :
    s.ringRaise tn x =
      s.setTile tn ((s.tile tn).blockFault x causeSemovf ((tget ((s.tile tn).stream x).ringAt n.toNat).getD 0)) := by
  rw [h.ringRaise, Sem.raise_overflows (by omega)]
  exact State.blockFail_setTile causeSemovf _ h.quiet

end

/-! ### Retirement (R230) of a block that closes no segment -/

theorem Stream.closeCount_eq (y : Stream) : y.closeCount = { y with
    count := if y.exposed = true ∧ y.started = true then BitVec.ofNat 32 (y.blockCount.toNat + (y.endTc - y.t0 - y.stalls)) else y.count } := by
  unfold Stream.closeCount
  by_cases h : y.exposed = true ∧ y.started = true
  · rw [if_pos h, if_pos (by rw [h.1, h.2]; rfl)]
  · rw [if_neg h, if_neg (by rwa [Bool.and_eq_true])]

/-- The tile once the stream has left its block: the stream moves on, and what the block bound is free. -/
def Tile.leftBlock (t : Tile) (x : BStream) (y : Stream) (stopping : Bool) : Tile := (t.setStream x (y.closeCount.leave stopping)).unbind x

section
variable {s : State} {tn : BitVec 6} {x : BStream} (hseg : recSegend ((s.tile tn).stream x).record = false)
  (hcon : ((s.tile tn).stream x).consumed = false)
include hseg hcon

/-- A block that closes no segment and has consumed no error leaves, with its raise if it has one. -/
theorem State.retire_plain : s.retire tn x =
    let y := (s.tile tn).stream x
    let k := recRss y.record
    let stopping := decide ((s.tile tn).status = .stopping)
    if recRsn y.record = 0 then s.setTile tn ((s.tile tn).leftBlock x y stopping)
    else match ((s.tile tn).sem k).raise (recRsn y.record) with
      | some z => s.setTile tn (((s.tile tn).setSem k z).leftBlock x y stopping)
      | none => s.setTile tn (((s.tile tn).setStream x y.closeCount).blockFault x causeSemovf 15) := by
  have hrec : ((s.tile tn).stream x).closeCount.record = ((s.tile tn).stream x).record := by rw [Stream.closeCount_eq]
  have hcon' : ((s.tile tn).stream x).closeCount.consumed = false := by rw [Stream.closeCount_eq]; exact hcon
  unfold State.retire
  simp only [hrec, hseg, hcon', Bool.false_and, Bool.false_eq_true, if_false, State.onTile, State.setTile_tile, State.setTile_setTile,
    Tile.setStream_setStream, Tile.onStream, Tile.stream_setStream, Tile.leftBlock]
  by_cases hn : recRsn ((s.tile tn).stream x).record = 0
  · rw [if_pos hn, if_pos hn]
  · rw [if_neg hn, if_neg hn]
    cases hz : ((s.tile tn).sem (recRss ((s.tile tn).stream x).record)).raise (recRsn ((s.tile tn).stream x).record) with
    | none => simp only [Option.isNone_none, if_true, State.setTile_tile, State.setTile_setTile]
    | some z =>
      simp only [Option.isNone_some, Bool.false_eq_true, if_false, State.setTile_tile, State.setTile_setTile, Tile.setSem_setStream,
        Tile.setStream_setStream, Tile.stream_setStream]

end

/-- A block stream is to retire its block. -/
structure State.Retires (s : State) (tn : BitVec 6) (x : BStream) : Prop where
  live : (s.tile tn).live = true
  complete : s.blockComplete tn x = true
  flows : ((s.tile tn).stream x).exposed = false ∨ (s.tile tn).frozenAt ((s.tile tn).retireTc x) = false
  port : ∀ q ∈ (s.tile tn).port, (s.tile tn).retireTc x - 1 ≤ q.1
  quiet : ∀ a ∈ s.fabric.answers, a.who ≠ streamAsker tn x

/-- The tile in the tc of the retirement. -/
def Tile.atEnd (t : Tile) (x : BStream) : Tile := if (t.stream x).exposed = true then t.toTc (t.stream x).endTc else t

theorem Tile.atEnd_stream (t : Tile) (x y : BStream) : (t.atEnd x).stream y = t.stream y := by
  unfold Tile.atEnd
  split
  · exact t.toTc_stream _ y
  · rfl

theorem Tile.atEnd_status (t : Tile) (x : BStream) : (t.atEnd x).status = t.status := by
  unfold Tile.atEnd
  split
  · exact t.write_status _
  · rfl

theorem State.takeErrors_none {s : State} {tn : BitVec 6} {x : BStream} (h : ∀ a ∈ s.fabric.answers, a.who ≠ streamAsker tn x) :
    s.takeErrors tn x = s := by
  rw [State.takeErrors, State.noAnswer_any h, if_neg Bool.false_ne_true, State.dropAnswers_none h]

theorem State.Retires.blockRetire {s : State} {tn : BitVec 6} {x : BStream} (h : s.Retires tn x) :
    s.blockRetire tn x = (s.setTile tn ((s.tile tn).atEnd x)).retire tn x := by
  have hflow : (((s.tile tn).stream x).exposed && (s.tile tn).frozenAt ((s.tile tn).retireTc x)) = false := by
    rcases h.flows with hf | hf <;> simp [hf]
  unfold State.blockRetire
  simp only [h.live, h.complete, hflow, Bool.not_false, Bool.and_self, if_true, State.takePort_none h.port, State.takeErrors_none h.quiet]
  rfl

/-! ### A stream that has faulted stays so while the others stop -/

/-- The stream is FAULTED with a cause and a body index. -/
def Stream.FaultedAs (y : Stream) (cause : Byte) (idx : BitVec 4) : Prop := y.state = .faulted ∧ y.faultCause = cause ∧ y.faultIdx = idx

theorem Tile.setStream_faulted {t : Tile} {x z : BStream} {y : Stream} {cause : Byte} {idx : BitVec 4}
    (h : (t.stream x).FaultedAs cause idx) (hy : z = x → y.FaultedAs cause idx) : ((t.setStream z y).stream x).FaultedAs cause idx := by
  by_cases hz : z = x
  · subst hz; rw [Tile.stream_setStream]; exact hy rfl
  · rw [Tile.stream_setStream_other _ _ _ _ fun h => hz h.symm]; exact h

theorem Tile.stopIfDue_faulted {t : Tile} {x : BStream} {cause : Byte} {idx : BitVec 4} (z : BStream)
    (h : (t.stream x).FaultedAs cause idx) : ((t.stopIfDue z).stream x).FaultedAs cause idx := by
  unfold Tile.stopIfDue
  split
  next =>
    have h1 : ((t.onStream z fun y => { y with stopDue := false }).stream x).FaultedAs cause idx :=
      Tile.setStream_faulted h fun hz => by subst hz; exact h
    unfold Tile.stopStream
    dsimp only
    split
    next hw =>
      rw [Tile.write_stream, Tile.unbind_stream]
      refine Tile.setStream_faulted h1 fun hz => ?_
      subst hz
      rw [h1.1] at hw
      exact hw.elim (fun e => nomatch e) fun e => nomatch e
    next => exact h1
  next => exact h

theorem Tile.applyStops_faulted {t : Tile} {x : BStream} {cause : Byte} {idx : BitVec 4} (h : (t.stream x).FaultedAs cause idx) :
    (t.applyStops.stream x).FaultedAs cause idx := by
  have hs : (t.stopDueNow.stream x).FaultedAs cause idx :=
    Tile.stopIfDue_faulted _ (Tile.stopIfDue_faulted _ (Tile.stopIfDue_faulted _ (Tile.stopIfDue_faulted _ h)))
  rw [t.applyStops_eq]
  split
  · split
    · exact hs
    · cases x <;> exact hs
  · exact hs

theorem Tile.takeTrap_faulted {t : Tile} {x : BStream} {cause : Byte} {idx : BitVec 4} (r : TrapRecord)
    (h : (t.stream x).FaultedAs cause idx) : ((t.takeTrap r).stream x).FaultedAs cause idx := by
  unfold Tile.takeTrap
  split
  · refine Tile.applyStops_faulted ?_
    split
    · cases x <;> exact h
    · split
      · cases x <;> exact h
      · exact h
  · exact h

theorem Tile.blockFault_faulted (t : Tile) (x : BStream) (cause : Byte) (idx : BitVec 4) :
    ((t.blockFault x cause idx).stream x).FaultedAs cause idx := by
  refine Tile.takeTrap_faulted _ ?_
  rw [Tile.stream_setStream]
  exact ⟨rfl, rfl, rfl⟩

theorem Tile.blockFault_sems (t : Tile) (x : BStream) (cause : Byte) (idx : BitVec 4) : (t.blockFault x cause idx).sems = t.sems := by
  have hset : ∀ (u : Tile) (y : Stream), (u.setStream x y).sems = u.sems := fun u y => by cases x <;> rfl
  rw [Tile.blockFault, Tile.takeTrap_sems, hset]
  exact t.write_keeps Tile.sems Tile.applyLate_sems (fun _ _ => rfl) _

theorem Tile.atEnd_sem (t : Tile) (x : BStream) (k : BitVec 6) : (t.atEnd x).sem k = t.sem k := by
  have h : (t.atEnd x).sems = t.sems := by
    unfold Tile.atEnd
    split
    · exact t.write_keeps Tile.sems Tile.applyLate_sems (fun _ _ => rfl) _
    · rfl
  rw [Tile.sem, h]; rfl

/-! ### What is in flight (R146, R203, R236, R237) -/

/-- The first result in flight is written in its tc when it has landed and no word issues before. -/
theorem Tile.writeNext_first {t : Tile} {p : Pending} {rest : List Pending} (hpend : t.pending = p :: rest) (hrest : ∀ r ∈ rest, p.due < r.due)
    (hl : p.landed = true) (ho : t.operandLate = false) (hb : t.portBusy = false) (hpast : t.pastIssues p.due = true) :
    t.writeNext = { ({ t with pending := rest }).applyLate p.what with tc := max t.tc (p.due + 1) } := by
  have hnext : (t.pending.filter fun r => r.load || r.landed) = p :: rest.filter fun r => r.load || r.landed := by
    rw [hpend, List.filter_cons_of_pos (by rw [hl, Bool.or_true])]
  have hdue : (t.pending.filter fun r => decide (r.due < p.due + 1) && r.landed) = [p] := by
    rw [hpend, List.filter_cons_of_pos (by simp [hl]), List.filter_eq_nil_iff.2 fun r hr => by have := hrest r hr; simp; omega]
  have hkept : (t.pending.filter fun r => !(decide (r.due < p.due + 1) && r.landed)) = rest := by
    rw [hpend, List.filter_cons_of_neg (by simp [hl]), List.filter_eq_self.2 fun r hr => by have := hrest r hr; simp; omega]
  unfold Tile.writeNext
  rw [hnext]
  simp only [hl, ho, hb, hpast, Bool.not_false, Bool.and_self, if_true, Tile.toTc, Tile.settle, Tile.write, hdue, hkept, List.foldl_cons,
    List.foldl_nil]

/-- The first result in flight is the one whose data comes. -/
theorem State.dataLands_first {s : State} {tn : BitVec 6} {p q : Pending} {rest : List Pending} (hpend : (s.tile tn).pending = p :: rest)
    {f : Pending → Bool} (hf : f p = true) (done : Pending → Tile → Tile)
    (hread : s.rereadOne tn p = .ok q) (hquiet : ∀ a ∈ s.fabric.answers, a.who ≠ streamAsker tn p.stream) :
    s.dataLands tn f done = s.setTile tn (done q (s.tile tn)) := by
  have hfind : (s.tile tn).pending.find? f = some p := by rw [hpend, List.find?_cons_of_pos hf]
  simp only [State.dataLands, hfind, hread, State.dropReads_none hquiet, ite_self]
  rfl

theorem State.rereadOne_held {s : State} {tn : BitVec 6} {p : Pending} (h : p.kept = none ∨ ∃ k, p.kept = some k ∧ k.again = false) :
    s.rereadOne tn p = .ok p := by
  rcases h with h | ⟨k, h, ha⟩
  · simp only [State.rereadOne, h]
  · simp only [State.rereadOne, h, ha, Bool.not_false, if_true]

/-! ### The obligation -/

theorem awaitCount_ofNat {w : Nat} (h : w < 2 ^ 32) : awaitCount (BitVec.ofNat 32 w) = bits w 25 16 := by
  rw [awaitCount, BitVec.toNat_ofNat, Nat.mod_eq_of_lt h]

theorem awaitSem_ofNat {w : Nat} (h : w < 2 ^ 32) : awaitSem (BitVec.ofNat 32 w) = BitVec.ofNat 6 (w / 2 ^ 26) := by
  rw [awaitSem, BitVec.toNat_ofNat, Nat.mod_eq_of_lt h]
  apply BitVec.eq_of_toNat_eq
  simp only [BitVec.toNat_ofNat, bits]
  omega

theorem Tile.live_of_run {t : Tile} (h : t.status = .run) (hb : t.boundary = false) : t.live = true := by simp [Tile.live, h, hb]

/-- The stream that leaves a block that has consumed no error. -/
theorem Stream.leave_closeCount {y : Stream} (hcon : y.consumed = false) (stopping : Bool) : y.closeCount.leave stopping = { y with
    state := if recNext y.record = 0 then .idle else .await
    pos := if recNext y.record = 0 then y.pos else y.pos + BitVec.ofNat 23 (4 * recNext y.record)
    count := if y.exposed = true ∧ y.started = true then BitVec.ofNat 32 (y.blockCount.toNat + (y.endTc - y.t0 - y.stalls)) else y.count
    idx := Vector.replicate 6 0
    body := 0
    record := []
    ring := 0
    ringDue := 0
    ringAt := []
    started := false
    denied := none
    queued := none
    w1 := none
    ppoint := stopping && recPpoint y.record } := by
  rw [Stream.closeCount_eq, Stream.leave, hcon]

/-- Settles O42: in a tc in which nothing else is due, every event is one change of the stream's tile. -/
theorem blockEvents : Obligations.BlockEvents := by
  intro s tn e r n win p rest x tl y pos w1 awn aws only seen now ring taken k other
  have becomes : ∀ {i : Instr} {v : Tile}, exec i s = .next (s.setTile tn v) → ∃ t, exec i s = .next t ∧ only t v := fun h =>
    ⟨_, h, s.setTile_becomes tn _⟩
  have hw1 : w1 < 2 ^ 32 := by
    have h := leNat_lt (s.mem.bytes (storeAddr tn (pos + 4)) 4)
    rwa [Memory.length_bytes] at h
  have hcount : awaitCount (BitVec.ofNat 32 w1) = awn := awaitCount_ofNat hw1
  have hsem : awaitSem (BitVec.ofNat 32 w1) = aws := awaitSem_ofNat hw1
  refine ⟨fun hrun hbound hquiet => ⟨?_, ?_, ?_, ?_⟩, fun hpend hrest => ⟨?_, State.rereadOne_held, ?_⟩,
    becomes rfl, becomes rfl⟩
  · intro hawait hpos hpoison hseen hpp hraises
    have hj : s.Judges tn x (BitVec.ofNat 32 w1) :=
      ⟨Tile.live_of_run hrun hbound, hawait, hpp, hraises, State.awaitWord_eq rfl hpos hpoison hseen, hquiet⟩
    refine ⟨fun hn hp => ?_, fun hn hp hc => ?_, fun hc hread hbad hclash h4 h5 ht => ?_⟩
    · exact becomes (congrArg Host.Outcome.next (hj.poisoned (by rw [hcount]; exact hn) (by rw [hsem]; exact hp)))
    · exact becomes (congrArg Host.Outcome.next (hj.waits (by rw [hcount]; exact hn) (by rw [hsem]; exact hp) (by rw [hcount, hsem]; exact hc)))
    · have hgrant := hj.granted taken (by rw [hcount, hsem]) (by rw [hcount, hsem]; exact hc)
      have hstream : taken.stream x = y := by
        show (if awn = 0 then tl else _).stream x = y
        split
        · rfl
        · exact Tile.setSem_stream _ _ _ _
      have htc : taken.tc = tl.tc := by
        show (if awn = 0 then tl else _).tc = tl.tc
        split <;> rfl
      have hs : (taken.saw x (BitVec.ofNat 32 w1)).stream x = seen := by
        rw [Tile.saw, Tile.stream_setStream, hstream]
      have hfetch := State.fetchBlock_begins (s := s) (tn := tn) (x := x) (r := r) (taken.saw x (BitVec.ofNat 32 w1))
        (by rw [hs]; exact hread) hbad (by rw [← hclash, Tile.saw]; cases x <;> rfl) h4 h5 ht
      have htc' : (taken.saw x (BitVec.ofNat 32 w1)).tc = tl.tc := by rw [← htc, Tile.saw]; cases x <;> rfl
      rw [hs, htc', Tile.saw, Tile.setStream_setStream] at hfetch
      exact becomes (congrArg Host.Outcome.next (hgrant.trans hfetch))
  · intro hstate hnest hflow hraises hneeds hwin
    have hn : s.NeedsSlot tn x n win ring := ⟨Tile.live_of_run hrun hbound, hstate, hnest, rfl, hflow, hraises, hneeds, hwin, hquiet⟩
    exact ⟨fun hp => becomes (congrArg Host.Outcome.next (hn.poisoned hp)), fun hp hc => becomes (congrArg Host.Outcome.next (hn.waits hp hc)),
      fun hp hc he => becomes (congrArg Host.Outcome.next (hn.granted hp hc he))⟩
  · intro hstate hflow hask hdue hwin _
    have hr : s.RaisesSlot tn x n win := ⟨Tile.live_of_run hrun hbound, hstate, hflow, hask, hdue, hwin, hquiet⟩
    exact ⟨fun hz => becomes (congrArg Host.Outcome.next (hr.raises hz)), fun hz => becomes (congrArg Host.Outcome.next (hr.overflows hz))⟩
  · intro hcomplete hflow hport hseg hcon v z left
    have hretire := State.Retires.blockRetire (s := s) (tn := tn) (x := x) ⟨Tile.live_of_run hrun hbound, hcomplete, hflow, hport, hquiet⟩
    have hstream : ((s.setTile tn v).tile tn).stream x = y := by rw [State.setTile_tile]; exact tl.atEnd_stream x x
    have hplain := State.retire_plain (s := s.setTile tn v) (tn := tn) (x := x) (by rw [hstream]; exact hseg) (by rw [hstream]; exact hcon)
    have hleft : ∀ u : Tile, u.leftBlock x y (decide (v.status = .stopping)) = left u := fun u => by
      rw [Tile.leftBlock, Stream.leave_closeCount hcon]; rfl
    rw [hstream] at hplain
    simp only [State.setTile_tile, State.setTile_setTile, hleft] at hplain
    have hexec : exec (.blockRetire tn e) s = .next _ := congrArg Host.Outcome.next (hretire.trans hplain)
    refine ⟨fun h0 => ?_, fun h0 hfit => ?_, fun hover => ?_⟩
    · exact becomes (hexec.trans (by rw [if_pos h0]))
    · refine becomes (hexec.trans ?_)
      rw [if_neg h0, Sem.raise_fits hfit]
    · have h0 : recRsn y.record ≠ 0 := by have := z.count.isLt; omega
      refine ⟨_, hexec.trans (by rw [if_neg h0, Sem.raise_overflows hover]), ?_⟩
      obtain ⟨hst, hca, hid⟩ := (v.setStream x y.closeCount).blockFault_faulted x causeSemovf 15
      rw [State.setTile_tile]
      refine ⟨hst, hca, hid, ?_⟩
      rw [Tile.sem, Tile.blockFault_sems]
      exact v.setStream_sem x _ _
  · exact fun hl ho hb hpast => becomes (congrArg (fun u => Host.Outcome.next (s.setTile tn u)) (Tile.writeNext_first hpend hrest hl ho hb hpast))
  · intro q hread hquiet
    refine ⟨fun hload hland => ?_, fun hload hland hhalt => ?_⟩
    · have hf : p.lateLoad = true := by simp [Pending.lateLoad, hload, hland]
      refine becomes ((congrArg Host.Outcome.next (State.dataLands_first hpend hf _ hread hquiet)).trans ?_)
      rw [hpend, changeFirst, if_pos hf]
      rfl
    · have hf : tl.lateFill p = true := by simp [Tile.lateFill, hload, hland, hhalt]
      refine becomes ((congrArg Host.Outcome.next (State.dataLands_first hpend hf _ hread hquiet)).trans ?_)
      rw [hpend, changeFirst, if_pos hf]
      rfl

end Sys2Proof.Machine

/-! ## A supervisor's load of a sealed line (R208, R255) -/

namespace Sys2Proof.Machine

/-- HBM is ready, and line 0 holds ciphertext under a key: its first byte in memory is not what a mapping without SEAL shows of it. -/
def sealedLine : State :=
  { State.reset with
    mem := [(0, Config.cipherByte 0 0 0 + 1)]
    seals := [(0, { key := 0, stamp := 0, good := true })]
    ready := { State.reset.ready with mem := BitVec.allOnes 64 } }

theorem sealedLine_storage : ∀ i < 8, sealedLine.storage i = true := by decide

theorem sealedLine_quarantined (q : Nat) : sealedLine.quarantined q = false := by
  have h : sealedLine.qtab.toList = List.replicate 256 0 := Vector.toList_replicate
  rw [State.quarantined, h]
  refine List.any_eq_false.2 fun x hx => ?_
  rw [List.eq_of_mem_replicate hx]
  simp [wbit]

/-- What a load of the first doubleword reads: ciphertext. -/
theorem sealedLine_physRead : sealedLine.physRead 0 8 = ((upto 8).map (Config.cipherByte 0 0), false) := rfl

theorem sealedLine_supLoad : sealedLine.supLoad .load 0 0 8 = .ok (sealedLine, leNat ((upto 8).map (Config.cipherByte 0 0))) := by
  have hspan : spanAll 0 8 (fun q => sealedLine.storage q && !sealedLine.quarantined q) = true := by
    simp only [sealedLine_quarantined]
    decide
  have hplace : ∀ o, Machine.place 0 ≠ Place.register o := fun o ho => by
    rw [Machine.place, if_pos (by decide)] at ho
    cases ho
  rw [State.supLoad_storage sealedLine .load 0 8 hplace, hspan, sealedLine_physRead]
  rfl

theorem sealedLine_rvAddr : sealedLine.rvAddr 0 .load 0 8 = .ok 0 := rfl

/-- ld x1, 0(x0). -/
theorem rvDecode_load : rvDecode 0x00003083 = some (.load 3 1 0 0) := by decide

theorem sealedLine_step : (sealedLine.rvStep 0 0x00003083 4).cluster 0 =
    ((sealedLine.cluster 0).setReg 1 (rvExtend 3 (leNat ((upto 8).map (Config.cipherByte 0 0))))).retire 4 := by
  have hrun : sealedLine.rvRun 0 (.load 3 1 0 0) 4 = .ok (sealedLine.onCluster 0 fun k =>
      k.setReg 1 (rvExtend 3 (leNat ((upto 8).map (Config.cipherByte 0 0))))) :=
    bind_eq_ok.2 ⟨0, sealedLine_rvAddr, bind_eq_ok.2 ⟨_, sealedLine_supLoad, rfl⟩⟩
  rw [State.rvStep, if_pos rfl, rvDecode_load]
  show (sealedLine.rvEnd 0 4 (sealedLine.rvRun 0 (.load 3 1 0 0) 4)).cluster 0 = _
  rw [hrun, State.rvEnd, State.onCluster_cluster, State.onCluster_cluster]

theorem leNat_cons_mod (b : Byte) (l : List Byte) : leNat (b :: l) % 256 = b.toNat := by
  have := b.isLt
  rw [leNat]; omega

/-- Doublewords whose first bytes differ differ. -/
theorem ofNat_leNat_ne {b b' : Byte} (l l' : List Byte) (h : b ≠ b') : BitVec.ofNat 64 (leNat (b :: l)) ≠ BitVec.ofNat 64 (leNat (b' :: l')) := by
  intro he
  have ht := congrArg BitVec.toNat he
  rw [BitVec.toNat_ofNat, BitVec.toNat_ofNat] at ht
  have h1 := leNat_cons_mod b l
  have h2 := leNat_cons_mod b' l'
  exact h (BitVec.eq_of_toNat_eq (by omega))

/-- Refutes O50: its clause on loads gives x[d] the bytes of memory, with no premise that the line is unsealed; of a line with a good tag
a load, which has no SEAL, reads ciphertext. -/
theorem not_supervisorInstructions : ¬ Obligations.SupervisorInstructions := by
  intro h
  obtain ⟨-, -, hload, -⟩ := h.1 sealedLine 0 1 0 0 0
  have hbytes : ∀ i < 8, sealedLine.storage (0 + i) = true ∧ sealedLine.quarantined (0 + i) = false := fun i hi =>
    ⟨by rw [Nat.zero_add]; exact sealedLine_storage i hi, sealedLine_quarantined _⟩
  have hends := (hload rfl rfl (by decide) (by decide) rfl hbytes rfl rfl fun _ _ => rfl).1
  have hcluster := sealedLine_step.symm.trans ((congrArg (fun t => State.cluster t 0) hends).trans (State.onCluster_cluster _ _ _))
  have hx := congrArg (fun k : Cluster => k.x[1]) hcluster
  have hne : Config.cipherByte 0 0 0 ≠ Config.cipherByte 0 0 0 + 1 := by simp
  have hbits : BitVec.ofNat 64 (leNat (Config.cipherByte 0 0 0 :: (upto 8).tail.map (Config.cipherByte 0 0))) =
      BitVec.ofNat 64 (leNat ((Config.cipherByte 0 0 0 + 1) :: sealedLine.mem.bytes 1 7)) :=
    (BitVec.signExtend_eq _).symm.trans hx
  exact ofNat_leNat_ne _ _ hne hbits

end Sys2Proof.Machine

/-! ## Results of the C stream forms (R46 to R52) -/

namespace Sys2Proof.Machine

/-! ### Values of the ALU forms -/

theorem add_eq_ofInt {n : Nat} (a b : BitVec n) : a + b = BitVec.ofInt n (a.toInt + b.toInt) := by
  rw [BitVec.ofInt_add, BitVec.ofInt_toInt, BitVec.ofInt_toInt]

theorem sub_eq_ofInt {n : Nat} (a b : BitVec n) : a - b = BitVec.ofInt n (a.toInt - b.toInt) :=
  BitVec.eq_of_toInt_eq (by simp)

theorem mul_eq_ofInt {n : Nat} (a b : BitVec n) : a * b = BitVec.ofInt n (a.toInt * b.toInt) := by
  rw [BitVec.ofInt_mul, BitVec.ofInt_toInt, BitVec.ofInt_toInt]

theorem shiftLeft_eq_ofNat {n : Nat} (a : BitVec n) (k : Nat) : a <<< k = BitVec.ofNat n (a.toNat * 2 ^ k) :=
  BitVec.eq_of_toNat_eq (by simp [Nat.shiftLeft_eq])

theorem ushiftRight_eq_ofNat {n : Nat} (a : BitVec n) (k : Nat) : a >>> k = BitVec.ofNat n (a.toNat / 2 ^ k) :=
  BitVec.eq_of_toNat_eq (by
    rw [BitVec.toNat_ushiftRight, BitVec.toNat_ofNat, Nat.shiftRight_eq_div_pow, Nat.mod_eq_of_lt]
    exact Nat.lt_of_le_of_lt (Nat.div_le_self _ _) a.isLt)

theorem sshiftRight_eq_ofInt {n : Nat} (a : BitVec n) (k : Nat) : a.sshiftRight k = BitVec.ofInt n (a.toInt / 2 ^ k) := by
  rw [BitVec.sshiftRight, Int.shiftRight_eq_div_pow]; norm_cast

/-- The two halves of a rotation share no bit. -/
theorem rotated_or_eq_add {n j k : Nat} (x : Nat) (hx : x < 2 ^ n) (h : j + k = n) :
    x <<< k % 2 ^ n ||| x >>> j = x * 2 ^ k % 2 ^ n + x / 2 ^ j := by
  have hlow : x / 2 ^ j < 2 ^ k := Nat.div_lt_of_lt_mul (by rwa [← pow_add, h])
  have hhigh : x * 2 ^ k % 2 ^ n = 2 ^ k * (x % 2 ^ j) := by
    rw [← h, pow_add, Nat.mul_mod_mul_right, Nat.mul_comm]
  rw [Nat.shiftLeft_eq, Nat.shiftRight_eq_div_pow, hhigh, Nat.two_pow_add_eq_or_of_lt hlow]

theorem rotateLeft_eq_ofNat {n : Nat} (a : BitVec n) {k : Nat} (h : k < n) :
    a.rotateLeft k = BitVec.ofNat n (a.toNat * 2 ^ k % 2 ^ n + a.toNat / 2 ^ (n - k)) := by
  rw [← rotated_or_eq_add a.toNat a.isLt (Nat.sub_add_cancel h.le)]
  apply BitVec.eq_of_toNat_eq
  rw [BitVec.toNat_ofNat, Nat.mod_eq_of_lt, BitVec.toNat_rotateLeft, Nat.mod_eq_of_lt h]
  rw [← Nat.mod_eq_of_lt h, ← BitVec.toNat_rotateLeft]; exact BitVec.isLt _

theorem rotateRight_eq_ofNat {n : Nat} (a : BitVec n) {k : Nat} (h : k < n) :
    a.rotateRight k = BitVec.ofNat n (a.toNat / 2 ^ k + a.toNat * 2 ^ (n - k) % 2 ^ n) := by
  rw [Nat.add_comm, ← rotated_or_eq_add a.toNat a.isLt (Nat.add_sub_of_le h.le), Nat.or_comm]
  apply BitVec.eq_of_toNat_eq
  rw [BitVec.toNat_ofNat, Nat.mod_eq_of_lt, BitVec.toNat_rotateRight, Nat.mod_eq_of_lt h]
  rw [← Nat.mod_eq_of_lt h, ← BitVec.toNat_rotateRight]; exact BitVec.isLt _

theorem mulHigh_eq_ofInt (a b : W64) : mulHigh a b = BitVec.ofInt 64 (a.toInt * b.toInt / 2 ^ 64) := by
  have hp : a.signExtend 128 * b.signExtend 128 = BitVec.ofInt 128 (a.toInt * b.toInt) := by
    rw [BitVec.ofInt_mul]; rfl
  apply BitVec.eq_of_toNat_eq
  rw [mulHigh, hp, BitVec.extractLsb'_toNat, BitVec.toNat_ofInt, BitVec.toNat_ofInt, Nat.shiftRight_eq_div_pow]
  omega

theorem mulHighN_eq_ofNat (a b : W64) : mulHighN a b = BitVec.ofNat 64 (a.toNat * b.toNat / 2 ^ 64) := by
  have ha := a.isLt
  have hb := b.isLt
  apply BitVec.eq_of_toNat_eq
  rw [mulHighN, BitVec.extractLsb'_toNat, BitVec.toNat_mul, BitVec.toNat_setWidth, BitVec.toNat_setWidth, BitVec.toNat_ofNat, Nat.shiftRight_eq_div_pow]
  rw [Nat.mod_eq_of_lt (a := a.toNat) (by omega), Nat.mod_eq_of_lt (a := b.toNat) (by omega), Nat.mod_eq_of_lt (a := _ * _) (by nlinarith)]

theorem minS_eq_ofInt (a b : W64) : minS a b = BitVec.ofInt 64 (min a.toInt b.toInt) := by
  rw [minS, BitVec.slt]
  by_cases h : a.toInt < b.toInt
  · simp [h, min_eq_left h.le]
  · simp [h, min_eq_right (not_lt.1 h)]

theorem maxS_eq_ofInt (a b : W64) : maxS a b = BitVec.ofInt 64 (max a.toInt b.toInt) := by
  rw [maxS, BitVec.slt]
  by_cases h : a.toInt < b.toInt
  · simp [h, max_eq_right h.le]
  · simp [h, max_eq_left (not_lt.1 h)]

theorem minN_eq_ofNat (a b : W64) : minN a b = BitVec.ofNat 64 (min a.toNat b.toNat) := by
  rw [minN, BitVec.ult]
  by_cases h : a.toNat < b.toNat
  · simp [h, min_eq_left h.le]
  · simp [h, min_eq_right (not_lt.1 h)]

theorem maxN_eq_ofNat (a b : W64) : maxN a b = BitVec.ofNat 64 (max a.toNat b.toNat) := by
  rw [maxN, BitVec.ult]
  by_cases h : a.toNat < b.toNat
  · simp [h, max_eq_right h.le]
  · simp [h, max_eq_left (not_lt.1 h)]

theorem low32_add (a b : W64) : low32 (a + b) = (BitVec.extractLsb' 0 32 a + BitVec.extractLsb' 0 32 b).signExtend 64 := by
  rw [low32]; congr 1; apply BitVec.eq_of_toNat_eq; simp

theorem low32_sub (a b : W64) : low32 (a - b) = (BitVec.extractLsb' 0 32 a - BitVec.extractLsb' 0 32 b).signExtend 64 := by
  have h : ∀ x : W64, (BitVec.extractLsb' 0 32 x).toNat = x.toNat % 2 ^ 32 := fun x => by simp
  rw [low32]; congr 1
  apply BitVec.eq_of_toNat_eq
  rw [BitVec.toNat_setWidth, BitVec.toNat_sub, BitVec.toNat_sub, h, h]
  omega

/-- The number of leading zeros is the first place from the left that holds a one. -/
theorem leadingZeros_eq_clz (a : W64) : BitVec.ofNat 64 (leadingZeros a) = a.clz := by
  by_cases ha : a = 0
  · subst ha; decide
  · have hone := BitVec.getLsbD_true_clz_of_ne_zero (by decide) ha
    have hfind : (upto 64).find? (fun i => a.getLsbD (63 - i)) = some a.clz.toNat := by
      refine List.find?_range_eq_some.2 ⟨hone, List.mem_range.2 (BitVec.lt_def.1 (BitVec.clz_lt_iff_ne_zero.2 ha)), fun j hj => ?_⟩
      have hlt : a.toNat < 2 ^ (63 - j) := BitVec.toNat_lt_two_pow_sub_clz.trans_le (Nat.pow_le_pow_right (by decide) (by omega))
      simp [BitVec.getLsbD, Nat.testBit_lt_two_pow hlt]
    rw [leadingZeros, hfind, Option.getD_some, BitVec.ofNat_toNat, BitVec.setWidth_eq]

theorem trailingZeros_eq_leadingZeros (a : W64) : trailingZeros a = leadingZeros a.reverse := by
  have h : ∀ i ∈ upto 64, a.getLsbD i = a.reverse.getLsbD (63 - i) := fun i hi => by
    have := List.mem_range.1 hi
    rw [BitVec.getLsbD_reverse, BitVec.getMsbD_eq_getLsbD, show 64 - 1 - (63 - i) = i by omega]
    simp; omega
  rw [trailingZeros, leadingZeros, List.find?_congr h]

theorem trailingZeros_eq_ctz (a : W64) : BitVec.ofNat 64 (trailingZeros a) = a.ctz := by
  rw [trailingZeros_eq_leadingZeros, leadingZeros_eq_clz]; rfl

theorem cpopNatRec_eq_countP {w : Nat} (a : BitVec w) (n acc : Nat) :
    a.cpopNatRec n acc = acc + (upto n).countP fun i => a.getLsbD i := by
  induction n generalizing acc with
  | zero => rfl
  | succ n ih =>
    rw [BitVec.cpopNatRec_succ, ih, upto, upto, List.range_succ, List.countP_append, List.countP_singleton]
    cases a.getLsbD n <;> simp; omega

theorem oneBits_eq_cpop (a : W64) : BitVec.ofNat 64 (oneBits a) = a.cpop := by
  rw [BitVec.cpop, cpopNatRec_eq_countP, Nat.zero_add, oneBits]

/-! ### Forms that give a register or a condition -/

/-- A form whose result is v gives gd v. -/
theorem State.givesRegister {s : State} {i : Instr} {d : BitVec 5} {v w : W64} (h : exec i s = .next (s.result d w)) (e : w = v) :
    ∃ t, exec i s = .next t ∧ s.CRegister t d v := ⟨_, h, e ▸ s.result_register d w⟩

theorem State.givesCondition {s : State} {i : Instr} {d : BitVec 3} {v w : Bool} (h : exec i s = .next (s.resultC d w)) (e : w = v) :
    ∃ t, exec i s = .next t ∧ s.CCondition t d v := ⟨_, h, e ▸ s.resultC_condition d w⟩

/-- Settles O1: every form is `State.result` of a value that the lemmas above give as the table does. -/
theorem aluForms : Obligations.AluForms := by
  intro s d ra rb a b sh
  have hsh : sh < 64 := Nat.mod_lt _ (by decide)
  rw [← List.forall_iff_forall_mem]
  exact ⟨s.givesRegister rfl (add_eq_ofInt a b), s.givesRegister rfl (sub_eq_ofInt a b), s.givesRegister rfl rfl,
    s.givesRegister rfl rfl, s.givesRegister rfl rfl, s.givesRegister rfl rfl,
    s.givesRegister rfl (shiftLeft_eq_ofNat a sh), s.givesRegister rfl (ushiftRight_eq_ofNat a sh),
    s.givesRegister rfl (sshiftRight_eq_ofInt a sh), s.givesRegister rfl (rotateLeft_eq_ofNat a hsh),
    s.givesRegister rfl (rotateRight_eq_ofNat a hsh), s.givesRegister rfl (mul_eq_ofInt a b),
    s.givesRegister rfl (mulHigh_eq_ofInt a b), s.givesRegister rfl (mulHighN_eq_ofNat a b),
    s.givesRegister rfl (minS_eq_ofInt a b), s.givesRegister rfl (maxS_eq_ofInt a b),
    s.givesRegister rfl (minN_eq_ofNat a b), s.givesRegister rfl (maxN_eq_ofNat a b),
    s.givesRegister rfl (leadingZeros_eq_clz a), s.givesRegister rfl (trailingZeros_eq_ctz a),
    s.givesRegister rfl (oneBits_eq_cpop a), s.givesRegister rfl (low32_add a b), s.givesRegister rfl (low32_sub a b)⟩

/-! ### Division (R47) -/

theorem divS_eq (a b : W64) : divS a b = if b = 0 then BitVec.allOnes 64 else BitVec.ofInt 64 (Int.tdiv a.toInt b.toInt) := by
  rw [divS, BitVec.eq_of_toInt_eq (BitVec.toInt_sdiv a b |>.trans (BitVec.toInt_ofInt ..).symm)]

theorem divN_eq (a b : W64) : divN a b = if b = 0 then BitVec.allOnes 64 else BitVec.ofNat 64 (a.toNat / b.toNat) := by
  rw [divN, show a / b = BitVec.ofNat 64 (a.toNat / b.toNat) by rw [← BitVec.toNat_udiv, BitVec.ofNat_toNat, BitVec.setWidth_eq]]

theorem remS_eq (a b : W64) : remS a b = if b = 0 then a else BitVec.ofInt 64 (Int.tmod a.toInt b.toInt) := by
  rw [remS, ← BitVec.toInt_srem, BitVec.ofInt_toInt]

theorem remN_eq (a b : W64) : remN a b = if b = 0 then a else BitVec.ofNat 64 (a.toNat % b.toNat) := by
  rw [remN, show a % b = BitVec.ofNat 64 (a.toNat % b.toNat) by rw [← BitVec.toNat_umod, BitVec.ofNat_toNat, BitVec.setWidth_eq]]

/-- Settles O2: no form traps, and the one signed overflow wraps to the dividend. -/
theorem divisionForms : Obligations.DivisionForms := by
  intro s d ra rb a b zero p hp
  refine ⟨?_, fun (ha : s.g ra = _) (hb : s.g rb = _) => ⟨s.givesRegister rfl ?_, s.givesRegister rfl ?_⟩⟩
  · revert p
    rw [← List.forall_iff_forall_mem]
    exact ⟨s.givesRegister rfl (divS_eq a b), s.givesRegister rfl (remS_eq a b), s.givesRegister rfl (divN_eq a b),
      s.givesRegister rfl (remN_eq a b)⟩
  · show divS (s.g ra) (s.g rb) = s.g ra
    rw [ha, hb]; decide
  · rw [ha, hb]; decide

/-! ### Immediate forms (R48, R49, R51) -/

theorem signExtend_toInt {n : Nat} (i : BitVec n) (w : Nat) : i.signExtend w = BitVec.ofInt w i.toInt := rfl

theorem add_signExtend_eq_ofInt {n w : Nat} (a : BitVec n) (i : BitVec w) : a + i.signExtend n = BitVec.ofInt n (a.toInt + i.toInt) := by
  rw [BitVec.ofInt_add, BitVec.ofInt_toInt]; rfl

/-- A number with a field of n bits replaced: what lies above, the field and what lies below. -/
theorem putBits_eq (x lo v n : Nat) (hn : 0 < n) :
    putBits x (lo + n - 1) lo v = 2 ^ lo * (2 ^ n * (x / 2 ^ lo / 2 ^ n) + v % 2 ^ n) + x % 2 ^ lo := by
  have hw : lo + n - 1 + 1 - lo = n := by omega
  have hx : x = 2 ^ lo * (2 ^ n * (x / 2 ^ lo / 2 ^ n) + x / 2 ^ lo % 2 ^ n) + x % 2 ^ lo := by
    rw [Nat.div_add_mod, Nat.div_add_mod]
  have hsub : x - x / 2 ^ lo % 2 ^ n * 2 ^ lo = 2 ^ lo * (2 ^ n * (x / 2 ^ lo / 2 ^ n)) + x % 2 ^ lo :=
    Nat.sub_eq_of_eq_add (hx.trans (by ring))
  rw [putBits, bits, hw, hsub]; ring

theorem putBits_testBit (x lo v n j : Nat) (hn : 0 < n) :
    (putBits x (lo + n - 1) lo v).testBit j = if lo ≤ j ∧ j < lo + n then v.testBit (j - lo) else x.testBit j := by
  rw [putBits_eq x lo v n hn, Nat.testBit_two_pow_mul_add _ (Nat.mod_lt _ (Nat.two_pow_pos lo))]
  by_cases h1 : j < lo
  · rw [if_pos h1, if_neg (by omega), Nat.testBit_mod_two_pow]; simp [h1]
  · rw [if_neg h1, Nat.testBit_two_pow_mul_add _ (Nat.mod_lt _ (Nat.two_pow_pos n))]
    by_cases h2 : j - lo < n
    · rw [if_pos h2, if_pos (by omega), Nat.testBit_mod_two_pow]; simp [h2]
    · rw [if_neg h2, if_neg (by omega), Nat.testBit_div_two_pow, Nat.testBit_div_two_pow]
      congr 1; omega

/-- A chunk of 16 bits replaced, bit by bit. -/
theorem setChunk_bit (x : W64) (k : BitVec 2) (i : BitVec 16) {j : Nat} (hj : j < 64) : (setChunk x k i).getLsbD j =
    if 16 * k.toNat ≤ j ∧ j < 16 * k.toNat + 16 then i.getLsbD (j - 16 * k.toNat) else x.getLsbD j := by
  rw [setChunk, BitVec.getLsbD_ofNat, show 16 * k.toNat + 15 = 16 * k.toNat + 16 - 1 from rfl, putBits_testBit _ _ _ _ _ (by decide)]
  simp [hj, BitVec.getLsbD]

theorem State.result_reads {s : State} {d : BitVec 5} (v : W64) : s.CRegister (s.result d v) d ((s.result d v).g d) := by
  obtain ⟨hd, hrest⟩ := s.result_register d v
  refine ⟨?_, hrest⟩
  rw [hd]; split <;> rfl

theorem setWidth_eq_ofNat {n w : Nat} (i : BitVec w) : i.setWidth n = BitVec.ofNat n i.toNat := BitVec.eq_of_toNat_eq (by simp)

/-- Settles O3: `State.result` of the table's value; lik replaces its chunk bit by bit. -/
theorem immediateForms : Obligations.ImmediateForms := by
  intro s d ra rb i n m c a z
  have hz : i.setWidth 64 = z := setWidth_eq_ofNat i
  refine ⟨?_, fun k => ⟨_, rfl, s.result_reads _, fun hd j hj => ?_⟩⟩
  · rw [← List.forall_iff_forall_mem]
    exact ⟨s.givesRegister rfl (add_signExtend_eq_ofInt a i), s.givesRegister rfl (congrArg (a &&& ·) hz),
      s.givesRegister rfl (congrArg (a ||| ·) hz), s.givesRegister rfl (congrArg (a ^^^ ·) hz),
      s.givesRegister rfl (shiftLeft_eq_ofNat a _), s.givesRegister rfl (ushiftRight_eq_ofNat a _),
      s.givesRegister rfl (sshiftRight_eq_ofInt a _), s.givesRegister rfl (rotateRight_eq_ofNat a n.isLt),
      s.givesRegister rfl rfl, s.givesRegister rfl rfl⟩
  · rw [(s.result_register d _).1, if_neg hd]
    exact setChunk_bit _ k i hj

/-! ### Comparisons and condition logic (R50, R52) -/

/-- Settles O4: each comparison decides its relation on the values, each other form is a truth function. -/
theorem conditionForms : Obligations.ConditionForms := by
  intro s d ca cb ra rb i a b im
  rw [← List.forall_iff_forall_mem]
  have himS : (i.signExtend 64).toInt = i.toInt := BitVec.toInt_signExtend_of_le (by decide)
  have himN : (i.setWidth 64).toNat = i.toNat := BitVec.toNat_setWidth_of_le (by decide)
  have hne (y : W64) : (a != y) = decide (a ≠ y) := (decide_not (p := a = y)).symm
  exact ⟨s.givesCondition rfl rfl, s.givesCondition rfl (hne b), s.givesCondition rfl rfl, s.givesCondition rfl rfl,
    s.givesCondition rfl rfl, s.givesCondition rfl rfl, s.givesCondition rfl rfl, s.givesCondition rfl rfl,
    s.givesCondition rfl rfl, s.givesCondition rfl rfl, s.givesCondition rfl rfl, s.givesCondition rfl (hne im),
    s.givesCondition rfl (congrArg (fun y => decide (a.toInt < y)) himS),
    s.givesCondition rfl (congrArg (fun y => decide (a.toNat < y)) himN),
    s.givesCondition rfl rfl, s.givesCondition rfl rfl, s.givesCondition rfl rfl, s.givesCondition rfl rfl,
    s.givesCondition rfl rfl, s.givesCondition rfl rfl, s.givesCondition rfl rfl⟩

end Sys2Proof.Machine

/-! ## Transfers, markers and hints (R53 to R58, R69 to R74) -/

namespace Sys2Proof.Machine

/-! ### Traps of the transfers -/

/-- CTLINT is a cause of the supervisor. -/
theorem State.ctlint_traps {s : State} (h : s.cRuns) : s.CTraps (s.cTrap causeCtlint 0) 0x05 0 :=
  s.cTrap_traps _ 0 h.2 (Tile.userLevel_low _ _ (by decide) (by decide)) (by decide)

theorem State.transfer_onCtl (s : State) (target : BitVec 17) (f : Control → Control) (h : s.ctl.slot = 0) :
    s.transfer target f = s.onCtl fun k => (f k).jumps target := if_neg (not_not_intro h)

theorem State.transfer_jumps (s : State) (target : BitVec 17) (f : Control → Control) (h : s.ctl.slot = 0) :
    s.CBecomes (s.transfer target f) { s.tile s.curTile with control := (f s.ctl).jumps target } := by
  rw [s.transfer_onCtl target f h]; exact s.onCtl_becomes _

theorem State.transfer_inSlot {s : State} (hr : s.cRuns) (target : BitVec 17) (f : Control → Control) (h : s.ctl.slot ≠ 0) :
    s.CTraps (s.transfer target f) 0x05 0 := by
  rw [State.transfer, if_pos h]; exact State.ctlint_traps hr

/-- A link register takes the address after the delay slots (R56). -/
theorem Control.call_jumps (k : Control) (d : BitVec 5) (v : W64) (l : List (BitVec 16)) (b : BitVec 17) :
    ({ k.setReg d v with shadow := l } : Control).jumps b =
      { k.jumps b with shadow := l, g := if d = 0 then k.g else k.g.set d.toNat v } := by
  unfold Control.setReg
  split <;> rfl

/-- ret with a return address that is the top of the shadow stack and a multiple of 4 (R57). -/
theorem execRet_top {s : State} {a : BitVec 5} {top : BitVec 16} {rest : List (BitVec 16)} (hs : s.ctl.shadow = top :: rest)
    (h : (s.g a).toNat = top.toNat ∧ top.toNat % 4 = 0) :
    exec (.ret a) s = .next (s.transfer (top.setWidth 17) fun k => { k with shadow := rest }) := by
  show execRet a s = _
  simp only [execRet, hs]
  rw [if_pos h]

/-- Any other ret is CTLINT. -/
theorem execRet_ctlint {s : State} {a : BitVec 5}
    (h : ∀ top rest, s.ctl.shadow = top :: rest → ¬((s.g a).toNat = top.toNat ∧ top.toNat % 4 = 0)) :
    exec (.ret a) s = .next (s.cTrap causeCtlint 0) := by
  show execRet a s = _
  rw [execRet]
  split
  next => rfl
  next top rest hs => rw [if_neg (h top rest hs)]

theorem execCall_issues {s : State} (d : BitVec 5) (n : BitVec 2) (h : ¬(s.ctl.slot = 0 ∧ s.ctl.shadow.length ≥ 64)) :
    exec (.call d n) s = .next (s.transfer ((s.ctl.bt n).setWidth 17) fun k =>
      { k.setReg d (BitVec.ofNat 64 (k.pc.toNat + 12)) with shadow := BitVec.ofNat 16 (k.pc.toNat + 12) :: k.shadow }) :=
  congrArg Host.Outcome.next (if_neg h)

theorem execCall_full {s : State} (d : BitVec 5) (n : BitVec 2) (h : s.ctl.slot = 0 ∧ s.ctl.shadow.length ≥ 64) :
    exec (.call d n) s = .next (s.cTrap causeCtlint 0) := congrArg Host.Outcome.next (if_pos h)

/-- Settles O5: each transfer is `State.transfer`, or the CTLINT of its own check. -/
theorem transfers : Obligations.Transfers := by
  intro s n c d a hr b past goes traps
  have ctlint {i : Instr} (h : exec i s = .next (s.cTrap causeCtlint 0)) : traps i := ⟨_, h, State.ctlint_traps hr⟩
  refine ⟨fun h => ⟨⟨_, rfl, s.transfer_jumps _ id h⟩, ⟨_, rfl, ?_⟩, ⟨_, rfl, s.transfer_jumps b id h⟩, fun hl => ?_,
    fun hl => ctlint (execCall_full d n ⟨h, hl⟩), fun top rest hs hg hm => ⟨_, execRet_top hs ⟨hg, hm⟩, s.transfer_jumps _ _ h⟩⟩,
    fun hbad => ctlint (execRet_ctlint fun top rest hs ⟨hg, hm⟩ => ?_),
    fun h => ⟨⟨_, rfl, State.transfer_inSlot hr _ _ h⟩, ⟨_, rfl, State.transfer_inSlot hr _ _ h⟩, ⟨_, rfl, State.transfer_inSlot hr _ _ h⟩,
      ⟨_, execCall_issues d n fun hs => h hs.1, State.transfer_inSlot hr _ _ h⟩, ?_⟩⟩
  · have he : (if (!s.c c) = true then b else past) = if s.c c = true then past else b := by cases s.c c <;> rfl
    exact he ▸ s.transfer_jumps _ id h
  · have ht := s.transfer_jumps b (fun k => { k.setReg d (BitVec.ofNat 64 (k.pc.toNat + 12)) with
      shadow := BitVec.ofNat 16 (k.pc.toNat + 12) :: k.shadow }) h
    rw [Control.call_jumps] at ht
    exact ⟨_, execCall_issues d n fun hs => absurd hs.2 (by omega), ht⟩
  · rcases hbad with he | ⟨top', rest', hs', hne⟩ | hne
    · exact List.cons_ne_nil _ _ (hs.symm.trans he)
    · exact hne (hg.trans (congrArg BitVec.toNat (List.cons.inj (hs.symm.trans hs')).1))
    · exact hne (hg ▸ hm)
  · by_cases hg : ∃ top rest, s.ctl.shadow = top :: rest ∧ (s.g a).toNat = top.toNat ∧ top.toNat % 4 = 0
    · obtain ⟨top, rest, hs, hg⟩ := hg
      exact ⟨_, execRet_top hs hg, State.transfer_inSlot hr _ _ h⟩
    · exact ctlint (execRet_ctlint fun top rest hs he => hg ⟨top, rest, hs, he⟩)

/-! ### Branch-target registers (R53) -/

theorem targetOk_iff {t : Int} : targetOk t = true ↔ 0 ≤ t ∧ t ≤ 0xFFFC ∧ t % 4 = 0 := by
  simp [targetOk, and_assoc]

theorem State.setTarget_ok (s : State) (n : BitVec 2) {t : Int} (h : 0 ≤ t ∧ t ≤ 0xFFFC ∧ t % 4 = 0) :
    s.setTarget n t = .ok (s.onCtl fun k => k.setBt n (BitVec.ofInt 16 t)) := by
  have he : BitVec.ofNat 16 t.toNat = BitVec.ofInt 16 t := by
    rw [← BitVec.ofInt_natCast, Int.toNat_of_nonneg h.1]
  rw [State.setTarget, if_pos (targetOk_iff.2 h), he]

theorem State.setTarget_bad (s : State) (n : BitVec 2) {t : Int} (h : ¬(0 ≤ t ∧ t ≤ 0xFFFC ∧ t % 4 = 0)) :
    s.setTarget n t = .error (.trap causeCtlint 0) := by
  rw [State.setTarget, if_neg (mt targetOk_iff.1 h)]

/-- A change of the C stream, with which its word is done. -/
theorem State.cRun_onCtl (s : State) (ea : W64) (f : Control → Control) :
    s.cRunAt ea (.ok (s.onCtl f)) = (s.dropAnswers (.stream s.curTile 0)).onCtl fun k => (f k).next := by
  show ((s.onCtl f).dropAnswers (.stream s.curTile 0)).cDone = _
  rw [State.cDone, show (s.onCtl f).dropAnswers (.stream s.curTile 0) = (s.dropAnswers (.stream s.curTile 0)).onCtl f from rfl,
    State.onCtl_onCtl]
  simp only [Control.finish_eq]

/-- Settles O7: `State.setTarget` is both forms. -/
theorem branchTargets : Obligations.BranchTargets := by
  intro s n a i hr hans
  have goes (t : Int) (h : 0 ≤ t ∧ t ≤ 0xFFFC ∧ t % 4 = 0) : s.CBecomes (s.cRun (s.setTarget n t))
      { s.tile s.curTile with control := { s.ctl.next with b := s.ctl.b.set n.toNat (BitVec.ofInt 16 t) } } := by
    rw [s.setTarget_ok n h, State.cRun, State.cRun_onCtl, State.dropAnswers_none hans]
    exact s.onCtl_becomes _
  have traps (t : Int) (h : ¬(0 ≤ t ∧ t ≤ 0xFFFC ∧ t % 4 = 0)) : s.CTraps (s.cRun (s.setTarget n t)) 0x05 0 := by
    rw [s.setTarget_bad n h]; exact State.ctlint_traps hr
  rw [← List.forall_iff_forall_mem]
  exact ⟨⟨fun h0 h1 h2 => ⟨_, rfl, goes _ ⟨h0, h1, h2⟩⟩, fun h => ⟨_, rfl, traps _ (by omega)⟩⟩,
    fun h0 h1 h2 => ⟨_, rfl, goes _ ⟨h0, h1, h2⟩⟩, fun h => ⟨_, rfl, traps _ (by omega)⟩⟩

/-- Settles O6: slot 1 and slot 2 end as any word does, and after slot 2 the target follows that the transfer had left. -/
theorem delaySlots : Obligations.DelaySlots := by
  intro s n c a hr h0 hle hm
  let x : BitVec 17 := if s.c c = true then s.ctl.b[n.toNat].setWidth 17 else s.ctl.pc + 12
  obtain ⟨t1, e1⟩ : ∃ t1, t1 = s.onCtl fun k => k.jumps x := ⟨_, rfl⟩
  have h1 : t1.ctl = s.ctl.jumps x := by rw [e1, s.onCtl_ctl]
  have hg : t1.g a = s.g a := by rw [State.g, h1]; rfl
  have hv : (0 : Int) ≤ (s.g a).toNat ∧ ((s.g a).toNat : Int) ≤ 0xFFFC ∧ ((s.g a).toNat : Int) % 4 = 0 := by omega
  let bt : BitVec 16 := BitVec.ofInt 16 (s.g a).toNat
  obtain ⟨t2, e2⟩ : ∃ t2, t2 = (t1.dropAnswers (.stream t1.curTile 0)).onCtl fun k => (k.setBt n bt).next := ⟨_, rfl⟩
  have h2 : t2.ctl = ((s.ctl.jumps x).setBt n bt).next := by
    rw [e2, State.onCtl_ctl, ← h1]; rfl
  have h3 : t2.cDone.ctl = t2.ctl.next := by rw [State.cDone, State.onCtl_ctl, Control.finish_eq]
  refine ⟨t1, ?_, by rw [h1]; rfl, t2, ?_, ?_, ?_, t2.cDone, rfl, by rw [h3, h2]; rfl, by rw [h3, h2]; rfl, fun r => by rw [State.g, h3, h2]; rfl⟩
  · rw [e1]; exact congrArg Host.Outcome.next (s.transfer_onCtl x id h0)
  · show Host.Outcome.next (t1.cRun (t1.setTarget n (t1.g a).toNat)) = _
    rw [hg, t1.setTarget_ok n hv, State.cRun, State.cRun_onCtl, e2]
  · rw [h2]
    show s.ctl.pc + 4 + 4 = s.ctl.pc + 8
    rw [BitVec.add_assoc]; rfl
  · rw [h2]
    show ((s.ctl.b.set n.toNat bt)[n.toNat]).toNat = _
    rw [Vector.getElem_set_self, BitVec.toNat_ofInt]
    omega

/-! ### Markers and hints (R69 to R74) -/

/-- Settles O8: fence, qmark, nop and prefetch only end their word; pause sets its count and ends it. -/
theorem hintsAndMarkers : Obligations.HintsAndMarkers := by
  intro s k q a n c
  refine ⟨?_, _, rfl, ?_⟩
  · rw [← List.forall_iff_forall_mem]
    exact ⟨⟨_, rfl, s.cDone_ends⟩, ⟨_, rfl, s.cDone_ends⟩, ⟨_, rfl, s.cDone_ends⟩, ⟨_, rfl, s.cDone_ends⟩⟩
  · rw [State.cDone, State.onCtl_onCtl]
    simp only [Control.finish_eq]
    exact s.onCtl_becomes _

end Sys2Proof.Machine

/-! ## Return from a user handler (R106, R298) -/

namespace Sys2Proof.Machine

/-- A word that has been executed, without its waits: the delay slot and the target go on as after any word (R54). -/
theorem Control.advance_eq (k : Control) : k.advance = { k with
    pc := if k.slot = 2 then k.target else k.pc + 4
    slot := if k.slot = 1 then 2 else if k.slot = 2 then 0 else k.slot
    target := if k.slot = 2 then 0 else k.target } := by
  unfold Control.advance
  split
  next h => simp [h]
  next => split <;> simp_all

/-- The C stream back at the word that entered the user handler, with the delay slot and the target of UDS. -/
def Tile.handlerWord (t : Tile) : Control :=
  { t.control with
    pc := BitVec.ofNat 17 (t.user.uepc.toNat * 4), slot := t.user.slot, target := t.user.tgt.setWidth 17, arrived := t.user.again }

/-- The tile out of its user handler, its C stream at k. -/
def Tile.handlerLeft (t : Tile) (k : Control) : Tile := { t with user := { t.user with inHandler := false }, control := k }

theorem Tile.userReturn_eq (t : Tile) : t.userReturn =
    t.handlerLeft (if t.user.ucause = causeNotready then t.handlerWord else { t.handlerWord.advance with arrived := false }) := by
  rw [Tile.handlerWord, setWidth_eq_ofNat]; rfl

theorem State.onCur_becomesOf (s : State) {f : Tile → Tile} {x : Tile} (h : f (s.tile s.curTile) = x) : s.CBecomes (s.onCur f) x :=
  h ▸ s.onCur_becomes f

/-- Settles O22: `Tile.userReturn` goes back to the word, and from there past it for a program cause. -/
theorem userReturn : Obligations.UserReturn := by
  intro s hr tl u back past
  have hexec (h : u.inHandler = true ∧ s.ctl.slot = 0) : exec .uret s = .next (s.onCur Tile.userReturn) :=
    congrArg Host.Outcome.next (if_pos h)
  refine ⟨fun hh hs => ⟨fun hc => ⟨_, hexec ⟨hh, hs⟩, ?_⟩, fun hc => ⟨_, hexec ⟨hh, hs⟩, ?_⟩⟩, fun h => ?_⟩
  · have he : tl.userReturn = tl.handlerLeft { back with arrived := u.again } := tl.userReturn_eq.trans (congrArg _ (if_pos hc))
    exact s.onCur_becomesOf he
  · have hne : u.ucause ≠ causeNotready := fun e => absurd hc (by rw [e]; decide)
    have he : tl.userReturn = tl.handlerLeft past :=
      tl.userReturn_eq.trans (congrArg _ ((if_neg hne).trans (by rw [Control.advance_eq]; rfl)))
    exact s.onCur_becomesOf he
  · have hn : ¬(u.inHandler = true ∧ s.ctl.slot = 0) := fun ⟨h1, h2⟩ => h.elim (fun e => absurd (h1.symm.trans e) (by decide)) (· h2)
    exact ⟨_, congrArg Host.Outcome.next (if_neg hn), State.ctlint_traps hr⟩

end Sys2Proof.Machine

/-! ## Misaligned accesses (R45, R60) -/

namespace Sys2Proof.Machine

/-- ALIGN is checked first. -/
theorem State.cReach_misaligned (s : State) (k : AccessKind) {ea : W64} {n : Nat} (h : ea.toNat % n ≠ 0) :
    s.cReach k ea n = .error (.trap causeAlign ea) := by
  have hd : need (decide (ea.toNat % n = 0)) causeAlign ea = .error (.trap causeAlign ea) := by rw [need, decide_eq_false h]; rfl
  rw [State.cReach, hd]; rfl

theorem State.cLoad_misaligned (s : State) (d : BitVec 5) {ea : W64} {z : Nat} (h : ea.toNat % accessSize z ≠ 0) :
    s.cLoad d ea z = s.cTrap causeAlign ea := by
  rw [State.cLoad, State.cRead, s.cReach_misaligned .read h]; rfl

theorem State.cWrite_misaligned (s : State) {ea : W64} {n : Nat} (v : Nat) (h : ea.toNat % n ≠ 0) :
    s.cWrite ea n v = s.cTrap causeAlign ea := by
  rw [State.cWrite, s.cReach_misaligned .write h]; rfl

theorem State.cAtomic_misaligned (s : State) (d : BitVec 5) {ea : W64} (op : Nat) {w : Nat} (v c : Nat) (h : ea.toNat % w ≠ 0) :
    s.cAtomic d ea op w v c = s.cTrap causeAlign ea := by
  rw [State.cAtomic, s.cReach_misaligned .atomic h]; rfl

theorem State.lwReach_misaligned (s : State) (write : Bool) {ea : W64} (h : ea.toNat % 16 ≠ 0) :
    s.lwReach write ea = .error (.trap causeAlign ea) := by
  rw [State.lwReach, s.cReach_misaligned _ h]; rfl

theorem State.lwRead_misaligned (s : State) {ea : W64} (h : ea.toNat % 16 ≠ 0) : s.lwRead ea = .error (.trap causeAlign ea) := by
  rw [State.lwRead, s.lwReach_misaligned false h]; rfl

theorem accessSize_word (y : BitVec 2) : accessSize y.toNat = 2 ^ y.toNat := by
  rw [accessSize, Nat.mod_eq_of_lt y.isLt]

/-- Settles O12: every form reaches its address first, and its own step is the trap of the check that fails. -/
theorem misaligned : Obligations.Misaligned := by
  intro s d a b z y i w o1 o q hr im
  have traps {i : Instr} {ea : W64} (h : exec i s = .next (s.cTrap causeAlign ea)) : ∃ t, exec i s = .next t ∧ s.CTraps t 0x04 ea :=
    ⟨_, h, s.cTrap_traps _ ea hr.2 (Tile.userLevel_low _ _ (by decide) (by decide)) (by decide)⟩
  have load {i : Instr} {ea : W64} (h : exec i s = .next (s.cLoad d ea z.toNat)) (hm : ea.toNat % 2 ^ (z.toNat % 4) ≠ 0) :=
    traps (h.trans (congrArg _ (s.cLoad_misaligned d hm)))
  have store {i : Instr} {ea : W64} (h : exec i s = .next (s.cWrite ea (accessSize y.toNat) (s.g d).toNat)) (hm : ea.toNat % 2 ^ y.toNat ≠ 0) :=
    traps (h.trans (congrArg _ (s.cWrite_misaligned _ (accessSize_word y ▸ hm))))
  have atomic {i : Instr} {op k v c : Nat} (h : exec i s = .next (s.cAtomic d (s.g a) op k v c)) (hm : (s.g a).toNat % k ≠ 0) :=
    traps (h.trans (congrArg _ (s.cAtomic_misaligned d op v c hm)))
  rw [← List.forall_iff_forall_mem]
  refine ⟨load rfl, store rfl, load rfl, store rfl, atomic rfl, atomic rfl, atomic rfl, atomic rfl, atomic rfl, atomic rfl, atomic rfl,
    atomic rfl, atomic rfl, atomic rfl, atomic rfl, fun hm => traps ?_, fun hm => traps ?_, fun hm => traps ?_, fun hm => traps ?_⟩
  · show execLwArm a b s = _
    rw [execLwArm, s.lwReach_misaligned true hm]; rfl
  · show execLwGet d a b s = _
    rw [execLwGet, s.lwRead_misaligned hm]; rfl
  · show execLwTest q a b s = _
    rw [execLwTest, s.lwRead_misaligned hm]; rfl
  · show execLwWait a b s = _
    rw [execLwWait, s.lwRead_misaligned hm]; rfl

end Sys2Proof.Machine

/-! ## Bytes and numbers -/

namespace Sys2Proof.Machine

theorem leNat_bytes_lt (m : Memory) (a n : Nat) : leNat (m.bytes a n) < 2 ^ (8 * n) := by
  have h := leNat_lt (m.bytes a n)
  rwa [m.length_bytes, show 256 = 2 ^ 8 from rfl, ← pow_mul] at h

@[simp] theorem length_leBytes (n x : Nat) : (leBytes n x).length = n := by
  induction n generalizing x with
  | zero => rfl
  | succ n ih => rw [leBytes, List.length_cons, ih]

theorem leNat_leBytes (n x : Nat) : leNat (leBytes n x) = x % 2 ^ (8 * n) := by
  induction n generalizing x with
  | zero => simp [leBytes, leNat, Nat.mod_one]
  | succ n ih =>
    rw [leBytes, leNat, ih, BitVec.toNat_ofNat, show 8 * (n + 1) = 8 + 8 * n by ring, pow_add, Nat.mod_mul]
    rfl

/-- Two's complement of a pattern of w bits. -/
theorem toSigned_eq_toInt {w : Nat} (h : 0 < w) (x : Nat) : toSigned w x = (BitVec.ofNat w x).toInt := by
  have hp : 2 ^ w = 2 * 2 ^ (w - 1) := by rw [← pow_succ', Nat.sub_add_cancel h]
  rw [toSigned, BitVec.toInt, BitVec.toNat_ofNat]
  by_cases hx : x % 2 ^ w < 2 ^ (w - 1)
  · rw [if_pos hx, if_pos (by omega)]
  · rw [if_neg hx, if_neg (by omega)]

end Sys2Proof.Machine

/-! ## Loads (R59 to R61, R353, R359, R362, R374, R399) -/

namespace Sys2Proof.Machine

/-! ### Bytes of one line -/

/-- Bytes of one line are read in one piece. -/
theorem State.readLocal_line (s : State) (leaf : Leaf) (view : View) {pa n : Nat} (h0 : 0 < n) (hline : pa % 128 + n ≤ 128) :
    s.readLocal leaf view pa n = s.readPart leaf view pa n := by
  simp only [State.readLocal, pieces_own h0 hline, List.foldlM_cons, List.foldlM_nil]
  cases s.readPart leaf view pa n with
  | error e => rfl
  | ok r => simp [bind, Except.bind, pure, Except.pure]

/-- A leaf without SEAL shows the bytes of a version without a tag as they are. -/
theorem State.sealView_plain (s : State) {leaf : Leaf} (hs : leaf.sealed = false) (f : Nat → Nat) (l : List Byte) :
    (l.zipIdx.map fun e => s.sealView leaf none (f e.2) e.1) = l := by
  have hview : ∀ a b, s.sealView leaf none a b = b := fun a b => by simp [State.sealView, hs]
  simp only [hview]; exact List.zipIdx_map_fst 0 l

/-- The version in place, with no tag and no error. -/
theorem State.readPart_inPlace {s : State} {leaf : Leaf} {view : View} {pa n : Nat} (hver : s.versionOf leaf view (pa / 128) = none)
    (hs : leaf.sealed = false) (htag : tget s.seals (pa / 128) = none) (hopen : s.scratchBusy pa = false) (hbad : s.anyPoison pa n = false) :
    s.readPart leaf view pa n = .ok (s.mem.bytes pa n, false) := by
  have hnone : s.badPart leaf view pa n = none := by simp [State.badPart, hver, hs, hbad]
  have hview := s.sealView_plain hs (fun i => s.group (pa + i)) (s.mem.bytes pa n)
  simp [State.readPart, hver, hopen, hnone, htag, State.tagOk, hs, hview]

/-- Another version, which has no tag and no error among the bytes read. -/
theorem State.readPart_version {s : State} {leaf : Leaf} {view : View} {pa n : Nat} {data : List Byte} {poison : BitVec 2}
    (hver : s.versionOf leaf view (pa / 128) = some (data, poison, none)) (hs : leaf.sealed = false) (hopen : s.scratchBusy pa = false)
    (hbad : s.badPart leaf view pa n = none) :
    s.readPart leaf view pa n = .ok ((data.drop (pa % 128)).take n, false) := by
  have ho : pa - lineAddr (pa / 128) = pa % 128 := by unfold lineAddr; omega
  have hview := s.sealView_plain hs (fun i => s.group (pa + i)) ((data.drop (pa % 128)).take n)
  simp [State.readPart, hver, hopen, hbad, State.tagOk, hs, ho, hview]

/-- A version without an error. -/
theorem State.badPart_sound {s : State} {leaf : Leaf} {view : View} {pa n : Nat} {data : List Byte} {tag : Option SealTag}
    (hver : s.versionOf leaf view (pa / 128) = some (data, 0, tag)) : s.badPart leaf view pa n = none := by
  simp [State.badPart, hver]

/-- The half-lines of an HBM line are its granules. -/
theorem State.poisoned_half (s : State) {l h : Nat} (hl : l * 128 < hbmEnd) (hh : h < 2) :
    s.poisoned (lineAddr l + 64 * h) = s.poison.contains (lineAddr l + 64 * h) := by
  have hlt : lineAddr l + 64 * h < hbmEnd := by unfold lineAddr hbmEnd at *; omega
  have hg : granuleOf (lineAddr l + 64 * h) = lineAddr l + 64 * h := by
    rw [granuleOf, granuleSize, if_pos hlt]; unfold lineAddr; omega
  rw [State.poisoned, hg]

theorem State.linePoison_half (s : State) (l : Nat) {h : Nat} (hh : h < 2) :
    (s.linePoison l).getLsbD h = s.poisoned (lineAddr l + 64 * h) := by
  rw [State.linePoison]
  obtain rfl | rfl : h = 0 ∨ h = 1 := by omega
  · cases s.poisoned (lineAddr l) <;> cases s.poisoned (lineAddr l + 64) <;> rfl
  · cases s.poisoned (lineAddr l) <;> cases s.poisoned (lineAddr l + 64) <;> rfl

/-- The value in place has no error among bytes that have none. -/
theorem State.badPart_lineData {s : State} {leaf : Leaf} {view : View} {pa n : Nat} {tag : Option SealTag} (hs : leaf.sealed = false)
    (hpa : pa < hbmEnd) (hver : s.versionOf leaf view (pa / 128) = some (s.lineData (pa / 128), s.linePoison (pa / 128), tag))
    (hbad : s.anyPoison pa n = false) : s.badPart leaf view pa n = none := by
  have half : ∀ h < 2, ((s.linePoison (pa / 128)).getLsbD h && decide (pa < lineAddr (pa / 128) + 64 * h + 64) &&
      decide (lineAddr (pa / 128) + 64 * h < pa + n)) = false := fun h hh => by
    by_contra hne
    simp only [Bool.not_eq_false, Bool.and_eq_true, decide_eq_true_eq, s.linePoison_half _ hh] at hne
    obtain ⟨⟨hp, h1⟩, h2⟩ := hne
    rw [s.poisoned_half (by omega) hh, List.contains_iff_mem] at hp
    have hsize : granuleSize (lineAddr (pa / 128) + 64 * h) = 64 := if_pos (by unfold lineAddr hbmEnd at *; omega)
    have : s.anyPoison pa n = true := by
      rw [State.anyPoison, Bool.and_eq_true]
      refine ⟨by simpa using List.ne_nil_of_mem hp, List.any_eq_true.2 ⟨_, hp, ?_⟩⟩
      simp [hsize, h1, h2]
    rw [hbad] at this; cases this
  simp only [State.badPart, hver, hs, Bool.false_and, Bool.false_eq_true, if_false]
  refine List.findSome?_eq_none_iff.2 fun h hh => if_neg (by rw [half h (by simp at hh; omega)]; decide)

theorem Memory.getElem_bytes (m : Memory) (a n i : Nat) (h : i < (m.bytes a n).length) : (m.bytes a n)[i] = m.byte (a + i) := by
  induction n generalizing a i with
  | zero => exact absurd h (Nat.not_lt_zero _)
  | succ n ih =>
    cases i with
    | zero => rfl
    | succ i =>
      have := ih (a + 1) i (by simpa [Memory.bytes] using h)
      rw [show a + (i + 1) = a + 1 + i by omega, ← this]; rfl

theorem Memory.bytes_drop_take (m : Memory) {a n o k : Nat} (h : o + k ≤ n) : ((m.bytes a n).drop o).take k = m.bytes (a + o) k :=
  List.ext_getElem (by simp only [List.length_take, List.length_drop, m.length_bytes]; omega) fun i h1 h2 => by
    rw [List.getElem_take, List.getElem_drop, m.getElem_bytes, m.getElem_bytes, Nat.add_assoc]

theorem place_hbm {pa : Nat} (h : pa < 2 ^ 39) : place pa = .hbm := if_pos h

theorem State.scratchBusy_hbm (s : State) {pa : Nat} (h : pa < 2 ^ 39) : s.scratchBusy pa = false := by
  rw [State.scratchBusy, place_hbm h]

/-- Bytes of an HBM line under a view that sees the value in place. -/
theorem State.readPart_lineData {s : State} {leaf : Leaf} {view : View} {pa n : Nat} (hs : leaf.sealed = false) (hpa : pa < hbmEnd)
    (hline : pa % 128 + n ≤ 128)
    (hver : s.versionOf leaf view (pa / 128) = some (s.lineData (pa / 128), s.linePoison (pa / 128), tget s.seals (pa / 128)))
    (htag : tget s.seals (pa / 128) = none) (hbad : s.anyPoison pa n = false) :
    s.readPart leaf view pa n = .ok (s.mem.bytes pa n, false) := by
  have hdata : ((s.lineData (pa / 128)).drop (pa % 128)).take n = s.mem.bytes pa n := by
    rw [State.lineData, s.mem.bytes_drop_take hline]; congr 1; unfold lineAddr; omega
  rw [State.readPart_version (htag ▸ hver) hs (s.scratchBusy_hbm hpa) (State.badPart_lineData hs hpa hver hbad), hdata]

/-! ### A load -/

theorem State.regOffset_none (s : State) {pa : Nat} (h : pa < 2 ^ 48) (hp : ∀ o, Machine.place pa ≠ Place.register o) :
    s.regOffset (s.group pa) = none := by
  rw [State.regOffset, if_pos (s.ownPkg_group h), s.localOf_group h]
  split
  next off ho => exact absurd ho (hp off)
  next => rfl

/-- Where the bytes of a load or store lie: in storage of the own package, in one line (R45, R59). -/
structure State.Reached (s : State) (k : AccessKind) (ea : W64) (n : Nat) (leaf : Leaf) (pa : Nat) : Prop where
  reach : s.cReach k ea n = .ok (leaf, s.group pa)
  below : pa < 2 ^ 48
  store : ∀ o, Machine.place pa ≠ Place.register o
  line : pa % 128 + n ≤ 128
  alone : s.noAnswer

theorem State.PlainAccess.reached {s : State} {k : AccessKind} {ea : W64} {n : Nat} {leaf : Leaf} {pa : Nat}
    (h : s.PlainAccess k ea n leaf pa) : s.Reached k ea n leaf pa := ⟨h.reach, h.below, h.store, h.line, h.alone⟩

theorem State.LineAccess.reached {s : State} {k : AccessKind} {ea : W64} {n : Nat} {leaf : Leaf} {pa : Nat}
    (h : s.LineAccess k ea n leaf pa) : s.Reached k ea n leaf pa :=
  ⟨h.reach, h.below.trans (by decide), fun o => by rw [place_hbm h.below]; exact nofun, h.line, h.alone⟩

theorem State.Reached.readWhole {s : State} {k : AccessKind} {ea : W64} {n : Nat} {leaf : Leaf} {pa : Nat} (h : s.Reached k ea n leaf pa)
    (who : Asker) (view : View) : s.readWhole who leaf view (s.group pa) n ea = s.readChecked leaf view pa n := by
  simp only [State.readWhole, State.readChecked, State.readAny, s.ownPkg_group h.below, s.localOf_group h.below, if_true]

theorem State.cRead_store {s : State} {ea : W64} {n : Nat} {leaf : Leaf} {gpa : Nat} (hreach : s.cReach .read ea n = .ok (leaf, gpa))
    (hreg : s.regOffset gpa = none) :
    s.cRead ea n = (s.readWhole s.cAsker leaf s.cView gpa n ea).map fun bs => (s, leNat bs) := by
  simp only [State.cRead, hreach, hreg, bind, Except.bind]
  cases s.readWhole s.cAsker leaf s.cView gpa n ea with
  | error e => rfl
  | ok bs => rfl

/-- The number of bytes a load reads, of its version. -/
theorem State.Reached.cRead {s : State} {ea : W64} {n : Nat} {leaf : Leaf} {pa : Nat} (h : s.Reached .read ea n leaf pa) :
    s.cRead ea n = (s.readChecked leaf s.cView pa n).map fun bs => (s, leNat bs) := by
  rw [State.cRead_store h.reach (s.regOffset_none h.below h.store), h.readWhole]

/-- A load that sees sound bytes gives their number. -/
theorem State.Reached.load {s : State} {ea : W64} {z : Nat} {leaf : Leaf} {pa : Nat} {bs : List Byte} (d : BitVec 5)
    (h : s.Reached .read ea (accessSize z) leaf pa) (hread : s.readPart leaf s.cView pa (accessSize z) = .ok (bs, false)) :
    s.cLoad d ea z = s.result d (loadValue z (leNat bs)) := by
  have h0 : 0 < accessSize z := Nat.two_pow_pos _
  have hok : s.readChecked leaf s.cView pa (accessSize z) = .ok bs := by
    rw [State.readChecked, s.readLocal_line leaf s.cView h0 h.line, hread]; rfl
  rw [State.cLoad, h.cRead, hok]
  show ((s.setG d (loadValue z (leNat bs))).dropAnswers (.stream s.curTile 0)).cDone = _
  rw [State.dropAnswers_none (s := s.setG d _) h.alone]; rfl

/-- A load of a line whose tag fails is INTEGRITY. -/
theorem State.Reached.load_integrity {s : State} {ea : W64} {z : Nat} {leaf : Leaf} {pa : Nat} (d : BitVec 5)
    (h : s.Reached .read ea (accessSize z) leaf pa) (hread : s.readPart leaf s.cView pa (accessSize z) = .error (.integrity pa)) :
    s.cLoad d ea z = (s.logError s.curNode causeIntegrity (.integrity pa)).cTrap causeIntegrity ea := by
  have h0 : 0 < accessSize z := Nat.two_pow_pos _
  have hbad : s.readChecked leaf s.cView pa (accessSize z) = .error (.integrity pa) := by
    rw [State.readChecked, s.readLocal_line leaf s.cView h0 h.line, hread]; rfl
  rw [State.cLoad, h.cRead, hbad]; rfl

/-! ### The version that a view sees (R359, R362) -/

theorem State.cView_newest {s : State} (h : s.openSlot s.curTile = none) : s.cView = .newest := by
  rw [State.cView, h]

theorem State.cView_tx {s : State} {k : Byte} {x : Tx} (h : s.openSlot s.curTile = some k) (hx : tget s.versions.txs k.toNat = some x) :
    s.cView = .tx k x.snapshot := by
  simp only [State.cView, h, hx]

theorem State.versionOf_newest (s : State) {leaf : Leaf} {view : View} (l : Nat) (h : leaf.ver = false ∨ view = .newest) :
    s.versionOf leaf view l = none := by
  unfold State.versionOf
  rcases h with h | rfl
  · simp [h]
  · split <;> rfl

theorem lineAddr_hbm {pa : Nat} (h : pa < 2 ^ 39) : ¬hbmEnd ≤ lineAddr (pa / 128) := by
  unfold lineAddr hbmEnd; omega

theorem State.versionOf_snapshot (s : State) {leaf : Leaf} {pa : Nat} (st : Nat) (hv : leaf.ver = true) (h : pa < 2 ^ 39) :
    s.versionOf leaf (.snapshot st) (pa / 128) = some (s.versionAt (pa / 128) st) := by
  rw [State.versionOf, if_neg (by simp [hv, lineAddr_hbm h])]

theorem State.versionOf_tentative (s : State) {leaf : Leaf} {pa : Nat} {k : Byte} {j : Nat} {r : Record} (st : Nat) (hv : leaf.ver = true)
    (h : pa < 2 ^ 39) (ht : s.tentative (pa / 128) k = some (j, r)) :
    s.versionOf leaf (.tx k st) (pa / 128) = some (r.data, r.poison, r.tag) := by
  rw [State.versionOf, if_neg (by simp [hv, lineAddr_hbm h])]
  simp only [ht]

theorem State.versionOf_untouched (s : State) {leaf : Leaf} {pa : Nat} {k : Byte} (st : Nat) (hv : leaf.ver = true)
    (h : pa < 2 ^ 39) (ht : s.tentative (pa / 128) k = none) :
    s.versionOf leaf (.tx k st) (pa / 128) = some (s.versionAt (pa / 128) st) := by
  rw [State.versionOf, if_neg (by simp [hv, lineAddr_hbm h])]
  simp only [ht]

theorem State.versionAt_inPlace {s : State} {l st : Nat} (h : (s.line l).stamp.toNat ≤ st) :
    s.versionAt l st = (s.lineData l, s.linePoison l, tget s.seals l) := if_pos h

theorem State.versionAt_record {s : State} {l st j : Nat} {r : Record} (h : st < (s.line l).stamp.toNat)
    (hf : ((s.records l).find? fun e => e.2.kind == 0 && decide (e.2.stamp.toNat ≤ st)) = some (j, r)) :
    s.versionAt l st = (r.data, r.poison, r.tag) := by
  rw [State.versionAt, if_neg (Nat.not_le.2 h), hf]

/-- A record without an error and without a tag, read. -/
theorem State.readPart_record {s : State} {leaf : Leaf} {view : View} {pa n : Nat} {r : Record} (hs : leaf.sealed = false) (hpa : pa < 2 ^ 39)
    (hver : s.versionOf leaf view (pa / 128) = some (r.data, r.poison, r.tag)) (hw : r.poison = 0 ∧ r.tag = none) :
    s.readPart leaf view pa n = .ok ((r.data.drop (pa % 128)).take n, false) := by
  rw [hw.1, hw.2] at hver
  exact State.readPart_version hver hs (s.scratchBusy_hbm hpa) (State.badPart_sound hver)

/-! ### Sealed lines (R255, R374, R399) -/

theorem State.readPart_sealed {s : State} {leaf : Leaf} {view : View} {pa n : Nat} {g : SealTag}
    (hver : s.versionOf leaf view (pa / 128) = none) (hs : leaf.sealed = true) (hpa : pa < 2 ^ 39)
    (hbad : s.anyPoison (128 * (pa / 128)) 128 = false) (htag : tget s.seals (pa / 128) = some g) :
    s.readPart leaf view pa n = if g.good = true ∧ g.key = s.key leaf.key then .ok (s.mem.bytes pa n, false) else .error (.integrity pa) := by
  have hnone : s.badPart leaf view pa n = none := by
    simp [State.badPart, hver, hs, show pa < hbmEnd from hpa, lineAddr, Nat.mul_comm (pa / 128), hbad]
  have hview : (s.mem.bytes pa n).zipIdx.map (fun e => s.sealView leaf (some g) (s.group (pa + e.2)) e.1) = s.mem.bytes pa n := by
    have : ∀ a b, s.sealView leaf (some g) a b = b := fun a b => by simp [State.sealView, hs]
    simp only [this]; exact List.zipIdx_map_fst 0 _
  by_cases hg : g.good = true ∧ g.key = s.key leaf.key
  · simp [State.readPart, hver, s.scratchBusy_hbm hpa, hnone, htag, State.tagOk, hs, hg, show pa < hbmEnd from hpa, hview]
  · have hbad : (g.good && g.key == s.key leaf.key) = false := by simpa using hg
    simp [State.readPart, hver, s.scratchBusy_hbm hpa, hnone, htag, State.tagOk, hs, hg, show pa < hbmEnd from hpa, hbad]

/-- What a failed tag leaves: a frame quarantined where the table has room, and a record in the log (R398 to R400). -/
theorem State.logError_integrity (s : State) (node : Option W32) (cause : Byte) (pa : Nat) :
    ∃ q d, s.logError node cause (.integrity pa) = { s with qtab := q, dies := d } ∧
      ∀ j, (upto 256).find? (fun j => !wbit (s.qtab[j]?.getD 0) 63) = some j → q = s.qtab.set! j (BitVec.ofNat 64 (2 ^ 63 + pa / 4096 * 4096)) := by
  simp only [State.logError]
  split
  next j hj => exact ⟨_, _, rfl, fun i hi => by rw [Option.some.inj (hj.symm.trans hi)]⟩
  next hj => exact ⟨_, _, rfl, fun i hi => absurd (hj.symm.trans hi) nofun⟩

theorem quarantine_entry {pa : Nat} (h : pa < 2 ^ 39) :
    (wbit (BitVec.ofNat 64 (2 ^ 63 + pa / 4096 * 4096)) 63 && wbits (BitVec.ofNat 64 (2 ^ 63 + pa / 4096 * 4096)) 46 12 == pa / 4096) = true := by
  have hn : (BitVec.ofNat 64 (2 ^ 63 + pa / 4096 * 4096)).toNat = 2 ^ 63 + pa / 4096 * 4096 := by
    rw [BitVec.toNat_ofNat, Nat.mod_eq_of_lt (by omega)]
  rw [Bool.and_eq_true, beq_iff_eq, wbit, BitVec.getLsbD, wbits, bits, hn, Nat.testBit_eq_decide_div_mod_eq, decide_eq_true_eq]
  omega

/-- A free entry of the quarantine table takes the frame. -/
theorem quarantined_of_free {s t : State} {pa : Nat} (hpa : pa < 2 ^ 39) (hfree : ∃ e : Fin 256, s.qtab[e].getLsbD 63 = false)
    (ht : ∀ j, (upto 256).find? (fun j => !wbit (s.qtab[j]?.getD 0) 63) = some j →
      t.qtab = s.qtab.set! j (BitVec.ofNat 64 (2 ^ 63 + pa / 4096 * 4096))) : t.quarantined pa = true := by
  obtain ⟨e, he⟩ := hfree
  have hsome : ((upto 256).find? fun j => !wbit (s.qtab[j]?.getD 0) 63).isSome := by
    refine List.find?_isSome.2 ⟨e, List.mem_range.2 e.isLt, ?_⟩
    have : s.qtab[e.val]?.getD 0 = s.qtab[e] := by simp
    rw [this, wbit, he]; rfl
  obtain ⟨j, hj⟩ := Option.isSome_iff_exists.1 hsome
  have hlt : j < 256 := List.mem_range.1 (List.mem_of_find?_eq_some hj)
  rw [State.quarantined, ht j hj]
  refine List.any_eq_true.2 ⟨_, ?_, quarantine_entry hpa⟩
  rw [Vector.set!_eq_setIfInBounds, Vector.mem_toList_iff]
  exact Vector.mem_setIfInBounds hlt

/-! ### The obligation -/

theorem loadValue_eq {z x : Nat} (h : x < 2 ^ (8 * 2 ^ (z % 4))) :
    loadValue z x = if z < 4 then BitVec.ofInt 64 (BitVec.ofNat (8 * 2 ^ (z % 4)) x).toInt else BitVec.ofNat 64 x := by
  rw [loadValue, sext64, accessSize, toSigned_eq_toInt (by have := Nat.two_pow_pos (z % 4); omega), Nat.mod_eq_of_lt h]

/-- What a load of bytes that are seen gives. -/
theorem State.Reached.gives {s : State} {i : Instr} {d : BitVec 5} {ea : W64} {z : Nat} {leaf : Leaf} {pa : Nat} {bs : List Byte}
    (hexec : exec i s = .next (s.cLoad d ea z)) (h : s.Reached .read ea (2 ^ (z % 4)) leaf pa)
    (hread : s.readPart leaf s.cView pa (2 ^ (z % 4)) = .ok (bs, false)) (hlen : bs.length ≤ 2 ^ (z % 4)) :
    ∃ t, exec i s = .next t ∧
      s.CRegister t d (if z < 4 then BitVec.ofInt 64 (BitVec.ofNat (8 * 2 ^ (z % 4)) (leNat bs)).toInt else BitVec.ofNat 64 (leNat bs)) := by
  have hlt : leNat bs < 2 ^ (8 * 2 ^ (z % 4)) := by
    have := leNat_lt bs
    rw [show 256 = 2 ^ 8 from rfl, ← pow_mul] at this
    exact this.trans_le (Nat.pow_le_pow_right (by decide) (Nat.mul_le_mul_left 8 hlen))
  exact s.givesRegister (hexec.trans (congrArg _ (h.load d hread))) (loadValue_eq hlt)

theorem State.cTrap_tile {s : State} {cause : Byte} (val : W64) (hu : (s.tile s.curTile).userLevel cause = false) :
    (s.cTrap cause val).tile s.curTile = (s.tile s.curTile).controlTrap cause val :=
  (s.onCur_tile _).trans (if_neg (by rw [hu]; decide))

/-- What a load of a line whose tag fails leaves (R399, R400). -/
theorem State.Reached.fails {s : State} {i : Instr} {d : BitVec 5} {ea : W64} {z : Nat} {leaf : Leaf} {pa : Nat}
    (hexec : exec i s = .next (s.cLoad d ea z)) (h : s.Reached .read ea (2 ^ (z % 4)) leaf pa) (hpa : pa < 2 ^ 39)
    (hread : s.readPart leaf s.cView pa (2 ^ (z % 4)) = .error (.integrity pa)) :
    ∃ t, exec i s = .next t ∧ s.SameBytes t ∧ t.tile s.curTile = (s.tile s.curTile).controlTrap 0x0F ea ∧
      ((∃ e : Fin 256, s.qtab[e].getLsbD 63 = false) → t.quarantined pa = true) := by
  obtain ⟨q, dies, he, hq⟩ := s.logError_integrity s.curNode causeIntegrity pa
  have hload := h.load_integrity d hread
  rw [he] at hload
  refine ⟨_, hexec.trans (congrArg _ hload), fun _ => rfl, ?_, fun hfree => quarantined_of_free hpa hfree hq⟩
  exact State.cTrap_tile (s := { s with qtab := q, dies := dies }) ea (Tile.userLevel_low _ _ (by decide) (by decide))

/-- A read through a pinned page that the quarantine table lets a window use. -/
theorem State.winRead_pinned {s : State} {tn : BitVec 6} {u : Use} {va : Int} {leaf : Leaf} {gpa m : Nat} (y : BStream)
    (hpin : pinPa u.pins (vaOf va) = some (leaf, gpa)) (hok : s.refused gpa = false) :
    s.winRead tn y u va m = s.readAny (streamAsker tn y) leaf (s.winView tn u.image) gpa m := by
  simp only [State.winRead, hpin, hok]; rfl

/-- A block stream's read through a SNAP window sees its line at the snapshot of the node (R187, R359). -/
theorem State.winRead_snapshot {s : State} {tn : BitVec 6} {u : Use} {va : Int} {leaf : Leaf} {pa m st : Nat} (y : BStream)
    (hsnap : u.image.snap = true) (hst : s.nodeSnapshot tn = some st) (hpin : pinPa u.pins (vaOf va) = some (leaf, s.group pa))
    (hpa : pa < 2 ^ 39) (hline : pa % 128 + m ≤ 128) (h0 : 0 < m) (hq : s.quarantined pa = false) :
    s.winRead tn y u va m = s.readPart leaf (.snapshot st) pa m := by
  have h48 : pa < 2 ^ 48 := hpa.trans (by decide)
  have hview : s.winView tn u.image = .snapshot st := by rw [State.winView, if_pos hsnap, hst]
  have hok : s.refused (s.group pa) = false := by rw [State.refused, s.localOf_group h48, hq, Bool.and_false]
  rw [State.winRead_pinned y hpin hok, hview, State.readAny, if_pos (s.ownPkg_group h48), s.localOf_group h48, s.readLocal_line leaf _ h0 hline]

/-- Settles O9: each load is `State.cLoad`, which reads its line's bytes as the view of the C stream sees them. -/
theorem loads : Obligations.Loads := by
  constructor
  · intro s d a b z i o q leaf pa _ n x v hbad
    have gives {i : Instr} {ea : W64} (hexec : exec i s = .next (s.cLoad d ea z.toNat)) (h : s.PlainAccess .read ea n leaf pa) :
        ∃ t, exec i s = .next t ∧ s.CRegister t d v :=
      h.reached.gives hexec (State.readPart_inPlace (s.versionOf_newest _ (.inl h.plain.1)) h.plain.2.2 h.tag h.open_ hbad)
        (s.mem.length_bytes pa n).le
    exact ⟨gives rfl, gives rfl⟩
  intro s d a b z i o q leaf pa k x g j r _ n l value inPlace recorded sound whole older
  constructor
  · intro p hp hacc gives
    have hexec : exec p.1 s = .next (s.cLoad d p.2 z.toNat) := by
      simp only [List.mem_cons, List.not_mem_nil, or_false] at hp
      rcases hp with rfl | rfl <;> rfl
    have hpa := hacc.below
    have newest (h : leaf.ver = false ∨ s.openSlot s.curTile = none) : s.versionOf leaf s.cView l = none :=
      s.versionOf_newest l (h.imp_right State.cView_newest)
    have givesInPlace (h : s.readPart leaf s.cView pa n = .ok (s.mem.bytes pa n, false)) : gives inPlace :=
      hacc.reached.gives hexec h (s.mem.length_bytes pa n).le
    have givesRecorded (h : s.readPart leaf s.cView pa n = .ok ((r.data.drop (pa % 128)).take n, false)) : gives recorded :=
      hacc.reached.gives hexec h (List.length_take_le _ _)
    refine ⟨fun hs hso hv => givesInPlace (State.readPart_inPlace (newest hv) hs hso.2 (s.scratchBusy_hbm hpa) hso.1),
      fun hs hv hk hx => ?_, fun hs hv hbad hg => ?_⟩
    · have hview := State.cView_tx hk hx
      have committed (ht : s.tentative l k = none) : s.versionOf leaf s.cView l = some (s.versionAt l x.snapshot) :=
        hview ▸ s.versionOf_untouched _ hv hpa ht
      refine ⟨fun ht hw => givesRecorded ?_, fun ht hle hso => givesInPlace ?_, fun ht hlt ho hw => givesRecorded ?_⟩
      · exact State.readPart_record hs hpa (hview ▸ s.versionOf_tentative x.snapshot hv hpa ht) hw
      · exact State.readPart_lineData hs hpa hacc.line ((committed ht).trans (congrArg some (State.versionAt_inPlace hle))) hso.2 hso.1
      · exact State.readPart_record hs hpa ((committed ht).trans (congrArg some (State.versionAt_record hlt ho))) hw
    · have hread := State.readPart_sealed (n := n) (newest hv) hs hpa hbad hg
      refine ⟨fun h1 h2 => givesInPlace (hread.trans (if_pos ⟨h1, h2⟩)), fun hf => hacc.reached.fails hexec hpa (hread.trans (if_neg ?_))⟩
      rintro ⟨h1, h2⟩
      exact hf.elim (fun e => absurd (h1.symm.trans e) (by decide)) (· h2)
  · intro tn y u va m st hsnap hst hpin hv hs hpa hline h0 hq
    rw [State.winRead_snapshot y hsnap hst hpin hpa hline h0 hq]
    have hver := s.versionOf_snapshot st hv hpa
    exact ⟨fun hle hbad htag => State.readPart_lineData hs hpa hline (hver.trans (congrArg some (State.versionAt_inPlace hle))) htag hbad,
      fun hlt ho hw _ => State.readPart_record hs hpa (hver.trans (congrArg some (State.versionAt_record hlt ho))) hw⟩

end Sys2Proof.Machine

/-! ## What a store leaves (R62, R276, R371, R396) -/

namespace Sys2Proof.Machine

/-- Bytes stored at their home change memory, the poison of the granules they cover, the reservations they reach, and dirty marks. -/
theorem State.put_eq (s : State) (pa : Nat) (bs : List Byte) : s.put pa bs = { s with
    mem := s.mem.setBytes pa bs
    poison := (s.clearPoison pa bs.length).poison
    reservations := (s.unreserve pa bs.length).reservations
    tiles := (s.put pa bs).tiles } := by
  unfold State.put State.markRows
  split <;> rfl

theorem State.put_tile (s : State) (pa : Nat) (bs : List Byte) (u : BitVec 6) : (s.put pa bs).tile u = { s.tile u with
    dirtyA := ((s.put pa bs).tile u).dirtyA, dirtyB := ((s.put pa bs).tile u).dirtyB } := (s.put_stores pa bs).tile u

theorem State.put_control (s : State) (pa : Nat) (bs : List Byte) (u : BitVec 6) : ((s.put pa bs).tile u).control = (s.tile u).control := by
  rw [s.put_tile]

theorem State.put_curTile (s : State) (pa : Nat) (bs : List Byte) : (s.put pa bs).curTile = s.curTile := by rw [s.put_eq]; rfl

theorem State.put_ctl (s : State) (pa : Nat) (bs : List Byte) : (s.put pa bs).ctl = s.ctl := by
  rw [State.ctl, s.put_curTile, s.put_control]; rfl

theorem State.markUnrollable_ctl (s : State) (w : Writer) (leaf : Leaf) (gpa : Nat) : (s.markUnrollable w leaf gpa).ctl = s.ctl := by
  rw [s.markUnrollable_pool]; rfl

theorem State.put_byte_other (s : State) {pa : Nat} {bs : List Byte} {p : Nat} (h : p < pa ∨ pa + bs.length ≤ p) :
    (s.put pa bs).byte p = s.byte p := by
  rw [State.byte, s.put_mem]; exact s.mem.byte_setBytes_other pa bs p h

theorem State.put_number (s : State) (pa n v : Nat) : leNat ((s.put pa (leBytes n v)).mem.bytes pa n) = v % 2 ^ (8 * n) := by
  have h := s.mem.bytes_setBytes pa (leBytes n v)
  rw [length_leBytes] at h
  rw [s.put_mem, h, leNat_leBytes]

/-- The state once the C stream's bytes are stored through a page without VER, CKPT and SEAL. -/
def State.cStored (s : State) (leaf : Leaf) (gpa pa : Nat) (bs : List Byte) : State := (s.markUnrollable s.curWriter leaf gpa).put pa bs

theorem State.cStored_eq (s : State) (leaf : Leaf) (gpa pa : Nat) (bs : List Byte) : s.cStored leaf gpa pa bs = { s with
    mem := s.mem.setBytes pa bs
    poison := (s.clearPoison pa bs.length).poison
    tiles := (s.cStored leaf gpa pa bs).tiles
    pool := (s.markUnrollable s.curWriter leaf gpa).pool
    reservations := (s.unreserve pa bs.length).reservations } := by
  unfold State.cStored
  rw [s.markUnrollable_pool, State.put_eq]
  rfl

theorem State.cStored_tile (s : State) (leaf : Leaf) (gpa pa : Nat) (bs : List Byte) (u : BitVec 6) : (s.cStored leaf gpa pa bs).tile u =
    { s.tile u with dirtyA := ((s.cStored leaf gpa pa bs).tile u).dirtyA, dirtyB := ((s.cStored leaf gpa pa bs).tile u).dirtyB } := by
  have h := (s.markUnrollable s.curWriter leaf gpa).put_tile pa bs u
  rw [s.markUnrollable_tile] at h
  exact h

theorem State.cStored_curTile (s : State) (leaf : Leaf) (gpa pa : Nat) (bs : List Byte) : (s.cStored leaf gpa pa bs).curTile = s.curTile := by
  rw [s.cStored_eq]; rfl

theorem State.cStored_fabric (s : State) (leaf : Leaf) (gpa pa : Nat) (bs : List Byte) : (s.cStored leaf gpa pa bs).fabric = s.fabric := by
  rw [s.cStored_eq]

theorem State.cStored_ctl (s : State) (leaf : Leaf) (gpa pa : Nat) (bs : List Byte) : (s.cStored leaf gpa pa bs).ctl = s.ctl := by
  rw [State.cStored, State.put_ctl, s.markUnrollable_ctl]

/-- A store with a change of the C stream's own state. -/
theorem State.cStored_stores (s : State) (leaf : Leaf) (pa n v : Nat) (f : Control → Control) :
    s.CStores ((s.cStored leaf (s.group pa) pa (leBytes n v)).onCtl f) leaf pa n v := by
  obtain ⟨gpa, hg⟩ : ∃ gpa, gpa = s.group pa := ⟨_, rfl⟩
  rw [State.CStores, ← hg]
  obtain ⟨t, ht⟩ : ∃ t, t = s.cStored leaf gpa pa (leBytes n v) := ⟨_, rfl⟩
  have htile := s.cStored_tile leaf gpa pa (leBytes n v)
  have heq := s.cStored_eq leaf gpa pa (leBytes n v)
  have hcur := s.cStored_curTile leaf gpa pa (leBytes n v)
  have hnum : leNat (t.mem.bytes pa n) = v % 2 ^ (8 * n) := by rw [ht]; exact State.put_number _ pa n v
  rw [length_leBytes] at heq
  rw [← ht] at htile heq hcur ⊢
  have hother (u : BitVec 6) (hu : u ≠ s.curTile) : (t.onCtl f).tile u = t.tile u := t.onTile_other _ u _ (hcur ▸ hu)
  refine ⟨hnum, fun p hp => ?_, fun g => ?_, fun u => ?_, fun u hu => ?_, ?_⟩
  · show t.mem.byte p = s.mem.byte p
    rw [heq]; exact s.mem.byte_setBytes_other pa _ p (by rwa [length_leBytes])
  · show g ∈ t.poison ↔ _
    rw [heq, State.clearPoison, List.mem_filter]
    simp only [Bool.not_eq_true', Bool.and_eq_false_iff, decide_eq_false_iff_not, not_and_or]
  · by_cases hu : u = s.curTile
    · have e : (t.onCtl f).tile u = { t.tile u with control := f t.ctl } := by rw [hu, ← hcur]; exact t.onCur_tile _
      rw [e, htile u]
    · rw [hother u hu, htile u]
  · rw [hother u hu, htile u]
  · rw [State.onCtl, State.onCur, State.onTile, State.setTile]
    rw [heq]

theorem State.cStored_dropAnswers (s : State) (leaf : Leaf) (gpa pa : Nat) (bs : List Byte) (h : s.noAnswer) :
    (s.cStored leaf gpa pa bs).dropAnswers (.stream s.curTile 0) = s.cStored leaf gpa pa bs :=
  State.dropAnswers_none (by rw [s.cStored_fabric]; exact h)

/-- A word whose store is done, with a further change of the C stream's state. -/
theorem State.cStored_done (s : State) (leaf : Leaf) (gpa pa : Nat) (bs : List Byte) (ea : W64) (f : Control → Control) (h : s.noAnswer) :
    s.cRunAt ea (.ok ((s.cStored leaf gpa pa bs).onCtl f)) = (s.cStored leaf gpa pa bs).onCtl fun k => (f k).next := by
  show (((s.cStored leaf gpa pa bs).dropAnswers (.stream s.curTile 0)).onCtl f).cDone = _
  rw [s.cStored_dropAnswers leaf gpa pa bs h, State.cDone, State.onCtl_onCtl]
  simp only [Control.finish_eq]

/-- A word whose store is all that it does. -/
theorem State.cStored_ends (s : State) (leaf : Leaf) (gpa pa : Nat) (bs : List Byte) (ea : W64) (h : s.noAnswer) :
    s.cRunAt ea (.ok (s.cStored leaf gpa pa bs)) = (s.cStored leaf gpa pa bs).onCtl Control.next := by
  show ((s.cStored leaf gpa pa bs).dropAnswers (.stream s.curTile 0)).cDone = _
  rw [s.cStored_dropAnswers leaf gpa pa bs h, State.cDone]
  exact congrArg _ (funext Control.finish_eq)

end Sys2Proof.Machine

/-! ## Atomics (R65 to R68) -/

namespace Sys2Proof.Machine

theorem State.Reached.local {s : State} {k : AccessKind} {ea : W64} {n : Nat} {leaf : Leaf} {pa : Nat} (h : s.Reached k ea n leaf pa) :
    s.ownPkg (s.group pa) = true ∧ localOf (s.group pa) = pa := ⟨s.ownPkg_group h.below, s.localOf_group h.below⟩

/-- Sound bytes of one line under a page without VER, CKPT and SEAL. -/
theorem State.PlainAccess.readChecked {s : State} {k : AccessKind} {ea : W64} {n : Nat} {leaf : Leaf} {pa : Nat}
    (h : s.PlainAccess k ea n leaf pa) (h0 : 0 < n) (view : View) (hbad : s.anyPoison pa n = false) :
    s.readChecked leaf view pa n = .ok (s.mem.bytes pa n) := by
  rw [State.readChecked, s.readLocal_plain view h0 h.line h.plain.1 h.plain.2.2 h.tag h.open_ hbad]; rfl

/-- A store through a page without VER, CKPT and SEAL. -/
theorem State.PlainAccess.writeLocal {s : State} {k : AccessKind} {ea : W64} {n : Nat} {leaf : Leaf} {pa : Nat}
    (h : s.PlainAccess k ea n leaf pa) (h0 : 0 < n) (v : Nat) :
    s.writeLocal s.curWriter leaf pa (leBytes n v) = .ok (s.cStored leaf (s.group pa) pa (leBytes n v)) :=
  s.writeLocal_plain s.curWriter (leBytes n v) (by rwa [length_leBytes]) (by rw [length_leBytes]; exact h.line) h.plain h.tag h.open_

/-- One indivisible access: the old value, and the combination stored where there is one. -/
theorem State.PlainAccess.atomicAt {s : State} {ea : W64} {w : Nat} {leaf : Leaf} {pa : Nat} (h : s.PlainAccess .atomic ea w leaf pa)
    (h0 : 0 < w) (hbad : s.anyPoison pa w = false) (op v c : Nat) :
    s.atomicAt s.curWriter leaf pa op w v c = .ok (match atomicNew op w (leNat (s.mem.bytes pa w)) v c with
      | some x => (s.cStored leaf (s.group pa) pa (leBytes w x), leNat (s.mem.bytes pa w))
      | none => (s, leNat (s.mem.bytes pa w))) := by
  simp only [State.atomicAt, h.readChecked h0 .newest hbad, bind, Except.bind]
  cases atomicNew op w (leNat (s.mem.bytes pa w)) v c with
  | none => rfl
  | some x => simp only [h.writeLocal h0 x]; rfl

/-- An atomic at a checked address of the own package. -/
theorem State.cAtomic_own {s : State} {ea : W64} {w : Nat} {leaf : Leaf} {gpa : Nat} (d : BitVec 5) (op v c : Nat)
    (hreach : s.cReach .atomic ea w = .ok (leaf, gpa)) (hv : leaf.ver = false) (hown : s.ownPkg gpa = true) :
    s.cAtomic d ea op w v c =
      s.cRunAt ea ((s.atomicAt s.curWriter leaf (localOf gpa) op w v c).map fun x => x.1.setG d (atomicResult op w x.2)) := by
  rw [State.cAtomic, hreach]
  simp only [hv, hown, Bool.false_and, Bool.false_eq_true, if_false, if_true]

section
variable {s : State} {i : Instr} {ea : W64} {w op v c : Nat} {leaf : Leaf} {pa : Nat} {d : BitVec 5}
  (hexec : exec i s = .next (s.cAtomic d ea op w v c)) (h : s.PlainAccess .atomic ea w leaf pa) (h0 : 0 < w)
  (hbad : s.anyPoison pa w = false)
include hexec h h0 hbad

theorem State.PlainAccess.atomicRuns : exec i s = .next (s.cRunAt ea (.ok (
    (match atomicNew op w (leNat (s.mem.bytes pa w)) v c with
      | some x => (s.cStored leaf (s.group pa) pa (leBytes w x))
      | none => s).setG d (atomicResult op w (leNat (s.mem.bytes pa w)))))) := by
  obtain ⟨hown, hloc⟩ := h.reached.local
  rw [hexec, State.cAtomic_own d op v c h.reach h.plain.1 hown, hloc, h.atomicAt h0 hbad]
  cases atomicNew op w (leNat (s.mem.bytes pa w)) v c <;> rfl

/-- An atomic that leaves x in memory and the old value in gd. -/
theorem State.PlainAccess.combines {x : Nat} {r : W64} (hnew : atomicNew op w (leNat (s.mem.bytes pa w)) v c = some x)
    (hr : atomicResult op w (leNat (s.mem.bytes pa w)) = r) : ∃ t, exec i s = .next t ∧ s.CStores t leaf pa w x ∧
      t.ctl = { s.ctl.next with g := if d = 0 then s.ctl.g else s.ctl.g.set d.toNat r } := by
  have hrun := h.atomicRuns hexec h0 hbad
  simp only [hnew, hr] at hrun
  refine ⟨_, hrun.trans (congrArg _ (s.cStored_done leaf (s.group pa) pa (leBytes w x) ea (fun k => k.setReg d r) h.alone)),
    s.cStored_stores leaf pa w x _, ?_⟩
  rw [State.onCtl_ctl, s.cStored_ctl, Control.setReg]
  split <;> rfl

/-- An atomic that leaves memory alone. -/
theorem State.PlainAccess.compares {r : W64} (hnew : atomicNew op w (leNat (s.mem.bytes pa w)) v c = none)
    (hr : atomicResult op w (leNat (s.mem.bytes pa w)) = r) : ∃ t, exec i s = .next t ∧ s.CRegister t d r := by
  have hrun := h.atomicRuns hexec h0 hbad
  simp only [hnew, hr, State.setG, State.cRun_onCtl, State.dropAnswers_none h.alone] at hrun
  refine ⟨_, hrun, ?_⟩
  have e : s.result d r = s.onCtl fun k => (k.setReg d r).next := by
    simp only [State.result, State.cDone, State.setG, State.onCtl_onCtl, Control.finish_eq]
  exact e ▸ s.result_register d r

end

/-! ### NaN operands of fadd32 (R66) -/

/-- A pattern above that of infinity, its sign aside, is a NaN. -/
theorem f32_value_nan {x : W32} (h : 0x7F800000 < x.toNat % 2 ^ 31) : ∃ b, f32.value false x.toNat = .nan b := by
  have hx := x.isLt
  have he : bits x.toNat 30 23 = 255 := by unfold bits; omega
  have hm : bits x.toNat 22 0 ≠ 0 := by unfold bits; omega
  refine ⟨(f32.width != 8 && bits (bits x.toNat 22 0) 22 22 == 0), ?_⟩
  simp [FloatFormat.value, f32, he, hm]

theorem addVal_nan {a b : Val} (mode : Nat) (h : (∃ x, a = .nan x) ∨ ∃ x, b = .nan x) : (addVal mode a b).1 = .nan false := by
  rcases h with ⟨x, rfl⟩ | ⟨x, rfl⟩
  · cases b <;> rfl
  · cases a <;> rfl

theorem fadd32_nan {a b : W32} (h : 0x7F800000 < a.toNat % 2 ^ 31 ∨ 0x7F800000 < b.toNat % 2 ^ 31) : fadd32 a b = 0x7FC00000 := by
  rw [fadd32, addVal_nan 0 (h.imp f32_value_nan f32_value_nan)]; rfl

/-! ### The obligation -/

theorem State.CStores.congr {s t : State} {leaf : Leaf} {pa n x y : Nat} (h : s.CStores t leaf pa n x)
    (he : x % 2 ^ (8 * n) = y % 2 ^ (8 * n)) : s.CStores t leaf pa n y := by
  obtain ⟨hnum, hrest⟩ := h
  exact ⟨hnum.trans he, hrest⟩

/-- The old value of an atomic other than fadd32, sign-extended when it is 4 bytes wide (R65). -/
theorem atomicResult_signed {op : Nat} (hop : op ≠ 9) (w : BitVec 1) (old : Nat) :
    atomicResult op (atomicWidth w) old = BitVec.ofInt 64 (BitVec.ofNat (8 * atomicWidth w) old).toInt := by
  by_cases hw : w = 1
  · have h8 : atomicWidth w = 8 := if_pos hw
    rw [h8, atomicResult, if_pos (Or.inl rfl), BitVec.ofInt_toInt]
  · have h4 : atomicWidth w = 4 := if_neg hw
    rw [h4, atomicResult, if_neg (by simp [hop]), sext64, toSigned_eq_toInt (by decide)]

theorem amoCombine_min {w : Nat} (h : 0 < w) (old b : Nat) : amoCombine 4 w old b =
    if (BitVec.ofNat (8 * w) b).toInt < (BitVec.ofNat (8 * w) old).toInt then b else old := by
  simp only [amoCombine, toSigned_eq_toInt (show 0 < 8 * w by omega)]

theorem amoCombine_max {w : Nat} (h : 0 < w) (old b : Nat) : amoCombine 5 w old b =
    if (BitVec.ofNat (8 * w) old).toInt < (BitVec.ofNat (8 * w) b).toInt then b else old := by
  simp only [amoCombine, toSigned_eq_toInt (show 0 < 8 * w by omega)]

/-- Settles O11: every form is `State.cAtomic`, which reads the old value and stores its combination; a NaN operand of fadd32 makes
the sum the canonical NaN. -/
theorem atomics : Obligations.Atomics := by
  intro s d a b w o q leaf pa n k old v sold sv back hbad hacc ends
  have h0 : 0 < n := by show 0 < if w = 1 then 8 else 4; split <;> decide
  have amo {i : Instr} {op x y : Nat} (hexec : exec i s = .next (s.cAtomic d (s.g a) op n (s.g b).toNat 0))
      (hop : op ≠ 9 ∧ op ≠ 10) (hx : amoCombine op n old v = x) (hy : x % 2 ^ k = y % 2 ^ k) :
      ∃ t, exec i s = .next t ∧ s.CStores t leaf pa n y ∧ ends t back := by
    have hnew : atomicNew op n old (s.g b).toNat 0 = some x := by rw [atomicNew, if_neg hop.2, if_neg hop.1, ← hx]
    obtain ⟨t, ht, hs, hends⟩ := hacc.combines hexec h0 hbad hnew (atomicResult_signed hop.1 w old)
    exact ⟨t, ht, hs.congr hy, hends⟩
  refine ⟨?_, fun he => ?_, fun hne => ?_, fun hw => ?_⟩
  · rw [← List.forall_iff_forall_mem]
    exact ⟨amo rfl (by decide) rfl (Nat.mod_mod _ _), amo rfl (by decide) rfl rfl, amo rfl (by decide) rfl rfl, amo rfl (by decide) rfl rfl,
      amo rfl (by decide) (amoCombine_min h0 old v) rfl, amo rfl (by decide) (amoCombine_max h0 old v) rfl, amo rfl (by decide) rfl rfl,
      amo rfl (by decide) rfl rfl, amo rfl (by decide) rfl rfl⟩
  · exact hacc.combines rfl h0 hbad ((if_pos rfl).trans (if_pos he)) (atomicResult_signed (by decide) w old)
  · exact hacc.compares rfl h0 hbad ((if_pos rfl).trans (if_neg hne)) (atomicResult_signed (by decide) w old)
  · subst hw
    have ho : (BitVec.ofNat 32 old).toNat = old := by rw [BitVec.toNat_ofNat]; exact Nat.mod_eq_of_lt (leNat_bytes_lt s.mem pa 4)
    have hv : (BitVec.ofNat 32 v).toNat = v := by rw [BitVec.toNat_ofNat]; exact Nat.mod_mod _ _
    have hmod : BitVec.ofNat 32 v = BitVec.ofNat 32 (s.g b).toNat := BitVec.eq_of_toNat_eq (by rw [hv, BitVec.toNat_ofNat]; rfl)
    refine ⟨hacc.combines (op := 9) rfl h0 hbad ?_ rfl, fun hnan => fadd32_nan (by rwa [ho, hv])⟩
    rw [hmod]; rfl

end Sys2Proof.Machine

/-! ## Versions of a line (R353 to R358, R366, R370) -/

namespace Sys2Proof.Machine

/-! ### The lines and the records of a line -/

theorem State.line_setLine (s : State) (l q : Nat) (m : LineMeta) : (s.setLine l m).line q = if q = l then m else s.line q :=
  tval_tset _ _ _ _ _

theorem State.records_head {s : State} {l i : Nat} {c : List Nat} {r : Record} (hc : (s.line l).chain = i :: c) (hr : s.record? i = some r) :
    ∃ rest, s.records l = (i, r) :: rest := by
  refine ⟨c.filterMap fun i => (s.record? i).map fun r => (i, r), ?_⟩
  rw [State.records, hc, List.filterMap_cons, hr]; rfl

/-- t differs from s at most in the records and in the chain of line l. -/
structure State.ChainOnly (s t : State) (l : Nat) : Prop where
  frame : t = { s with versions := { s.versions with lines := t.versions.lines, records := t.versions.records } }
  line : t.line l = { s.line l with chain := (t.line l).chain }
  others : ∀ q, q ≠ l → t.line q = s.line q

theorem State.ChainOnly.refl (s : State) (l : Nat) : s.ChainOnly s l := ⟨rfl, rfl, fun _ _ => rfl⟩

theorem State.ChainOnly.trans {s t u : State} {l : Nat} (h1 : s.ChainOnly t l) (h2 : t.ChainOnly u l) : s.ChainOnly u l :=
  ⟨by rw [h2.frame, h1.frame], by rw [h2.line, h1.line], fun q hq => (h2.others q hq).trans (h1.others q hq)⟩

/-- A change of the chain of a line and of the records. -/
theorem State.chainOnly_set (s : State) (l : Nat) (c : List Nat) (r : Table Record) :
    s.ChainOnly { s.setLine l { s.line l with chain := c } with versions := { (s.setLine l { s.line l with chain := c }).versions with records := r } } l := by
  have h (q : Nat) : State.line { s.setLine l { s.line l with chain := c } with
      versions := { (s.setLine l { s.line l with chain := c }).versions with records := r } } q =
      if q = l then { s.line l with chain := c } else s.line q := s.line_setLine l q _
  refine ⟨rfl, ?_, fun q hq => (h q).trans (if_neg hq)⟩
  rw [h l, if_pos rfl]

theorem State.freeRecord_chainOnly (s : State) (l i : Nat) : s.ChainOnly (s.freeRecord l i) l := s.chainOnly_set l _ _

theorem State.reclaimLine_chainOnly (s : State) (l : Nat) : s.ChainOnly (s.reclaimLine l) l := by
  have key : ∀ (c : List Nat) (u : State), u.ChainOnly (c.foldl (fun s i => s.freeRecord l i) u) l := fun c => by
    induction c with
    | nil => exact fun u => .refl u l
    | cons i c ih => exact fun u => (u.freeRecord_chainOnly l i).trans (ih _)
  exact key _ s

/-- Where line l has room, a record becomes its newest (R366). -/
theorem State.pushRecord_room {s : State} {l : Nat} (r : Record) (h : s.recordRoom l) :
    ∃ t i c, s.pushRecord l r = .ok t ∧ s.ChainOnly t l ∧ (t.line l).chain = i :: c ∧ t.record? i = some r := by
  obtain ⟨u, hu⟩ : ∃ u, u = s.reclaimLine l := ⟨_, rfl⟩
  have hroom : ¬((u.line l).chain.length ≥ 7 ∨ u.freeRecords = 0) := by
    obtain ⟨h1, h2⟩ := h
    rw [hu]; exact not_or.2 ⟨by omega, h2⟩
  obtain ⟨i, hi⟩ : ∃ i, i = freeIndex u.versions.records 0 := ⟨_, rfl⟩
  obtain ⟨t, ht⟩ : ∃ t, t = { u.setLine l { u.line l with chain := i :: (u.line l).chain } with
      versions := { (u.setLine l { u.line l with chain := i :: (u.line l).chain }).versions with records := tput u.versions.records i r } } := ⟨_, rfl⟩
  have hpush : s.pushRecord l r = .ok t := by
    rw [State.pushRecord, ← hu, if_neg hroom, ht, hi]; rfl
  have hchain := u.chainOnly_set l (i :: (u.line l).chain) (tput u.versions.records i r)
  rw [← ht] at hchain
  have hline : t.line l = { u.line l with chain := i :: (u.line l).chain } := by
    rw [ht]; exact (u.line_setLine l l _).trans (if_pos rfl)
  refine ⟨t, i, (u.line l).chain, hpush, .trans (hu ▸ s.reclaimLine_chainOnly l) hchain, by rw [hline], ?_⟩
  rw [ht]; exact (tget_tput _ _ _ _).trans (if_pos rfl)

/-- Where it has none, the record is denied. -/
theorem State.pushRecord_denied {s : State} {l : Nat} (r : Record) (h : ¬s.recordRoom l) :
    s.pushRecord l r = .error (.denied (lineAddr l)) := by
  refine if_pos ?_
  rw [State.recordRoom, not_and_or, not_lt, not_not] at h
  exact h

/-! ### What a write does to its line before its bytes change -/

/-- The line's entry with the undo mark of a logged write and the stamp of a VER write. -/
def State.stamped (s : State) (w : Writer) (leaf : Leaf) (l : Nat) (m : LineMeta) : LineMeta :=
  let logged : LineMeta := if s.logsUndo w leaf l = true then
    { m with intv := (match s.writerNode w with | some n => n.tag | none => 0), undo := true } else m
  if leaf.ver = true then { logged with stamp := s.versions.clock } else logged

theorem State.stamped_stamp (s : State) (w : Writer) (leaf : Leaf) (l : Nat) (m : LineMeta) :
    (s.stamped w leaf l m).stamp = if leaf.ver = true then s.versions.clock else m.stamp := by
  by_cases hv : leaf.ver = true
  · simp only [State.stamped, if_pos hv]
  · simp only [State.stamped, if_neg hv]
    split <;> rfl

theorem State.stamped_chain (s : State) (w : Writer) (leaf : Leaf) (l : Nat) (m : LineMeta) : (s.stamped w leaf l m).chain = m.chain := by
  unfold State.stamped
  split <;> dsimp only <;> split <;> rfl

theorem State.stamped_undo (s : State) (w : Writer) (leaf : Leaf) (l : Nat) (m : LineMeta) :
    if s.logsUndo w leaf l = true then (s.stamped w leaf l m).undo = true ∧ some (s.stamped w leaf l m).intv = (s.writerNode w).map Node.tag
    else (s.stamped w leaf l m).undo = m.undo ∧ (s.stamped w leaf l m).intv = m.intv := by
  unfold State.stamped
  by_cases h : s.logsUndo w leaf l = true
  · simp only [if_pos h]
    obtain ⟨n, hn⟩ : ∃ n, s.writerNode w = some n := by
      cases hn : s.writerNode w with
      | none => rw [State.logsUndo, hn, Bool.and_false] at h; cases h
      | some n => exact ⟨n, rfl⟩
    rw [hn]; split <;> exact ⟨rfl, rfl⟩
  · simp only [if_neg h]
    split <;> exact ⟨rfl, rfl⟩

/-- A write keeps the old version of its line, or logs it, in a new record. -/
def State.needsRecord (s : State) (w : Writer) (leaf : Leaf) (l : Nat) : Bool := s.keepsOld leaf l || s.logsUndo w leaf l

theorem State.logsUndo_node {s : State} {w : Writer} {n : Node} (h : s.writerNode w = some n) (leaf : Leaf) (l : Nat) :
    s.logsUndo w leaf l = (leaf.ckpt && n.ckpt && !(s.undoOf l && (s.line l).intv == n.tag)) := by
  rw [State.logsUndo, h, Bool.and_assoc]

theorem State.logsUndo_none {s : State} {w : Writer} (h : s.writerNode w = none) (leaf : Leaf) (l : Nat) : s.logsUndo w leaf l = false := by
  rw [State.logsUndo, h, Bool.and_false]

theorem State.keepsOld_clock (s : State) (leaf : Leaf) (l : Nat) :
    (leaf.ver && decide ((s.line l).stamp.toNat ≠ s.versions.clock.toNat) &&
      s.liveSnaps.any fun x => decide ((s.line l).stamp.toNat ≤ x) && decide (x < s.versions.clock.toNat)) = s.keepsOld leaf l := by
  have h : decide ((s.line l).stamp.toNat ≠ s.versions.clock.toNat) = ((s.line l).stamp != s.versions.clock) := by
    rw [bne, Bool.eq_iff_iff, decide_eq_true_iff, Bool.not_eq_true', beq_eq_false_iff_ne, ne_eq, ne_eq, BitVec.toNat_inj]
  simp only [h, State.keepsOld, Bool.decide_and]

theorem bind_return_map (r : Res State) (f : State → State) : (do let u ← r; return f u) = r.map f := by cases r <;> rfl

/-- What `State.beforeWrite` does: the record, where the write needs one, and then the line's entry. -/
theorem State.beforeWrite_eq {s : State} (w : Writer) (leaf : Leaf) {l : Nat} (htag : tget s.seals l = none) :
    s.beforeWrite w leaf l s.versions.clock.toNat =
      (if s.needsRecord w leaf l = true then s.pushRecord l (s.oldVersion w leaf l) else .ok s).map fun u =>
        u.setLine l (s.stamped w leaf l (u.line l)) := by
  have hdata : s.lineData l = s.mem.bytes (128 * l) 128 := by rw [State.lineData, lineAddr, Nat.mul_comm]
  cases hn : s.writerNode w with
  | none =>
    simp only [State.beforeWrite, State.needsRecord, State.oldVersion, State.stamped, s.logsUndo_none hn, hn, s.keepsOld_clock, hdata, htag,
      bind_return_map, Bool.and_false, Bool.false_and, BitVec.ofNat_toNat, BitVec.setWidth_eq]
    exact (apply_ite (Except.map _) _ _ _).symm
  | some n =>
    simp only [State.beforeWrite, State.needsRecord, State.oldVersion, State.stamped, s.logsUndo_node hn, hn, s.keepsOld_clock, hdata, htag,
      bind_return_map, BitVec.ofNat_toNat, BitVec.setWidth_eq]
    exact (apply_ite (Except.map _) _ _ _).symm

theorem State.VersionWritten.congr {s t u : State} {w : Writer} {leaf : Leaf} {l : Nat} (h : s.VersionWritten t w leaf l)
    (e : u.versions = t.versions) : s.VersionWritten u w leaf l := by
  have hline (q : Nat) : u.line q = t.line q := by rw [State.line, e, State.line]
  have hrecs : u.records l = t.records l := by simp only [State.records, State.record?, hline, e]
  exact ⟨hline l ▸ h.stamp, hline l ▸ h.undo, hrecs ▸ h.kept, hrecs ▸ h.same, fun q hq => (hline q).trans (h.others q hq)⟩

theorem State.needsRecord_iff {s : State} {w : Writer} {leaf : Leaf} {l : Nat} :
    s.needsRecord w leaf l = true ↔ s.keepsOld leaf l = true ∨ s.logsUndo w leaf l = true := by rw [State.needsRecord, Bool.or_eq_true]

/-- A line stamped and marked, once its old version stands in a record where it needs one. -/
theorem State.versionWritten_setLine {s t : State} {w : Writer} {leaf : Leaf} {l : Nat} (h : s.ChainOnly t l)
    (hkept : s.needsRecord w leaf l = true → ∃ i c, (t.line l).chain = i :: c ∧ t.record? i = some (s.oldVersion w leaf l))
    (hsame : s.needsRecord w leaf l = false → t = s) : s.VersionWritten (t.setLine l (s.stamped w leaf l (t.line l))) w leaf l := by
  have hline (q : Nat) := t.line_setLine l q (s.stamped w leaf l (t.line l))
  have hl := (hline l).trans (if_pos rfl)
  have hundo := s.stamped_undo w leaf l (t.line l)
  have hrecs : State.records (t.setLine l (s.stamped w leaf l (t.line l))) l = t.records l := by
    rw [State.records, hl, s.stamped_chain]; rfl
  constructor
  case stamp => rw [hl, s.stamped_stamp, h.line]
  case undo => rw [hl]; rw [h.line] at hundo ⊢; exact hundo
  case kept =>
    intro hneed
    obtain ⟨i, c, hc, hr⟩ := hkept (State.needsRecord_iff.2 hneed)
    obtain ⟨rest, hrest⟩ := State.records_head hc hr
    exact ⟨i, by rw [hrecs, hrest]; rfl⟩
  case same =>
    intro hk hu
    rw [hrecs, hsame (by rw [State.needsRecord, hk, hu]; rfl)]
  case others => exact fun q hq => ((hline q).trans (if_neg hq)).trans (h.others q hq)

/-- Before a write that needs no record, or has room for one, the versions of its line are brought up to date. -/
theorem State.beforeWrite_ok {s : State} {w : Writer} {leaf : Leaf} {l : Nat} (htag : tget s.seals l = none)
    (hroom : s.needsRecord w leaf l = true → s.recordRoom l) : ∃ v, s.beforeWrite w leaf l s.versions.clock.toNat = .ok { s with versions := v } ∧
      s.VersionWritten { s with versions := v } w leaf l := by
  rw [s.beforeWrite_eq w leaf htag]
  by_cases hneed : s.needsRecord w leaf l = true
  · obtain ⟨t, i, c, hpush, hchain, hc, hr⟩ := State.pushRecord_room (s.oldVersion w leaf l) (hroom hneed)
    have hw := State.versionWritten_setLine (w := w) (leaf := leaf) hchain (fun _ => ⟨i, c, hc, hr⟩) (fun h => absurd (h.symm.trans hneed) (by decide))
    obtain ⟨v, rfl⟩ : ∃ v, t = { s with versions := v } := ⟨_, hchain.frame⟩
    exact ⟨_, by rw [if_pos hneed, hpush]; rfl, hw⟩
  · have hw := State.versionWritten_setLine (w := w) (leaf := leaf) (.refl s l) (fun h => absurd h hneed) fun _ => rfl
    exact ⟨_, by rw [if_neg hneed]; rfl, hw⟩

/-- A write that has no room for the record it needs is denied. -/
theorem State.beforeWrite_denied {s : State} {w : Writer} {leaf : Leaf} {l : Nat} (htag : tget s.seals l = none)
    (hneed : s.needsRecord w leaf l = true) (hroom : ¬s.recordRoom l) :
    s.beforeWrite w leaf l s.versions.clock.toNat = .error (.denied (lineAddr l)) := by
  rw [s.beforeWrite_eq w leaf htag, if_pos hneed, State.pushRecord_denied _ hroom]; rfl

/-- A write through a page without VER and CKPT leaves every line's versions. -/
theorem State.versionWritten_plain (s : State) (w : Writer) {leaf : Leaf} (l : Nat) (h : leaf.ver = false ∧ leaf.ckpt = false) :
    s.VersionWritten s w leaf l := by
  have hk : s.keepsOld leaf l = false := by simp only [State.keepsOld, h.1, Bool.false_and]
  have hu : s.logsUndo w leaf l = false := by rw [State.logsUndo, h.2, Bool.false_and]
  constructor
  case stamp => rw [h.1]; rfl
  case undo => rw [hu]; exact ⟨rfl, rfl⟩
  case kept => exact fun hneed => by rw [hk, hu] at hneed; exact absurd hneed (by decide)
  case same => exact fun _ _ => rfl
  case others => exact fun _ _ => rfl

/-! ### Intervals that become unrollable (R371) -/

/-- t differs from s at most in the marks of intervals that can no longer be rolled back. -/
def State.Spoils (s t : State) : Prop :=
  ∃ f : Node → Node, (∀ n, f n = { n with unrollable := (f n).unrollable }) ∧ t = { s with pool := { s.pool with nodes := s.pool.nodes.map f } }

theorem State.Spoils.refl (s : State) : s.Spoils s := ⟨id, fun _ => rfl, by rw [List.map_id]⟩

theorem State.Spoils.trans {s t u : State} (h1 : s.Spoils t) (h2 : t.Spoils u) : s.Spoils u := by
  obtain ⟨f, hf, rfl⟩ := h1
  obtain ⟨g, hg, rfl⟩ := h2
  exact ⟨g ∘ f, fun n => by rw [Function.comp_apply, hg (f n), hf n], by simp only [List.map_map]⟩

/-- Some intervals are marked. -/
theorem State.spoils_map (s : State) (p : Node → Prop) [DecidablePred p] :
    s.Spoils { s with pool := { s.pool with nodes := s.pool.nodes.map fun n => if p n then { n with unrollable := true } else n } } :=
  ⟨_, fun n => by split <;> rfl, rfl⟩

theorem State.markUnrollable_spoils (s : State) (w : Writer) (leaf : Leaf) (gpa : Nat) : s.Spoils (s.markUnrollable w leaf gpa) := by
  have second (t : State) (c : Bool) (p : Node → Prop) [DecidablePred p] (h : s.Spoils t) : s.Spoils (if c = true then
      { t with pool := { t.pool with nodes := t.pool.nodes.map fun n => if p n then { n with unrollable := true } else n } } else t) := by
    cases c
    · exact h
    · exact h.trans (t.spoils_map p)
  unfold State.markUnrollable
  refine second _ _ _ ?_
  split
  · split
    · exact s.spoils_map _
    · exact .refl s
  · exact .refl s

/-- A node with its mark is the same interval. -/
theorem State.Spoils.writerNode {s t : State} (h : s.Spoils t) (w : Writer) :
    (t.writerNode w).map (fun n => (n.ckpt, n.tag)) = (s.writerNode w).map fun n => (n.ckpt, n.tag) := by
  obtain ⟨f, hf, rfl⟩ := h
  rw [State.writerNode, State.writerNode]
  cases w.node with
  | none => rfl
  | some k =>
    have hp (n : Node) : ((f n).handle == k && decide ((f n).phase ≠ .complete)) = (n.handle == k && decide (n.phase ≠ .complete)) := by
      rw [hf n]
    have hq (n : Node) : ((f n).ckpt, (f n).tag) = (n.ckpt, n.tag) := by rw [hf n]; rfl
    simp only [Option.bind_some, State.node?, List.find?_map, Option.map_map, Function.comp_def, hp, hq]

theorem State.Spoils.openTag {s t : State} (h : s.Spoils t) (tag : BitVec 24) : t.openTag tag = s.openTag tag := by
  obtain ⟨f, hf, rfl⟩ := h
  have hp (n : Node) : ((f n).ckpt && decide ((f n).phase = .running) && (f n).tag == tag) =
      (n.ckpt && decide (n.phase = .running) && n.tag == tag) := by rw [hf n]; rfl
  simp only [State.openTag, List.any_map, Function.comp_def, hp]

theorem State.Spoils.versions {s t : State} (h : s.Spoils t) : t = { s with pool := t.pool } := by
  obtain ⟨f, _, rfl⟩ := h; rfl

/-- The tag of the writer's interval, and whether it is one of checkpoint mode. -/
theorem State.logsUndo_interval (s : State) (w : Writer) (leaf : Leaf) (l : Nat) :
    s.logsUndo w leaf l = (leaf.ckpt && match (s.writerNode w).map fun n => (n.ckpt, n.tag) with
      | some n => n.1 && !((s.line l).undo && s.openTag (s.line l).intv && (s.line l).intv == n.2)
      | none => false) := by
  rw [State.logsUndo, State.undoOf]
  cases s.writerNode w <;> rfl

section
variable {s t : State} (h : s.Spoils t)
include h

theorem State.Spoils.line (l : Nat) : t.line l = s.line l := by rw [h.versions]; rfl
theorem State.Spoils.records (l : Nat) : t.records l = s.records l := by rw [h.versions]; rfl
theorem State.Spoils.keepsOld (leaf : Leaf) (l : Nat) : t.keepsOld leaf l = s.keepsOld leaf l := by rw [h.versions]; rfl

theorem State.Spoils.logsUndo (w : Writer) (leaf : Leaf) (l : Nat) : t.logsUndo w leaf l = s.logsUndo w leaf l := by
  rw [t.logsUndo_interval, s.logsUndo_interval, h.writerNode, h.line, h.openTag]

theorem State.Spoils.needsRecord (w : Writer) (leaf : Leaf) (l : Nat) : t.needsRecord w leaf l = s.needsRecord w leaf l := by
  rw [State.needsRecord, h.keepsOld, h.logsUndo]; rfl

theorem State.Spoils.tag (w : Writer) : (t.writerNode w).map Node.tag = (s.writerNode w).map Node.tag := by
  have e := congrArg (Option.map Prod.snd) (h.writerNode w)
  simpa only [Option.map_map, Function.comp_def] using e

theorem State.Spoils.oldVersion (w : Writer) (leaf : Leaf) (l : Nat) : t.oldVersion w leaf l = s.oldVersion w leaf l := by
  have tag (u : State) : (match u.writerNode w with | some n => n.tag | none => 0) = ((u.writerNode w).map Node.tag).getD 0 := by
    cases u.writerNode w <;> rfl
  have hp : t.linePoison l = s.linePoison l := by rw [h.versions]; rfl
  have hm : t.mem = s.mem := by rw [h.versions]
  have e (u : State) : u.oldVersion w leaf l = { u.oldVersion w leaf l with
      intv := if u.logsUndo w leaf l = true then ((u.writerNode w).map Node.tag).getD 0 else 0 } := by
    rw [← tag]; rfl
  rw [e t, e s, h.tag]
  simp only [State.oldVersion, h.line, h.keepsOld, h.logsUndo, hp, hm]

theorem State.Spoils.reclaimable (l i : Nat) : t.reclaimable l i = s.reclaimable l i := by
  have hr : t.record? i = s.record? i := by rw [h.versions]; rfl
  have hlwm : t.lwm = s.lwm := by rw [h.versions]; rfl
  simp only [State.reclaimable, hr, hlwm, h.openTag, h.records, h.line]

theorem State.Spoils.recordRoom (l : Nat) : t.recordRoom l ↔ s.recordRoom l := by
  have free (c : List Nat) : ∀ u : State, c.foldl (fun u i => u.freeRecord l i) { u with pool := t.pool } =
      { c.foldl (fun u i => u.freeRecord l i) u with pool := t.pool } := by
    induction c with
    | nil => exact fun _ => rfl
    | cons i c ih => exact fun u => ih (u.freeRecord l i)
  have hfun : t.reclaimable l = s.reclaimable l := funext (h.reclaimable l)
  have hreclaim : t.reclaimLine l = { s.reclaimLine l with pool := t.pool } := by
    rw [State.reclaimLine, State.reclaimLine, hfun, h.line]
    conv_lhs => rw [h.versions]
    exact free _ s
  rw [State.recordRoom, State.recordRoom, hreclaim]; rfl

/-- What a write leaves of a line's versions does not rest on the marks. -/
theorem State.Spoils.versionWritten {u : State} {w : Writer} {leaf : Leaf} {l : Nat} (hw : t.VersionWritten u w leaf l) :
    s.VersionWritten u w leaf l := by
  obtain ⟨hstamp, hundo, hkept, hsame, hothers⟩ := hw
  have hclock : t.versions = s.versions := by rw [h.versions]
  rw [h.line, hclock] at hstamp
  rw [h.logsUndo, h.tag, h.line] at hundo
  rw [h.keepsOld, h.logsUndo, h.oldVersion] at hkept
  rw [h.keepsOld, h.logsUndo, h.records] at hsame
  exact ⟨hstamp, hundo, hkept, hsame, fun q hq => (hothers q hq).trans (h.line q)⟩

end

end Sys2Proof.Machine

/-! ## Stores of one line (R62, R357, R358, R374) -/

namespace Sys2Proof.Machine

/-- A store of n bytes at a checked address of the own package. -/
theorem State.Reached.cWrite {s : State} {ea : W64} {n : Nat} {leaf : Leaf} {pa : Nat} (h : s.Reached .write ea n leaf pa) (v : Nat) :
    s.cWrite ea n v = s.cRunAt ea (s.cStoreAt leaf (s.group pa) (leBytes n v)) := by
  rw [State.cWrite, h.reach]
  exact if_pos h.local.1

/-- Outside a transaction, or through a page without VER, a store is a write of the tile. -/
theorem State.cStoreAt_plain {s : State} {leaf : Leaf} {gpa : Nat} (hreg : s.regOffset gpa = none)
    (hplain : leaf.ver = false ∨ s.openSlot s.curTile = none) (bs : List Byte) :
    s.cStoreAt leaf gpa bs = s.writeLocal s.curWriter leaf (localOf gpa) bs := by
  simp only [State.cStoreAt, hreg]
  split
  next hslot hver => rcases hplain with h | h <;> simp_all
  next => rfl

/-- In an open transaction, a store through a VER page goes to its tentative version. -/
theorem State.cStoreAt_tentative {s : State} {leaf : Leaf} {gpa : Nat} {k : Byte} (hreg : s.regOffset gpa = none)
    (hver : leaf.ver = true) (hslot : s.openSlot s.curTile = some k) (bs : List Byte) :
    s.cStoreAt leaf gpa bs = s.tstore leaf k (localOf gpa) bs := by
  simp only [State.cStoreAt, hreg, hslot, hver]

theorem State.Reached.writes {s : State} {ea : W64} {n : Nat} {leaf : Leaf} {pa : Nat} (h : s.Reached .write ea n leaf pa)
    (hplain : leaf.ver = false ∨ s.openSlot s.curTile = none) (v : Nat) :
    s.cWrite ea n v = s.cRunAt ea (s.writeLocal s.curWriter leaf pa (leBytes n v)) := by
  rw [h.cWrite, State.cStoreAt_plain (s.regOffset_none h.below h.store) hplain, h.local.2]

theorem State.Reached.storesTentative {s : State} {ea : W64} {n : Nat} {leaf : Leaf} {pa : Nat} {k : Byte}
    (h : s.Reached .write ea n leaf pa) (hver : leaf.ver = true) (hslot : s.openSlot s.curTile = some k) (v : Nat) :
    s.cWrite ea n v = s.cRunAt ea (s.tstore leaf k pa (leBytes n v)) := by
  rw [h.cWrite, State.cStoreAt_tentative (s.regOffset_none h.below h.store) hver hslot, h.local.2]

theorem State.writeLocal_line (s : State) (w : Writer) (leaf : Leaf) {pa : Nat} {bs : List Byte} (h0 : 0 < bs.length)
    (hline : pa % 128 + bs.length ≤ 128) : s.writeLocal w leaf pa bs = s.writePart w leaf pa bs s.versions.clock.toNat := by
  simp only [State.writeLocal, pieces_own h0 hline, List.foldlM_cons, List.foldlM_nil, Nat.sub_self, List.drop_zero, List.take_length]
  exact bind_pure _

/-- A write of one line of HBM (R357, R358, R370, R374). -/
theorem State.writePart_hbm (s : State) (w : Writer) (leaf : Leaf) {pa : Nat} (bs : List Byte) (stamp : Nat) (h : pa < 2 ^ 39) :
    s.writePart w leaf pa bs stamp = if leaf.ver = true ∧ s.versions.rebasing = true then .error .stall else
      (if leaf.ver = true ∨ leaf.ckpt = true then (s.markUnrollable w leaf (s.group pa)).beforeWrite w leaf (pa / 128) stamp
        else .ok (s.markUnrollable w leaf (s.group pa))).map fun u => (u.sealWrite leaf (pa / 128) pa bs.length).put pa bs := by
  simp only [State.writePart, if_pos (show pa < hbmEnd from h), Bool.true_and, Bool.and_eq_true, Bool.or_eq_true, bind_return_map]
  rw [apply_ite (Except.map _)]

theorem State.sealWrite_plain {s : State} {leaf : Leaf} {l : Nat} (pa n : Nat) (hs : leaf.sealed = false) (htag : tget s.seals l = none) :
    s.sealWrite leaf l pa n = s := if_pos (by rw [hs, htag]; rfl)

/-- t differs from s at most in what a write brings up to date before its bytes change: intervals' marks and lines' versions. -/
def State.Prepares (s t : State) : Prop := t = { s with pool := t.pool, versions := t.versions }

section
variable {s : State} {w : Writer} {leaf : Leaf} {pa : Nat} {bs : List Byte} (hpa : pa < 2 ^ 39) (h0 : 0 < bs.length)
  (hline : pa % 128 + bs.length ≤ 128)
include hpa h0 hline

/-- A write that needs no record, or has room for one, leaves its bytes and the line's versions (R358, R370). -/
theorem State.writeLocal_versions (hs : leaf.sealed = false) (htag : tget s.seals (pa / 128) = none)
    (hbase : leaf.ver = false ∨ s.versions.rebasing = false)
    (hroom : s.needsRecord w leaf (pa / 128) = true → s.recordRoom (pa / 128)) :
    ∃ u, s.writeLocal w leaf pa bs = .ok (u.put pa bs) ∧ s.Prepares u ∧ s.VersionWritten u w leaf (pa / 128) := by
  rw [s.writeLocal_line w leaf h0 hline, s.writePart_hbm w leaf bs _ hpa, if_neg (by rcases hbase with h | h <;> simp [h])]
  have hsp := s.markUnrollable_spoils w leaf (s.group pa)
  obtain ⟨t, ht⟩ : ∃ t, t = s.markUnrollable w leaf (s.group pa) := ⟨_, rfl⟩
  rw [← ht] at hsp ⊢
  have hclock : t.versions = s.versions := by rw [hsp.versions]
  have htag' : tget t.seals (pa / 128) = none := by rw [hsp.versions]; exact htag
  split
  next hattr =>
    obtain ⟨v, hv, hw⟩ := State.beforeWrite_ok htag' fun hneed => (hsp.recordRoom _).2 (hroom (hsp.needsRecord w leaf _ ▸ hneed))
    rw [hclock] at hv
    refine ⟨_, ?_, ?_, hsp.versionWritten hw⟩
    · rw [hv]
      exact congrArg (fun u => Except.ok (State.put u pa bs)) (State.sealWrite_plain pa bs.length hs htag')
    · rw [State.Prepares, hsp.versions]
  next hattr =>
    simp only [not_or, Bool.not_eq_true] at hattr
    refine ⟨t, ?_, ?_, hsp.versionWritten (t.versionWritten_plain w _ hattr)⟩
    · exact congrArg (fun u => Except.ok (State.put u pa bs)) (State.sealWrite_plain pa bs.length hs htag')
    · rw [State.Prepares, hsp.versions]

/-- A write whose record has no room is denied (R366). -/
theorem State.writeLocal_denied (htag : tget s.seals (pa / 128) = none)
    (hbase : leaf.ver = false ∨ s.versions.rebasing = false)
    (hneed : s.needsRecord w leaf (pa / 128) = true) (hroom : ¬s.recordRoom (pa / 128)) :
    s.writeLocal w leaf pa bs = .error (.denied (lineAddr (pa / 128))) := by
  rw [s.writeLocal_line w leaf h0 hline, s.writePart_hbm w leaf bs _ hpa, if_neg (by rcases hbase with h | h <;> simp [h])]
  have hattr : leaf.ver = true ∨ leaf.ckpt = true := by
    rcases State.needsRecord_iff.1 hneed with h | h
    · rw [State.keepsOld, Bool.and_assoc, Bool.and_eq_true] at h; exact .inl h.1
    · rw [State.logsUndo, Bool.and_eq_true] at h; exact .inr h.1
  have hsp := s.markUnrollable_spoils w leaf (s.group pa)
  obtain ⟨t, ht⟩ : ∃ t, t = s.markUnrollable w leaf (s.group pa) := ⟨_, rfl⟩
  rw [← ht] at hsp ⊢
  have hclock : s.versions = t.versions := by rw [hsp.versions]
  have htag' : tget t.seals (pa / 128) = none := by rw [hsp.versions]; exact htag
  rw [if_pos hattr, hclock, State.beforeWrite_denied htag' ((hsp.needsRecord w leaf _).trans hneed) (mt (hsp.recordRoom _).1 hroom)]
  rfl

/-- While the package rebases its stamps, a VER write waits (R357). -/
theorem State.writeLocal_rebasing (hver : leaf.ver = true) (hbase : s.versions.rebasing = true) :
    s.writeLocal w leaf pa bs = .error .stall := by
  rw [s.writeLocal_line w leaf h0 hline, s.writePart_hbm w leaf bs _ hpa, if_pos ⟨hver, hbase⟩]

end

/-- What a store that was brought up to date first leaves of the rest. -/
theorem State.Prepares.put {s u : State} (h : s.Prepares u) (pa : Nat) (bs : List Byte) :
    (u.put pa bs).fabric = s.fabric ∧ (u.put pa bs).ctl = s.ctl ∧ (u.put pa bs).curTile = s.curTile ∧
      (u.put pa bs).mem = s.mem.setBytes pa bs := by
  refine ⟨?_, ?_, ?_, ?_⟩
  · rw [State.put_eq, h]
  · rw [State.put_ctl, h]; rfl
  · rw [State.put_curTile, h]; rfl
  · rw [State.put_mem, h]

theorem State.Prepares.bytes {s u : State} (h : s.Prepares u) (pa : Nat) (bs : List Byte) : s.SameBytesBut (u.put pa bs) pa bs.length :=
  fun p hp => by rw [State.put_byte_other u hp, h]; rfl

theorem State.put_versions (s : State) (pa : Nat) (bs : List Byte) : (s.put pa bs).versions = s.versions := by rw [State.put_eq]

end Sys2Proof.Machine

/-! ## Stores: the endings, sealed lines and transactions (R362, R366, R374) -/

namespace Sys2Proof.Machine

/-- A word whose effect leaves the C stream and the fabric alone ends. -/
theorem State.endsWord {s t : State} {i : Instr} {ea : W64} (hexec : exec i s = .next (s.cRunAt ea (.ok t))) (halone : s.noAnswer)
    (hf : t.fabric = s.fabric) (hc : t.ctl = s.ctl) :
    ∃ u, exec i s = .next u ∧ u.ctl = s.ctl.next ∧ u.mem = t.mem ∧ u.versions = t.versions ∧ u.seals = t.seals := by
  have hdrop : t.dropAnswers (.stream s.curTile 0) = t := State.dropAnswers_none (by rw [hf]; exact halone)
  refine ⟨t.cDone, hexec.trans (congrArg (fun u => Host.Outcome.next u.cDone) hdrop), ?_, rfl, rfl, rfl⟩
  rw [State.cDone, State.onCtl_ctl, Control.finish_eq, hc]

/-- A store that no record could be had for waits from its first try (R366). -/
theorem State.denied_waits {s : State} (ea : W64) (pa : Nat) (h : s.overdue s.ctl.denied = false) :
    s.CBecomes (s.cRunAt ea (.error (.denied pa)))
      { s.tile s.curTile with control := { s.ctl with stalled := true, denied := some (s.ctl.denied.getD s.time.ns.toNat) } } := by
  have e : s.cRunAt ea (.error (.denied pa)) = s.onCtl fun k => { k with stalled := true, denied := s.waits s.ctl.denied } := by
    show (if s.overdue s.ctl.denied = true then _ else (s.onCtl fun k => { k with denied := s.waits k.denied }).cStall) = _
    rw [if_neg (by rw [h]; decide), State.cStall, State.onCtl_onCtl]; rfl
  exact e ▸ s.onCtl_becomes _

/-- The record of a denied write changes a die's log alone (R401). -/
theorem State.logError_denied (s : State) (node : Option W32) (cause : Byte) (pa : Nat) :
    ∃ d, s.logError node cause (.denied pa) = { s with dies := d } := ⟨_, rfl⟩

/-- Once it has waited for BOUND it is VERFULL (R63, R366). -/
theorem State.denied_traps {s : State} (ea : W64) (pa : Nat) (h : s.overdue s.ctl.denied = true) :
    s.SameBytes (s.cRunAt ea (.error (.denied pa))) ∧ (s.cRunAt ea (.error (.denied pa))).tile s.curTile =
      { s.tile s.curTile with control := { s.ctl with denied := none } }.controlTrap 0x14 ea := by
  obtain ⟨d, hd⟩ := s.logError_denied s.curNode causeVerfull pa
  obtain ⟨t, ht⟩ : ∃ t, t = State.onCtl { s with dies := d } fun k => { k with denied := none } := ⟨_, rfl⟩
  have e : s.cRunAt ea (.error (.denied pa)) = t.cTrap causeVerfull ea := by
    rw [ht, ← hd]; exact if_pos h
  have hcur : t.curTile = s.curTile := by rw [ht]; rfl
  have htile : t.tile s.curTile = { s.tile s.curTile with control := { s.ctl with denied := none } } := by
    rw [ht]; exact State.onCur_tile { s with dies := d } _
  rw [e]
  refine ⟨fun p => by rw [ht]; rfl, ?_⟩
  have := State.cTrap_tile (s := t) (cause := causeVerfull) ea (Tile.userLevel_low _ _ (by decide) (by decide))
  rw [hcur, htile] at this
  exact this

/-! ### Sealed lines -/

/-- A write through a page without VER and CKPT. -/
theorem State.writeLocal_sealed {s : State} {w : Writer} {leaf : Leaf} {pa : Nat} {bs : List Byte} (hpa : pa < 2 ^ 39) (h0 : 0 < bs.length)
    (hline : pa % 128 + bs.length ≤ 128) (hv : leaf.ver = false) (hc : leaf.ckpt = false) :
    ∃ t, s.Spoils t ∧ s.writeLocal w leaf pa bs = .ok ((t.sealWrite leaf (pa / 128) pa bs.length).put pa bs) := by
  refine ⟨_, s.markUnrollable_spoils w leaf (s.group pa), ?_⟩
  rw [s.writeLocal_line w leaf h0 hline, s.writePart_hbm w leaf bs _ hpa, if_neg (by simp [hv]), if_neg (by simp [hv, hc])]
  rfl

theorem State.sealLine_tagged (s : State) {leaf : Leaf} (l : Nat) (st : BitVec 48) (g : SealTag) (data : List Byte) (o : Nat) {n : Nat}
    (hs : leaf.sealed = true) (hn : n < 128) : s.sealLine leaf l st (some g) data o n =
      (data, some (if g.good = true ∧ g.key = s.key leaf.key then { g with stamp := st } else { g with good := false })) := by
  have hpart : ¬(o = 0 ∧ 128 ≤ n) := fun h => absurd h.2 (by omega)
  simp only [State.sealLine, hs]
  by_cases h : g.good = true ∧ g.key = s.key leaf.key
  · rw [if_pos (.inr h), if_pos h, ← h.1, ← h.2]
  · rw [if_neg (not_or.2 ⟨hpart, h⟩), if_neg h]

theorem State.sealLine_untagged (s : State) {leaf : Leaf} (l : Nat) (st : BitVec 48) (data : List Byte) (o : Nat) {n : Nat}
    (hs : leaf.sealed = true) (hn : n < 128) : s.sealLine leaf l st none data o n =
      ((upto 128).map fun i => Config.unsealedByte (s.key leaf.key) (s.group (lineAddr l + i)),
        some { key := s.key leaf.key, stamp := st, good := true }) := by
  have hpart : ¬(o = 0 ∧ 128 ≤ n) := fun h => absurd h.2 (by omega)
  simp only [State.sealLine, hs]
  exact if_neg hpart

/-- A write through a page with SEAL, or to a line with a tag, leaves what `State.sealLine` says. -/
theorem State.sealWrite_of {s : State} {leaf : Leaf} {l pa n : Nat} {data : List Byte} {g : SealTag}
    (hs : leaf.sealed = true ∨ tget s.seals l ≠ none)
    (h : s.sealLine leaf l (s.line l).stamp (tget s.seals l) (s.lineData l) (pa - lineAddr l) n = (data, some g)) :
    s.sealWrite leaf l pa n = { s with mem := s.mem.setBytes (128 * l) data, seals := tput s.seals l g } := by
  have hcond : ¬(!leaf.sealed && (tget s.seals l).isNone) = true := by
    rw [Bool.and_eq_true, Bool.not_eq_true', Option.isNone_iff_eq_none]
    rintro ⟨h1, h2⟩
    exact hs.elim (fun h => absurd (h1.symm.trans h) (by decide)) (· h2)
  rw [State.sealWrite, if_neg hcond, h, lineAddr, Nat.mul_comm l]; rfl

/-- What a write of a part of a sealed line does to a line with a tag (R374). -/
theorem State.sealWrite_tagged {s : State} {leaf : Leaf} {l n : Nat} {g : SealTag} (pa : Nat) (hs : leaf.sealed = true) (hn : n < 128)
    (hg : tget s.seals l = some g) : s.sealWrite leaf l pa n = { s with
      mem := s.mem.setBytes (128 * l) (s.mem.bytes (128 * l) 128)
      seals := tput s.seals l (if g.good = true ∧ g.key = s.key leaf.key then { g with stamp := (s.line l).stamp } else { g with good := false }) } := by
  refine State.sealWrite_of (.inl hs) ?_
  rw [hg, s.sealLine_tagged _ _ _ _ _ hs hn, State.lineData, lineAddr, Nat.mul_comm l]

/-- And to one without (R374). -/
theorem State.sealWrite_untagged {s : State} {leaf : Leaf} {l n : Nat} (pa : Nat) (hs : leaf.sealed = true) (hn : n < 128)
    (hg : tget s.seals l = none) : s.sealWrite leaf l pa n = { s with
      mem := s.mem.setBytes (128 * l) ((upto 128).map fun i => Config.unsealedByte (s.key leaf.key) (s.group (128 * l + i)))
      seals := tput s.seals l { key := s.key leaf.key, stamp := (s.line l).stamp, good := true } } := by
  refine State.sealWrite_of (.inl hs) ?_
  rw [hg, s.sealLine_untagged _ _ _ _ hs hn, lineAddr, Nat.mul_comm l]

theorem Memory.byte_setBytes_line (m : Memory) (l : Nat) {bs : List Byte} (hlen : bs.length = 128) {e : Nat} (h : e / 128 = l) :
    (m.setBytes (128 * l) bs).byte e = bs[e - 128 * l]'(by omega) := by
  have := m.byte_setBytes (128 * l) bs (e - 128 * l) (by omega)
  rwa [show 128 * l + (e - 128 * l) = e by omega] at this

/-- A line written with its own bytes. -/
theorem Memory.byte_setBytes_own (m : Memory) (l e : Nat) : (m.setBytes (128 * l) (m.bytes (128 * l) 128)).byte e = m.byte e := by
  have hlen := m.length_bytes (128 * l) 128
  by_cases h : e / 128 = l
  · rw [m.byte_setBytes_line l hlen h, m.getElem_bytes, show 128 * l + (e - 128 * l) = e by omega]
  · exact m.byte_setBytes_other _ _ _ (by rw [hlen]; omega)

theorem Memory.number_setBytes (m : Memory) (pa n v : Nat) : leNat ((m.setBytes pa (leBytes n v)).bytes pa n) = v % 2 ^ (8 * n) := by
  have h := m.bytes_setBytes pa (leBytes n v)
  rw [length_leBytes] at h
  rw [h, leNat_leBytes]

theorem State.put_seals (s : State) (pa : Nat) (bs : List Byte) : (s.put pa bs).seals = s.seals := by rw [State.put_eq]

theorem State.Spoils.sealing {s t : State} (h : s.Spoils t) : t.mem = s.mem ∧ t.seals = s.seals ∧ t.key = s.key ∧ t.group = s.group := by
  rw [h.versions]; exact ⟨rfl, rfl, rfl, rfl⟩

section
variable {s : State} {i : Instr} {ea : W64} {n : Nat} {leaf : Leaf} {pa : Nat} {v : Nat}
  (hexec : exec i s = .next (s.cRunAt ea (s.writeLocal s.curWriter leaf pa (leBytes n v)))) (halone : s.noAnswer) (hpa : pa < 2 ^ 39)
  (h0 : 0 < n) (hn : n < 128) (hline : pa % 128 + n ≤ 128) (hs : leaf.sealed = true) (hv : leaf.ver = false) (hc : leaf.ckpt = false)
include hexec halone hpa h0 hn hline hs hv hc

/-- A store to a part of a sealed line: its bytes, over the line as sealWrite leaves it. -/
theorem State.sealedStore_ends : ∃ t u, s.Spoils t ∧ exec i s = .next u ∧ u.ctl = s.ctl.next ∧
    u.mem = ((t.sealWrite leaf (pa / 128) pa n).mem).setBytes pa (leBytes n v) ∧ u.seals = (t.sealWrite leaf (pa / 128) pa n).seals := by
  have hlen := length_leBytes n v
  obtain ⟨t, hsp, hw⟩ := State.writeLocal_sealed (s := s) (w := s.curWriter) hpa (bs := leBytes n v) (by rwa [hlen]) (by rwa [hlen]) hv hc
  rw [hlen] at hw
  rw [hw] at hexec
  have hseal : t.sealWrite leaf (pa / 128) pa n = { s with
      pool := t.pool, mem := (t.sealWrite leaf (pa / 128) pa n).mem, seals := (t.sealWrite leaf (pa / 128) pa n).seals } := by
    cases hg : tget t.seals (pa / 128) with
    | none => rw [State.sealWrite_untagged pa hs hn hg, hsp.versions]
    | some g => rw [State.sealWrite_tagged pa hs hn hg, hsp.versions]
  have hf : ((t.sealWrite leaf (pa / 128) pa n).put pa (leBytes n v)).fabric = s.fabric := by rw [State.put_eq, hseal]
  have hctl : ((t.sealWrite leaf (pa / 128) pa n).put pa (leBytes n v)).ctl = s.ctl := by rw [State.put_ctl, hseal]; rfl
  obtain ⟨u, hu, hctl', hmem, _, hseals⟩ := State.endsWord hexec halone hf hctl
  exact ⟨t, u, hsp, hu, hctl', hmem.trans (State.put_mem _ _ _), hseals.trans (State.put_seals _ _ _)⟩

/-- A line with a tag keeps its other bytes, and a failed tag stays failed (R374). -/
theorem State.sealedStore_tagged {g : SealTag} (hg : tget s.seals (pa / 128) = some g) : ∃ u, exec i s = .next u ∧ u.ctl = s.ctl.next ∧
    (leNat (u.mem.bytes pa n) = v % 2 ^ (8 * n) ∧ s.SameBytesBut u pa n) ∧ tget u.seals (pa / 128) =
      some (if g.good = true ∧ g.key = s.key leaf.key then { g with stamp := (s.line (pa / 128)).stamp } else { g with good := false }) := by
  obtain ⟨t, u, hsp, hu, hctl, hmem, hseals⟩ := s.sealedStore_ends hexec halone hpa h0 hn hline hs hv hc
  rw [State.sealWrite_tagged pa hs hn (hsp.sealing.2.1 ▸ hg)] at hmem hseals
  simp only [hsp.sealing, hsp.line] at hmem hseals
  refine ⟨u, hu, hctl, ⟨?_, fun p hp => ?_⟩, ?_⟩
  · rw [hmem]; exact Memory.number_setBytes _ pa n v
  · rw [State.byte, hmem, Memory.byte_setBytes_other _ _ _ _ (by rwa [length_leBytes])]
    exact s.mem.byte_setBytes_own _ p
  · rw [hseals]; exact (tget_tput _ _ _ _).trans (if_pos rfl)

/-- A line without one takes a tag, its other bytes as plaintext reads through the key (R374). -/
theorem State.sealedStore_untagged (hg : tget s.seals (pa / 128) = none) : ∃ u, exec i s = .next u ∧ u.ctl = s.ctl.next ∧
    leNat (u.mem.bytes pa n) = v % 2 ^ (8 * n) ∧ (∀ e, e / 128 ≠ pa / 128 → u.byte e = s.byte e) ∧
    (∀ e, e / 128 = pa / 128 → e < pa ∨ pa + n ≤ e → u.byte e = Config.unsealedByte (s.key leaf.key) (s.group e)) ∧
    tget u.seals (pa / 128) = some { key := s.key leaf.key, stamp := (s.line (pa / 128)).stamp, good := true } := by
  obtain ⟨t, u, hsp, hu, hctl, hmem, hseals⟩ := s.sealedStore_ends hexec halone hpa h0 hn hline hs hv hc
  rw [State.sealWrite_untagged pa hs hn (hsp.sealing.2.1 ▸ hg)] at hmem hseals
  simp only [hsp.sealing, hsp.line] at hmem hseals
  have hlen : ((upto 128).map fun i => Config.unsealedByte (s.key leaf.key) (s.group (128 * (pa / 128) + i))).length = 128 := by
    rw [List.length_map]; exact List.length_range
  have hnew := length_leBytes n v
  refine ⟨u, hu, hctl, ?_, fun e he => ?_, fun e he hout => ?_, ?_⟩
  · rw [hmem]; exact Memory.number_setBytes _ pa n v
  · rw [State.byte, hmem, Memory.byte_setBytes_other _ _ _ _ (by omega)]
    exact Memory.byte_setBytes_other _ _ _ _ (by rw [hlen]; omega)
  · rw [State.byte, hmem, Memory.byte_setBytes_other _ _ _ _ (by rwa [hnew])]
    refine (Memory.byte_setBytes_line _ _ hlen he).trans ?_
    rw [List.getElem_map]
    simp only [upto, List.getElem_range, show 128 * (pa / 128) + (e - 128 * (pa / 128)) = e by omega]
  · rw [hseals]; exact (tget_tput _ _ _ _).trans (if_pos rfl)

end

end Sys2Proof.Machine

/-! ## Stores in a transaction (R362) -/

namespace Sys2Proof.Machine

/-- t differs from s at most in the versions of lines. -/
def State.VersionsOnly (s t : State) : Prop := t = { s with versions := t.versions }

theorem State.VersionsOnly.trans {s t u : State} (h1 : s.VersionsOnly t) (h2 : t.VersionsOnly u) : s.VersionsOnly u := by
  rw [State.VersionsOnly, h2, h1]

theorem State.ChainOnly.versionsOnly {s t : State} {l : Nat} (h : s.ChainOnly t l) : s.VersionsOnly t := by
  rw [State.VersionsOnly, h.frame]

/-- What dooming a transaction frees of one of its lines. -/
def State.freeTentative (s : State) (slot : Byte) (l : Nat) : State :=
  match s.tentative l slot with
  | some (i, _) => (s.freeRecord l i).setLine l { (s.freeRecord l i).line l with tent := false }
  | none => s

theorem State.freeTentative_versions (s : State) (slot : Byte) (l : Nat) : s.VersionsOnly (s.freeTentative slot l) := by
  unfold State.freeTentative
  split <;> rfl

theorem State.doom_eq {s : State} {slot : Byte} {y : Tx} (status : Byte) (hy : tget s.versions.txs slot.toNat = some y)
    (hst : y.status = none) : ∃ t, s.VersionsOnly t ∧ s.doom slot status =
      { t with versions := { t.versions with txs := tput t.versions.txs slot.toNat { y with status := some status, lines := [] } } } := by
  refine ⟨y.lines.foldl (fun s l => s.freeTentative slot l) s, ?_, ?_⟩
  · have free (c : List Nat) : ∀ u : State, u.VersionsOnly (c.foldl (fun s l => s.freeTentative slot l) u) := by
      induction c with
      | nil => exact fun _ => rfl
      | cons l c ih => exact fun u => (u.freeTentative_versions slot l).trans (ih _)
    exact free _ s
  · simp only [State.doom, hy, hst, Option.isSome_none, Bool.false_eq_true, if_false]
    rfl

theorem State.doom_versions {s : State} {slot : Byte} {y : Tx} (status : Byte) (hy : tget s.versions.txs slot.toNat = some y)
    (hst : y.status = none) : s.VersionsOnly (s.doom slot status) := by
  obtain ⟨t, ht, he⟩ := State.doom_eq status hy hst
  rw [he, State.VersionsOnly, ht]

theorem State.doom_holds {s : State} {slot : Byte} {y : Tx} (status : Byte) (hy : tget s.versions.txs slot.toNat = some y)
    (hst : y.status = none) : tget (s.doom slot status).versions.txs slot.toNat = some { y with status := some status, lines := [] } := by
  obtain ⟨t, _, he⟩ := State.doom_eq status hy hst
  rw [he]; exact (tget_tput _ _ _ _).trans (if_pos rfl)

/-! ### The tentative record of a line -/

theorem State.tentative_congr {s t : State} (h : t.versions = s.versions) (l : Nat) (k : Byte) : t.tentative l k = s.tentative l k := by
  have hl : t.line l = s.line l := by rw [State.line, h, State.line]
  simp only [State.tentative, State.records, State.record?, hl, h]

theorem State.tentative_some {s : State} {l j : Nat} {k : Byte} {r : Record} (h : s.tentative l k = some (j, r)) :
    (s.line l).tent = true ∧ (s.line l).owner = k ∧ (s.records l).find? (fun e => e.2.kind == 1) = some (j, r) := by
  unfold State.tentative at h
  split at h
  next hc =>
    rw [Bool.and_eq_true, beq_iff_eq] at hc
    exact ⟨hc.1, hc.2, h⟩
  next => cases h

theorem State.tentative_of {s : State} {l : Nat} {k : Byte} (h1 : (s.line l).tent = true) (h2 : (s.line l).owner = k) :
    s.tentative l k = (s.records l).find? (fun e => e.2.kind == 1) :=
  if_pos (by rw [h1, h2, beq_self_eq_true]; rfl)

/-- Record j replaced by one of its kind is found where it was. -/
theorem find_record_put (recs : Table Record) {j : Nat} {r r' : Record} (hr : tget recs j = some r) (hkind : r'.kind = r.kind) (c : List Nat)
    (h : (c.filterMap fun i => (tget recs i).map fun r => (i, r)).find? (fun e => e.2.kind == 1) = some (j, r)) :
    (c.filterMap fun i => (tget (tput recs j r') i).map fun r => (i, r)).find? (fun e => e.2.kind == 1) = some (j, r') := by
  have hput (i : Nat) : tget (tput recs j r') i = if i = j then some r' else tget recs i := tget_tput _ _ _ _
  have hone : (r.kind == 1) = true := (List.find?_some h :)
  induction c with
  | nil => cases h
  | cons i c ih =>
    by_cases hij : i = j
    · subst hij
      have e : tget (tput recs i r') i = some r' := (hput i).trans (if_pos rfl)
      rw [List.filterMap_cons, e]
      exact List.find?_cons_of_pos (by rw [hkind]; exact hone)
    · have e : tget (tput recs j r') i = tget recs i := (hput i).trans (if_neg hij)
      rw [List.filterMap_cons] at h ⊢
      rw [e]
      cases hi : tget recs i with
      | none => rw [hi] at h; exact ih h
      | some q =>
        rw [hi] at h
        by_cases hq : (q.kind == 1) = true
        · have h' : some (i, q) = some (j, r) := (List.find?_cons_of_pos (by exact hq)).symm.trans h
          exact absurd (congrArg Prod.fst (Option.some.inj h')) hij
        · exact (List.find?_cons_of_neg (by exact hq)).trans (ih ((List.find?_cons_of_neg (by exact hq)).symm.trans h))

/-- The bytes of a line with bs stored at pa. -/
def lineStored (pa : Nat) (bs data : List Byte) : List Byte := data.take (pa % 128) ++ bs ++ data.drop (pa % 128 + bs.length)

/-- Bytes stored in the tentative version of a line without a tag, through a page without SEAL. -/
theorem State.writeTentative_plain {s : State} {leaf : Leaf} {k : Byte} {pa j : Nat} {r : Record} (bs : List Byte) (hs : leaf.sealed = false)
    (ht : s.tentative (pa / 128) k = some (j, r)) (htag : r.tag = none) : ∃ t, t = s.writeTentative leaf k pa bs ∧
      t = { s with versions := { s.versions with records := t.versions.records } } ∧ t.tentative (pa / 128) k =
        some (j, { r with data := lineStored pa bs r.data, viaCkpt := r.viaCkpt || leaf.ckpt, viaPlain := r.viaPlain || !leaf.ckpt }) := by
  obtain ⟨htent, howner, hfind⟩ := State.tentative_some ht
  have ho : pa - lineAddr (pa / 128) = pa % 128 := by unfold lineAddr; omega
  obtain ⟨r', hr'⟩ : ∃ r', r' = { r with
    data := lineStored pa bs r.data, viaCkpt := r.viaCkpt || leaf.ckpt, viaPlain := r.viaPlain || !leaf.ckpt } := ⟨_, rfl⟩
  have hrec : tget s.versions.records j = some r := by
    obtain ⟨i, _, hi⟩ := List.mem_filterMap.1 (List.mem_of_find?_eq_some hfind)
    obtain ⟨q, hq, he⟩ := Option.map_eq_some_iff.1 hi
    cases he; exact hq
  have hwrite : s.writeTentative leaf k pa bs = { s with versions := { s.versions with records := tput s.versions.records j r' } } := by
    simp only [State.writeTentative, ht, State.sealLine, hs, htag, ho, hr', lineStored]
  refine ⟨_, rfl, by rw [hwrite], ?_⟩
  rw [hwrite, State.tentative_of (by exact htent) (by exact howner), ← hr']
  exact find_record_put s.versions.records hrec (by rw [hr']) _ hfind

/-- The first tentative version of a line is what the transaction sees of it. -/
theorem State.firstTentative_ok {s : State} {k : Byte} {y : Tx} {l : Nat} (hroom : s.recordRoom l) : ∃ t i r, s.firstTentative k y l = .ok t ∧
    s.VersionsOnly t ∧ tget t.versions.txs k.toNat = some { y with lines := y.lines ++ [l] } ∧ t.tentative l k = some (i, r) ∧
      r.data = (s.versionAt l y.snapshot).1 ∧ r.tag = (s.versionAt l y.snapshot).2.2 := by
  obtain ⟨r, hrec⟩ : ∃ r : Record, r =
      { line := l, data := (s.versionAt l y.snapshot).1, stamp := 0, kind := 1, u := false, poison := (s.versionAt l y.snapshot).2.1,
        tag := (s.versionAt l y.snapshot).2.2, viaCkpt := false, viaPlain := false, intv := 0 } := ⟨_, rfl⟩
  obtain ⟨u, i, c, hpush, hchain, hc, hr⟩ := State.pushRecord_room r hroom
  obtain ⟨v, hv⟩ : ∃ v, v = u.setLine l { u.line l with tent := true, owner := k } := ⟨_, rfl⟩
  have hfirst : s.firstTentative k y l =
      .ok { v with versions := { v.versions with txs := tput v.versions.txs k.toNat { y with lines := y.lines ++ [l] } } } := by
    simp only [State.firstTentative, ← hrec, hpush, hv]
  have hline : v.line l = { u.line l with tent := true, owner := k } := by rw [hv]; exact (u.line_setLine l l _).trans (if_pos rfl)
  have hsame : v.record? i = u.record? i := by rw [hv]; rfl
  obtain ⟨rest, hrest⟩ := State.records_head (s := v) (l := l) (c := c) (by rw [hline]; exact hc) (hsame.trans hr)
  refine ⟨_, i, r, hfirst, ?_, (tget_tput _ _ _ _).trans (if_pos rfl), ?_, by rw [hrec], by rw [hrec]⟩
  · rw [State.VersionsOnly, hv, hchain.versionsOnly]; rfl
  · refine (State.tentative_of (s := { v with versions := _ }) (congrArg LineMeta.tent hline) (congrArg LineMeta.owner hline)).trans ?_
    show (v.records l).find? _ = _
    rw [hrest]
    exact List.find?_cons_of_pos (by rw [hrec]; rfl)

theorem State.firstTentative_denied {s : State} {k : Byte} {y : Tx} {l : Nat} (hroom : ¬s.recordRoom l) :
    s.firstTentative k y l = .error (.denied (lineAddr l)) := by
  simp only [State.firstTentative, State.pushRecord_denied _ hroom]

end Sys2Proof.Machine

/-! ## The stores of the C stream and of windows (R62, R362) -/

namespace Sys2Proof.Machine

theorem State.tstore_decided {s : State} {k : Byte} {y : Tx} (leaf : Leaf) (pa : Nat) (bs : List Byte)
    (hy : tget s.versions.txs k.toNat = some y) (h : y.status ≠ none) : s.tstore leaf k pa bs = .ok s := by
  simp only [State.tstore, hy, Option.isSome_iff_ne_none.2 h, if_true]

section
variable {s : State} {k : Byte} {y : Tx} {leaf : Leaf} {pa : Nat} {bs : List Byte} (hy : tget s.versions.txs k.toNat = some y)
  (hst : y.status = none)
include hy hst

theorem State.tstore_taken (ht : (s.line (pa / 128)).tent = true) (ho : (s.line (pa / 128)).owner ≠ k) :
    s.tstore leaf k pa bs = .ok (s.doom k 1) := by
  simp only [State.tstore, hy, hst, Option.isSome_none, Bool.false_eq_true, if_false, ht, Bool.true_and, bne_iff_ne.2 ho, if_true]

theorem State.tstore_own {j : Nat} {r : Record} (h : s.tentative (pa / 128) k = some (j, r)) :
    s.tstore leaf k pa bs = .ok (s.writeTentative leaf k pa bs) := by
  obtain ⟨ht, ho, _⟩ := State.tentative_some h
  simp only [State.tstore, hy, hst, Option.isSome_none, Bool.false_eq_true, if_false, ht, ho, bne_self_eq_false, Bool.and_false, if_true]

theorem State.tstore_full (ht : (s.line (pa / 128)).tent = false) (hn : 65536 ≤ y.lines.length) :
    s.tstore leaf k pa bs = .ok (s.doom k 2) := by
  simp only [State.tstore, hy, hst, Option.isSome_none, Bool.false_eq_true, if_false, ht, Bool.false_and, ge_iff_le, hn, if_true]

theorem State.tstore_first {t : State} (ht : (s.line (pa / 128)).tent = false) (hn : y.lines.length < 65536)
    (hfirst : s.firstTentative k y (pa / 128) = .ok t) : s.tstore leaf k pa bs = .ok (t.writeTentative leaf k pa bs) := by
  simp only [State.tstore, hy, hst, Option.isSome_none, Bool.false_eq_true, if_false, ht, Bool.false_and, ge_iff_le, Nat.not_le.2 hn, hfirst]

theorem State.tstore_denied (ht : (s.line (pa / 128)).tent = false) (hn : y.lines.length < 65536) (hroom : ¬s.recordRoom (pa / 128)) :
    s.tstore leaf k pa bs = if s.overdue s.ctl.denied = true then
      .ok ((s.logError s.curNode 0 (.denied (lineAddr (pa / 128)))).doom k 3) else .error (.denied (lineAddr (pa / 128))) := by
  simp only [State.tstore, hy, hst, Option.isSome_none, Bool.false_eq_true, if_false, ht, Bool.false_and, ge_iff_le, Nat.not_le.2 hn,
    State.firstTentative_denied hroom]

end

/-- A word whose effect is on versions and a die's log ends, and no byte changes. -/
theorem State.endsVersions {s t : State} {i : Instr} {ea : W64} (hexec : exec i s = .next (s.cRunAt ea (.ok t))) (halone : s.noAnswer)
    (h : t = { s with dies := t.dies, versions := t.versions }) :
    ∃ u, exec i s = .next u ∧ u.ctl = s.ctl.next ∧ s.SameBytes u ∧ u.versions = t.versions := by
  obtain ⟨u, hu, hctl, hmem, hver, _⟩ := State.endsWord hexec halone (by rw [h]) (by rw [h]; rfl)
  refine ⟨u, hu, hctl, fun p => ?_, hver⟩
  rw [State.byte, hmem, h]; rfl

theorem State.VersionsOnly.dies {s t : State} (h : s.VersionsOnly t) : t = { s with dies := t.dies, versions := t.versions } := by
  rw [h]

/-- A stream whose loads have all come, or need nothing more, performs none of them before a write (R264). -/
theorem State.performKept_none {s : State} {tn : BitVec 6} {x : BStream} (gpa n : Nat) (h : (s.tile tn).noLateLoad x) :
    s.performKept tn x gpa n = s := by
  refine if_neg ?_
  rw [Tile.keptReads, List.any_eq_true]
  rintro ⟨p, hp, hr⟩
  rw [Bool.and_eq_true, Bool.and_eq_true, decide_eq_true_eq, Bool.not_eq_true'] at hr
  obtain ⟨⟨hx, hland⟩, hk⟩ := hr
  rcases h p hp hx with hl | hn
  · rw [hl] at hland; cases hland
  · rw [hn] at hk; cases hk

/-- A write through a window at a pinned page of the own package that it may write. -/
theorem State.winWrite_pinned {s : State} {tn : BitVec 6} {x : BStream} {u : Use} {va : Int} {leaf : Leaf} {pa : Nat} {bs : List Byte}
    (hsnap : u.image.snap = false) (hw : leaf.w = true) (hpin : pinPa u.pins (vaOf va) = some (leaf, s.group pa)) (hpa : pa < 2 ^ 48)
    (hq : s.quarantined pa = false) (hlate : (s.tile tn).noLateLoad x) :
    s.winWrite tn x u va bs = s.writeLocal (s.tileWriter tn) leaf pa bs := by
  have hok : s.refused (s.group pa) = false := by rw [State.refused, s.localOf_group hpa, hq, Bool.and_false]
  simp only [State.winWrite, hpin, Use.writable, hsnap, hw, hok, State.performKept_none _ _ hlate, State.writeAny, s.ownPkg_group hpa,
    s.localOf_group hpa, if_true]
  rfl

/-- Settles O10: a store is `State.cWrite`, which prepares its line's versions and then stores its bytes, or keeps them in the line's
tentative version. -/
theorem stores : Obligations.Stores := by
  constructor
  · intro s d a b z i o q leaf pa n
    have h0 : 0 < n := Nat.two_pow_pos _
    have stores {x : Instr} {ea : W64} (hexec : exec x s = .next (s.cWrite ea (accessSize z.toNat) (s.g d).toNat))
        (h : s.PlainAccess .write ea n leaf pa) :
        ∃ t, exec x s = .next t ∧ s.CStores t leaf pa n (s.g d).toNat ∧ t.ctl = s.ctl.next := by
      rw [accessSize_word, h.reached.writes (.inl h.plain.1), h.writeLocal h0] at hexec
      have hrun := s.cStored_ends leaf (s.group pa) pa (leBytes n (s.g d).toNat) ea h.alone
      refine ⟨_, hexec.trans (congrArg _ hrun), s.cStored_stores leaf pa n _ _, ?_⟩
      rw [State.onCtl_ctl, s.cStored_ctl]
    exact ⟨stores rfl, stores rfl⟩
  intro s d a b z i o q leaf pa k y g j r n v l m w written waits
  have h0 : 0 < n := Nat.two_pow_pos _
  have hn : n < 128 := by
    have := Nat.pow_le_pow_right (show 0 < 2 by decide) (show z.toNat ≤ 3 from Nat.le_of_lt_succ z.isLt)
    show 2 ^ z.toNat < 128
    omega
  have hlen : (leBytes n v).length = n := length_leBytes n v
  constructor
  · intro p hp hacc ends stored
    have hexec : exec p.1 s = .next (s.cWrite p.2 n v) := by
      show _ = Host.Outcome.next (s.cWrite p.2 (2 ^ z.toNat) v)
      rw [← accessSize_word z]
      simp only [List.mem_cons, List.not_mem_nil, or_false] at hp
      rcases hp with rfl | rfl <;> rfl
    obtain ⟨hreach, hpa, hline, halone⟩ := hacc
    have hacc : s.LineAccess .write p.2 n leaf pa := ⟨hreach, hpa, hline, halone⟩
    constructor
    · intro hplain
      rw [hacc.reached.writes hplain] at hexec
      refine ⟨fun hs htag hbase => ⟨fun hroom => ?_, fun hneed hroom => ?_⟩, fun hver hbase => ?_, fun hs hv hc => ⟨fun hg => ?_, fun hg => ?_⟩⟩
      · obtain ⟨u, hu, hprep, hver⟩ := State.writeLocal_versions (w := w) hpa (hlen.symm ▸ h0) (hlen.symm ▸ hline) hs htag hbase
          fun hneed => hroom.resolve_left fun ⟨h1, h2⟩ => (State.needsRecord_iff.1 hneed).elim (by rw [h1]; decide) (by rw [h2]; decide)
        rw [hu] at hexec
        obtain ⟨hfab, hctl, _, hput⟩ := hprep.put pa (leBytes n v)
        obtain ⟨t, ht, hnext, hmem, hvers, _⟩ := State.endsWord hexec halone hfab hctl
        refine ⟨t, ht, hnext, ⟨?_, fun p hp => ?_⟩, hver.congr (hvers.trans (u.put_versions _ _))⟩
        · rw [hmem, hput]; exact s.mem.number_setBytes pa n v
        · rw [State.byte, hmem]; exact hprep.bytes pa _ p (by rwa [hlen])
      · rw [State.writeLocal_denied hpa (hlen.symm ▸ h0) (hlen.symm ▸ hline) htag hbase (State.needsRecord_iff.2 hneed) hroom] at hexec
        exact ⟨_, hexec, fun hover => State.denied_waits p.2 _ hover, fun hover => State.denied_traps p.2 _ hover⟩
      · rw [State.writeLocal_rebasing hpa (hlen.symm ▸ h0) (hlen.symm ▸ hline) hver hbase] at hexec
        exact ⟨_, hexec, s.cStall_waits⟩
      · exact s.sealedStore_tagged hexec halone hpa h0 hn hline hs hv hc hg
      · exact s.sealedStore_untagged hexec halone hpa h0 hn hline hs hv hc hg
    · intro hver hs hslot hy holds
      rw [hacc.reached.storesTentative hver hslot] at hexec
      have hlines (bs : List Byte) : lineStored pa (leBytes n v) bs = written bs := by rw [lineStored, hlen]
      have doomed (t : State) (st : Byte) (hst : y.status = none) (hcall : s.tstore leaf k pa (leBytes n v) = .ok (t.doom k st))
          (ht : t = { s with dies := t.dies }) : ends fun t => s.SameBytes t ∧ holds t { y with status := some st, lines := [] } := by
        rw [hcall] at hexec
        have hy' : tget t.versions.txs k.toNat = some y := by rw [ht]; exact hy
        obtain ⟨u, hu, hctl, hbytes, hvers⟩ := State.endsVersions hexec halone (by rw [State.doom_versions st hy' hst, ht])
        exact ⟨u, hu, hctl, hbytes, (congrArg (fun v => tget v.txs k.toNat) hvers).trans (State.doom_holds st hy' hst)⟩
      refine ⟨fun hst => ?_, fun hst => ⟨fun ht ho => ?_, fun ht htag => ?_, fun ht hfull => ?_, fun ht hfew => ⟨fun hroom htag => ?_,
        fun hroom hover => ?_, fun hroom hover => ?_⟩⟩⟩
      · rw [State.tstore_decided leaf pa _ hy hst] at hexec
        refine ⟨_, hexec, ?_⟩
        show s.CEnds ((s.dropAnswers (.stream s.curTile 0)).cDone)
        rw [State.dropAnswers_none halone]; exact s.cDone_ends
      · exact doomed s 1 hst (State.tstore_taken hy hst ht ho) rfl
      · rw [State.tstore_own hy hst ht] at hexec
        obtain ⟨t, hwrite, hframe, htent⟩ := State.writeTentative_plain (leBytes n v) hs ht htag
        rw [← hwrite] at hexec
        obtain ⟨u, hu, hctl, hbytes, hvers⟩ := State.endsVersions hexec halone (by rw [hframe])
        refine ⟨u, hu, hctl, hbytes, ?_, (State.tentative_congr hvers l k).trans (hlines r.data ▸ htent)⟩
        show tget u.versions.txs _ = _
        rw [hvers, hframe]; exact hy
      · exact doomed s 2 hst (State.tstore_full hy hst ht hfull) rfl
      · obtain ⟨t, i, e, hfirst, honly, htx, htent, hdata, hetag⟩ := State.firstTentative_ok (k := k) (y := y) hroom
        obtain ⟨t', hwrite, hframe, htent'⟩ := State.writeTentative_plain (leBytes n v) hs htent (hetag.trans htag)
        rw [State.tstore_first hy hst ht hfew hfirst, ← hwrite] at hexec
        obtain ⟨u, hu, hctl, hbytes, hvers⟩ := State.endsVersions hexec halone (by rw [hframe, honly])
        have hseen := (State.tentative_congr hvers l k).trans htent'
        obtain ⟨h1, h2, _⟩ := State.tentative_some hseen
        refine ⟨u, hu, hctl, hbytes, ?_, h1, h2, ?_⟩
        · show tget u.versions.txs _ = _
          rw [hvers, hframe]; exact htx
        · rw [hseen, ← hdata, ← hlines]; rfl
      · rw [State.tstore_denied hy hst ht hfew hroom, if_neg (by rw [hover]; decide)] at hexec
        exact ⟨_, hexec, State.denied_waits p.2 _ hover⟩
      · exact doomed _ 3 hst ((State.tstore_denied hy hst ht hfew hroom).trans (if_pos hover)) rfl
  · intro tn x u va bs hsnap hw hs hpin hpa hline h0 hq htag hlate hbase w
    rw [State.winWrite_pinned hsnap hw hpin (hpa.trans (by decide)) hq hlate]
    refine ⟨fun hroom => ?_, fun hneed hroom => ?_⟩
    · obtain ⟨t, ht, hprep, hver⟩ := State.writeLocal_versions (w := w) hpa h0 hline hs htag hbase
        fun hneed => hroom.resolve_left fun ⟨h1, h2⟩ => (State.needsRecord_iff.1 hneed).elim (by rw [h1]; decide) (by rw [h2]; decide)
      refine ⟨_, ht, ?_, hprep.bytes pa bs, hver.congr (t.put_versions pa bs)⟩
      rw [State.put_mem]; exact t.mem.bytes_setBytes pa bs
    · rw [State.writeLocal_denied hpa h0 hline htag hbase (State.needsRecord_iff.2 hneed) hroom, lineAddr, Nat.mul_comm]

end Sys2Proof.Machine

/-! ## A supervisor's store to a sealed line (R213, R374) -/

namespace Sys2Proof.Machine

/-- What a write without SEAL of a part of a line with a good tag leaves of the line: its ciphertext, under a failed tag (R374). -/
theorem State.sealWrite_opened {s : State} {leaf : Leaf} {l n : Nat} {g : SealTag} (pa : Nat) (hs : leaf.sealed = false) (hn : n < 128)
    (hg : tget s.seals l = some g) (hgood : g.good = true) : s.sealWrite leaf l pa n = { s with
      mem := s.mem.setBytes (128 * l) ((upto 128).map fun i => Config.cipherByte g.key g.stamp.toNat (s.group (128 * l + i)))
      seals := tput s.seals l { g with good := false } } := by
  have hpart : ¬(pa - lineAddr l = 0 ∧ 128 ≤ n) := fun h => absurd h.2 (by omega)
  refine State.sealWrite_of (.inr (by rw [hg]; exact Option.some_ne_none g)) ?_
  simp only [State.sealLine, hs, hg]
  rw [if_neg hpart, if_pos hgood, lineAddr, Nat.mul_comm l]

/-- A write of the stored bytes of a part of such a line leaves its other bytes as ciphertext too. -/
theorem State.rawWrite_opened {s : State} {pa e : Nat} {bs : List Byte} {g : SealTag} (hpa : pa < 2 ^ 39) (h0 : 0 < bs.length)
    (hn : bs.length < 128) (hline : pa % 128 + bs.length ≤ 128) (hg : tget s.seals (pa / 128) = some g) (hgood : g.good = true)
    (he : e / 128 = pa / 128) (hout : e < pa ∨ pa + bs.length ≤ e) :
    (s.rawWrite pa bs).byte e = Config.cipherByte g.key g.stamp.toNat (s.group e) := by
  obtain ⟨t, hsp, hw⟩ := State.writeLocal_sealed (s := s) (w := { node := none, tile := none }) (leaf := openLeaf) hpa h0 hline rfl rfl
  obtain ⟨hmem, hseals, _, hgroup⟩ := hsp.sealing
  rw [State.rawWrite, hw]
  show ((t.sealWrite openLeaf (pa / 128) pa bs.length).put pa bs).byte e = _
  rw [State.put_byte_other _ hout, State.byte, State.sealWrite_opened pa rfl hn (hseals ▸ hg) hgood, hgroup]
  refine (Memory.byte_setBytes_line _ _ (by rw [List.length_map]; exact List.length_range) he).trans ?_
  rw [List.getElem_map]
  simp only [upto, List.getElem_range, show 128 * (pa / 128) + (e - 128 * (pa / 128)) = e by omega]

/-- A store of a supervisor to storage of HBM outside the carve-outs. -/
theorem State.supStore_hbm {s : State} (c : BitVec 4) (va : W64) {pa : Nat} (w v : Nat) (hpa : pa < 2 ^ 39)
    (hspan : spanAll pa w (fun q => s.storage q && !s.quarantined q) = true) (hcarve : ((upto w).any fun i => s.carveOut (pa + i)) = false) :
    s.supStore c va pa 0 w v = .ok (s.rawWrite pa (leBytes w v), leNat (s.physRead pa w).1) := by
  simp only [State.supStore, place_hbm hpa, hspan, s.scratchBusy_hbm hpa, hcarve, ne_eq, not_true_eq_false, false_and, Bool.not_true,
    Bool.false_eq_true, Nat.not_lt_zero, or_false, if_false, if_true]

/-- A store whose unit does not wait and whose place is no key register. -/
theorem State.supervisorStore_ok {s t : State} {c : BitVec 4} {pa : BitVec 48} {o : BitVec 4} {n : BitVec 2} {v : W64} {old : Nat}
    (hwait : (s.cluster c).wait = none) (hkey : keyRegAt pa.toNat = false)
    (hstore : s.supStore c (pa.setWidth 64) pa.toNat o.toNat (2 ^ n.toNat) v.toNat = .ok (t, old)) :
    exec (.supervisorStore c pa o n v) s = .next t := by
  show execSupervisorStore c pa o n v s = _
  simp only [execSupervisorStore, hwait, hkey, hstore, Option.isSome_none, Bool.false_eq_true, false_and, if_false]

/-- HBM is ready, and line 0 holds ciphertext under a key: its ninth byte in memory is not what a mapping without SEAL shows of it. -/
def sealedNeighbour : State :=
  { State.reset with
    mem := [(8, Config.cipherByte 0 0 8 + 1)]
    seals := [(0, { key := 0, stamp := 0, good := true })]
    ready := { State.reset.ready with mem := BitVec.allOnes 64 } }

theorem sealedNeighbour_storage : ∀ i < 8, sealedNeighbour.storage i = true := by decide

theorem sealedNeighbour_quarantined (q : Nat) : sealedNeighbour.quarantined q = false := sealedLine_quarantined q

theorem sealedNeighbour_carveOut (q : Nat) : sealedNeighbour.carveOut q = false := rfl

/-- A store of a doubleword at 0. -/
theorem sealedNeighbour_store : exec (.supervisorStore 0 0 0 3 0) sealedNeighbour = .next (sealedNeighbour.rawWrite 0 (leBytes 8 0)) := by
  have hspan : spanAll 0 8 (fun q => sealedNeighbour.storage q && !sealedNeighbour.quarantined q) = true := by
    simp only [sealedNeighbour_quarantined]
    decide
  exact State.supervisorStore_ok rfl (by decide) (State.supStore_hbm (s := sealedNeighbour) 0 0 8 0 (by decide) hspan rfl)

/-- Refutes O57: its clause on a supervisor's store keeps every other byte, with no premise that the line is unsealed; a store, which has
no SEAL, to a part of a line with a good tag leaves the rest of the line as ciphertext. -/
theorem not_tileEvents : ¬ Obligations.TileEvents := by
  intro h
  obtain ⟨-, -, -, -, -, -, -, -, -, -, -, -, -, -, -, -, hstore⟩ :=
    h.1 sealedNeighbour 0 (Node.ofPacket (Vector.replicate 32 0) 0 0 0) .nop 0 0 0 0 0 0 0 0 0 0 Tile.reset (Share.fresh 0)
  have hbytes : ∀ j < 8, sealedNeighbour.storage (0 + j) = true ∧ sealedNeighbour.quarantined (0 + j) = false ∧
      sealedNeighbour.carveOut (0 + j) = false := fun j hj =>
    ⟨by rw [Nat.zero_add]; exact sealedNeighbour_storage j hj, sealedNeighbour_quarantined _, sealedNeighbour_carveOut _⟩
  obtain ⟨t, hexec, -, hsame, -⟩ := hstore rfl rfl (place_hbm (by decide)) hbytes rfl
  have ht : sealedNeighbour.rawWrite 0 (leBytes 8 0) = t := Host.Outcome.next.inj (sealedNeighbour_store.symm.trans hexec)
  have hopened := State.rawWrite_opened (s := sealedNeighbour) (pa := 0) (e := 8) (bs := leBytes 8 0) (by decide) (by decide) (by decide)
    (by decide) rfl rfl rfl (.inr (by decide))
  have hne : Config.cipherByte 0 0 8 ≠ Config.cipherByte 0 0 8 + 1 := by simp
  exact hne (hopened.symm.trans ((congrArg (fun u => State.byte u 8) ht).trans (hsame 8 (.inr (by decide)))))

end Sys2Proof.Machine

namespace Sys2Proof.Machine

/-! ## Words of the C stream that change the tile -/

theorem State.onCur_cDone (s : State) (f : Tile → Tile) :
    (s.onCur f).cDone = s.onCur fun t => { f t with control := (f t).control.next } := by
  rw [State.cDone_eq, State.onCur_onCur]

/-- A word that changes the tile to x and ends. -/
theorem State.ends_becomes (s : State) {f : Tile → Tile} {x : Tile} (h : f (s.tile s.curTile) = x) :
    s.CBecomes (s.onCur f).cDone { x with control := x.control.next } := by
  rw [s.onCur_cDone]
  exact s.onCur_becomesOf (by rw [h])

/-- A word that changes the tile to x, leaving the C stream's registers alone, and ends with v in cd. -/
theorem State.endsC_becomes (s : State) {f : Tile → Tile} {x : Tile} (c : BitVec 3) (v : Bool) (h : f (s.tile s.curTile) = x)
    (hk : x.control = s.ctl) :
    s.CBecomes ((s.onCur f).setC c v).cDone { x with control := { s.ctl.next with c := (s.ctl.setCond c v).c } } := by
  rw [State.setC, State.onCtl, State.onCur_onCur, State.onCur_cDone]
  refine s.onCur_becomesOf ?_
  rw [h, hk]
  rfl

/-- A word that ends with v in cd, as a change of the tile. -/
theorem State.resultC_becomes (s : State) (c : BitVec 3) (v : Bool) :
    s.CBecomes (s.resultC c v) { s.tile s.curTile with control := { s.ctl.next with c := (s.ctl.setCond c v).c } } := by
  rw [State.resultC, State.setC, State.onCtl, State.onCur_cDone]
  exact s.onCur_becomes _

/-- A trap of the C stream whose cause no user handler takes. -/
theorem State.cRuns.traps {s : State} (h : s.cRuns) {cause : Byte} (val : W64) (h1 : cause ≠ causeNotready := by decide)
    (h2 : cause.toNat < 0x80 := by decide) (h3 : cause ≠ causeDebug := by decide) : s.CTraps (s.cTrap cause val) cause val :=
  s.cTrap_traps cause val h.2 (Tile.userLevel_low _ _ h1 h2) h3

/-! ## Semaphores (R78) -/

/-- The operand of a sem form when it is in range. -/
theorem State.withSemOperand_ok {s : State} {a : BitVec 5} {k : BitVec 6} (h : s.semOperand a k ≤ 65535) (f : Nat → State) :
    s.withSemOperand a k f = f (s.semOperand a k) := if_neg (by omega)

theorem State.withSemOperand_high {s : State} {a : BitVec 5} {k : BitVec 6} (h : 65535 < s.semOperand a k) (f : Nat → State) :
    s.withSemOperand a k f = s.cTrap causeSemovf 0 := if_pos h

/-- Settles O13: an operand in range reaches the form's own step on its semaphore, and any other is SEMOVF. -/
theorem semaphores : Obligations.Semaphores := by
  intro s a d c n k hr v tl x goes cond less
  have hv : s.semOperand a k = v := by rw [State.semOperand, setWidth_eq_ofNat]
  have hx : (s.tile s.curTile).sem n = x := rfl
  have hless (hp : x.poison = false) : tl.setSem n { count := x.count - BitVec.ofNat 16 v, poison := false } = tl.setSem n less :=
    congrArg (tl.setSem n) (hp ▸ rfl)
  have inRange {i : Instr} {f : Nat → State} {P : State → Prop} (h : v ≤ 65535) (he : exec i s = .next (s.withSemOperand a k f))
      (hp : P (f v)) : ∃ t, exec i s = .next t ∧ P t :=
    ⟨_, he, by rw [State.withSemOperand_ok (hv ▸ h), hv]; exact hp⟩
  have high {i : Instr} {f : Nat → State} (h : 65535 < v) (he : exec i s = .next (s.withSemOperand a k f)) :
      ∃ t, exec i s = .next t ∧ s.CTraps t 0x0A 0 :=
    ⟨_, he, by rw [State.withSemOperand_high (hv ▸ h)]; exact hr.traps 0⟩
  refine ⟨fun h => ⟨fun hfit => inRange h rfl ?_, fun hover => inRange h rfl ?_,
    fun hp => ⟨inRange h rfl ?_, inRange h rfl ?_⟩, fun hp hle => ⟨inRange h rfl ?_, inRange h rfl ?_⟩,
    fun hp hlt => ⟨inRange h rfl ?_, inRange h rfl ?_⟩, inRange h rfl (s.ends_becomes rfl), inRange h rfl (s.ends_becomes rfl)⟩,
    fun h => ?_, ?_⟩
  · simp only [hx, Sem.raise_fits hfit]
    exact s.ends_becomes rfl
  · simp only [hx, Sem.raise_overflows hover]
    exact hr.traps 0
  · simp only [hx, hp, if_true]
    exact s.resultC_becomes c true
  · simp only [hx, hp, Bool.not_true, Bool.false_and, Bool.false_eq_true, if_false]
    exact s.resultC_becomes c false
  · simp only [hx, hp, Bool.false_eq_true, if_false, if_pos hle, Sem.take_eq hle]
    exact s.endsC_becomes c false (hless hp) rfl
  · simp only [hx, hp, Bool.not_false, Bool.true_and, decide_eq_true_eq, if_pos hle, Sem.take_eq hle]
    exact s.endsC_becomes c true (hless hp) rfl
  · simp only [hx, hp, Bool.false_eq_true, if_false, if_neg (Nat.not_le.2 hlt)]
    exact s.cStall_waits
  · simp only [hx, hp, Bool.not_false, Bool.true_and, decide_eq_true_eq, if_neg (Nat.not_le.2 hlt)]
    exact s.resultC_becomes c false
  · rw [← List.forall_iff_forall_mem]
    exact ⟨high h rfl, high h rfl, high h rfl, high h rfl, high h rfl⟩
  · refine State.givesRegister rfl (congrArg _ ?_)
    change b2n x.poison * 2 ^ 16 + x.count.toNat = _
    cases x.poison <;> simp [b2n, Nat.add_comm]

end Sys2Proof.Machine

/-! ## System registers (R107, R108) -/

namespace Sys2Proof.Machine

/-- sys.rd of a register other than TIME only gives its value. -/
theorem execSysRd_result (s : State) (d : BitVec 5) {x : BitVec 12} (h : x ≠ 0x008) :
    exec (.sysRd d x) s = .next (s.result d (BitVec.ofNat 64 (s.sysValue s.curTile x.toNat))) :=
  congrArg Host.Outcome.next (congrArg State.cDone (if_neg h))

/-- sys.rd of TIME captures TIMEF. -/
theorem execSysRd_time (s : State) (d : BitVec 5) : exec (.sysRd d 0x008) s =
    .next ((s.setG d s.time.ns).onCur fun t => { t with timef := s.time.frac }).cDone := by
  have hns : BitVec.ofNat 64 (s.sysValue s.curTile 0x008) = s.time.ns := by simp [State.sysValue]
  rw [← hns]
  exact congrArg Host.Outcome.next (congrArg State.cDone (if_pos rfl))

theorem b2n_eq_ite (b : Bool) : b2n b = if b = true then 1 else 0 := by cases b <;> rfl

theorem Tile.sysWrite_vflags (t : Tile) (v : W64) :
    t.sysWrite 0x020 v = { t with vflags := t.vflags &&& ~~~(BitVec.extractLsb' 0 6 v) } := by
  rw [Tile.sysWrite, BitVec.setWidth_eq_extractLsb' (by decide)]

theorem Tile.sysWrite_disc (t : Tile) (v : W64) :
    t.sysWrite 0x040 v = { t with disc := t.disc &&& ~~~(BitVec.extractLsb' 0 8 v) } := by
  rw [Tile.sysWrite, BitVec.setWidth_eq_extractLsb' (by decide)]

/-- Settles O20: sys.rd is `State.result` of the register's value, and sys.wr is `Tile.sysWrite`, register by register. -/
theorem systemRegisters : Obligations.SystemRegisters := by
  intro s d a x tl u v
  have reads {y : BitVec 12} {w : Nat} (hy : (y != 0x008) = true) (hw : s.sysValue s.curTile y.toNat = w) :
      ∃ t, exec (.sysRd d y) s = .next t ∧ s.CRegister t d (BitVec.ofNat 64 w) :=
    State.givesRegister (execSysRd_result s d (bne_iff_ne.1 hy)) (congrArg _ hw)
  have writes {y : BitVec 12} {z : Tile} (hz : tl.sysWrite y.toNat v = z) (hk : z.control = s.ctl) :
      ∃ t, exec (.sysWr a y) s = .next t ∧ s.CBecomes t { z with control := s.ctl.next } :=
    ⟨_, rfl, hk ▸ s.ends_becomes hz⟩
  have hen : b2n u.raisen * 2 + b2n u.nren = (if u.raisen = true then 2 else 0) + (if u.nren = true then 1 else 0) := by
    cases u.raisen <;> cases u.nren <;> rfl
  refine ⟨?_, fun hx => reads (bne_iff_ne.2 hx) rfl, ⟨_, execSysRd_time s d, ?_⟩, ?_⟩
  · rw [← List.forall_iff_forall_mem]
    exact ⟨reads rfl rfl, reads rfl rfl, reads rfl rfl, reads rfl rfl, reads rfl rfl,
      reads rfl rfl, reads rfl hen, reads rfl (b2n_eq_ite _), reads rfl rfl, reads rfl rfl,
      reads rfl rfl, reads rfl rfl, reads rfl rfl⟩
  · rw [State.setG, State.onCtl, State.onCur_onCur, State.onCur_cDone]
    refine s.onCur_becomesOf ?_
    rw [Control.setReg]
    split <;> rfl
  · rw [← List.forall_iff_forall_mem]
    exact ⟨writes (tl.sysWrite_vflags v) rfl, writes rfl rfl, writes rfl rfl, writes rfl rfl, writes (tl.sysWrite_disc v) rfl,
      writes rfl rfl, writes rfl rfl, writes rfl rfl, writes rfl rfl, writes rfl rfl, writes rfl rfl, writes rfl rfl, writes rfl rfl,
      writes rfl rfl, writes rfl rfl, writes rfl rfl, writes rfl rfl, writes rfl rfl, writes rfl rfl, writes rfl rfl, writes rfl rfl,
      writes rfl rfl, writes rfl rfl⟩

end Sys2Proof.Machine

/-! ## Queues and waite (R91, R92) -/

namespace Sys2Proof.Machine

/-- A waite whose event is true ends with cd = 1. -/
theorem State.waite_true (s : State) (c : BitVec 3) (a : BitVec 5) : s.waite c a true = s.resultC c true := rfl

/-- The C stream at a waite that waits: its timeout is that of its first try, and counts from then (R92). -/
def Tile.waiteWaits (t : Tile) (n : Nat) : Control :=
  { t.control with
    stalled := true
    wait := some (t.control.wait.getD n)
    since := if t.control.wait = none then t.tc else t.control.since }

theorem State.waite_false (s : State) (c : BitVec 3) (a : BitVec 5) :
    s.CBecomes (s.waite c a false) { s.tile s.curTile with control := (s.tile s.curTile).waiteWaits (s.g a).toNat } := by
  rw [State.waite, if_neg Bool.false_ne_true, State.cStall, State.onCtl_onCtl]
  refine s.onCur_becomesOf ?_
  simp only [Tile.waiteWaits]
  cases (s.tile s.curTile).control.wait <;> rfl

/-- A form that is a waite ends at once when its event is true, and else waits. -/
theorem State.waite_cases {s : State} {i : Instr} {c : BitVec 3} {a : BitVec 5} {ev : Bool} {p : Prop} [Decidable p]
    (h : exec i s = .next (s.waite c a ev)) (hp : ev = true ↔ p) :
    if p then ∃ t, exec i s = .next t ∧
        s.CBecomes t { s.tile s.curTile with control := { s.ctl.next with c := (s.ctl.setCond c true).c } }
      else ∃ t, exec i s = .next t ∧ s.CBecomes t { s.tile s.curTile with control := (s.tile s.curTile).waiteWaits (s.g a).toNat } := by
  split
  next hx => exact ⟨_, h, by rw [hp.2 hx]; exact s.resultC_becomes c true⟩
  next hx => exact ⟨_, h, by rw [Bool.eq_false_iff.2 fun e => hx (hp.1 e)]; exact s.waite_false c a⟩

/-! ### The timeout -/

theorem Tile.toTc_keeps {α : Type} (p : Tile → α) (h : ∀ t x, p (Tile.applyLate t x) = p t)
    (h0 : ∀ (t : Tile) l, p { t with pending := l } = p t) (h1 : ∀ (t : Tile) n, p { t with tc := n } = p t) (t : Tile) (n : Nat) :
    p (t.toTc n) = p t := (h1 _ _).trans (Tile.write_keeps p h h0 t _)

/-- What a result in flight that is written leaves of the tile's run. -/
theorem Tile.applyLate_runs (t : Tile) (x : Late) :
    ((t.applyLate x).boundary, (t.applyLate x).ending, (t.applyLate x).halt) = (t.boundary, t.ending, t.halt) := by
  cases x <;> simp only [Tile.applyLate]
  · unfold Tile.setVreg; split <;> rfl
  · unfold Tile.setPreg; split <;> rfl
  · rfl
  · unfold Tile.setBank; split <;> rfl

theorem Tile.applyLate_controlLive (t : Tile) (x : Late) : (t.applyLate x).controlLive = t.controlLive := by
  have h := t.applyLate_runs x
  simp only [Prod.mk.injEq] at h
  obtain ⟨hb, he, hh⟩ := h
  simp only [Tile.controlLive, Tile.live, t.applyLate_status, t.applyLate_control, t.applyLate_trapping, hb, he, hh]

/-- The tc of a count go by: the C stream stands as it stood, and runs if it ran. -/
theorem Tile.countPast_keeps {t u : Tile} {since n : Nat} (h : t.countPast since n = some u) :
    u.control = t.control ∧ u.controlLive = t.controlLive := by
  unfold Tile.countPast at h
  split at h
  next => cases h
  next =>
    split at h
    next =>
      split at h
      next => cases h; exact ⟨rfl, rfl⟩
      next => cases h
    next =>
      cases h
      exact ⟨Tile.toTc_keeps _ Tile.applyLate_control (fun _ _ => rfl) (fun _ _ => rfl) t _,
        Tile.toTc_keeps _ Tile.applyLate_controlLive (fun _ _ => rfl) (fun _ _ => rfl) t _⟩

/-- The timeout of a waite of the current tile, whose tc have passed without a raise, ends it. -/
theorem State.waiteTimeout_ends {s : State} {w : Nat} {u : Tile} {i : Instr} {c : BitVec 3} {ev0 ev : Bool} (hw : s.ctl.wait = some w)
    (h0 : w ≠ 0) (hlive : (s.tile s.curTile).controlLive = true) (hu : (s.tile s.curTile).countPast s.ctl.since w = some u)
    (hquiet : (s.setTile s.curTile u).noRaises s.curTile u.portNow)
    (hi : Decode.control ((s.tile s.curTile).codeWord s.ctl.pc.toNat) = .ok i)
    (hev0 : (s.tile s.curTile).waiteEvent i = some (c, ev0)) (hev : u.waiteEvent i = some (c, ev)) :
    ∃ t, exec (.waiteTimeout s.curTile) s = .next t ∧
      s.CBecomes t { u with control := { s.ctl.next with c := (s.ctl.setCond c ev).c } } := by
  obtain ⟨hk, hl⟩ := Tile.countPast_keeps hu
  have hw' : (s.tile s.curTile).control.wait = some w := hw
  have hi' : Decode.control ((s.tile s.curTile).codeWord (s.tile s.curTile).control.pc.toNat) = .ok i := hi
  have hu' : (s.tile s.curTile).countPast (s.tile s.curTile).control.since w = some u := hu
  have he : exec (.waiteTimeout s.curTile) s =
      .next ((s.setTile s.curTile u).onTile s.curTile fun y => { y with control := (y.control.setCond c ev).finish }) := by
    show execWaiteTimeout s.curTile s = _
    simp only [execWaiteTimeout, hw', hi', hlive, hev0, hu', hquiet.raisesOf, State.setTile_tile, hev, hl, h0, decide_false, Bool.not_true,
      Option.isNone_some, Bool.or_false, Bool.false_eq_true, if_false, if_true]
  refine ⟨_, he, ?_⟩
  rw [State.onTile, State.setTile_tile, State.setTile_setTile]
  refine s.onCur_becomesOf (f := fun _ => _) ?_
  rw [Control.finish_eq, hk]
  rfl

/-- Settles O16: each form is one step on its queue or a waite, and the timeout of a waite judges its event in its last tc. -/
theorem queuesAndWaits : Obligations.QueuesAndWaits := by
  intro s a c n x hr tl goes one first waits
  refine ⟨fun h => ⟨_, congrArg Host.Outcome.next (if_pos h), s.ends_becomes rfl⟩,
    fun h => ⟨_, congrArg Host.Outcome.next (if_neg (Nat.not_lt.2 h)), s.cStall_waits⟩,
    fun v r h => ⟨_, rfl, ?_⟩, fun h => ⟨_, rfl, ?_⟩, State.waite_cases rfl (Bool.or_eq_true_iff.trans (or_congr_right decide_eq_true_iff)),
    State.waite_cases rfl (by rw [Bool.not_eq_true', List.isEmpty_eq_false_iff]),
    State.waite_cases rfl decide_eq_true_iff, ?_⟩
  · simp only [show (s.tile s.curTile).votes = v :: r from h]
    exact s.endsC_becomes c v rfl rfl
  · simp only [show (s.tile s.curTile).votes = [] from h]
    exact s.cStall_waits
  · intro w u hw h0 hlive hu hquiet
    rw [← List.forall_iff_forall_mem]
    refine ⟨fun hi => State.waiteTimeout_ends hw h0 hlive hu hquiet hi rfl rfl,
      fun hi => State.waiteTimeout_ends hw h0 hlive hu hquiet hi rfl ?_,
      fun hi => State.waiteTimeout_ends hw h0 hlive hu hquiet hi rfl rfl⟩
    show some (c, !u.votes.isEmpty) = some (c, decide (u.votes ≠ []))
    cases u.votes <;> simp

end Sys2Proof.Machine

/-! ## Checkpoints (R101, R102, R368) -/

namespace Sys2Proof.Machine

/-- A stream that ckpt.close does not wait for. -/
def Stream.still (y : Stream) : Bool := y.quiet && decide (y.state ≠ .faulted)

theorem Stream.still_iff (y : Stream) : y.still = true ↔ y.state = .idle ∨ y.state = .stopped ∨ y.state = .await := by
  unfold Stream.still Stream.quiet Stream.ended
  cases y.state <;> decide

/-- Every block stream of the tile is still. -/
def Tile.still (t : Tile) : Bool := t.v.still && t.m.still && t.l.still && t.s.still

theorem Tile.still_iff (t : Tile) : t.still = true ↔
    ∀ x, (t.stream x).state = .idle ∨ (t.stream x).state = .stopped ∨ (t.stream x).state = .await := by
  simp only [Tile.still, Bool.and_eq_true, Stream.still_iff]
  exact ⟨fun ⟨⟨⟨hv, hm⟩, hl⟩, hs⟩ x => by cases x <;> assumption, fun h => ⟨⟨⟨h .v, h .m⟩, h .l⟩, h .s⟩⟩

/-- The copies of a tile that its die's engines still hold. -/
def State.copiesOf (s : State) (t : BitVec 6) : Nat := (s.die (tileDie t)).queued 0 t + (s.die (tileDie t)).queued 1 t

/-- ckpt.close once streams and copies are still. -/
def State.closes (s : State) : State :=
  match s.tileNode s.curTile with
  | some n =>
    if n.ckpt then
      ((s.onCtl fun k => { k with closing := true }).onNode n.handle fun n =>
        { n with closing := if n.closing = .no then .requested else n.closing }).cStall
    else s.cDone
  | none => s.cDone

theorem execCkptClose_eq (s : State) : exec .ckptClose s =
    .next (if !(s.tile s.curTile).still || decide (0 < s.copiesOf s.curTile) then s.cStall else s.closes) := rfl

/-- The tile of a share that waits at the close of its interval. -/
def Tile.closes (t : Tile) : Tile := { t with control := { t.control with stalled := true, closing := true } }

theorem State.onNode_onCtl (s : State) (h : W32) (f : Node → Node) (g : Control → Control) :
    (s.onNode h f).onCtl g = (s.onCtl g).onNode h f := rfl

/-- A share of a checkpoint-mode node asks for the close and waits there. -/
theorem State.closes_ckpt {s : State} {n : Node} (hn : s.tileNode s.curTile = some n) (hc : n.ckpt = true) :
    s.closes = (s.onCur Tile.closes).onNode n.handle fun m =>
      { m with closing := if m.closing = .no then .requested else m.closing } := by
  simp only [State.closes, hn, hc, if_true]
  rw [State.cStall, State.onNode_onCtl, State.onCtl_onCtl]
  rfl

/-- Settles O19: what ckpt.close waits for, and what it does for a share of each kind of node. -/
theorem checkpoints : Obligations.Checkpoints := by
  intro s d n hr tl quiet
  refine ⟨fun hq h0 h1 => ?_, fun hq => ?_, fun hn => ?_, fun hn => ?_⟩
  · have he : exec .ckptClose s = .next s.closes := by
      rw [execCkptClose_eq, (Tile.still_iff _).2 hq, State.copiesOf, h0, h1]; rfl
    have ends (h : s.closes = s.cDone) : ∃ t, exec .ckptClose s = .next t ∧ s.CEnds t := ⟨_, he, h ▸ s.cDone_ends⟩
    refine ⟨fun hn => ends (by simp only [State.closes, hn]),
      fun hn hc => ends (by simp only [State.closes, hn, hc, Bool.false_eq_true, if_false]), fun hn hc => ⟨_, he, ?_⟩⟩
    rw [State.closes_ckpt hn hc]
    have htile := s.onCur_tile Tile.closes
    exact ⟨htile, rfl, by rw [show ∀ h f, ((s.onCur Tile.closes).onNode h f).tile s.curTile = tl.closes from fun _ _ => htile]; rfl⟩
  · have hs : (s.tile s.curTile).still = false := Bool.eq_false_iff.2 fun h => hq ((Tile.still_iff _).1 h)
    exact ⟨_, by rw [execCkptClose_eq, hs]; rfl, s.cStall_waits⟩
  · exact State.givesRegister rfl (by rw [hn])
  · refine State.givesRegister rfl ?_
    have hmark : b2n n.rerun * 2 ^ 63 + 2 ^ 62 + n.interval.toNat = n.interval.toNat + 2 ^ 62 + if n.rerun = true then 2 ^ 63 else 0 := by
      rw [b2n_eq_ite]; split <;> omega
    rw [hn]
    exact if_congr Iff.rfl (congrArg _ hmark) rfl

end Sys2Proof.Machine

/-! ## Instructions whose operand names a record (R76) -/

namespace Sys2Proof.Machine

/-- An effect on the current tile of a word that no answer waits for. -/
theorem State.cRunAt_onCur {s : State} (h : s.noAnswer) (ea : W64) (f : Tile → Tile) :
    s.cRunAt ea (.ok (s.onCur f)) = (s.onCur f).cDone := by
  show ((s.onCur f).dropAnswers _).cDone = _
  rw [State.dropAnswers_none (s := s.onCur f) h]

/-- The word tries its effect with the record r: it has just read a sound one, or it kept it when it began to wait. -/
def State.TriesRecord (s : State) (ea : W64) (ok : Vector W64 8 → Bool) (r : Vector W64 8) : Prop :=
  (s.tile s.curTile).latched = none ∧ s.readRecord ea = .ok r ∧ ok r = true ∨
    s.ctl.stalled = true ∧ (s.tile s.curTile).latched = some r

/-- A word with nothing kept reads its record first. -/
theorem State.withRecord_unlatched {s : State} {ea : W64} {ok : Vector W64 8 → Bool} {r : Vector W64 8}
    (hl : (s.tile s.curTile).latched = none) (hr : s.readRecord ea = .ok r) (act : Vector W64 8 → Res State) :
    s.withRecord ea ok act = if ok r = true then match act r with
      | .error .stall => (s.onCur fun t => { t with latched := some r }).cStall
      | x => s.cRunAt ea x
    else (s.onCur fun t => { t with latched := none }).cTrap causeBfault 0 := by
  have hnone : (if s.ctl.stalled then (s.tile s.curTile).latched else none) = none := by rw [hl, ite_self]
  rw [State.withRecord, hnone, hr]
  cases hok : ok r
  · simp [need, hok, bind, Except.bind, State.cRunAt]
  · simp [need, hok, bind, Except.bind, pure, Except.pure] <;> rfl

theorem State.withRecord_latched {s : State} {r : Vector W64 8} (hs : s.ctl.stalled = true) (hl : (s.tile s.curTile).latched = some r)
    (ea : W64) (ok : Vector W64 8 → Bool) (act : Vector W64 8 → Res State) : s.withRecord ea ok act = s.cRunAt ea (act r) := by
  rw [State.withRecord, hs, hl]; rfl

/-- A record with a wrong field is BFAULT. -/
theorem State.withRecord_bfault {s : State} {ea : W64} {ok : Vector W64 8 → Bool} {r : Vector W64 8}
    (hl : (s.tile s.curTile).latched = none) (hr : s.readRecord ea = .ok r) (hok : ok r = false) (act : Vector W64 8 → Res State) :
    s.withRecord ea ok act = s.cTrap causeBfault 0 := by
  have hsame : (s.onCur fun t => { t with latched := none }) = s := by
    have ht : ({ s.tile s.curTile with latched := none } : Tile) = s.tile s.curTile := by rw [← hl]
    rw [State.onCur, State.onTile, ht, State.setTile_same]
  rw [State.withRecord_unlatched hl hr, hok, if_neg Bool.false_ne_true, hsame]

section
variable {s : State} {ea : W64} {ok : Vector W64 8 → Bool} {r : Vector W64 8} (h : s.TriesRecord ea ok r) {act : Vector W64 8 → Res State}
include h

theorem State.TriesRecord.acts {t : State} (ha : act r = .ok t) : s.withRecord ea ok act = s.cRunAt ea (.ok t) := by
  obtain ⟨hl, hr, hok⟩ | ⟨hs, hl⟩ := h
  · rw [State.withRecord_unlatched hl hr, if_pos hok, ha]
  · rw [State.withRecord_latched hs hl, ha]

theorem State.TriesRecord.traps {cause : Byte} {val : W64} (ha : act r = .error (.trap cause val)) :
    s.withRecord ea ok act = s.cTrap cause val := by
  obtain ⟨hl, hr, hok⟩ | ⟨hs, hl⟩ := h
  · rw [State.withRecord_unlatched hl hr, if_pos hok, ha]; rfl
  · rw [State.withRecord_latched hs hl, ha]; rfl

/-- A word that waits keeps its record. -/
theorem State.TriesRecord.waits (ha : act r = .error .stall) :
    s.CBecomes (s.withRecord ea ok act) { s.tile s.curTile with latched := some r, control := { s.ctl with stalled := true } } := by
  obtain ⟨hl, hr, hok⟩ | ⟨hs, hl⟩ := h
  · rw [State.withRecord_unlatched hl hr, if_pos hok, ha]
    show s.CBecomes (s.onCur fun t => { t with latched := some r }).cStall _
    rw [State.cStall, State.onCtl, State.onCur_onCur]
    exact s.onCur_becomes _
  · rw [State.withRecord_latched hs hl, ha]
    have ht : ({ s.tile s.curTile with latched := some r, control := { s.ctl with stalled := true } } : Tile) =
        { s.tile s.curTile with control := { s.ctl with stalled := true } } := by rw [← hl]
    rw [ht]
    exact s.cStall_waits

end

/-! ## Windows (R89, R90, R182) -/

/-- What win.set does with the image it has read. -/
def State.setsWindow (s : State) (n : BitVec 5) (image : Vector W64 8) : Res State := do
  let pins ← s.pinImage s.curTile image
  if (s.tile s.curTile).windowBusy n then .error .stall
  else do
    need (decide ((pageKeys ((s.tile s.curTile).pinsWithout n ++ pins)).length ≤ pinLimit)) causePinlim
    return (s.onCur fun t => t.setWindow n (some { image := image, pins := pins })).shootCheck

theorem execWinSet_eq (s : State) (a n : BitVec 5) : exec (.winSet a n) s =
    .next (s.withRecord (s.g a) (fun image => Image.fieldsOk image (s.holdsSnapshot s.curTile)) (s.setsWindow n)) := rfl

section
variable {s : State} {n : BitVec 5} {image : Vector W64 8} {pins : List Held} (hp : s.pinImage s.curTile image = .ok pins)
include hp

theorem State.setsWindow_busy (hb : (s.tile s.curTile).windowBusy n = true) : s.setsWindow n image = .error .stall := by
  simp [State.setsWindow, hp, hb, bind, Except.bind]

theorem State.setsWindow_pinlim (hb : (s.tile s.curTile).windowBusy n = false)
    (hl : 512 < (pageKeys ((s.tile s.curTile).pinsWithout n ++ pins)).length) :
    s.setsWindow n image = .error (.trap causePinlim 0) := by
  have hd : decide ((pageKeys ((s.tile s.curTile).pinsWithout n ++ pins)).length ≤ pinLimit) = false :=
    decide_eq_false (Nat.not_le.2 hl)
  simp [State.setsWindow, hp, hb, hd, need, bind, Except.bind]

theorem State.setsWindow_ok (hq : s.shoot.busy = false) (hb : (s.tile s.curTile).windowBusy n = false)
    (hl : (pageKeys ((s.tile s.curTile).pinsWithout n ++ pins)).length ≤ 512) :
    s.setsWindow n image = .ok (s.onCur fun t => t.setWindow n (some { image := image, pins := pins })) := by
  have hd : decide ((pageKeys ((s.tile s.curTile).pinsWithout n ++ pins)).length ≤ pinLimit) = true := decide_eq_true hl
  have hc := State.shootCheck_idle (s := s.onCur fun t => t.setWindow n (some { image := image, pins := pins })) hq
  simp [State.setsWindow, hp, hb, hd, hc, need, bind, Except.bind, pure, Except.pure]

end

/-- Settles O17: win.set is `State.setsWindow` of the record that it reads or has kept. -/
theorem windows : Obligations.Windows := by
  intro s a d n j image pins hr halone hq tl
  refine ⟨fun h hp => ?_, fun hl hrec hok => ⟨_, rfl, ?_⟩, fun hb => ⟨_, rfl, ?_⟩, fun hb => ⟨_, rfl, ?_⟩, State.givesRegister rfl rfl⟩
  · have ht : s.TriesRecord (s.g a) (fun image => Image.fieldsOk image (s.holdsSnapshot s.curTile)) image := h
    refine ⟨fun hb => ⟨fun hle => ⟨_, execWinSet_eq s a n, ?_⟩, fun hlt => ⟨_, execWinSet_eq s a n, ?_⟩⟩,
      fun hb => ⟨_, execWinSet_eq s a n, ht.waits (State.setsWindow_busy hp hb)⟩⟩
    · rw [ht.acts (State.setsWindow_ok hp hq hb hle), State.cRunAt_onCur halone]
      exact s.ends_becomes rfl
    · rw [ht.traps (State.setsWindow_pinlim hp hb hlt)]
      exact hr.traps 0
  · rw [State.withRecord_bfault hl hrec hok]
    exact hr.traps 0
  · have hc := State.shootCheck_idle (s := s.onCur fun t => t.setWindow n none) hq
    rw [hb, if_neg Bool.false_ne_true, hc, State.cRun, State.cRunAt_onCur halone]
    exact s.ends_becomes rfl
  · rw [hb, if_pos rfl]
    exact s.cStall_waits

end Sys2Proof.Machine

/-! ## Bytes of a number -/

namespace Sys2Proof.Machine

theorem getElem_leBytes {n x i : Nat} (h : i < (leBytes n x).length) : (leBytes n x)[i] = BitVec.ofNat 8 (x / 256 ^ i) := by
  induction n generalizing x i with
  | zero => exact absurd h (Nat.not_lt_zero _)
  | succ n ih =>
    cases i with
    | zero => simp [leBytes]
    | succ i =>
      have := ih (x := x / 256) (i := i) (by simpa [leBytes] using h)
      simp only [leBytes, List.getElem_cons_succ, this]
      rw [Nat.div_div_eq_div_mul, Nat.pow_succ, Nat.mul_comm]

theorem leBytes_leNat (l : List Byte) : leBytes l.length (leNat l) = l := by
  induction l with
  | nil => rfl
  | cons b r ih =>
    have hb : BitVec.ofNat 8 (b.toNat + 256 * leNat r) = b := BitVec.eq_of_toNat_eq (by rw [BitVec.toNat_ofNat]; omega)
    have hr : (b.toNat + 256 * leNat r) / 256 = leNat r := by omega
    simp only [List.length_cons, leNat, leBytes, hb, hr, ih]

/-! ## Tile stores -/

/-- A place in a tile store is its tile's address and an offset below 4 MiB (R249). -/
theorem place_tileStore {pa off : Nat} {t : BitVec 6} (h : place pa = .tileStore t off) : pa = storeAddr t off ∧ off < 0x400000 := by
  unfold place at h
  split at h
  next => cases h
  next =>
    split at h
    next hin =>
      cases h
      simp only [storeAddr, BitVec.toNat_ofNat]
      unfold tileBase at hin ⊢
      omega
    all_goals (repeat' split at h) <;> cases h

theorem hbmEnd_le_storeAddr (t : BitVec 6) (off : Nat) : hbmEnd ≤ storeAddr t off := by
  unfold storeAddr hbmEnd tileBase; omega

/-- Sound bytes of SRAM under a page without SEAL (R396). -/
theorem State.readPart_sram {s : State} {leaf : Leaf} (view : View) {pa n : Nat} (hpa : hbmEnd ≤ pa) (hs : leaf.sealed = false)
    (hopen : s.scratchBusy pa = false) (hbad : s.anyPoison pa n = false) : s.readPart leaf view pa n = .ok (s.mem.bytes pa n, false) := by
  have hver : s.versionOf leaf view (pa / 128) = none :=
    if_pos (.inr (by unfold lineAddr hbmEnd at *; omega))
  have hnone : s.badPart leaf view pa n = none := by simp [State.badPart, hver, hs, hbad]
  have hview := s.sealView_plain hs (fun i => s.group (pa + i)) (s.mem.bytes pa n)
  simp [State.readPart, hver, hopen, hnone, Nat.not_lt.2 hpa, State.tagOk, hs, hview]

/-- A write inside bytes without an error clears no poison (R396). -/
theorem State.clearPoison_sound {s : State} {pa n a k : Nat} (h : s.anyPoison pa n = false) (ha : pa ≤ a) (hk : a + k ≤ pa + n) :
    (s.clearPoison a k).poison = s.poison := by
  refine List.filter_eq_self.2 fun g hg => ?_
  have hsize : 0 < granuleSize g := by unfold granuleSize; split <;> decide
  by_contra hin
  simp only [Bool.not_eq_true', Bool.not_eq_false, Bool.and_eq_true, decide_eq_true_eq] at hin
  have hany : s.anyPoison pa n = true := by
    rw [State.anyPoison, Bool.and_eq_true]
    refine ⟨by simpa using List.ne_nil_of_mem hg, List.any_eq_true.2 ⟨g, hg, ?_⟩⟩
    simp only [Bool.and_eq_true, decide_eq_true_eq]
    omega
  rw [h] at hany; cases hany

theorem State.StoreOnly.trans {s t u : State} (h1 : s.StoreOnly t) (h2 : t.StoreOnly u) : s.StoreOnly u :=
  ⟨by rw [h2.frame, h1.frame], fun z => by rw [h2.tile z, h1.tile z]⟩

theorem State.StoreOnly.curTile {s t : State} (h : s.StoreOnly t) : t.curTile = s.curTile := by rw [h.frame]; rfl

theorem State.StoreOnly.ctl {s t : State} (h : s.StoreOnly t) : t.ctl = s.ctl := by
  rw [State.ctl, h.curTile, h.tile]; rfl

/-- A store and then a change of the C stream. -/
theorem State.StoreOnly.onCtl_tile {s t : State} (h : s.StoreOnly t) (f : Control → Control) (u : BitVec 6) :
    (t.onCtl f).tile u = { s.tile u with
      control := ((t.onCtl f).tile u).control, dirtyA := ((t.onCtl f).tile u).dirtyA, dirtyB := ((t.onCtl f).tile u).dirtyB } := by
  by_cases hu : u = t.curTile
  · have e : (t.onCtl f).tile u = { t.tile u with control := f t.ctl } := by rw [hu]; exact t.onCur_tile _
    rw [e, h.tile u]
  · rw [show (t.onCtl f).tile u = t.tile u from t.onTile_other _ u _ hu, h.tile u]

theorem State.StoreOnly.onCtl_control {s t : State} (h : s.StoreOnly t) (f : Control → Control) {u : BitVec 6} (hu : u ≠ s.curTile) :
    ((t.onCtl f).tile u).control = (s.tile u).control := by
  rw [show (t.onCtl f).tile u = t.tile u from t.onTile_other _ u _ (h.curTile ▸ hu), h.tile u]

/-! ## Landing words (R80) -/

/-- The fields of a landing word are as wide as R80 gives them. -/
def Landing.Fits (l : Landing) : Prop := l.target < 2 ^ 32 ∧ l.count < 2 ^ 32 ∧ l.gen < 2 ^ 32 ∧ l.rest < 2 ^ 29

theorem Landing.ofBytes_fits (bs : List Byte) : (Landing.ofBytes bs).Fits :=
  ⟨Nat.mod_lt _ (Nat.two_pow_pos _), Nat.mod_lt _ (Nat.two_pow_pos _), Nat.mod_lt _ (Nat.two_pow_pos _), Nat.mod_lt _ (Nat.two_pow_pos _)⟩

theorem b2n_le (b : Bool) : b2n b ≤ 1 := by cases b <;> decide

theorem b2n_beq_one (b : Bool) : (b2n b == 1) = b := by cases b <;> rfl

theorem Landing.ofBytes_leBytes {l : Landing} (h : l.Fits) : Landing.ofBytes (leBytes 16 l.toNat) = l := by
  obtain ⟨ht, hc, hg, hr⟩ := h
  have ha := b2n_le l.armed
  have ho := b2n_le l.ovr
  have he := b2n_le l.err
  have hx : l.toNat = l.rest * 2 ^ 99 + b2n l.armed * 2 ^ 98 + b2n l.ovr * 2 ^ 97 + b2n l.err * 2 ^ 96 + l.gen * 2 ^ 64 +
      l.count * 2 ^ 32 + l.target := by
    rw [Landing.toNat, Nat.mod_eq_of_lt ht, Nat.mod_eq_of_lt hc, Nat.mod_eq_of_lt hg]
  have hle : leNat (leBytes 16 l.toNat) = l.toNat := by
    rw [leNat_leBytes, hx]; exact Nat.mod_eq_of_lt (by omega)
  have h1 : bits l.toNat 31 0 = l.target := by rw [bits, hx]; omega
  have h2 : bits l.toNat 63 32 = l.count := by rw [bits, hx]; omega
  have h3 : bits l.toNat 95 64 = l.gen := by rw [bits, hx]; omega
  have h4 : bits l.toNat 96 96 = b2n l.err := by rw [bits, hx]; omega
  have h5 : bits l.toNat 97 97 = b2n l.ovr := by rw [bits, hx]; omega
  have h6 : bits l.toNat 98 98 = b2n l.armed := by rw [bits, hx]; omega
  have h7 : bits l.toNat 127 99 = l.rest := by rw [bits, hx]; omega
  simp only [Landing.ofBytes, hle, h1, h2, h3, h4, h5, h6, h7, b2n_beq_one]

/-- The bytes above the fields of a landing word hold its ignored bits alone. -/
theorem Landing.toNat_ignored {l : Landing} (h : l.Fits) : l.toNat / 256 ^ 13 = l.rest / 32 := by
  obtain ⟨ht, hc, hg, hr⟩ := h
  have ha := b2n_le l.armed
  have ho := b2n_le l.ovr
  have he := b2n_le l.err
  rw [Landing.toNat, Nat.mod_eq_of_lt ht, Nat.mod_eq_of_lt hc, Nat.mod_eq_of_lt hg]
  omega

theorem State.landing_ignored (s : State) (pa : Nat) : (s.landing pa).rest / 32 = leNat (s.mem.bytes pa 16) / 256 ^ 13 := by
  have h := leNat_bytes_lt s.mem pa 16
  show bits (leNat (s.mem.bytes pa 16)) 127 99 / 32 = _
  rw [bits]
  omega

theorem State.setLanding_mem (s : State) (pa : Nat) (l : Landing) : (s.setLanding pa l).mem =
    (s.mem.setBytes pa ((leBytes 16 l.toNat).take 12)).setBytes (pa + 12) (((leBytes 16 l.toNat).drop 12).take 1) := by
  rw [State.setLanding, State.put_mem, State.put_mem]

/-- A landing word that keeps the ignored bits is written whole. -/
theorem State.setLanding_bytes {s : State} {pa : Nat} {l : Landing} (h : l.Fits) (hrest : l.rest = (s.landing pa).rest) :
    (s.setLanding pa l).mem.bytes pa 16 = leBytes 16 l.toNat := by
  have hlow : ((leBytes 16 l.toNat).take 12).length = 12 := by rw [List.length_take, length_leBytes]; rfl
  have hhigh : (((leBytes 16 l.toNat).drop 12).take 1).length = 1 := by rw [List.length_take, List.length_drop, length_leBytes]; rfl
  refine List.ext_getElem (by rw [Memory.length_bytes, length_leBytes]) fun i h1 h2 => ?_
  rw [Memory.getElem_bytes, s.setLanding_mem]
  have hi : i < 16 := by rwa [length_leBytes] at h2
  rcases Nat.lt_trichotomy i 12 with hlt | heq | hgt
  · rw [Memory.byte_setBytes_other _ _ _ _ (.inl (by omega)), Memory.byte_setBytes _ _ _ i (by omega), List.getElem_take]
  · subst heq
    have hb := Memory.byte_setBytes (s.mem.setBytes pa ((leBytes 16 l.toNat).take 12)) (pa + 12)
      (((leBytes 16 l.toNat).drop 12).take 1) 0 (by omega)
    rw [Nat.add_zero] at hb
    rw [hb, List.getElem_take, List.getElem_drop]
  · have hold := Memory.getElem_bytes s.mem pa 16 i (by rwa [Memory.length_bytes])
    have hword : leBytes 16 (leNat (s.mem.bytes pa 16)) = s.mem.bytes pa 16 := by
      have := leBytes_leNat (s.mem.bytes pa 16)
      rwa [Memory.length_bytes] at this
    have hdiv (x : Nat) : x / 256 ^ i = x / 256 ^ 13 / 256 ^ (i - 13) := by
      rw [Nat.div_div_eq_div_mul, ← Nat.pow_add, Nat.add_sub_cancel' (by omega)]
    rw [Memory.byte_setBytes_other _ _ _ _ (.inr (by omega)), Memory.byte_setBytes_other _ _ _ _ (.inr (by omega)), ← hold]
    rw [← List.getElem_of_eq hword (by rwa [length_leBytes]), getElem_leBytes, getElem_leBytes, hdiv l.toNat, hdiv (leNat _),
      Landing.toNat_ignored h, hrest, s.landing_ignored]

theorem State.landing_setLanding {s : State} {pa : Nat} {l : Landing} (h : l.Fits) (hrest : l.rest = (s.landing pa).rest) :
    (s.setLanding pa l).landing pa = l := by
  rw [State.landing, State.setLanding_bytes h hrest, Landing.ofBytes_leBytes h]

theorem State.setLanding_stores (s : State) (pa : Nat) (l : Landing) : s.StoreOnly (s.setLanding pa l) :=
  (s.put_stores _ _).trans (State.put_stores _ _ _)

theorem State.setLanding_sameBytesBut (s : State) (pa : Nat) (l : Landing) : s.SameBytesBut (s.setLanding pa l) pa 16 := fun p hp => by
  rw [State.setLanding, State.put_byte_other _ (by simp; omega), State.put_byte_other _ (by simp; omega)]

/-- Two stores inside bytes without an error leave memory, reservations and dirty marks. -/
theorem State.put_put_eq {s : State} {pa n a b : Nat} {bs cs : List Byte} (h : s.anyPoison pa n = false) (ha : pa ≤ a)
    (hb : a + bs.length ≤ b) (hn : b + cs.length ≤ pa + n) : (s.put a bs).put b cs = { s with
      mem := ((s.put a bs).put b cs).mem
      tiles := ((s.put a bs).put b cs).tiles
      reservations := ((s.unreserve a bs.length).unreserve b cs.length).reservations } := by
  have h1 := s.put_eq a bs
  rw [State.clearPoison_sound h ha (by omega)] at h1
  have hp : (s.put a bs).anyPoison pa n = false := by rw [h1]; exact h
  have h2 := (s.put a bs).put_eq b cs
  rw [State.clearPoison_sound hp (by omega) hn] at h2
  have hr : ((s.put a bs).unreserve b cs.length).reservations = ((s.unreserve a bs.length).unreserve b cs.length).reservations := by
    rw [h1]; rfl
  rw [h2, hr]
  simp only
  rw [h1]

/-- A landing word without an error, written, leaves memory, reservations and dirty marks. -/
theorem State.setLanding_eq {s : State} {pa : Nat} (h : s.anyPoison pa 16 = false) (l : Landing) : s.setLanding pa l = { s with
    mem := (s.setLanding pa l).mem
    tiles := (s.setLanding pa l).tiles
    reservations := ((s.unreserve pa 12).unreserve (pa + 12) 1).reservations } := by
  have hput := State.put_put_eq (bs := (leBytes 16 l.toNat).take 12) (cs := ((leBytes 16 l.toNat).drop 12).take 1) (b := pa + 12) h
    (le_refl pa) (by simp) (by simp)
  simp only [List.length_take, List.length_drop, length_leBytes] at hput
  exact hput

end Sys2Proof.Machine

/-! ## The landing-word forms (R82) -/

namespace Sys2Proof.Machine

theorem Landing.reached_iff (l : Landing) (v : Nat) : l.reached v = true ↔ l.armed = true ∧ v ≤ l.gen := by
  rw [Landing.reached, Bool.and_eq_true, decide_eq_true_eq]

/-- A landing word that lw.arm leaves (R82). -/
def Landing.arm (l : Landing) (v : Nat) : Landing :=
  if v = 0 then { l with armed := false } else { l with target := v, count := 0, gen := 0, err := false, ovr := false, armed := true }

theorem Landing.Fits.arm {l : Landing} (h : l.Fits) {v : Nat} (hv : v < 2 ^ 32) : (l.arm v).Fits ∧ (l.arm v).rest = l.rest := by
  obtain ⟨ht, hc, hg, hr⟩ := h
  unfold Landing.arm
  split
  · exact ⟨⟨ht, hc, hg, hr⟩, rfl⟩
  · exact ⟨⟨hv, Nat.two_pow_pos _, Nat.two_pow_pos _, hr⟩, rfl⟩

/-- The store of lw.arm. -/
def State.lwArmed (s : State) (leaf : Leaf) (pa v : Nat) : State :=
  (s.markUnrollable s.curWriter leaf (s.group pa)).setLanding pa ((s.landing pa).arm v)

theorem State.landing_markUnrollable (s : State) (w : Writer) (leaf : Leaf) (gpa pa : Nat) :
    (s.markUnrollable w leaf gpa).landing pa = s.landing pa := by rw [s.markUnrollable_pool]; rfl

theorem State.lwArmed_stores (s : State) (leaf : Leaf) (pa v : Nat) : s.StoreOnly (s.lwArmed leaf pa v) := by
  have h := State.setLanding_stores (s.markUnrollable s.curWriter leaf (s.group pa)) pa ((s.landing pa).arm v)
  rw [s.markUnrollable_pool] at h
  rw [State.lwArmed, s.markUnrollable_pool]
  exact h.of_pool

theorem State.byte_of_pool {s u : State} (h : u = { s with pool := u.pool }) (p : Nat) : u.byte p = s.byte p := by rw [h]; rfl

theorem State.anyPoison_of_pool {s u : State} (h : u = { s with pool := u.pool }) (pa n : Nat) :
    u.anyPoison pa n = s.anyPoison pa n := by rw [h]; rfl

theorem State.lwArmed_sameBytesBut (s : State) (leaf : Leaf) (pa v : Nat) : s.SameBytesBut (s.lwArmed leaf pa v) pa 16 := fun p hp => by
  rw [State.lwArmed, State.setLanding_sameBytesBut _ pa _ p hp, State.byte_of_pool (s.markUnrollable_pool _ _ _)]

theorem State.lwArmed_landing (s : State) (leaf : Leaf) (pa : Nat) {v : Nat} (hv : v < 2 ^ 32) :
    (s.lwArmed leaf pa v).landing pa = (s.landing pa).arm v := by
  obtain ⟨hfits, hrest⟩ := Landing.Fits.arm (l := s.landing pa) (Landing.ofBytes_fits _) hv
  exact State.landing_setLanding hfits (by rw [hrest, s.landing_markUnrollable])

theorem State.unreserve_of_pool {s u : State} (h : u = { s with pool := u.pool }) (a b n k : Nat) :
    ((u.unreserve a n).unreserve b k).reservations = ((s.unreserve a n).unreserve b k).reservations := by rw [h]; rfl

theorem State.eq_of_pool {s u t : State} {r : Table (Nat × Nat)} (hu : u = { s with pool := u.pool })
    (ht : t = { u with mem := t.mem, tiles := t.tiles, reservations := r }) :
    t = { s with mem := t.mem, tiles := t.tiles, pool := u.pool, reservations := r } := by
  rw [hu] at ht; exact ht

theorem State.onCtl_eq {s t : State} {p : Pool} {r : Table (Nat × Nat)} (f : Control → Control)
    (h : t = { s with mem := t.mem, tiles := t.tiles, pool := p, reservations := r }) :
    t.onCtl f = { s with mem := (t.onCtl f).mem, tiles := (t.onCtl f).tiles, pool := p, reservations := r } := by
  rw [h]; rfl

theorem State.lwArmed_eq {s : State} {pa : Nat} (h : s.anyPoison pa 16 = false) (leaf : Leaf) (v : Nat) : s.lwArmed leaf pa v = { s with
    mem := (s.lwArmed leaf pa v).mem
    tiles := (s.lwArmed leaf pa v).tiles
    pool := (s.markUnrollable s.curWriter leaf (s.group pa)).pool
    reservations := ((s.unreserve pa 12).unreserve (pa + 12) 1).reservations } := by
  have hu := s.markUnrollable_pool s.curWriter leaf (s.group pa)
  have hp : (s.markUnrollable s.curWriter leaf (s.group pa)).anyPoison pa 16 = false := by
    rw [State.anyPoison_of_pool hu]; exact h
  rw [← State.unreserve_of_pool hu, State.lwArmed]
  exact State.eq_of_pool hu (State.setLanding_eq hp _)

theorem State.cRunAt_ok {s u : State} {ea : W64} (h : ∀ a ∈ u.fabric.answers, a.who ≠ .stream s.curTile 0) :
    s.cRunAt ea (.ok u) = u.cDone := by rw [State.cRunAt, State.dropAnswers_none h]

section
variable {s : State} {leaf : Leaf} {pa : Nat} {ea : W64}

theorem State.LandingWord.armed (h : s.LandingWord true ea leaf pa) {a b : BitVec 5} (ha : s.g a = ea) :
    exec (.lwArm a b) s = .next ((s.lwArmed leaf pa ((s.g b).toNat % 2 ^ 32)).onCtl Control.next) := by
  have hdone : s.cRunAt ea (.ok (s.lwArmed leaf pa ((s.g b).toNat % 2 ^ 32))) =
      (s.lwArmed leaf pa ((s.g b).toNat % 2 ^ 32)).onCtl Control.next := by
    rw [State.cRunAt_ok (by rw [(s.lwArmed_stores leaf pa _).fabric]; exact h.alone), State.cDone]
    exact congrArg _ (funext Control.finish_eq)
  rw [← hdone]
  show execLwArm a b s = _
  subst ha
  simp only [execLwArm, h.reach, State.lwArmed, Landing.arm, bind, Except.bind]
  split <;> rfl

theorem State.LandingWord.read (h : s.LandingWord false ea leaf pa) : s.lwRead ea = .ok (s.landing pa) := by
  obtain ⟨off, hplace, -⟩ := h.store
  have hopen : s.scratchBusy pa = false := by rw [State.scratchBusy, hplace]
  have hend : hbmEnd ≤ pa := by rw [(place_tileStore hplace).1]; exact hbmEnd_le_storeAddr _ _
  have hread : s.readChecked leaf .newest pa 16 = .ok (s.mem.bytes pa 16) := by
    rw [State.readChecked, s.readLocal_line leaf .newest (by decide) h.plain.2, State.readPart_sram .newest hend h.plain.1 hopen h.sound]
    rfl
  rw [State.lwRead, h.reach]
  show (do let bs ← s.readChecked leaf .newest pa 16; return Landing.ofBytes bs) = _
  rw [hread]
  rfl

end

/-- gd of lw.get: the flags of an armed word above its generation. -/
theorem lwGet_value {l : Landing} (h : l.armed = true) :
    b2n l.armed * 2 ^ 34 + b2n l.ovr * 2 ^ 33 + b2n l.err * 2 ^ 32 + l.gen =
      l.gen + (if l.err = true then 2 ^ 32 else 0) + (if l.ovr = true then 2 ^ 33 else 0) + 2 ^ 34 := by
  rw [h]
  cases l.err <;> cases l.ovr <;> simp only [b2n, if_true, Bool.false_eq_true, if_false] <;> omega

/-- NOTREADY enters the user handler (R105). -/
theorem State.notready_traps {s : State} (val : W64) (h1 : (s.tile s.curTile).user.nren = true)
    (h2 : (s.tile s.curTile).user.inHandler = false) :
    s.CBecomes (s.cTrap causeNotready val) ((s.tile s.curTile).userTrap causeNotready val) := by
  have hu : (s.tile s.curTile).userLevel causeNotready = true := by simp [Tile.userLevel, h1, h2]
  exact s.onCur_becomesOf (if_pos hu)

section
variable {s : State} {ea : W64} {leaf : Leaf} {pa : Nat} (h : s.LandingWord false ea leaf pa) {a b : BitVec 5} (ha : s.g a = ea)
include h ha

theorem State.LandingWord.lwTest (c : BitVec 3) :
    exec (.lwTest c a b) s = .next (s.resultC c ((s.landing pa).reached ((s.g b).toNat % 2 ^ 32))) := by
  subst ha
  show execLwTest c a b s = _
  rw [execLwTest, h.read]
  exact congrArg Host.Outcome.next (State.cRunAt_ok (u := s.setC c _) h.alone)

theorem State.LandingWord.lwGet (d : BitVec 5) (hl : (s.landing pa).reached ((s.g b).toNat % 2 ^ 32) = true) :
    exec (.lwGet d a b) s = .next (s.result d (BitVec.ofNat 64 ((s.landing pa).gen + (if (s.landing pa).err = true then 2 ^ 32 else 0) +
      (if (s.landing pa).ovr = true then 2 ^ 33 else 0) + 2 ^ 34))) := by
  subst ha
  show execLwGet d a b s = _
  rw [← lwGet_value ((Landing.reached_iff _ _).1 hl).1, execLwGet, h.read]
  simp only [bind, Except.bind, if_pos hl]
  exact congrArg Host.Outcome.next (State.cRunAt_ok (u := s.setG d _) h.alone)

theorem State.LandingWord.lwWait (hl : (s.landing pa).reached ((s.g b).toNat % 2 ^ 32) = true) :
    exec (.lwWait a b) s = .next s.cDone := by
  subst ha
  show execLwWait a b s = _
  rw [execLwWait, h.read]
  simp only [bind, Except.bind, if_pos hl]
  exact congrArg Host.Outcome.next (State.cRunAt_ok h.alone)

theorem State.LandingWord.lwWait_waits (hl : ¬(s.landing pa).reached ((s.g b).toNat % 2 ^ 32) = true) :
    exec (.lwWait a b) s = .next s.cStall := by
  subst ha
  show execLwWait a b s = _
  rw [execLwWait, h.read]
  simp only [bind, Except.bind, if_neg hl]
  rfl

theorem State.LandingWord.lwGet_waits (d : BitVec 5) (hl : ¬(s.landing pa).reached ((s.g b).toNat % 2 ^ 32) = true)
    (hu : (s.tile s.curTile).user.nren = false ∨ (s.tile s.curTile).user.inHandler = true) :
    exec (.lwGet d a b) s = .next s.cStall := by
  subst ha
  have hn : ¬((s.tile s.curTile).user.nren && !(s.tile s.curTile).user.inHandler) = true := by rcases hu with hu | hu <;> simp [hu]
  show execLwGet d a b s = _
  rw [execLwGet, h.read]
  simp only [bind, Except.bind, if_neg hl, if_neg hn]
  rfl

theorem State.LandingWord.lwGet_traps (d : BitVec 5) (hl : ¬(s.landing pa).reached ((s.g b).toNat % 2 ^ 32) = true)
    (h1 : (s.tile s.curTile).user.nren = true) (h2 : (s.tile s.curTile).user.inHandler = false) :
    exec (.lwGet d a b) s = .next (s.cTrap causeNotready ea) := by
  subst ha
  have hn : ((s.tile s.curTile).user.nren && !(s.tile s.curTile).user.inHandler) = true := by simp [h1, h2]
  show execLwGet d a b s = _
  rw [execLwGet, h.read]
  simp only [bind, Except.bind, if_neg hl, if_pos hn]
  rfl

end

/-- Settles O14: lw.arm is one store, and each of the others reads the word and judges whether it is reached. -/
theorem landingWords : Obligations.LandingWords := by
  intro s d a b c leaf pa hr v l reached
  have hv : v < 2 ^ 32 := Nat.mod_lt _ (Nat.two_pow_pos _)
  have hiff : l.reached v = true ↔ reached := l.reached_iff v
  refine ⟨fun h => ?_, fun h => ⟨?_, fun hl => ?_, fun hl => ?_⟩⟩
  · have hs := s.lwArmed_stores leaf pa v
    refine ⟨_, h.armed rfl, ?_, ?_, ?_, hs.onCtl_tile _, fun u hu => hs.onCtl_control _ hu, ?_⟩
    · rw [State.onCtl_ctl, hs.ctl]
    · exact s.lwArmed_sameBytesBut leaf pa v
    · exact s.lwArmed_landing leaf pa hv
    · exact State.onCtl_eq _ (State.lwArmed_eq h.sound leaf v)
  · exact ⟨_, h.lwTest rfl c, Bool.eq_iff_iff.2 (hiff.trans decide_eq_true_iff.symm) ▸ s.resultC_condition c (l.reached v)⟩
  · exact ⟨⟨_, h.lwGet rfl d (hiff.2 hl), s.result_register _ _⟩, _, h.lwWait rfl (hiff.2 hl), s.cDone_ends⟩
  · refine ⟨⟨_, h.lwWait_waits rfl (mt hiff.1 hl), s.cStall_waits⟩,
      fun hu => ⟨_, h.lwGet_waits rfl d (mt hiff.1 hl) hu, s.cStall_waits⟩, fun h1 h2 => ?_⟩
    obtain ⟨honly, htile, hbytes⟩ := State.notready_traps (s.g a) h1 h2
    refine ⟨_, h.lwGet_traps rfl d (mt hiff.1 hl) h1 h2, honly, hbytes, ?_⟩
    have hcur : (s.cTrap causeNotready (s.g a)).curTile = s.curTile := by rw [honly]; rfl
    rw [State.ctl, hcur, htile]
    exact ⟨rfl, rfl, rfl, by simp [Tile.userTrap]; omega⟩

end Sys2Proof.Machine

/-! ## Arrivals at landing words (R81) -/

namespace Sys2Proof.Machine

/-- An armed landing word counts the bytes, and its GEN passes once for each TARGET of them. -/
theorem Landing.arrive_armed {l : Landing} (h : ¬(l.armed = false ∨ l.target = 0)) (b : Nat) (e : Bool) :
    l.arrive b e = { l with
      err := l.err || e
      ovr := l.ovr || decide (l.count + b > 0xFFFFFFFF)
      gen := (l.gen + (if l.count + b > 0xFFFFFFFF then 0xFFFFFFFF else l.count + b) / l.target) % 2 ^ 32
      count := (if l.count + b > 0xFFFFFFFF then 0xFFFFFFFF else l.count + b) % l.target } := by
  have hc : ¬(!l.armed || l.target == 0) = true := by simpa using h
  exact (if_neg hc).trans (by simp only)

theorem Landing.arrive_unarmed {l : Landing} (h : l.armed = false ∨ l.target = 0) (b : Nat) (e : Bool) :
    l.arrive b e = { l with err := l.err || e, ovr := true } :=
  if_pos (show (!l.armed || l.target == 0) = true by simpa using h)

theorem Landing.Fits.arrive {l : Landing} (h : l.Fits) (b : Nat) (e : Bool) : (l.arrive b e).Fits ∧ (l.arrive b e).rest = l.rest := by
  obtain ⟨ht, hc, hg, hr⟩ := h
  by_cases hl : l.armed = false ∨ l.target = 0
  · rw [Landing.arrive_unarmed hl]
    exact ⟨⟨ht, hc, hg, hr⟩, rfl⟩
  · rw [Landing.arrive_armed hl]
    have hpos : 0 < l.target := Nat.pos_of_ne_zero fun h0 => hl (.inr h0)
    exact ⟨⟨ht, (Nat.mod_lt _ hpos).trans ht, Nat.mod_lt _ (Nat.two_pow_pos _), hr⟩, rfl⟩

theorem State.landing_takeLanding {s : State} {pa : Nat} (h : s.storage pa = true) (b : Nat) (e : Bool) :
    (s.takeLanding pa b e).landing pa = (s.landing pa).arrive b e := by
  obtain ⟨hfits, hrest⟩ := Landing.Fits.arrive (Landing.ofBytes_fits (s.mem.bytes pa 16)) b e
  rw [State.takeLanding, if_pos h]
  exact State.landing_setLanding hfits hrest

/-- Settles O27: at the port, an arrival is kept or taken; taken, it is `Landing.arrive` on the word, whose other bits stay. -/
theorem landingWordArrival : Obligations.LandingWordArrival := by
  intro s a n e tn off hown halign hplace hplace' hstorage pa l sum kept runs item
  have hpa : storeAddr tn off = pa := (place_tileStore hplace).1.symm
  have hexec : exec (.landingWordArrival a n e) s = .next (s.atPort tn item) := by
    show execLandingWordArrival a n e s = _
    rw [execLandingWordArrival, if_pos ⟨hown, halign⟩, State.arrive, hplace]
  have htake : s.takeItem tn item = s.setLanding pa (l.arrive n.toNat e) := by
    show s.takeLanding (storeAddr tn off) n.toNat e = _
    rw [hpa, State.takeLanding, if_pos hstorage]
  refine ⟨fun hr => ⟨_, hexec, ?_⟩, fun hr => ⟨_, hexec, if_neg hr⟩, ?_, ?_, fun u => ?_⟩
  · rw [State.atPort_running _ _ _ hr]
    obtain ⟨honly, htile, hbytes⟩ := s.setTile_becomes tn ((s.tile tn).received item)
    exact ⟨honly, hbytes, htile⟩
  · rw [htake]
    exact s.setLanding_sameBytesBut pa _
  · show (s.takeLanding (storeAddr tn off) n.toNat e).landing pa = _
    rw [hpa, State.landing_takeLanding hstorage]
    split
    next hl => exact Landing.arrive_unarmed hl _ _
    next hl => exact Landing.arrive_armed hl _ _
  · rw [htake]
    exact (s.setLanding_stores pa _).tile u

end Sys2Proof.Machine

/-! ## Domain barriers (R83, R84) -/

namespace Sys2Proof.Machine

/-- A node of k tiles, as its packet gives it. -/
def nodeOfTiles (k : Nat) : Node := Node.ofPacket ((Vector.replicate 32 0).set 0 (BitVec.ofNat 64 (k * 2 ^ 32))) 0 0 0

/-- Two nodes with one handle, of one tile and of two, and a context of that handle in RUN in tile 0. -/
def twinNodes : State := { State.reset with
  tiles := State.reset.tiles.set 0 { Tile.reset with status := .run, node := 1 }
  pool := { Pool.reset with nodes := [nodeOfTiles 1, nodeOfTiles 2] }
  ready := { State.reset.ready with eng := BitVec.allOnes _ } }

theorem twinNodes_tileNode : twinNodes.tileNode 0 = some (nodeOfTiles 1) := rfl

/-- The phase of barrier 0 of each node of a pool. -/
def Pool.phases (p : Pool) : List (BitVec 31) := p.nodes.map fun n => (n.barrier 0).phase

/-- The arrival ends the phase at the first node alone: each node counts the tiles of its own packet. -/
theorem twinNodes_barArrive : ∃ t, exec (.barArrive 0 0) twinNodes = .next t ∧ t.pool.phases = [1, 0] :=
  ⟨_, rfl, by decide⟩

/-- Refutes O15: with two nodes of one handle the model compares the arrivals of each with that node's own TILES, the statement with
the TILES of the first. -/
theorem not_barriers : ¬ Obligations.Barriers := by
  intro h
  obtain ⟨harrive, -⟩ := h twinNodes 0 0 0 0 (nodeOfTiles 1) ⟨rfl, rfl⟩ twinNodes_tileNode (by decide) (by decide)
  obtain ⟨t, hexec, hpool, -⟩ := harrive (by decide)
  obtain ⟨u, hu, hphases⟩ := twinNodes_barArrive
  have htu : t = u := Host.Outcome.next.inj (hexec.symm.trans hu)
  rw [← htu, hpool] at hphases
  exact absurd hphases (by decide)

end Sys2Proof.Machine

/-! ## blk.patch (R88) -/

namespace Sys2Proof.Machine

/-- A field that blk.patch replaces is not empty. -/
theorem patchPlace_field (k depth i : Nat) : (patchPlace k depth i).2.2 ≤ (patchPlace k depth i).2.1 := by
  unfold patchPlace
  split <;> exact of_decide_eq_true rfl

theorem State.storeWord_sound {s : State} {t : BitVec 6} {off : Nat} (h : s.anyPoison (storeAddr t off) 4 = false) :
    s.storeWord t off = .ok (BitVec.ofNat 32 (leNat (s.mem.bytes (storeAddr t off) 4))) :=
  if_neg (Bool.eq_false_iff.1 h)

theorem ofNat_leNat_bytes_toNat (m : Memory) (pa : Nat) : (BitVec.ofNat 32 (leNat (m.bytes pa 4))).toNat = leNat (m.bytes pa 4) := by
  rw [BitVec.toNat_ofNat]
  exact Nat.mod_eq_of_lt (leNat_bytes_lt m pa 4)

/-- The word of a record after a patch: the field's bits are the value's, the others stay. -/
theorem State.put_patched_bit (s : State) (pa x : Nat) {hi lo d j : Nat} (h : lo ≤ hi) (hj : j < 32) :
    (leNat ((s.put pa (leBytes 4 (putBits x hi lo d))).mem.bytes pa 4)).testBit j =
      if lo ≤ j ∧ j ≤ hi then d.testBit (j - lo) else x.testBit j := by
  have hhi : lo + (hi + 1 - lo) - 1 = hi := by omega
  have hbit := putBits_testBit x lo d (hi + 1 - lo) j (by omega)
  rw [hhi, show lo + (hi + 1 - lo) = hi + 1 by omega] at hbit
  rw [s.put_number, Nat.testBit_mod_two_pow, hbit, decide_eq_true hj, Bool.true_and]
  simp only [Nat.lt_succ_iff]

/-- A patch whose checks pass is one store of 4 bytes. -/
theorem State.blkPatch_stores {s : State} {rd ra : BitVec 5} {k i : BitVec 4} {off x : Nat} (halone : s.noAnswer)
    (h : s.patch s.curTile (s.g ra).toNat (s.g rd).toNat k.toNat i.toNat = .ok (off, x)) :
    exec (.blkPatch rd ra k i) s = .next ((s.put (storeAddr s.curTile off) (leBytes 4 x)).onCtl Control.next) := by
  have hdo : s.doPatch s.curTile none (s.g ra).toNat (s.g rd).toNat k.toNat i.toNat =
      .ok (s.put (storeAddr s.curTile off) (leBytes 4 x)) := by rw [State.doPatch, h]; rfl
  have hs := s.put_stores (storeAddr s.curTile off) (leBytes 4 x)
  show execBlkPatch rd ra k i s = _
  rw [execBlkPatch, hdo, State.cRunAt_ok (by rw [hs.fabric]; exact halone), State.cDone]
  exact congrArg _ (congrArg _ (funext Control.finish_eq))

/-- Where the checks of R88 pass, the patch is the word at the field's offset with its bits replaced. -/
theorem State.patch_ok {s : State} {t : BitVec 6} {a d k i : Nat} (halign : a % 4 = 0) (hin : a < s.prefixEnd t)
    (hw0 : w0Ok (leNat (s.mem.bytes (storeAddr t a) 4)) = true)
    (hdim : k = 0 → i < bits (leNat (s.mem.bytes (storeAddr t a) 4)) 23 21)
    (hstage : k = 4 → i < bits (leNat (s.mem.bytes (storeAddr t a) 4)) 27 24) {p : Nat × Nat × Nat}
    (hp : patchPlace k (bits (leNat (s.mem.bytes (storeAddr t a) 4)) 23 21) i = p) (hd : d < 2 ^ (p.2.1 + 1 - p.2.2))
    (hoff : a + 4 * p.1 + 4 ≤ s.prefixEnd t) (hsound : s.anyPoison (storeAddr t a) 4 = false)
    (hsound' : s.anyPoison (storeAddr t (a + 4 * p.1)) 4 = false) :
    s.patch t a d k i = .ok (a + 4 * p.1, putBits (leNat (s.mem.bytes (storeAddr t (a + 4 * p.1)) 4)) p.2.1 p.2.2 d) := by
  have h0 : (k != 0 || decide (i < bits (leNat (s.mem.bytes (storeAddr t a) 4)) 23 21)) = true := by
    simpa [← imp_iff_not_or] using hdim
  have h4 : (k != 4 || decide (i < bits (leNat (s.mem.bytes (storeAddr t a) 4)) 27 24)) = true := by
    simpa [← imp_iff_not_or] using hstage
  simp only [State.patch, need, halign, hin, hw0, h0, h4, hd, hoff, hp, State.storeWord_sound hsound, State.storeWord_sound hsound',
    ofNat_leNat_bytes_toNat, decide_true, if_true, bind, Except.bind]
  rfl

theorem State.SameBytesBut.onCtl {s t : State} {pa n : Nat} (h : s.SameBytesBut t pa n) (f : Control → Control) :
    s.SameBytesBut (t.onCtl f) pa n := h

/-- Settles O24: every check of R88 passes, and the word is one `State.put` of 4 bytes. -/
theorem blockPatch : Obligations.BlockPatch := by
  intro s rd ra k i hr halone a d word w0 p off halign hin hw0 hdim hstage hd hoff hsound hsound'
  have hpatch : s.patch s.curTile a d k.toNat i.toNat = .ok (off, putBits (word off) p.2.1 p.2.2 d) :=
    State.patch_ok halign hin hw0 (fun hk => hdim (BitVec.eq_of_toNat_eq hk)) (fun hk => hstage (BitVec.eq_of_toNat_eq hk)) rfl hd hoff
      hsound hsound'
  have hs := s.put_stores (storeAddr s.curTile off) (leBytes 4 (putBits (word off) p.2.1 p.2.2 d))
  refine ⟨_, State.blkPatch_stores halone hpatch, ?_, State.SameBytesBut.onCtl (fun q hq => ?_) _, fun j hj => ?_, hs.onCtl_tile _⟩
  · rw [State.onCtl_ctl, hs.ctl]
  · exact s.put_byte_other (by rw [length_leBytes]; exact hq)
  · rw [State.onCtl_mem]
    exact s.put_patched_bit _ _ (patchPlace_field _ _ _) hj

end Sys2Proof.Machine

/-! ## Block control (R85 to R88, R103) -/

namespace Sys2Proof.Machine

/-! ### Streams that are asked to stop -/

theorem Stream.stopped_asked {y : Stream} (h : y.stopDue = false) :
    ({ y with stopDue := y.stopDue || (decide (y.state = .await) || decide (y.state = .run)) } : Stream).stopped =
      if y.state = .await ∨ y.state = .run then { y with state := .stopped } else y := by
  have hsame : ({ y with stopDue := false } : Stream) = y := by rw [← h]
  by_cases hw : y.state = .await ∨ y.state = .run
  · have hd : (y.stopDue || (decide (y.state = .await) || decide (y.state = .run))) = true := by simpa [h] using hw
    rw [hd, if_pos hw, Stream.stopped, if_pos rfl]
    show Stream.stop { y with stopDue := false } = _
    rw [hsame, Stream.stop]
    rcases hw with hw | hw <;> rw [hw]
  · have hd : (y.stopDue || (decide (y.state = .await) || decide (y.state = .run))) = false := by simpa [h] using hw
    rw [hd, if_neg hw, hsame, Stream.stopped, h]
    rfl

theorem Tile.mustStop_frozenAt (t : Tile) (f : BStream → Bool) (now : Nat) : (t.mustStop f).frozenAt now = t.frozenAt now := rfl

theorem Tile.mustStop_horizon (t : Tile) (f : BStream → Bool) : (t.mustStop f).horizon = t.horizon := by
  have hrun : ∀ x, ((t.mustStop f).stream x).exposedRun = (t.stream x).exposedRun := fun x => by rw [t.mustStop_stream]; rfl
  have hnext : (t.mustStop f).nextTime = t.nextTime := funext fun x => by unfold Tile.nextTime; rw [t.mustStop_stream]; rfl
  unfold Tile.horizon
  simp only [hrun, hnext]
  rfl

/-- Outside a trap a freeze alone holds off a stream that is to stop. -/
theorem Tile.heldOff_untrapped {t : Tile} (h : t.trapping = none) (x : BStream) :
    t.heldOff x = ((t.stream x).exposedRun && t.frozenAt (max t.horizon (t.stream x).nextTc)) := by
  simp [Tile.heldOff, Tile.deadFreeze, h]

/-- What a stream that is to stop and is not held off leaves in its tile. -/
theorem Tile.stopIfDue_free {t : Tile} {x : BStream} (h : t.heldOff x = false) (z : BStream) :
    (t.stopIfDue x).stream z = if z = x then (t.stream x).stopped else t.stream z := by
  by_cases hd : (t.stream x).stopDue = true
  · rw [Tile.stopIfDue, if_pos (by simp [hd, h]), Tile.stopStream_stream, Stream.stopped, if_pos hd, Tile.onStream, Tile.stream_setStream]
    split
    · rfl
    · next hz => exact t.stream_setStream_other x z _ hz
  · rw [Tile.stopIfDue_idle (Bool.eq_false_iff.2 hd), Stream.stopped, if_neg hd]
    split
    · next hz => rw [hz]
    · rfl

/-- A stream that is held off still is to stop. -/
theorem Tile.stopIfDue_held {t : Tile} {x : BStream} (h : t.heldOff x = true) : t.stopIfDue x = t :=
  if_neg (by rw [h]; simp)

/-- Where one stream alone may have to stop, the others do nothing. -/
theorem Tile.stopDueNow_one {t : Tile} {x : BStream} (h : ∀ z, z ≠ x → (t.stream z).stopDue = false) : t.stopDueNow = t.stopIfDue x := by
  have hafter : ∀ z, z ≠ x → ((t.stopIfDue x).stream z).stopDue = false := fun z hz => by
    cases hh : t.heldOff x
    · rw [Tile.stopIfDue_free hh, if_neg hz, h z hz]
    · rw [Tile.stopIfDue_held hh, h z hz]
  unfold Tile.stopDueNow
  cases x
  case v => rw [Tile.stopIfDue_idle (hafter .m nofun), Tile.stopIfDue_idle (hafter .l nofun), Tile.stopIfDue_idle (hafter .s nofun)]
  case m =>
    rw [Tile.stopIfDue_idle (h .v nofun), Tile.stopIfDue_idle (hafter .l nofun), Tile.stopIfDue_idle (hafter .s nofun)]
  case l =>
    rw [Tile.stopIfDue_idle (h .v nofun), Tile.stopIfDue_idle (h .m nofun), Tile.stopIfDue_idle (hafter .s nofun)]
  case s =>
    rw [Tile.stopIfDue_idle (h .v nofun), Tile.stopIfDue_idle (h .m nofun), Tile.stopIfDue_idle (h .l nofun)]

section
variable {t : Tile} {x : BStream} (htrap : t.trapping = none) (hdue : ∀ z, (t.stream z).stopDue = false)
include htrap hdue

theorem Tile.requestStop_one : t.requestStop (fun y => y == x) = (t.mustStop fun y => y == x).stopIfDue x := by
  rw [Tile.requestStop, Tile.applyStops_eq, show (t.mustStop fun y => y == x).trapping = none from htrap]
  refine Tile.stopDueNow_one fun z hz => ?_
  rw [t.mustStop_stream, hdue z, beq_false_of_ne hz]
  rfl

theorem Tile.requestStop_held (hrun : (t.stream x).exposedRun = true) (hfrozen : t.frozenAt (max t.horizon (t.stream x).nextTc) = true) :
    (t.requestStop fun y => y == x).stream x = { t.stream x with stopDue := true } := by
  have hstate : (t.stream x).state = .run := by simpa using (Bool.and_eq_true_iff.1 hrun).1
  have hheld : (t.mustStop fun y => y == x).heldOff x = true := by
    rw [Tile.heldOff_untrapped (t := t.mustStop _) htrap, t.mustStop_frozenAt, t.mustStop_horizon, t.mustStop_stream]
    exact Bool.and_eq_true_iff.2 ⟨hrun, hfrozen⟩
  rw [Tile.requestStop_one htrap hdue, Tile.stopIfDue_held hheld, t.mustStop_stream, hstate]
  simp

theorem Tile.requestStop_free (h : (t.stream x).exposedRun = false ∨ t.frozenAt (max t.horizon (t.stream x).nextTc) = false)
    (z : BStream) : (t.requestStop fun y => y == x).stream z =
      if z = x ∧ ((t.stream x).state = .await ∨ (t.stream x).state = .run) then { t.stream x with state := .stopped } else t.stream z := by
  have hfree : (t.mustStop fun y => y == x).heldOff x = false := by
    rw [Tile.heldOff_untrapped (t := t.mustStop _) htrap, t.mustStop_frozenAt, t.mustStop_horizon, t.mustStop_stream]
    exact Bool.and_eq_false_iff.2 h
  rw [Tile.requestStop_one htrap hdue, Tile.stopIfDue_free hfree, t.mustStop_stream, t.mustStop_stream]
  by_cases hz : z = x
  · subst hz
    simp only [if_true, true_and, BEq.rfl, Bool.true_and]
    exact Stream.stopped_asked (hdue z)
  · simp only [hz, if_false, false_and, beq_false_of_ne hz, Bool.false_and, Bool.or_false]

end

theorem State.onCur_asking (s : State) (f : Tile → Tile) (w : Asker) : (s.onCur f).asking w = s.asking w := rfl

/-- Where the C stream of a tile stands that has asked one stream to stop. -/
def Tile.askStop (t : Tile) (x : BStream) (waits : Bool) : Tile :=
  { t.requestStop fun y => y == x with control := if waits then { t.control with stalled := true } else t.control.next }

/-- blk.stop asks the stream; it waits while that has yet to stop or has accesses to finish, else it ends. -/
theorem State.blkStop_asks (s : State) (x : BitVec 2) :
    exec (.blkStop x) s = .next (s.onCur fun t => t.askStop (streamOf x)
      ((((s.tile s.curTile).requestStop fun y => y == streamOf x).stream (streamOf x)).stopDue ||
        s.asking (streamAsker s.curTile (streamOf x)))) := by
  show execBlkStop x s = _
  simp only [execBlkStop, State.onCur_curTile, State.onCur_tile, State.onCur_asking]
  cases (((s.tile s.curTile).requestStop fun y => y == streamOf x).stream (streamOf x)).stopDue ||
      s.asking (streamAsker s.curTile (streamOf x))
  · rw [if_neg Bool.false_ne_true, s.onCur_cDone]
    simp only [Tile.requestStop_control]
    rfl
  · rw [if_pos rfl, State.cStall, State.onCtl, State.onCur_onCur]
    simp only [Tile.requestStop_control]
    rfl

theorem Tile.askStop_stream (t : Tile) (x : BStream) (waits : Bool) (z : BStream) :
    (t.askStop x waits).stream z = (t.requestStop fun y => y == x).stream z := by cases z <;> rfl

theorem Stream.status_eq (y : Stream) (code : RunState → Nat) (h : ∀ r, stateCode r = code r) :
    y.status = code y.state + y.faultIdx.toNat * 2 ^ 8 + y.pos.toNat % 2 ^ 22 * 2 ^ 16 + y.idx[0].toNat * 2 ^ 40 := by
  rw [← h, Stream.status, Stream.idxAt]
  show y.idx[0].toNat * 2 ^ 40 + _ + _ + _ = _
  omega

/-- Settles O23: blk.go stands or falls with its address and the stream's state; blk.stop is `Tile.requestStop` of one stream. -/
theorem blockControl : Obligations.BlockControl := by
  intro s d a x hr tl y v code
  refine ⟨fun h => ?_, fun h1 h2 => ?_, fun h1 h2 => ⟨fun h => ?_, fun h => ?_⟩, fun ht hd h => ?_, fun ht hd hrun hfrozen => ?_,
    s.givesRegister rfl ?_, s.givesRegister rfl ?_, s.givesRegister rfl ?_, s.givesRegister rfl rfl⟩
  · exact ⟨_, congrArg Host.Outcome.next (if_pos h), hr.traps _⟩
  · exact ⟨_, congrArg Host.Outcome.next ((if_neg (not_not.2 h1)).trans (if_pos h2)), hr.traps _⟩
  · have he : ¬(!y.ended) = true := by simp [Stream.ended, h]
    refine ⟨_, congrArg Host.Outcome.next ((if_neg (not_not.2 h1)).trans ((if_neg (Nat.not_le.2 h2)).trans (if_neg he))), ?_⟩
    have := s.ends_becomes (f := fun t => t.setStream (streamOf x)
      { Stream.reset with state := .await, pos := BitVec.ofNat 23 v, haltSeen := t.anyHalted }) rfl
    rw [Tile.setStream_control] at this
    exact this
  · have he : (!y.ended) = true := by rcases h with h | h | h <;> simp [Stream.ended, h]
    exact ⟨_, congrArg Host.Outcome.next ((if_neg (not_not.2 h1)).trans ((if_neg (Nat.not_le.2 h2)).trans (if_pos he))), s.cStall_waits⟩
  · have hfree := Tile.requestStop_free ht hd h
    have hdue : ((tl.requestStop fun y => y == streamOf x).stream (streamOf x)).stopDue = false := by
      rw [hfree]; split <;> exact hd _
    refine ⟨_, s.blkStop_asks x, s.onCur_only _, s.onCur_bytes _, ?_, fun z => ?_⟩
    · rw [hdue, Bool.false_or, State.ctl, State.onCur_curTile, State.onCur_tile]
      rfl
    · rw [State.onCur_tile, Tile.askStop_stream, hfree]
  · have hheld := Tile.requestStop_held ht hd hrun hfrozen
    refine ⟨_, s.blkStop_asks x, s.onCur_only _, ?_, ?_⟩
    · rw [State.onCur_tile, Tile.askStop_stream, hheld]
    · rw [hheld, Bool.true_or, State.ctl, State.onCur_curTile, State.onCur_tile]
      rfl
  · exact congrArg _ (y.status_eq code fun r => by cases r <;> rfl)
  · exact BitVec.eq_of_toNat_eq (by simp; rfl)
  · exact BitVec.eq_of_toNat_eq (by simp; rfl)

end Sys2Proof.Machine

/-! ## Submission of copies (R94 to R96) -/

namespace Sys2Proof.Machine

theorem Control.next_setReg (k : Control) (d : BitVec 5) (v : W64) :
    (k.setReg d v).next = { k.next with g := if d = 0 then k.g else k.g.set d.toNat v } := by
  unfold Control.setReg
  split <;> rfl

/-- A word that changes the tile to x, whose registers it leaves, and ends with v in d. -/
theorem State.onCur_setG_cDone (s : State) (f : Tile → Tile) (d : BitVec 5) (v : W64) :
    ((s.onCur f).setG d v).cDone = s.onCur fun t => { f t with control := ((f t).control.setReg d v).next } := by
  rw [State.setG, State.onCtl, State.onCur_onCur, State.onCur_cDone]

/-! ### cp.go -/

/-- A copy as cp.go submits it. -/
def State.newCopy (s : State) (r : Vector W64 8) (pins : List Held) (lw : Option Nat) : CopyOp :=
  { id := s.nextOp, tile := some s.curTile, node := (s.tile s.curTile).node, record := r, pins := pins, lw := lw, running := false,
    denied := none, performed := none, told := false }

/-- A copy behind the others of an engine of the tile's die. -/
def State.addCopy (s : State) (e : BitVec 1) (op : CopyOp) : State :=
  { s.onDie (tileDie s.curTile) fun x => x.setEngine e (x.engine e ++ [op]) with nextOp := s.nextOp + 1 }

/-- The tile of a copy, once it is submitted: its pins, and the next sequence number. -/
def Tile.submits (t : Tile) (e : BitVec 1) (id : Nat) (pins : List Held) : Tile :=
  { t.setCopy e { t.copy e with seq := (t.copy e).seq + 1 } with opPins := t.opPins ++ pins.map fun p => { op := id, pin := p } }

/-- What cp.go does with the record it has read. -/
def State.submitsCopy (s : State) (d : BitVec 5) (e : BitVec 1) (r : CopyRecord) : Res State := do
  let pins ← s.copyPins s.curTile (s.root s.curTile) r
  if !s.engReady (2 * (tileDie s.curTile).toNat + e.toNat) ∨ (s.die (tileDie s.curTile)).queued e s.curTile ≥ 16 then .error .stall
  else do
    need (decide ((pageKeys ((s.tile s.curTile).pins ++ pins.1)).length ≤ pinLimit)) causePinlim
    return ((s.addCopy e (s.newCopy r pins.1 pins.2)).onCur fun t => t.submits e s.nextOp pins.1).setG d
      (((s.tile s.curTile).copy e).seq.setWidth 64)

theorem execCpGo_eq (s : State) (d a : BitVec 5) (e : BitVec 1) :
    exec (.cpGo d a e) s = .next (s.withRecord (s.g a) CopyRecord.fieldsOk (s.submitsCopy d e)) := rfl

section
variable {s : State} {d : BitVec 5} {e : BitVec 1} {r : CopyRecord} {pins : List Held} {lw : Option Nat}
  (hp : s.copyPins s.curTile (s.root s.curTile) r = .ok (pins, lw))
include hp

theorem State.submitsCopy_full (h : 16 ≤ (s.die (tileDie s.curTile)).queued e s.curTile) : s.submitsCopy d e r = .error .stall := by
  simp [State.submitsCopy, hp, h, bind, Except.bind]

theorem State.submitsCopy_ok (hready : s.engReady (2 * (tileDie s.curTile).toNat + e.toNat) = true)
    (h : (s.die (tileDie s.curTile)).queued e s.curTile < 16) (hl : (pageKeys ((s.tile s.curTile).pins ++ pins)).length ≤ 512) :
    s.submitsCopy d e r = .ok (((s.addCopy e (s.newCopy r pins lw)).onCur fun t => t.submits e s.nextOp pins).setG d
      (((s.tile s.curTile).copy e).seq.setWidth 64)) := by
  have hd : decide ((pageKeys ((s.tile s.curTile).pins ++ pins)).length ≤ pinLimit) = true := decide_eq_true hl
  simp [State.submitsCopy, hp, hready, Nat.not_le.2 h, hd, need, bind, Except.bind, pure, Except.pure]

end

/-- The tile of a copy once the word that submitted it has ended, with the copy's number in d. -/
def Tile.submitted (t : Tile) (d : BitVec 5) (e : BitVec 1) (id : Nat) (pins : List Held) : Tile :=
  { t.submits e id pins with control := (t.control.setReg d ((t.copy e).seq.setWidth 64)).next }

theorem State.submits_ends {s : State} (halone : s.noAnswer) (ea : W64) (d : BitVec 5) (e : BitVec 1) (op : CopyOp) (pins : List Held) :
    s.cRunAt ea (.ok (((s.addCopy e op).onCur fun t => t.submits e s.nextOp pins).setG d
      (((s.tile s.curTile).copy e).seq.setWidth 64))) =
    { s with
      nextOp := s.nextOp + 1
      dies := s.dies.set (tileDie s.curTile).toNat
        ((s.die (tileDie s.curTile)).setEngine e ((s.die (tileDie s.curTile)).engine e ++ [op]))
      tiles := s.tiles.set s.curTile.toNat ((s.tile s.curTile).submitted d e s.nextOp pins) } :=
  (State.cRunAt_ok (u := ((s.addCopy e op).onCur fun t => t.submits e s.nextOp pins).setG d _) halone).trans
    (State.onCur_setG_cDone _ _ _ _)

/-- A die and a tile of the package, replaced. -/
theorem State.eq_of_die_tile {s t : State} {n : Nat} {x : Die} {y : Tile} {dn : BitVec 2} {tn : BitVec 6}
    (h : t = { s with nextOp := n, dies := s.dies.set dn.toNat x, tiles := s.tiles.set tn.toNat y }) :
    t.die dn = x ∧ t.tile tn = y ∧
      t = { s with nextOp := n, dies := s.dies.set dn.toNat (t.die dn), tiles := s.tiles.set tn.toNat (t.tile tn) } := by
  have hd : t.die dn = x := by rw [h]; exact s.setDie_die dn x
  have ht : t.tile tn = y := by rw [h]; exact s.setTile_tile tn y
  exact ⟨hd, ht, by rw [hd, ht]; exact h⟩

/-- Settles O25: cp.go is `State.submitsCopy` of the record that it reads or has kept. -/
theorem copySubmission : Obligations.CopySubmission := by
  intro s d a e r pins lw h hr halone tl dn c withG op
  refine ⟨fun hl hrec hok => ⟨_, execCpGo_eq s d a e, ?_⟩, fun hrec hp hready hlim => ?_, ⟨_, rfl, ?_⟩, _, rfl, ?_, s.onDie_die h _⟩
  · rw [State.withRecord_bfault hl hrec hok]
    exact hr.traps 0
  · have ht : s.TriesRecord (s.g a) CopyRecord.fieldsOk r := hrec
    refine ⟨fun hq => ⟨_, execCpGo_eq s d a e, ?_⟩, fun hq => ⟨_, execCpGo_eq s d a e, ht.waits (State.submitsCopy_full hp hq)⟩⟩
    rw [ht.acts (State.submitsCopy_ok hp hready hq hlim), State.submits_ends halone]
    have htile : tl.submitted d e s.nextOp pins = { tl.setCopy e { c with seq := c.seq + 1 } with
        opPins := tl.opPins ++ pins.map fun p => { op := s.nextOp, pin := p }
        control := withG (BitVec.ofNat 64 c.seq.toNat) } := by
      rw [Tile.submitted, Control.next_setReg, setWidth_eq_ofNat]
      rfl
    rw [show (s.tile s.curTile).submitted d e s.nextOp pins = _ from htile]
    exact State.eq_of_die_tile rfl
  · have hv : b2n c.err * 2 ^ 63 + (s.die dn).queued e s.curTile * 2 ^ 32 + c.done.toNat =
        c.done.toNat + (s.die dn).queued e s.curTile * 2 ^ 32 + if c.err = true then 2 ^ 63 else 0 := by
      rw [b2n_eq_ite]; split <;> omega
    refine hv ▸ (State.onCur_setG_cDone s _ d _) ▸ s.onCur_becomesOf ?_
    rw [Control.next_setReg]
    rfl
  · rw [State.OnlyDie, State.onDie_die]; rfl

end Sys2Proof.Machine

/-! ## Operations on transactions (R361 to R364) -/

namespace Sys2Proof.Machine

/-! ### A free slot -/

theorem tget_none {α : Type} {t : Table α} {a : Nat} (h : ∀ e ∈ t, e.1 ≠ a) : tget t a = none := by
  induction t with
  | nil => rfl
  | cons e r ih =>
    obtain ⟨he, hr⟩ := List.forall_mem_cons.1 h
    exact (if_neg (Ne.symm he)).trans (ih hr)

/-- In a table in rising order from i on, the free index is no key, and no further than the table is long. -/
theorem freeIndex_spec {α : Type} (t : Table α) (i : Nat) (hs : (t.map Prod.fst).Pairwise (· < ·)) (hi : ∀ e ∈ t, i ≤ e.1) :
    tget t (freeIndex t i) = none ∧ freeIndex t i ≤ i + t.length := by
  induction t generalizing i with
  | nil => exact ⟨rfl, le_refl i⟩
  | cons e r ih =>
    obtain ⟨k, v⟩ := e
    obtain ⟨hk, hr⟩ := List.pairwise_cons.1 hs
    have hkr : ∀ e ∈ r, k < e.1 := fun e he => hk e.1 (List.mem_map_of_mem he)
    have hik : i ≤ k := (List.forall_mem_cons.1 hi).1
    by_cases h : k = i
    · subst h
      obtain ⟨hn, hle⟩ := ih (k + 1) hr hkr
      have hpast : ∀ (t : Table α) (j : Nat), j ≤ freeIndex t j := fun t => by
        induction t with
        | nil => exact fun j => le_refl j
        | cons e r ih => exact fun j => by unfold freeIndex; split; exacts [(Nat.le_succ j).trans (ih _), le_refl j]
      have hne : freeIndex r (k + 1) ≠ k := Nat.ne_of_gt (hpast r (k + 1))
      have hf : freeIndex ((k, v) :: r) k = freeIndex r (k + 1) := if_pos rfl
      rw [hf]
      exact ⟨(if_neg hne).trans hn, by rw [List.length_cons]; omega⟩
    · have hf : freeIndex ((k, v) :: r) i = i := if_neg h
      rw [hf]
      refine ⟨tget_none fun e he => ?_, Nat.le_add_right _ _⟩
      rcases List.mem_cons.1 he with rfl | he
      · exact h
      · have := hkr e he; omega

/-! ### What touches one slot -/

/-- t differs from s at most in versions, and in the transactions at most at one slot. -/
structure State.SlotOnly (s t : State) (k : Byte) : Prop where
  versions : s.VersionsOnly t
  clock : t.versions.clock = s.versions.clock
  others : ∀ i, i ≠ k.toNat → tget t.versions.txs i = tget s.versions.txs i

theorem State.SlotOnly.refl (s : State) (k : Byte) : s.SlotOnly s k := ⟨rfl, rfl, fun _ _ => rfl⟩

theorem State.SlotOnly.trans {s t u : State} {k : Byte} (h1 : s.SlotOnly t k) (h2 : t.SlotOnly u k) : s.SlotOnly u k :=
  ⟨h1.versions.trans h2.versions, h2.clock.trans h1.clock, fun i hi => (h2.others i hi).trans (h1.others i hi)⟩

theorem State.SlotOnly.setTx (s : State) (k : Byte) (x : Tx) : s.SlotOnly (s.setTx k x) k :=
  ⟨rfl, rfl, fun _ hi => (tget_tput _ _ _ _).trans (if_neg hi)⟩

theorem State.setTx_holds (s : State) (k : Byte) (x : Tx) : (s.setTx k x).tx? k = some x := (tget_tput _ _ _ _).trans (if_pos rfl)

/-- Dooming frees the tentative records of the lines, then sets the status. -/
theorem State.SlotOnly.doom {s : State} {k : Byte} {x : Tx} (st : Byte) (hx : s.tx? k = some x) (hst : x.status = none) :
    s.SlotOnly (s.doom k st) k := by
  have free (c : List Nat) : ∀ u : State, u.SlotOnly (c.foldl (fun s l => s.freeTentative k l) u) k := by
    induction c with
    | nil => exact fun u => .refl u k
    | cons l c ih =>
      refine fun u => State.SlotOnly.trans ?_ (ih _)
      show u.SlotOnly (u.freeTentative k l) k
      unfold State.freeTentative
      split <;> exact ⟨rfl, rfl, fun _ _ => rfl⟩
  have hdoom : s.doom k st = (x.lines.foldl (fun s l => s.freeTentative k l) s).setTx k { x with status := some st, lines := [] } := by
    rw [State.tx?] at hx
    simp only [State.doom, hx, hst, Option.isSome_none, Bool.false_eq_true, if_false]
    rfl
  rw [hdoom]
  exact (free _ s).trans (.setTx _ k _)

theorem State.doom_of_status {s : State} {k : Byte} {x : Tx} (st : Byte) (hx : s.tx? k = some x) (hst : x.status.isSome = true) :
    s.doom k st = s := by
  rw [State.tx?] at hx
  simp only [State.doom, hx, hst, if_true]

/-! ### tx.abort and tx.release -/

/-- A transaction that has not ended is doomed, unless it was before, and ends. -/
theorem State.abortTx_open {s : State} {k : Byte} {x : Tx} (hx : s.tx? k = some x) (he : x.ended = false) :
    s.SlotOnly (s.abortTx k) k ∧ (s.abortTx k).tx? k = some { x with status := some 4, ended := true, lines := [] } := by
  have key {t : State} {y : Tx} (hd : s.doom k 4 = t) (hy : t.tx? k = some y) :
      s.abortTx k = t.setTx k { y with status := some 4, ended := true, lines := [] } := by
    simp only [State.abortTx, hx, he, hd, hy, Bool.false_eq_true, if_false]
  by_cases hst : x.status = none
  · have h := key rfl (State.doom_holds 4 hx hst)
    rw [h]
    exact ⟨(State.SlotOnly.doom 4 hx hst).trans (.setTx _ k _), State.setTx_holds _ k _⟩
  · have h := key (State.doom_of_status 4 hx (Option.isSome_iff_ne_none.2 hst)) hx
    rw [h]
    exact ⟨.setTx s k _, s.setTx_holds k _⟩

theorem State.abortTx_ended {s : State} {k : Byte} {x : Tx} (hx : s.tx? k = some x) (he : x.ended = true) : s.abortTx k = s := by
  simp only [State.abortTx, hx, he, if_true]

theorem State.releaseTx_only {s : State} {k : Byte} {x : Tx} (hx : s.tx? k = some x) :
    s.SlotOnly (s.releaseTx k) k ∧ (s.releaseTx k).tx? k = none := by
  have habort : s.SlotOnly (s.abortTx k) k := by
    cases he : x.ended
    · exact (State.abortTx_open hx he).1
    · rw [State.abortTx_ended hx he]; exact .refl s k
  have hdrop (t : State) : t.SlotOnly { t with versions := { t.versions with txs := tdrop t.versions.txs k.toNat } } k :=
    ⟨rfl, rfl, fun i hi => (tget_tdrop _ _ _).trans (if_neg hi)⟩
  exact ⟨habort.trans (hdrop _), (tget_tdrop _ _ _).trans (if_pos rfl)⟩

/-! ### One line of a commit (R363) -/

/-- t differs from s at most in what a commit changes: the transactions and the clock are none of it. -/
structure State.CommitsOnly (s t : State) : Prop where
  frame : t = { s with
    mem := t.mem, poison := t.poison, seals := t.seals, pool := t.pool, versions := t.versions, reservations := t.reservations }
  txs : t.versions.txs = s.versions.txs
  clock : t.versions.clock = s.versions.clock

theorem State.CommitsOnly.refl (s : State) : s.CommitsOnly s := ⟨rfl, rfl, rfl⟩

theorem State.CommitsOnly.trans {s t u : State} (h1 : s.CommitsOnly t) (h2 : t.CommitsOnly u) : s.CommitsOnly u :=
  ⟨by rw [h2.frame, h1.frame], h2.txs.trans h1.txs, h2.clock.trans h1.clock⟩

/-- The marks of a commit of a line: intervals that can no more be rolled back (R371). -/
def State.commitMarks (s : State) (x : Tx) (l : Nat) (r : Record) : State :=
  let s0 := match s.node? x.node with
    | some n => if n.ckpt && r.viaPlain then s.onNode n.handle fun n => { n with unrollable := true } else s
    | none => s
  if s0.undoOf l then
    { s0 with pool := { s0.pool with nodes := s0.pool.nodes.map fun k =>
        if k.ckpt ∧ k.tag = (s.line l).intv ∧ k.handle ≠ x.node then { k with unrollable := true } else k } }
  else s0

/-- The tentative value of a line goes in place, with its tag and its poison. -/
def State.commitPlace (s : State) (c l : Nat) (r : Record) : State :=
  let s2 := ((({ s with mem := s.mem.setBytes (lineAddr l) r.data }).unreserve (lineAddr l) 128).clearPoison (lineAddr l) 128).setSeal l
    (r.tag.map fun (g : SealTag) => { g with stamp := BitVec.ofNat 48 c })
  let s3 := if r.poison.getLsbD 0 then s2.addPoison (lineAddr l) else s2
  if r.poison.getLsbD 1 then s3.addPoison (lineAddr l + 64) else s3

/-- The old value of a line becomes the record, which stays where something needs it. -/
def State.commitRecord (s : State) (l i : Nat) (old : Record) (m : LineMeta) (stays : Bool) : State :=
  let s6 := ({ s with versions := { s.versions with records := tput s.versions.records i old } } : State).setLine l m
  if stays then s6 else s6.freeRecord l i

/-- The commit of a line logs its old value for the interval of the node (R370). -/
def State.commitLogs (s : State) (x : Tx) (l : Nat) (r : Record) : Bool :=
  r.viaCkpt && (match s.node? x.node with | some n => n.ckpt && !(s.undoOf l && (s.line l).intv == n.tag) | none => false)

/-- A live snapshot sees the old value of the line (R358). -/
def State.commitKeeps (s : State) (l c : Nat) : Bool := s.liveSnaps.any fun y => decide ((s.line l).stamp.toNat ≤ y) && decide (y < c)

/-- The record that holds the old value of the line. -/
def State.commitOld (s : State) (x : Tx) (c l : Nat) (r : Record) : Record :=
  { r with
    data := s.lineData l, stamp := (s.line l).stamp, poison := s.linePoison l, tag := tget s.seals l, viaCkpt := false, viaPlain := false
    kind := if s.commitKeeps l c then 0 else 2
    u := s.commitLogs x l r
    intv := match s.node? x.node with | some n => if s.commitLogs x l r then n.tag else 0 | none => 0 }

/-- The line as the commit leaves it. -/
def State.commitMeta (s : State) (x : Tx) (c l : Nat) (r : Record) : LineMeta :=
  { s.line l with
    stamp := BitVec.ofNat 48 c, tent := false, owner := 0
    intv := if s.commitLogs x l r then (match s.node? x.node with | some n => n.tag | none => 0) else (s.line l).intv
    undo := (s.line l).undo || s.commitLogs x l r }

theorem State.commitLine_eq {s : State} {k : Byte} {l i : Nat} {r : Record} (h : s.tentative l k = some (i, r)) (x : Tx) (c : Nat) :
    s.commitLine k x c l = ((s.commitMarks x l r).commitPlace c l r).commitRecord l i (s.commitOld x c l r) (s.commitMeta x c l r)
      (s.commitKeeps l c || s.commitLogs x l r) := by
  simp only [State.commitLine, h]
  rfl

theorem State.commitMarks_pool (s : State) (x : Tx) (l : Nat) (r : Record) :
    s.commitMarks x l r = { s with pool := (s.commitMarks x l r).pool } := by
  unfold State.commitMarks
  cases s.node? x.node with
  | none => simp only; split <;> rfl
  | some n => simp only; split <;> split <;> rfl

/-- t differs from s at most in poison and tags. -/
def State.MarksOnly (s t : State) : Prop := t = { s with poison := t.poison, seals := t.seals }

theorem State.MarksOnly.trans {s t u : State} (h1 : s.MarksOnly t) (h2 : t.MarksOnly u) : s.MarksOnly u := by
  rw [State.MarksOnly, h2, h1]

theorem State.setSeal_marks (s : State) (l : Nat) (g : Option SealTag) : s.MarksOnly (s.setSeal l g) := by cases g <;> rfl

theorem State.addPoison_marks (s : State) (pa : Nat) (b : Bool) : s.MarksOnly (if b then s.addPoison pa else s) := by
  unfold State.addPoison
  split
  · split <;> rfl
  · rfl

theorem State.commitPlace_eq (s : State) (c l : Nat) (r : Record) : s.commitPlace c l r = { s with
    mem := s.mem.setBytes (lineAddr l) r.data
    poison := (s.commitPlace c l r).poison
    seals := (s.commitPlace c l r).seals
    reservations := (s.unreserve (lineAddr l) 128).reservations } := by
  have h : ((({ s with mem := s.mem.setBytes (lineAddr l) r.data }).unreserve (lineAddr l) 128).clearPoison (lineAddr l) 128).MarksOnly
      (s.commitPlace c l r) :=
    ((State.setSeal_marks _ l _).trans (State.addPoison_marks _ (lineAddr l) _)).trans (State.addPoison_marks _ (lineAddr l + 64) _)
  exact h

/-- t differs from s at most in the versions, and of the lines and records at most in line l and record i. -/
structure State.LineOnly (s t : State) (l i : Nat) : Prop where
  versions : s.VersionsOnly t
  txs : t.versions.txs = s.versions.txs
  clock : t.versions.clock = s.versions.clock
  lines : ∀ q, q ≠ l → t.line q = s.line q
  records : ∀ j, j ≠ i → t.record? j = s.record? j

theorem State.commitRecord_lineOnly (s : State) (l i : Nat) (old : Record) (m : LineMeta) (stays : Bool) :
    s.LineOnly (s.commitRecord l i old m stays) l i ∧ ((s.commitRecord l i old m stays).line l).stamp = m.stamp ∧
      ((s.commitRecord l i old m stays).line l).tent = m.tent := by
  have hset : (s.commitRecord l i old m true).line l = m := (State.line_setLine _ l l m).trans (if_pos rfl)
  have honly : s.LineOnly (s.commitRecord l i old m true) l i :=
    ⟨rfl, rfl, rfl, fun q hq => (State.line_setLine _ l q m).trans (if_neg hq), fun j hj => (tget_tput _ _ _ _).trans (if_neg hj)⟩
  cases stays with
  | true => exact ⟨honly, by rw [hset], by rw [hset]⟩
  | false =>
    have hfree := (s.commitRecord l i old m true).freeRecord_chainOnly l i
    have hline := hfree.line
    rw [hset] at hline
    refine ⟨⟨rfl, rfl, rfl, fun q hq => (hfree.others q hq).trans (honly.lines q hq), fun j hj => ?_⟩, ?_, ?_⟩
    · exact (tget_tdrop _ _ _).trans ((if_neg hj).trans (honly.records j hj))
    · exact (congrArg LineMeta.stamp hline :)
    · exact (congrArg LineMeta.tent hline :)

/-! ### A commit -/

theorem State.LineOnly.records_of {s t : State} {l i m : Nat} (h : s.LineOnly t l i) (hm : m ≠ l) (hi : i ∉ (s.line m).chain) :
    t.records m = s.records m := by
  rw [State.records, State.records, h.lines m hm]
  refine List.filterMap_congr fun j hj => ?_
  rw [h.records j fun e => hi (e ▸ hj)]

theorem State.LineOnly.tentative_of {s t : State} {l i m : Nat} (h : s.LineOnly t l i) (hm : m ≠ l) (hi : i ∉ (s.line m).chain) (k : Byte) :
    t.tentative m k = s.tentative m k := by
  rw [State.tentative, State.tentative, h.records_of hm hi, h.lines m hm]

/-- The new value of a line is in place, and the versions are still those of before. -/
theorem State.commitPlaced (s : State) (x : Tx) (c l : Nat) (r : Record) : ∃ t, (s.commitMarks x l r).commitPlace c l r = t ∧
    t = { s with mem := t.mem, poison := t.poison, seals := t.seals, pool := t.pool, reservations := t.reservations } ∧
    t.mem = s.mem.setBytes (128 * l) r.data := by
  refine ⟨_, rfl, ?_, ?_⟩ <;> rw [State.commitPlace_eq, s.commitMarks_pool]
  rw [lineAddr, Nat.mul_comm]

/-- What the commit of one line leaves: its new value in place, and the other lines with their records. -/
theorem State.commitLine_spec {s : State} {k : Byte} {l i : Nat} {r : Record} (h : s.tentative l k = some (i, r)) (x : Tx) (c : Nat) :
    ∃ t, s.commitLine k x c l = t ∧ s.CommitsOnly t ∧ t.mem = s.mem.setBytes (128 * l) r.data ∧
      (t.line l).stamp = BitVec.ofNat 48 c ∧ (t.line l).tent = false ∧ (∀ q, q ≠ l → t.line q = s.line q) ∧
      ∀ m, m ≠ l → i ∉ (s.line m).chain → t.tentative m k = s.tentative m k := by
  obtain ⟨u, hu, hframe, hmem⟩ := s.commitPlaced x c l r
  obtain ⟨honly, hstamp, htent⟩ := u.commitRecord_lineOnly l i (s.commitOld x c l r) (s.commitMeta x c l r)
    (s.commitKeeps l c || s.commitLogs x l r)
  obtain ⟨t, ht⟩ : ∃ t, t = u.commitRecord l i (s.commitOld x c l r) (s.commitMeta x c l r)
    (s.commitKeeps l c || s.commitLogs x l r) := ⟨_, rfl⟩
  rw [← ht] at honly hstamp htent
  have hversions : u.versions = s.versions := by rw [hframe]
  have hline (q : Nat) : u.line q = s.line q := by rw [State.line, hversions, State.line]
  refine ⟨t, by rw [State.commitLine_eq h, hu, ht], ⟨?_, honly.txs.trans (by rw [hversions]), honly.clock.trans (by rw [hversions])⟩, ?_,
    hstamp, htent, fun q hq => (honly.lines q hq).trans (hline q), fun m hm hi => ?_⟩
  · rw [honly.versions, hframe]
  · rw [honly.versions, ← hmem]
  · rw [honly.tentative_of hm (by rw [hline]; exact hi), State.tentative_congr hversions]

/-- The lines of a commit: each has its tentative version, in a record that no other line has. -/
structure State.CommitReady (s : State) (k : Byte) (place : Nat → Nat × Record) (lines : List Nat) : Prop where
  distinct : lines.Nodup
  tentative : ∀ l ∈ lines, s.tentative l k = some (place l)
  whole : ∀ l ∈ lines, (place l).2.data.length = 128
  apart : ∀ l ∈ lines, ∀ m ∈ lines, m ≠ l → (place l).1 ∉ (s.line m).chain

/-- The lines of a commit, put in place one after the other. -/
def State.commitLines (s : State) (k : Byte) (x : Tx) (c : Nat) (lines : List Nat) : State :=
  lines.foldl (init := s) fun (s : State) l => s.commitLine k x c l

theorem State.CommitReady.commits {k : Byte} {place : Nat → Nat × Record} {lines : List Nat} (x : Tx) (c : Nat) :
    ∀ {s : State}, s.CommitReady k place lines → ∃ t, s.commitLines k x c lines = t ∧ s.CommitsOnly t ∧
      (∀ l ∈ lines, t.mem.bytes (128 * l) 128 = (place l).2.data ∧ (t.line l).stamp = BitVec.ofNat 48 c ∧ (t.line l).tent = false) ∧
      (∀ q, q ∉ lines → t.line q = s.line q) ∧ ∀ p, p / 128 ∉ lines → t.byte p = s.byte p := by
  induction lines with
  | nil => exact fun {s} _ => ⟨s, rfl, .refl s, by simp, fun _ _ => rfl, fun _ _ => rfl⟩
  | cons l lines ih =>
    intro s h
    obtain ⟨hl, hnodup⟩ := List.nodup_cons.1 h.distinct
    obtain ⟨u, hu, honly, hmem, hstamp, htent, hothers, htentative⟩ := State.commitLine_spec (h.tentative l List.mem_cons_self) x c
    have hne : ∀ m ∈ lines, m ≠ l := fun m hm e => hl (e ▸ hm)
    have hapart : ∀ m ∈ lines, (place l).1 ∉ (s.line m).chain := fun m hm =>
      h.apart l List.mem_cons_self m (List.mem_cons_of_mem l hm) (hne m hm)
    have hready : u.CommitReady k place lines :=
      ⟨hnodup, fun m hm => (htentative m (hne m hm) (hapart m hm)).trans (h.tentative m (List.mem_cons_of_mem l hm)),
        fun m hm => h.whole m (List.mem_cons_of_mem l hm), fun m hm q hq hqm => by
          rw [hothers q (hne q hq)]
          exact h.apart m (List.mem_cons_of_mem l hm) q (List.mem_cons_of_mem l hq) hqm⟩
    obtain ⟨t, ht, hcommits, hlines, hline, hbyte⟩ := ih hready
    have hdata := h.whole l List.mem_cons_self
    refine ⟨t, ?_, honly.trans hcommits, fun m hm => ?_, fun q hq => ?_, fun p hp => ?_⟩
    · rw [← ht, ← hu]; rfl
    · rcases List.mem_cons.1 hm with rfl | hm
      · refine ⟨List.ext_getElem (by rw [Memory.length_bytes, hdata]) fun j h1 h2 => ?_, by rw [hline _ hl, hstamp], by rw [hline _ hl, htent]⟩
        have hj : j < 128 := by rwa [Memory.length_bytes] at h1
        have hp := hbyte (128 * m + j) (by rwa [show (128 * m + j) / 128 = m by omega])
        rw [Memory.getElem_bytes]
        exact hp.trans ((congrArg (fun y => Memory.byte y (128 * m + j)) hmem).trans (Memory.byte_setBytes _ _ _ _ h2))
      · exact hlines m hm
    · rw [hline q fun hm => hq (List.mem_cons_of_mem l hm), hothers q fun e => hq (e ▸ List.mem_cons_self)]
    · refine (hbyte p fun hm => hp (List.mem_cons_of_mem l hm)).trans ?_
      have hpl : p / 128 ≠ l := fun e => hp (e ▸ List.mem_cons_self)
      exact (congrArg (fun y => Memory.byte y p) hmem).trans (Memory.byte_setBytes_other _ _ _ _ (by rw [hdata]; omega))

end Sys2Proof.Machine

/-! ## The transaction forms (R99, R361 to R365) -/

namespace Sys2Proof.Machine

/-! ### tx.commit -/

section
variable {s : State} {k : Byte} {x : Tx} (hx : s.tx? k = some x)
include hx

/-- A doomed transaction ends with its status. -/
theorem State.commitTx_doomed {st : Byte} (hst : x.status = some st) :
    s.commitTx k = s.setTx k { x with status := some st, ended := true, stamp := 0, lines := [] } := by
  simp only [State.commitTx, hx, hst]

/-- A newer version under one of its lines is a conflict. -/
theorem State.commitTx_conflict (hst : x.status = none) (hl : ∃ l ∈ x.lines, x.snapshot < (s.line l).stamp.toNat) :
    s.commitTx k = (s.doom k 1).setTx k { x with status := some 1, ended := true, stamp := 0, lines := [] } := by
  have hany : (x.lines.any fun l => decide (x.snapshot < (s.line l).stamp.toNat)) = true := by simpa using hl
  have hd : (s.doom k 1).tx? k = some { x with status := some 1, lines := [] } := State.doom_holds 1 hx hst
  simp only [State.commitTx, hx, hst, hany, if_true, hd]

/-- The state in which a commit puts its lines in place. -/
theorem State.commitTx_places (hst : x.status = none) (hl : ∀ l ∈ x.lines, (s.line l).stamp.toNat ≤ x.snapshot) {t : State}
    (ht : s.tick.commitLines k x (s.versions.clock + 1).toNat x.lines = t) (hk : t.tx? k = some x) :
    s.commitTx k = t.setTx k { x with status := some 0, ended := true, stamp := s.versions.clock + 1, lines := [] } := by
  have hany : (x.lines.any fun l => decide (x.snapshot < (s.line l).stamp.toNat)) = false := by simpa using hl
  have ht' : (x.lines.foldl (init := s.tick) fun u l => u.commitLine k x s.tick.versions.clock.toNat l) = t := ht
  simp only [State.commitTx, hx, hst, hany, Bool.false_eq_true, if_false, ht', hk]
  rfl

end

/-! ### The handle -/

section
variable {s : State} {a : BitVec 5} {k : Byte}

theorem State.txHandle_held (hn : s.inTxNode = false) (hk : (s.tile s.curTile).tx = some k) (ha : s.g a = k.setWidth 64) :
    s.txHandle a = .ok k := by
  simp only [State.txHandle, hn, hk, ha, Bool.false_eq_true, if_false, if_true]

theorem State.txHandle_perm (hn : s.inTxNode = false)
    (h : (s.tile s.curTile).tx = none ∨ (s.tile s.curTile).tx = some k ∧ s.g a ≠ k.setWidth 64) :
    s.txHandle a = .error (.trap causePerm 0) := by
  rcases h with h | ⟨h, ha⟩
  · simp only [State.txHandle, hn, h, Bool.false_eq_true, if_false]
  · simp only [State.txHandle, hn, h, ha, Bool.false_eq_true, if_false]

theorem State.txHandle_node (hn : s.inTxNode = true) (hk : s.nodeTx = some k) : s.txHandle a = .ok k := by
  simp only [State.txHandle, hn, hk, if_true]

/-- In a transaction-mode node tx.commit and tx.release are PERM whether it holds a transaction or not. -/
theorem State.txHandle_forbidden {α : Type} (hn : s.inTxNode = true) (f : Byte → Res α) :
    (do let slot ← s.txHandle a; need (!s.inTxNode) causePerm; f slot) = .error (.trap causePerm 0) := by
  rw [State.txHandle, hn, if_pos rfl]
  cases s.nodeTx <;> rfl

end

/-! ### How the forms end -/

theorem State.result_ctl (s : State) (d : BitVec 5) (v : W64) :
    (s.result d v).ctl = { s.ctl.next with g := if d = 0 then s.ctl.g else s.ctl.g.set d.toNat v } := by
  rw [State.result, State.cDone, State.onCtl_ctl, Control.finish_eq, State.ctl_setG, Control.next_setReg]

theorem State.cDone_ctl (s : State) : s.cDone.ctl = s.ctl.next := by rw [State.cDone, State.onCtl_ctl, Control.finish_eq]

theorem State.cRun_ok {s t : State} (h : s.noAnswer) (ht : t.fabric = s.fabric) : s.cRun (.ok t) = t.cDone :=
  State.cRunAt_ok (by rw [ht]; exact h)

theorem State.SlotOnly.fabric {s t : State} {k : Byte} (h : s.SlotOnly t k) : t.fabric = s.fabric := by rw [h.versions]
theorem State.SlotOnly.ctl {s t : State} {k : Byte} (h : s.SlotOnly t k) : t.ctl = s.ctl := by rw [h.versions]; rfl
theorem State.SlotOnly.curTile {s t : State} {k : Byte} (h : s.SlotOnly t k) : t.curTile = s.curTile := by rw [h.versions]; rfl
theorem State.CommitsOnly.ctl {s t : State} (h : s.CommitsOnly t) : t.ctl = s.ctl := by rw [h.frame]; rfl
theorem State.SlotOnly.bytes {s t : State} {k : Byte} (h : s.SlotOnly t k) : s.SameBytes t := fun p => by rw [h.versions]; rfl

section
variable {s : State} {d a : BitVec 5} {k : Byte} {x : Tx} (ha : s.noAnswer) (hh : s.txHandle a = .ok k) (hx : s.tx? k = some x)
include ha hh hx

theorem State.txStamp_reads : exec (.txStamp d a) s = .next (s.result d (BitVec.ofNat 64 x.snapshot)) := by
  show execTxStamp d a s = _
  simp only [execTxStamp, hh, hx, bind, Except.bind]
  exact congrArg Host.Outcome.next (State.cRun_ok (t := s.setG d _) ha rfl)

/-- tx.commit of a transaction that has ended gives what it gave. -/
theorem State.txCommit_ended (hn : s.inTxNode = false) (he : x.ended = true) :
    exec (.txCommit d a) s = .next (s.result d (txValue (x.status.getD 0) x.stamp.toNat)) := by
  show execTxCommit d a s = _
  simp only [execTxCommit, hh, hn, hx, he, need, Bool.not_false, if_true, bind, Except.bind]
  exact congrArg Host.Outcome.next (State.cRun_ok (t := s.setG d _) ha rfl)

theorem State.txCommit_open (hn : s.inTxNode = false) (he : x.ended = false) {t : State} {y : Tx} (ht : s.commitTx k = t.setTx k y)
    (hf : t.fabric = s.fabric) : exec (.txCommit d a) s = .next ((t.setTx k y).result d (txValue (y.status.getD 0) y.stamp.toNat)) := by
  show execTxCommit d a s = _
  simp only [execTxCommit, hh, hn, hx, he, need, Bool.not_false, if_true, bind, Except.bind, Bool.false_eq_true, if_false, ht,
    State.setTx_holds]
  exact congrArg Host.Outcome.next (State.cRun_ok (t := (t.setTx k y).setG d _) ha hf)

omit hx in
theorem State.txAbort_aborts (hn : s.inTxNode = false) (hf : (s.abortTx k).fabric = s.fabric) :
    exec (.txAbort a) s = .next (s.abortTx k).cDone := by
  show execTxAbort a s = _
  simp only [execTxAbort, hh, hn, bind, Except.bind, Bool.false_eq_true, if_false]
  exact congrArg Host.Outcome.next (State.cRun_ok ha hf)

omit hx in
/-- In a transaction-mode node tx.abort dooms the node's transaction (R365). -/
theorem State.txAbort_dooms (hn : s.inTxNode = true) (hf : (s.doom k 4).fabric = s.fabric) :
    exec (.txAbort a) s = .next (s.doom k 4).cDone := by
  show execTxAbort a s = _
  simp only [execTxAbort, hh, hn, bind, Except.bind, if_true]
  exact congrArg Host.Outcome.next (State.cRun_ok ha hf)

theorem State.txRelease_frees (hn : s.inTxNode = false) :
    exec (.txRelease a) s = .next ((s.releaseTx k).onCur fun t => { t with tx := none }).cDone := by
  show execTxRelease a s = _
  simp only [execTxRelease, hh, hn, need, Bool.not_false, if_true, bind, Except.bind]
  exact congrArg Host.Outcome.next (State.cRun_ok (t := State.onCur _ _) ha (State.releaseTx_only hx).1.fabric)

end

theorem execTxOpen_full {s : State} {d : BitVec 5}
    (h : s.inTxNode = true ∨ (s.tile s.curTile).tx ≠ none ∨ s.versions.rebasing = false ∧ (256 ≤ s.versions.txs.length ∨ 4096 ≤ s.liveSnaps.length)) :
    exec (.txOpen d) s = .next (s.result d (txValue 2 0)) := by
  show execTxOpen d s = _
  rw [execTxOpen]
  by_cases hcap : s.inTxNode = true ∨ (s.tile s.curTile).tx.isSome = true
  · exact congrArg Host.Outcome.next (if_pos hcap)
  · obtain ⟨hr, hfull⟩ := (h.resolve_left fun h => hcap (.inl h)).resolve_left fun h => hcap (.inr (Option.isSome_iff_ne_none.2 h))
    have hopen : s.openTx (s.tile s.curTile).node (some (s.tile s.curTile).share) = none := by
      refine if_neg fun ⟨h1, h2⟩ => ?_
      have := of_decide_eq_true h2
      omega
    simp only [if_neg hcap, hr, Bool.false_eq_true, if_false, hopen]
    rfl

theorem txForms_perm {s : State} {d a : BitVec 5} (h : s.txHandle a = .error (.trap causePerm 0)) :
    ∀ i ∈ ([.txCommit d a, .txAbort a, .txStamp d a, .txRelease a] : List Instr), exec i s = .next (s.cTrap causePerm 0) := by
  have hcommit : execTxCommit d a s = .next (s.cTrap causePerm 0) := by rw [execTxCommit, h]; rfl
  have habort : execTxAbort a s = .next (s.cTrap causePerm 0) := by rw [execTxAbort, h]; rfl
  have hstamp : execTxStamp d a s = .next (s.cTrap causePerm 0) := by rw [execTxStamp, h]; rfl
  have hrelease : execTxRelease a s = .next (s.cTrap causePerm 0) := by rw [execTxRelease, h]; rfl
  rw [← List.forall_iff_forall_mem]
  exact ⟨hcommit, habort, hstamp, hrelease⟩

theorem txForms_forbidden {s : State} {d a : BitVec 5} (h : s.inTxNode = true) :
    ∀ i ∈ ([.txCommit d a, .txRelease a] : List Instr), exec i s = .next (s.cTrap causePerm 0) := by
  have hcommit : execTxCommit d a s = .next (s.cTrap causePerm 0) := by rw [execTxCommit, State.txHandle_forbidden h]; rfl
  have hrelease : execTxRelease a s = .next (s.cTrap causePerm 0) := by rw [execTxRelease, State.txHandle_forbidden h]; rfl
  rw [← List.forall_iff_forall_mem]
  exact ⟨hcommit, hrelease⟩

/-- tx.open takes a free slot (R361). -/
theorem execTxOpen_slot {s : State} {d : BitVec 5} {q : Byte} (hn : s.inTxNode = false) (htx : (s.tile s.curTile).tx = none)
    (hreb : s.versions.rebasing = false) (hlen : s.versions.txs.length < 256) (hsnap : s.liveSnaps.length < 4096)
    (hq : BitVec.ofNat 8 (freeIndex s.versions.txs 0) = q) {x : Tx}
    (hx : x = { snapshot := s.versions.clock.toNat, status := none, ended := false, stamp := 0, lines := [], node := (s.tile s.curTile).node
                share := some (s.tile s.curTile).share }) :
    exec (.txOpen d) s = .next (((s.setTx q x).tick.onCur fun t => { t with tx := some q }).result d (txValue 0 q.toNat)) := by
  have hcap : ¬(s.inTxNode = true ∨ (s.tile s.curTile).tx.isSome = true) := by simp [hn, htx]
  have hopen : s.openTx (s.tile s.curTile).node (some (s.tile s.curTile).share) = some (q, (s.setTx q x).tick) := by
    rw [hx, ← hq]
    exact if_pos ⟨hlen, decide_eq_true hsnap⟩
  show execTxOpen d s = _
  simp only [execTxOpen, if_neg hcap, hreb, Bool.false_eq_true, if_false, hopen]
  rfl

theorem txValue_ok (n : Nat) : txValue 0 n = BitVec.ofNat 64 n := by simp [txValue]

theorem txValue_failed (st : Byte) : txValue st 0 = BitVec.ofNat 64 (st.toNat * 2 ^ 56) := by simp [txValue]

/-- The tile after a word that gives up its transaction, or takes one. -/
theorem State.onCur_tx_cDone (s : State) (o : Option Byte) :
    ((s.onCur fun t => { t with tx := o }).cDone.tile s.curTile).tx = o ∧ (s.onCur fun t => { t with tx := o }).cDone.ctl = s.ctl.next := by
  rw [State.onCur_cDone, s.onCur_tile, State.ctl, State.onCur_curTile, s.onCur_tile]
  exact ⟨rfl, rfl⟩

theorem State.onCur_tx_result (s : State) (o : Option Byte) (d : BitVec 5) (v : W64) :
    (((s.onCur fun t => { t with tx := o }).result d v).tile s.curTile).tx = o ∧
      ((s.onCur fun t => { t with tx := o }).result d v).ctl =
        { s.ctl.next with g := if d = 0 then s.ctl.g else s.ctl.g.set d.toNat v } := by
  have hctl : (s.onCur fun t => { t with tx := o }).ctl = s.ctl := by rw [State.ctl, State.onCur_curTile, s.onCur_tile]; rfl
  refine ⟨?_, by rw [State.result_ctl, hctl]⟩
  rw [State.result, State.onCur_setG_cDone, s.onCur_tile]

section
variable {s : State} {d a : BitVec 5} {k : Byte} {x : Tx} (ha : s.noAnswer) (hh : s.txHandle a = .ok k) (hx : s.tx? k = some x)
  (hn : s.inTxNode = false) (he : x.ended = false)
include ha hh hx hn he

/-- A commit that puts nothing in place ends the transaction with a status, and changes no byte. -/
theorem State.txCommit_fails {t : State} {st : Byte} (ht : s.SlotOnly t k)
    (hc : s.commitTx k = t.setTx k { x with status := some st, ended := true, stamp := 0, lines := [] }) :
    ∃ u, exec (.txCommit d a) s = .next u ∧ s.SameBytes u ∧
      tget u.versions.txs k.toNat = some { x with status := some st, ended := true, stamp := 0, lines := [] } ∧
      u.versions.clock = s.versions.clock ∧
      u.ctl = { s.ctl.next with g := if d = 0 then s.ctl.g else s.ctl.g.set d.toNat (BitVec.ofNat 64 (st.toNat * 2 ^ 56)) } := by
  have honly := ht.trans (.setTx t k { x with status := some st, ended := true, stamp := 0, lines := [] })
  refine ⟨_, State.txCommit_open ha hh hx hn he hc ht.fabric, honly.bytes, State.setTx_holds _ _ _, honly.clock, ?_⟩
  rw [State.result_ctl, honly.ctl, ← txValue_failed]
  rfl

end

/-- Settles O18: each form is an operation on the transaction that its handle names, and then a result or an end. -/
theorem transactions : Obligations.Transactions := by
  intro s d a k x place hr halone tl v back fresh holds
  refine ⟨fun hn => ⟨fun hs hlen hsnap hreb htx => ?_, fun h => ?_, fun hk hx ha => ⟨?_, ?_, fun he => ⟨?_, fun st hst => ?_, fun hst hl => ?_,
      fun hst hnodup hlines hclock => ?_⟩, fun he => ⟨?_, ?_⟩⟩, fun h => ?_⟩, fun hn => ⟨?_, ?_, fun hk hx => ⟨?_, fun hst => ?_⟩⟩⟩
  · obtain ⟨q, hq⟩ : ∃ q, BitVec.ofNat 8 (freeIndex v.txs 0) = q := ⟨_, rfl⟩
    obtain ⟨hfree, hle⟩ := freeIndex_spec v.txs 0 hs fun _ _ => Nat.zero_le _
    have hqn : q.toNat = freeIndex v.txs 0 := by
      rw [← hq, BitVec.toNat_ofNat]
      exact Nat.mod_eq_of_lt (by omega)
    obtain ⟨htx', hctl⟩ := (s.setTx q fresh).tick.onCur_tx_result (some q) d (txValue 0 q.toNat)
    refine ⟨_, execTxOpen_slot hn htx hreb hlen hsnap hq rfl, q, htx', by rw [hqn]; exact hfree, (tget_tput _ _ _ _).trans (if_pos rfl),
      fun i hi => (tget_tput _ _ _ _).trans (if_neg hi), rfl, ?_, fun _ => rfl, rfl⟩
    rw [setWidth_eq_ofNat, ← txValue_ok]
    exact hctl
  · exact ⟨_, execTxOpen_full (.inr h), s.result_register d _⟩
  · exact ⟨_, State.txStamp_reads halone (State.txHandle_held hn hk ha) hx, s.result_register d _⟩
  · obtain ⟨honly, hnone⟩ := State.releaseTx_only hx
    obtain ⟨htx, hctl⟩ := (s.releaseTx k).onCur_tx_cDone none
    rw [honly.curTile] at htx
    rw [honly.ctl] at hctl
    exact ⟨_, State.txRelease_frees halone (State.txHandle_held hn hk ha) hx hn, htx, hnone, honly.others, honly.bytes, hctl⟩
  · obtain ⟨honly, hholds⟩ := State.abortTx_open hx he
    exact ⟨_, State.txAbort_aborts halone (State.txHandle_held hn hk ha) hn honly.fabric, hholds, honly.bytes,
      (State.cDone_ctl _).trans (by rw [honly.ctl])⟩
  · have hdoomed := State.txCommit_fails halone (d := d) (State.txHandle_held hn hk ha) hx hn he (.refl s k) (State.commitTx_doomed hx hst)
    rw [← hst] at hdoomed
    obtain ⟨t, hexec, hbytes, hholds, hclock, hback⟩ := hdoomed
    exact ⟨t, hexec, hbytes, hholds, hclock, hback⟩
  · exact State.txCommit_fails halone (State.txHandle_held hn hk ha) hx hn he (State.SlotOnly.doom 1 hx hst)
      (State.commitTx_conflict hx hst hl)
  · have hready : s.tick.CommitReady k place x.lines :=
      ⟨hnodup, fun l hl => (hlines l hl).2.1, fun l hl => (hlines l hl).2.2.1, fun l hl => (hlines l hl).2.2.2⟩
    obtain ⟨t, ht, hcommits, hplaced, -, hbytes⟩ := hready.commits x (v.clock + 1).toNat
    have htx : t.tx? k = some x := by rw [State.tx?, hcommits.txs]; exact hx
    have hcommit := State.commitTx_places hx hst (fun l hl => (hlines l hl).1) ht htx
    have hctl : t.ctl = s.ctl := hcommits.ctl
    refine ⟨_, State.txCommit_open halone (State.txHandle_held hn hk ha) hx hn he hcommit (by rw [hcommits.frame]; rfl), fun l hl => ?_,
      fun q hq => hbytes q hq, hcommits.clock, State.setTx_holds _ _ _, ?_⟩
    · obtain ⟨hdata, hstamp, htent⟩ := hplaced l hl
      exact ⟨hdata, hstamp.trans ((BitVec.ofNat_toNat _ _).trans (BitVec.setWidth_eq _)), htent⟩
    · rw [setWidth_eq_ofNat, ← txValue_ok]
      refine (State.result_ctl _ d _).trans ?_
      rw [show (t.setTx k _).ctl = s.ctl from hctl]
      rfl
  · have h := State.abortTx_ended hx he
    exact ⟨_, State.txAbort_aborts halone (State.txHandle_held hn hk ha) hn (by rw [h]), h.symm ▸ s.cDone_ends⟩
  · exact ⟨_, State.txCommit_ended halone (State.txHandle_held hn hk ha) hx hn he, s.result_register d _⟩
  · intro i hi
    exact ⟨_, txForms_perm (State.txHandle_perm hn h) i hi, hr.traps 0⟩
  · exact ⟨_, execTxOpen_full (.inl hn), s.result_register d _⟩
  · intro i hi
    exact ⟨_, txForms_forbidden hn i hi, hr.traps 0⟩
  · exact ⟨_, State.txStamp_reads halone (State.txHandle_node hn hk) hx, s.result_register d _⟩
  · have honly := State.SlotOnly.doom 4 hx hst
    exact ⟨_, State.txAbort_dooms halone (State.txHandle_node hn hk) hn honly.fabric, State.doom_holds 4 hx hst, honly.bytes,
      (State.cDone_ctl _).trans (by rw [honly.ctl])⟩

end Sys2Proof.Machine

/-! ## Blocks of the rt commands (R97, R98) -/

namespace Sys2Proof.Machine

/-! ### The block that a command reads -/

/-- The 64 bytes of a command block. -/
def State.blockAt (s : State) (pa : Nat) : Block := Vector.ofFn fun j => BitVec.ofNat 64 (leNat (s.mem.bytes (pa + 8 * j) 8))

theorem State.blockAt_word (s : State) (pa : Nat) {j : Nat} (hj : j < 8) :
    Block.word (s.blockAt pa) j = leNat (s.mem.bytes (pa + 8 * j) 8) := by
  simp only [Block.word, State.blockAt, Vector.getElem?_ofFn, hj, dif_pos, Option.getD_some, BitVec.toNat_ofNat]
  exact Nat.mod_eq_of_lt (leNat_bytes_lt _ _ _)

theorem State.blockAt_of_bytes (s : State) (pa : Nat) :
    (Vector.ofFn fun j : Fin 8 => BitVec.ofNat 64 (leNat (((s.mem.bytes pa 64).drop (8 * j.val)).take 8))) = s.blockAt pa :=
  congrArg Vector.ofFn (funext fun j => by rw [Memory.bytes_drop_take _ (by omega)])

theorem State.PlainAccess.readsBlock {s : State} {ea : W64} {leaf : Leaf} {pa : Nat} (h : s.PlainAccess .read ea 64 leaf pa)
    (hbad : s.anyPoison pa 64 = false) : s.readWhole s.cAsker leaf .newest (s.group pa) 64 ea = .ok (s.mem.bytes pa 64) := by
  rw [h.reached.readWhole, h.readChecked (by decide) .newest hbad]

theorem State.rtBlock_ok {s : State} {ea : W64} {leaf : Leaf} {gpa : Nat} {bs : List Byte} {x : Leaf × Nat} (write : Bool)
    (hr : s.cReach .read ea 64 = .ok (leaf, gpa)) (hw : write = true → s.cReach .write ea 64 = .ok x)
    (hread : s.readWhole s.cAsker leaf .newest gpa 64 ea = .ok bs) : s.rtBlock write ea =
      .ok (Vector.ofFn fun j => BitVec.ofNat 64 (leNat ((bs.drop (8 * j.val)).take 8)), leaf, gpa) := by
  cases write with
  | false => simp only [State.rtBlock, hr, hread, bind, Except.bind, pure, Except.pure, Bool.false_eq_true, if_false]
  | true => simp only [State.rtBlock, hr, hw rfl, hread, bind, Except.bind, pure, Except.pure, if_true]

/-- The block, where the checks of its page have passed; rt.stat's page must allow writing. -/
theorem State.PlainAccess.rtBlock {s : State} {ea : W64} {leaf : Leaf} {pa : Nat} (h : s.PlainAccess .read ea 64 leaf pa)
    (hbad : s.anyPoison pa 64 = false) (write : Bool) (hw : write = true → s.PlainAccess .write ea 64 leaf pa) :
    s.rtBlock write ea = .ok (s.blockAt pa, leaf, s.group pa) := by
  rw [State.rtBlock_ok write h.reach (fun e => (hw e).reach) (h.readsBlock hbad), s.blockAt_of_bytes]

/-! ### The checks of a block -/

section
variable {b : Block} {w : Nat → Nat} (hw : ∀ i < 8, b.word i = w i)
include hw

theorem Block.restZero_iff (j : Nat) : b.restZero j = true ↔ ∀ i < 8, j ≤ i → w i = 0 := by
  simp only [Block.restZero, upto, List.all_eq_true, List.mem_range, Bool.or_eq_true, decide_eq_true_eq, beq_iff_eq]
  refine forall₂_congr fun i hi => ?_
  rw [hw i hi]
  exact ⟨fun h hj => h.resolve_left (Nat.not_lt.2 hj), fun h => (Nat.lt_or_ge i j).imp_right h⟩

theorem Block.openOk_iff : b.openOk = true ↔ (∀ i < 8, 3 ≤ i → w i = 0) ∧ bits (w 2) 15 12 = 0 ∧ bits (w 2) 31 29 = 0 ∧
    bits (w 2) 47 40 = 0 ∧ w 0 % 128 = 0 ∧ w 1 % 16 = 0 ∧ 1 ≤ bits (w 2) 28 16 ∧ bits (w 2) 28 16 ≤ 4096 ∧
    1 ≤ bits (w 2) 39 32 ∧ bits (w 2) 39 32 ≤ 129 := by
  simp only [Block.openOk, Block.cap, Block.slotu, hw 0 (by decide), hw 1 (by decide), hw 2 (by decide), Bool.and_eq_true,
    Block.restZero_iff hw, beq_iff_eq, decide_eq_true_eq, and_assoc]

theorem Block.sendOk_iff : b.sendOk = true ↔ (∀ i < 8, 5 ≤ i → w i = 0) ∧ bits (w 4) 63 16 = 0 ∧ w 0 % 16 = 0 ∧ w 2 % 16 = 0 ∧
    1 ≤ bits (w 3) 15 0 ∧ bits (w 3) 15 0 ≤ 16384 ∧ 1 ≤ bits (w 3) 47 32 ∧ bits (w 3) 47 32 ≤ 16384 ∧
    bits (w 3) 47 32 ≤ bits (w 3) 31 16 * 128 := by
  simp only [Block.sendOk, Block.list, Block.ovf, Block.count, Block.len, Block.pitchu, hw 0 (by decide), hw 2 (by decide),
    hw 3 (by decide), hw 4 (by decide), Bool.and_eq_true, Block.restZero_iff hw, beq_iff_eq, decide_eq_true_eq, and_assoc]

theorem Block.routeOk_iff : b.routeOk = true ↔ (∀ i < 8, 1 ≤ i → w i = 0) ∧ bits (w 0) 31 31 = 0 ∧ bits (w 0) 63 50 = 0 := by
  simp only [Block.routeOk, hw 0 (by decide), Bool.and_eq_true, Block.restZero_iff hw, beq_iff_eq, and_assoc]

theorem Block.handleOk_iff : b.handleOk = true ↔ (∀ i < 8, 1 ≤ i → w i = 0) ∧ bits (w 0) 7 6 = 0 ∧ bits (w 0) 63 9 = 0 := by
  simp only [Block.handleOk, hw 0 (by decide), Bool.and_eq_true, Block.restZero_iff hw, beq_iff_eq, and_assoc]

end

/-! ### How a command ends -/

theorem rtValue_status (st : Nat) : rtValue st 0 = BitVec.ofNat 64 st := by simp [rtValue]

theorem rtValue_ok (v : Nat) : rtValue 0 v = BitVec.ofNat 64 (v * 2 ^ 32) := by
  apply BitVec.eq_of_toNat_eq
  simp only [rtValue, BitVec.toNat_ofNat, Nat.add_zero]
  omega

section
variable {s : State} {d a : BitVec 5} {write : Bool} {b : Block} {leaf : Leaf} {gpa : Nat} {f : Block → Leaf → Nat → Res RtOut}
  (ha : s.noAnswer) (hb : s.rtBlock write (s.g a) = .ok (b, leaf, gpa))
include ha hb

theorem State.rtCommand_refused {u : State} {st : Nat} (hf : f b leaf gpa = .ok (u, st, 0)) (hst : st ≠ 0) :
    s.rtCommand d a write f = s.result d (BitVec.ofNat 64 st) := by
  rw [← rtValue_status]
  simp only [State.rtCommand, hb, hf, bind, Except.bind, if_neg hst]
  exact State.cRunAt_ok (u := s.setG d _) ha

theorem State.rtCommand_only {i : Instr} (hi : exec i s = .next (s.rtCommand d a write f)) {u : State} {st : Nat}
    (hf : f b leaf gpa = .ok (u, st, 0)) (hst : st ≠ 0) : ∃ t, exec i s = .next t ∧ s.CRegister t d (BitVec.ofNat 64 st) :=
  ⟨_, hi.trans (congrArg _ (State.rtCommand_refused ha hb hf hst)), s.result_register d _⟩

omit ha in
theorem State.rtCommand_done {u : State} {v : Nat} (hf : f b leaf gpa = .ok (u, 0, v))
    (hu : ∀ x ∈ u.fabric.answers, x.who ≠ .stream s.curTile 0) : s.rtCommand d a write f = u.result d (BitVec.ofNat 64 (v * 2 ^ 32)) := by
  rw [← rtValue_ok]
  simp only [State.rtCommand, hb, hf, bind, Except.bind, if_true]
  exact State.cRunAt_ok (u := u.setG d _) hu

end

/-! ### The lowest free handle -/

theorem Die.recv_ofNat (y : Die) (i : Fin 64) : y.recv (BitVec.ofNat 6 i.val) = y.recvs[i] := by
  have h : (BitVec.ofNat 6 i.val).toNat = i.val := by rw [BitVec.toNat_ofNat]; exact Nat.mod_eq_of_lt i.isLt
  simp only [Die.recv, h]
  rfl

theorem Die.sending_ofNat (y : Die) (i : Fin 16) : y.sending (BitVec.ofNat 4 i.val) = y.sends[i] := by
  have h : (BitVec.ofNat 4 i.val).toNat = i.val := by rw [BitVec.toNat_ofNat]; exact Nat.mod_eq_of_lt i.isLt
  simp only [Die.sending, h]
  rfl

theorem Die.freeRecv_none {y : Die} (h : ∀ i : Fin 64, y.recvs[i].opened = true) : y.freeRecv = none := by
  refine List.find?_eq_none.2 fun k hk => ?_
  rw [y.recv_ofNat ⟨k, List.mem_range.1 hk⟩, h]
  decide

theorem Die.freeRecv_some {y : Die} {h : BitVec 6} (hfree : (y.recv h).opened = false)
    (hlow : ∀ i : Fin 64, i.val < h.toNat → y.recvs[i].opened = true) : y.freeRecv = some h.toNat := by
  refine List.find?_range_eq_some.2 ⟨?_, List.mem_range.2 h.isLt, fun j hj => ?_⟩
  · rw [BitVec.ofNat_toNat, BitVec.setWidth_eq, hfree]; rfl
  · rw [y.recv_ofNat ⟨j, hj.trans h.isLt⟩, hlow ⟨j, hj.trans h.isLt⟩ hj]; rfl

theorem Die.freeRecv_exists {y : Die} (h : ∃ i : Fin 64, y.recvs[i].opened = false) : ∃ k, y.freeRecv = some k := by
  obtain ⟨i, hi⟩ := h
  refine Option.isSome_iff_exists.1 (List.find?_isSome.2 ⟨i.val, List.mem_range.2 i.isLt, ?_⟩)
  rw [y.recv_ofNat i, hi]; rfl

theorem Die.freeSend_none {y : Die} (h : ∀ i : Fin 16, y.sends[i] ≠ none) : y.freeSend = none := by
  refine List.find?_eq_none.2 fun k hk => ?_
  rw [y.sending_ofNat ⟨k, List.mem_range.1 hk⟩, Option.isNone_iff_eq_none]
  exact h _

theorem Die.freeSend_some {y : Die} {g : BitVec 4} (hfree : y.sending g = none)
    (hlow : ∀ i : Fin 16, i.val < g.toNat → y.sends[i] ≠ none) : y.freeSend = some g.toNat := by
  refine List.find?_range_eq_some.2 ⟨?_, List.mem_range.2 g.isLt, fun j hj => ?_⟩
  · rw [BitVec.ofNat_toNat, BitVec.setWidth_eq, hfree]; rfl
  · rw [y.sending_ofNat ⟨j, hj.trans g.isLt⟩]
    simpa using Option.ne_none_iff_isSome.1 (hlow ⟨j, hj.trans g.isLt⟩ hj)

end Sys2Proof.Machine

/-! ## The rt commands on a sound block (R97, R98, R409) -/

namespace Sys2Proof.Machine

/-- What a command that opens a handle leaves, before its word ends: its die is z, and the handle's pins are the tile's. -/
def State.handleTaken (s : State) (z : Die) (answers : List Answer) (id : Nat) (pins : List Held) : State :=
  { s with
    nextOp := s.nextOp + 1
    dies := s.dies.set (tileDie s.curTile).toNat z
    fabric := { s.fabric with answers := answers }
    tiles := s.tiles.set s.curTile.toNat
      { s.tile s.curTile with opPins := (s.tile s.curTile).opPins ++ pins.map fun p => { op := id, pin := p } } }

/-- A word that leaves a die as z and its answers as they are given, and changes the tile by f, ends with v in d. -/
theorem State.result_die (s : State) (n : Nat) (z : Die) (answers : List Answer) (f : Tile → Tile) (d : BitVec 5) (v : W64)
    (hf : (f (s.tile s.curTile)).control = s.ctl) :
    State.result { s with
        nextOp := n
        dies := s.dies.set (tileDie s.curTile).toNat z
        fabric := { s.fabric with answers := answers }
        tiles := s.tiles.set s.curTile.toNat (f (s.tile s.curTile)) } d v =
      { s with
        nextOp := n
        dies := s.dies.set (tileDie s.curTile).toNat z
        fabric := { s.fabric with answers := answers }
        tiles := s.tiles.set s.curTile.toNat { f (s.tile s.curTile) with
          control := { s.ctl.next with g := if d = 0 then s.ctl.g else s.ctl.g.set d.toNat v } } } := by
  rw [← Control.next_setReg, ← hf]
  exact State.onCur_setG_cDone { s with
    nextOp := n, dies := s.dies.set (tileDie s.curTile).toNat z, fabric := { s.fabric with answers := answers } } f d v

/-! ### rt.open -/

/-- An open handle has the block's expert and phase. -/
def RecvHandle.taken (r : RecvHandle) (b : Block) : Bool := r.opened && r.expert.toNat == b.expert && r.phase.toNat == b.openPhase

/-- The handle that rt.open opens, where r stood before; r keeps its numbering in its phase (log 31). -/
def State.newRecv (s : State) (b : Block) (pins : List Held) (r : RecvHandle) : RecvHandle :=
  { opened := true, id := if r.phase.toNat = b.openPhase ∧ r.slotu ≠ 0 then r.id else s.nextOp, tile := s.curTile
    node := (s.tile s.curTile).node, buf := b[0], lwa := b[1], expert := BitVec.ofNat 12 b.expert, cap := b.cap, slotu := b.slotu
    phase := BitVec.ofNat 16 b.openPhase, pins := pins, accept := 0, dup := 0, refused := 0, bytes := 0
    sources := if r.phase.toNat = b.openPhase ∧ r.slotu ≠ 0 then r.sources else [] }

/-- rt.open, once its pins are found: the lowest free handle, unless an open one has the block's expert and phase. -/
def State.opensRecv (s : State) (b : Block) (pins : List Held) : Res RtOut :=
  match (s.die (tileDie s.curTile)).freeRecv with
  | none => .ok (s, rtFull, 0)
  | some h =>
    if (upto 64).any fun k => ((s.die (tileDie s.curTile)).recv (BitVec.ofNat 6 k)).taken b then .ok (s, rtBadarg, 0)
    else
      let x := s.newRecv b pins ((s.die (tileDie s.curTile)).recv (BitVec.ofNat 6 h))
      .ok (s.handleTaken ((s.die (tileDie s.curTile)).setRecv (BitVec.ofNat 6 h) x)
        (s.fabric.answers.filter fun v => v.who != .operation x.id) x.id pins, 0, h)

section
variable {s : State} {b : Block}

theorem State.rtOpen_bad (h : b.openOk = false ∨ s.lwaMisplaced (s.root s.curTile) (b.word 1) = true) : s.rtOpen b = .ok (s, rtBadarg, 0) := by
  have hc : (!b.openOk || s.lwaMisplaced (s.root s.curTile) (b.word 1)) = true := by rcases h with h | h <;> simp [h]
  simp only [State.rtOpen, hc, if_true]
  rfl

theorem State.rtOpen_pinned {p1 pins : List Held} (hok : b.openOk = true)
    (hp : s.pinRanges s.curTile (s.root s.curTile) .write [(b.word 0, b.cap * b.slotu * 128)] [] = .ok p1)
    (hpins : b.word 1 = 0 ∧ pins = p1 ∨ b.word 1 ≠ 0 ∧ s.lwaMisplaced (s.root s.curTile) (b.word 1) = false ∧
      s.pinRanges s.curTile (s.root s.curTile) .write [(b.word 1, 16)] p1 = .ok pins)
    (hlim : (pageKeys ((s.tile s.curTile).pins ++ pins)).length ≤ 512) (hready : s.engReady (8 + (tileDie s.curTile).toNat) = true) :
    s.rtOpen b = s.opensRecv b pins := by
  have hpin : s.pinOk s.curTile pins = .ok () := if_pos (decide_eq_true hlim)
  rcases hpins with ⟨h0, rfl⟩ | ⟨h0, hl, hp2⟩
  · simp only [State.rtOpen, hok, hp, h0, hpin, State.whenRouting, hready, Bool.not_true, if_true, bind, Except.bind]
    rfl
  · simp only [State.rtOpen, hok, hl, hp, h0, hp2, hpin, State.whenRouting, hready, Bool.not_true, Bool.or_self, Bool.false_eq_true, if_false,
      if_true, bind, Except.bind]
    rfl

end

section
variable {s : State} {b : Block} {pins : List Held}

theorem State.opensRecv_full (h : (s.die (tileDie s.curTile)).freeRecv = none) : s.opensRecv b pins = .ok (s, rtFull, 0) := by
  rw [State.opensRecv, h]

theorem State.opensRecv_taken {k : Nat} (h : (s.die (tileDie s.curTile)).freeRecv = some k) {i : Fin 64}
    (hi : ((s.die (tileDie s.curTile)).recvs[i].taken b) = true) : s.opensRecv b pins = .ok (s, rtBadarg, 0) := by
  rw [State.opensRecv, h]
  refine if_pos (List.any_eq_true.2 ⟨i.val, List.mem_range.2 i.isLt, ?_⟩)
  rw [Die.recv_ofNat, hi]

theorem State.opensRecv_opens {h : BitVec 6} (hfree : (s.die (tileDie s.curTile)).freeRecv = some h.toNat)
    (hn : ∀ i : Fin 64, (s.die (tileDie s.curTile)).recvs[i].taken b = false) {x : RecvHandle}
    (hx : s.newRecv b pins ((s.die (tileDie s.curTile)).recv h) = x) :
    s.opensRecv b pins = .ok (s.handleTaken ((s.die (tileDie s.curTile)).setRecv h x)
      (s.fabric.answers.filter fun v => v.who != .operation x.id) x.id pins, 0, h.toNat) := by
  have hh : BitVec.ofNat 6 h.toNat = h := (BitVec.ofNat_toNat _ _).trans (BitVec.setWidth_eq _)
  have hany : ((upto 64).any fun k => ((s.die (tileDie s.curTile)).recv (BitVec.ofNat 6 k)).taken b) = false := by
    refine List.any_eq_false.2 fun k hk => ?_
    rw [Die.recv_ofNat _ ⟨k, List.mem_range.1 hk⟩, hn]
    decide
  simp only [State.opensRecv, hfree, hany, Bool.false_eq_true, if_false, hh, hx]

end

/-! ### rt.send -/

/-- The send handle that rt.send opens. -/
def State.newSend (s : State) (b : Block) (pins : List Held) (es : List Entry) : SendHandle :=
  { id := s.nextOp, tile := some s.curTile, node := (s.tile s.curTile).node, block := b, pins := pins
    tokens := es.zipIdx.map fun e => { idx := e.2, entry := e.1, state := .unformed, second := false, seq := 0, pkg := 0, die := 0, handle := 0 }
    rerouted := [], listing := [], resend := [], denied := none, deliv := 0, bounce := 0, overs := 0, resent := 0, raised := false }

/-- rt.send, once its pins are found: the lowest free handle. -/
def State.opensSend (s : State) (b : Block) (pins : List Held) (es : List Entry) : Res RtOut :=
  match (s.die (tileDie s.curTile)).freeSend with
  | none => .ok (s, rtFull, 0)
  | some h => .ok (s.handleTaken ((s.die (tileDie s.curTile)).setSend (BitVec.ofNat 4 h) (some (s.newSend b pins es))) s.fabric.answers s.nextOp
      pins, 0, h)

/-- What rt.send does with its block: the send is the tile's. -/
def State.rtSend (s : State) (b : Block) : Res RtOut :=
  s.makeSend s.curTile (s.root s.curTile) (tileDie s.curTile) (some s.curTile) (s.tile s.curTile).node s.cAsker b

section
variable {s : State} {b : Block}

theorem State.rtSend_bad (h : b.sendOk = false) : s.rtSend b = .ok (s, rtBadarg, 0) := by
  simp only [State.rtSend, State.makeSend, h, Bool.not_false, if_true]
  rfl

variable {p1 p2 pins : List Held} {es : List Entry} (hok : b.sendOk = true)
  (hp : s.pinRanges s.curTile (s.root s.curTile) .read [(b.list, 16 * b.count)] [] = .ok p1)
  (hes : s.readEntries (tileDie s.curTile) s.cAsker p1 b = .ok es)
include hok hp hes

theorem State.rtSend_entry (h : es.all Entry.ok = false) : s.rtSend b = .ok (s, rtBadarg, 0) := by
  simp only [State.rtSend, State.makeSend, hok, hp, hes, h, Bool.not_true, Bool.not_false, Bool.false_eq_true, if_false, if_true, bind,
    Except.bind]
  rfl

theorem State.rtSend_unrouted (h : es.all Entry.ok = true) (hr : es.all (s.die (tileDie s.curTile)).routed = false) :
    s.rtSend b = .ok (s, rtNoroute, 0) := by
  simp only [State.rtSend, State.makeSend, hok, hp, hes, h, hr, Bool.not_true, Bool.not_false, Bool.false_eq_true, if_false, if_true, bind,
    Except.bind]
  rfl

theorem State.rtSend_pinned (h : es.all Entry.ok = true) (hr : es.all (s.die (tileDie s.curTile)).routed = true)
    (hp2 : s.pinRanges s.curTile (s.root s.curTile) .read (es.map fun e => (b.payload (Entry.token e), b.len)) p1 = .ok p2)
    (hpins : s.pinRanges s.curTile (s.root s.curTile) .write [(b.ovf, 16 * b.count)] p2 = .ok pins)
    (hlim : (pageKeys ((s.tile s.curTile).pins ++ pins)).length ≤ 512) (hready : s.engReady (8 + (tileDie s.curTile).toNat) = true) :
    s.rtSend b = s.opensSend b pins es := by
  have hpin : s.pinOk s.curTile pins = .ok () := if_pos (decide_eq_true hlim)
  simp only [State.rtSend, State.makeSend, hok, hp, hes, h, hr, hp2, hpins, hpin, State.whenRouting, hready, Bool.not_true,
    Bool.false_eq_true, if_false, if_true, bind, Except.bind]
  rfl

end

theorem State.opensSend_full {s : State} {b : Block} {pins : List Held} {es : List Entry}
    (h : (s.die (tileDie s.curTile)).freeSend = none) : s.opensSend b pins es = .ok (s, rtFull, 0) := by
  rw [State.opensSend, h]

theorem State.opensSend_opens {s : State} {b : Block} {pins : List Held} {es : List Entry} {g : BitVec 4}
    (h : (s.die (tileDie s.curTile)).freeSend = some g.toNat) :
    s.opensSend b pins es = .ok (s.handleTaken ((s.die (tileDie s.curTile)).setSend g (some (s.newSend b pins es))) s.fabric.answers s.nextOp
      pins, 0, g.toNat) := by
  have hg : BitVec.ofNat 4 g.toNat = g := (BitVec.ofNat_toNat _ _).trans (BitVec.setWidth_eq _)
  simp only [State.opensSend, h, hg]

theorem Entry.ok_iff (e : Entry) :
    e.ok = true ↔ e.toNat / 2 ^ 97 = 0 ∧ Entry.first e ≤ 4095 ∧ (Entry.nosec e = true ∨ Entry.second e ≤ 4095) := by
  have hlt : e.toNat < 2 ^ 128 := e.isLt
  have hbits : bits e.toNat 127 97 = e.toNat / 2 ^ 97 := Nat.mod_eq_of_lt (by omega)
  simp only [Entry.ok, hbits, Bool.and_eq_true, Bool.or_eq_true, beq_iff_eq, decide_eq_true_eq, and_assoc]

theorem Die.routed_iff (y : Die) (e : Entry) : y.routed e = true ↔
    tget y.routes (Entry.first e) ≠ none ∧ (Entry.nosec e = true ∨ tget y.routes (Entry.second e) ≠ none) := by
  simp only [Die.routed, Die.routeOf, Bool.and_eq_true, Bool.or_eq_true, Option.isSome_iff_ne_none]

/-! ### rt.route, rt.stat and rt.close -/

/-- A word that changes the tile's die and ends with v in d. -/
theorem State.onDie_result (s : State) (f : Die → Die) (d : BitVec 5) (v : W64) :
    (s.onDie (tileDie s.curTile) f).result d v = { s with
      dies := s.dies.set (tileDie s.curTile).toNat (f (s.die (tileDie s.curTile)))
      tiles := s.tiles.set s.curTile.toNat { s.tile s.curTile with
        control := { s.ctl.next with g := if d = 0 then s.ctl.g else s.ctl.g.set d.toNat v } } } := by
  rw [← Control.next_setReg, State.result, State.cDone_eq, State.setG, State.onCtl]
  exact State.onCur_onCur _ _ _

theorem Block.handle_toNat (b : Block) : b.handle.toNat = bits (b.word 0) 5 0 := by
  rw [Block.handle, BitVec.toNat_ofNat]
  exact Nat.mod_eq_of_lt (Nat.mod_lt _ (by decide))

theorem Block.handle_send (b : Block) : b.handle.setWidth 4 = BitVec.ofNat 4 (bits (b.word 0) 5 0) := by
  rw [setWidth_eq_ofNat, b.handle_toNat]

theorem SendHandle.unack_eq (x : SendHandle) :
    x.unack = (x.tokens.filter fun k => k.state != .acked && k.state != .listing && k.state != .overflow).length := by
  rw [SendHandle.unack, List.countP_eq_length_filter]
  congr 2
  funext k
  cases k.state <;> rfl

/-- The block names no open handle of the die. -/
def Block.unknown (b : Block) (y : Die) : Prop :=
  bits (b.word 0) 8 8 = 1 ∧ (y.recv b.handle).opened = false ∨
    bits (b.word 0) 8 8 = 0 ∧ (16 ≤ b.handle.toNat ∨ y.sending (b.handle.setWidth 4) = none)

section
variable {s : State} {b : Block}

theorem State.rtStat_unknown (h : b.unknown (s.die (tileDie s.curTile))) : s.rtStat (tileDie s.curTile) b = none := by
  rcases h with ⟨h1, h⟩ | ⟨h1, h⟩
  · simp only [State.rtStat, Block.receive, h1, h, BEq.rfl, if_true, Bool.false_eq_true, if_false]
  · have hr : b.receive = false := by rw [Block.receive, h1]; rfl
    rcases h with h | h
    · simp only [State.rtStat, hr, Nat.not_lt.2 h, Bool.false_eq_true, if_false]
    · simp only [State.rtStat, hr, h, Bool.false_eq_true, if_false, ite_self]

theorem State.rtStat_recv (h1 : bits (b.word 0) 8 8 = 1) {r : RecvHandle} (hr : (s.die (tileDie s.curTile)).recv b.handle = r)
    (ho : r.opened = true) : s.rtStat (tileDie s.curTile) b = some [r.accept, r.dup, r.refused, r.bytes] := by
  simp only [State.rtStat, Block.receive, h1, hr, ho, BEq.rfl, if_true]

theorem State.rtStat_send (h1 : bits (b.word 0) 8 8 = 0) (hlt : b.handle.toNat < 16) {x : SendHandle}
    (hx : (s.die (tileDie s.curTile)).sending (b.handle.setWidth 4) = some x) :
    s.rtStat (tileDie s.curTile) b = some [x.deliv, x.bounce, x.overs, x.unack, x.resent] := by
  have hr : b.receive = false := by rw [Block.receive, h1]; rfl
  simp only [State.rtStat, hr, hlt, hx, Bool.false_eq_true, if_false, if_true]

theorem State.rtClose_bad (h : b.handleOk = false) : s.rtClose b = .ok (s, rtBadarg, 0) := by
  simp only [State.rtClose, h, Bool.not_false, if_true]

variable (hok : b.handleOk = true)
include hok

theorem State.rtClose_unknown (h : b.unknown (s.die (tileDie s.curTile))) : s.rtClose b = .ok (s, rtClosed, 0) := by
  rcases h with ⟨h1, h⟩ | ⟨h1, h⟩
  · simp only [State.rtClose, hok, Block.receive, h1, h, BEq.rfl, Bool.not_true, Bool.not_false, if_true, Bool.false_eq_true, if_false]
  · have hr : b.receive = false := by rw [Block.receive, h1]; rfl
    rcases h with h | h
    · simp only [State.rtClose, hok, hr, h, Bool.not_true, Bool.false_eq_true, if_false, if_true]
    · simp only [State.rtClose, hok, hr, h, Bool.not_true, Bool.false_eq_true, if_false, ite_self]

variable (hready : s.engReady (8 + (tileDie s.curTile).toNat) = true)
include hready

theorem State.rtClose_recv (h1 : bits (b.word 0) 8 8 = 1) {r : RecvHandle} (hr : (s.die (tileDie s.curTile)).recv b.handle = r)
    (ho : r.opened = true) (hs : r.sources = []) (hq : s.shoot.busy = false) : s.rtClose b =
      .ok ((s.onDie (tileDie s.curTile) fun y => y.setRecv b.handle { y.recv b.handle with opened := false, pins := [] }).onTile r.tile fun u =>
        { u with opPins := u.opPins.filter fun p => p.op != r.id }, 0, r.accept) := by
  simp only [State.rtClose, hok, Block.receive, h1, hr, ho, hs, State.whenRouting, hready, BEq.rfl, Bool.not_true, if_true,
    Bool.false_eq_true, if_false, Option.isNone_some, List.foldl_nil, State.endPins]
  exact congrArg (fun u => Except.ok (u, 0, r.accept)) (State.shootCheck_idle (by exact hq))

variable (h1 : bits (b.word 0) 8 8 = 0) (hlt : b.handle.toNat < 16) {x : SendHandle}
  (hx : (s.die (tileDie s.curTile)).sending (b.handle.setWidth 4) = some x)
include h1 hlt hx

omit hready in
theorem State.rtClose_unacked (hu : 0 < x.unack) : s.rtClose b = .ok (s, rtFull, 0) := by
  have hr : b.receive = false := by rw [Block.receive, h1]; rfl
  simp only [State.rtClose, hok, hr, Nat.not_le.2 hlt, hx, hu, Bool.not_true, Bool.false_eq_true, if_false, true_or, if_true]

theorem State.rtClose_send (hu : x.unack = 0) : s.rtClose b = .ok (s.onDie (tileDie s.curTile) fun y =>
    { y.setSend (b.handle.setWidth 4) none with closing := if x.raised then y.closing else y.closing ++ [x] }, 0, x.deliv) := by
  have hr : b.receive = false := by rw [Block.receive, h1]; rfl
  simp only [State.rtClose, hok, hr, Nat.not_le.2 hlt, hx, hu, State.whenRouting, hready, Bool.not_true, Bool.false_eq_true, if_false,
    if_true, gt_iff_lt, lt_irrefl, Option.isNone_some, or_self]

end

/-- What rt.route does with its block. -/
def State.rtRoute (s : State) (b : Block) : Res RtOut :=
  if !b.routeOk then .ok (s, rtBadarg, 0)
  else if (s.whenRouting (tileDie s.curTile) (some ())).isNone then .ok (s, rtFull, 0)
  else .ok (s.onDie (tileDie s.curTile) fun y => { y with routes := tput y.routes (bits (b.word 0) 11 0) b.route }, 0, 0)

theorem State.rtRoute_bad {s : State} {b : Block} (h : b.routeOk = false) : s.rtRoute b = .ok (s, rtBadarg, 0) := by
  simp only [State.rtRoute, h, Bool.not_false, if_true]

theorem State.rtRoute_full {s : State} {b : Block} (h : b.routeOk = true) (hr : s.engReady (8 + (tileDie s.curTile).toNat) = false) :
    s.rtRoute b = .ok (s, rtFull, 0) := by
  simp only [State.rtRoute, h, State.whenRouting, hr, Bool.not_true, Bool.false_eq_true, if_false, Option.isNone_none, if_true]

theorem State.rtRoute_routes {s : State} {b : Block} (h : b.routeOk = true) (hr : s.engReady (8 + (tileDie s.curTile).toNat) = true) :
    s.rtRoute b =
      .ok (s.onDie (tileDie s.curTile) fun y => { y with routes := tput y.routes (bits (b.word 0) 11 0) b.route }, 0, 0) := by
  simp only [State.rtRoute, h, State.whenRouting, hr, Bool.not_true, Bool.false_eq_true, if_false, Option.isNone_some, if_true]

theorem RecvHandle.taken_iff {b : Block} {v : Nat} (hv : b.word 2 = v) (r : RecvHandle) :
    r.taken b = true ↔ r.opened = true ∧ r.expert.toNat = bits v 11 0 ∧ r.phase.toNat = bits v 63 48 := by
  simp only [RecvHandle.taken, Block.expert, Block.openPhase, hv, Bool.and_eq_true, beq_iff_eq, and_assoc]

/-! ### The counts of rt.stat in memory -/

theorem place_scratch {pa : Nat} (h : scratchBase ≤ pa ∧ pa < scratchBase + 4 * 0x4000000) :
    ∃ o, Machine.place pa = .scratch (BitVec.ofNat 2 ((pa - scratchBase) / 0x4000000)) o := by
  have h1 : ¬pa < hbmEnd := by unfold scratchBase at h; unfold hbmEnd; omega
  have h2 : ¬(tileBase ≤ pa ∧ pa < tileBase + 64 * 0x400000) := by unfold scratchBase at h; unfold tileBase; omega
  have h3 : ¬(poolBase ≤ pa ∧ pa < poolBase + 16 * 0x800000) := by unfold scratchBase at h; unfold poolBase; omega
  exact ⟨_, by rw [Machine.place, if_neg h1, if_neg h2, if_neg h3, if_pos h]⟩

theorem scratch_of_place {pa o : Nat} {d : BitVec 2} (h : Machine.place pa = .scratch d o) :
    scratchBase ≤ pa ∧ pa < scratchBase + 4 * 0x4000000 := by
  by_contra hn
  unfold Machine.place at h
  rw [if_neg hn] at h
  repeat' split at h
  all_goals cases h

theorem State.scratchBusy_eq (s : State) (pa : Nat) : s.scratchBusy pa = if scratchBase ≤ pa ∧ pa < scratchBase + 4 * 0x4000000 then
    (s.die (BitVec.ofNat 2 ((pa - scratchBase) / 0x4000000))).partition.isSome else false := by
  by_cases h : scratchBase ≤ pa ∧ pa < scratchBase + 4 * 0x4000000
  · obtain ⟨o, ho⟩ := place_scratch h
    rw [if_pos h, State.scratchBusy, ho]
  · rw [if_neg h, State.scratchBusy]
    split
    · next d o ho => exact absurd (scratch_of_place ho) h
    · rfl

/-- A die's scratch is a whole number of lines (R249). -/
theorem State.scratchBusy_line (s : State) {p q : Nat} (h : p / 128 = q / 128) : s.scratchBusy p = s.scratchBusy q := by
  have hin : (scratchBase ≤ p ∧ p < scratchBase + 4 * 0x4000000) ↔ (scratchBase ≤ q ∧ q < scratchBase + 4 * 0x4000000) := by
    unfold scratchBase; omega
  have hdie : (p - scratchBase) / 0x4000000 = (q - scratchBase) / 0x4000000 := by unfold scratchBase; omega
  rw [s.scratchBusy_eq, s.scratchBusy_eq, hdie, if_congr hin rfl rfl]

theorem length_counts (l : List Nat) : (l.flatMap fun v => leBytes 8 v).length = 8 * l.length := by
  induction l with
  | nil => rfl
  | cons v l ih => rw [List.flatMap_cons, List.length_append, ih, length_leBytes, List.length_cons]; omega

/-- The counts of rt.stat are stored behind the first word of its block. -/
theorem State.PlainAccess.storesCounts {s : State} {ea : W64} {leaf : Leaf} {pa : Nat} (h : s.PlainAccess .write ea 64 leaf pa) {l : List Nat}
    (h0 : 0 < l.length) (hl : l.length ≤ 7) (dn : BitVec 2) :
    s.writeAny s.curWriter dn s.cAsker leaf (s.group pa + 8) (l.flatMap fun v => leBytes 8 v) =
      .ok (s.cStored leaf (s.group (pa + 8)) (pa + 8) (leBytes (8 * l.length) (leNat (l.flatMap fun v => leBytes 8 v)))) := by
  have hline := h.line
  have hlen := length_counts l
  have hbelow : pa + 8 < 2 ^ 48 := by have := h.below; omega
  have hbytes := leBytes_leNat (l.flatMap fun v => leBytes 8 v)
  rw [hlen] at hbytes
  have hgroup : s.group pa + 8 = s.group (pa + 8) := Nat.add_assoc _ _ _
  have hsame : (pa + 8) / 128 = pa / 128 := by omega
  rw [hbytes, hgroup, State.writeAny, if_pos (s.ownPkg_group hbelow), s.localOf_group hbelow]
  exact s.writeLocal_plain s.curWriter _ (by omega) (by omega) h.plain (by rw [hsame]; exact h.tag)
    ((s.scratchBusy_line hsame).trans h.open_)

/-- What rt.stat does with its block. -/
def State.rtStats (s : State) (b : Block) (leaf : Leaf) (gpa : Nat) : Res RtOut :=
  if !b.handleOk then .ok (s, rtBadarg, 0)
  else match s.rtStat (tileDie s.curTile) b with
    | none => .ok (s, rtClosed, 0)
    | some vs => if (s.whenRouting (tileDie s.curTile) (some ())).isNone then .ok (s, rtFull, 0) else do
      let s1 ← s.writeAny s.curWriter (tileDie s.curTile) s.cAsker leaf (gpa + 8) (vs.flatMap fun v => leBytes 8 v)
      return (s1, 0, 0)

section
variable {s : State} {b : Block} {leaf : Leaf} {gpa : Nat}

theorem State.rtStats_bad (h : b.handleOk = false) : s.rtStats b leaf gpa = .ok (s, rtBadarg, 0) := by
  simp only [State.rtStats, h, Bool.not_false, if_true]

theorem State.rtStats_unknown (hok : b.handleOk = true) (h : b.unknown (s.die (tileDie s.curTile))) :
    s.rtStats b leaf gpa = .ok (s, rtClosed, 0) := by
  simp only [State.rtStats, hok, State.rtStat_unknown h, Bool.not_true, Bool.false_eq_true, if_false]

theorem State.rtStats_writes (hok : b.handleOk = true) {l : List Nat} (hl : s.rtStat (tileDie s.curTile) b = some l)
    (hready : s.engReady (8 + (tileDie s.curTile).toNat) = true) {t : State}
    (ht : s.writeAny s.curWriter (tileDie s.curTile) s.cAsker leaf (gpa + 8) (l.flatMap fun v => leBytes 8 v) = .ok t) :
    s.rtStats b leaf gpa = .ok (t, 0, 0) := by
  simp only [State.rtStats, hok, hl, State.whenRouting, hready, ht, Bool.not_true, Bool.false_eq_true, if_false, if_true, Option.isNone_some,
    bind, Except.bind]
  rfl

end

/-- rt.stat of a known handle stores its counts, and gives OK. -/
theorem State.PlainAccess.rtStat_stores {s : State} {d a : BitVec 5} {leaf : Leaf} {pa : Nat} (h : s.PlainAccess .write (s.g a) 64 leaf pa)
    (hblock : s.rtBlock true (s.g a) = .ok (s.blockAt pa, leaf, s.group pa)) (hok : Block.handleOk (s.blockAt pa) = true) {l : List Nat}
    (hl : s.rtStat (tileDie s.curTile) (s.blockAt pa) = some l) (h0 : 0 < l.length) (h7 : l.length ≤ 7)
    (hready : s.engReady (8 + (tileDie s.curTile).toNat) = true) : ∃ t, exec (.rtStat d a) s = .next t ∧
      s.CStores t leaf (pa + 8) (8 * l.length) (leNat (l.flatMap fun v => leBytes 8 v)) ∧
      t.ctl = { s.ctl.next with g := if d = 0 then s.ctl.g else s.ctl.g.set d.toNat (BitVec.ofNat 64 (0 * 2 ^ 32)) } := by
  obtain ⟨n, hn⟩ : ∃ n, n = leNat (l.flatMap fun v => leBytes 8 v) := ⟨_, rfl⟩
  have hstats := State.rtStats_writes hok hl hready (h.storesCounts h0 h7 (tileDie s.curTile))
  rw [← hn] at hstats ⊢
  have hdone := State.rtCommand_done (d := d) hblock (f := s.rtStats) hstats (by rw [s.cStored_fabric]; exact h.alone)
  refine ⟨_, congrArg Host.Outcome.next hdone, ?_, ?_⟩
  · simp only [State.result, State.cDone, State.setG, State.onCtl_onCtl]
    exact s.cStored_stores leaf (pa + 8) (8 * l.length) n _
  · rw [State.result_ctl, s.cStored_ctl]

/-- A command that opens a handle changes its die and its tile. -/
theorem State.rtCommand_takes {s : State} {d a : BitVec 5} {b : Block} {leaf : Leaf} {gpa id v : Nat} {pins : List Held} {z : Die}
    {answers : List Answer} {f : Block → Leaf → Nat → Res RtOut} (hb : s.rtBlock false (s.g a) = .ok (b, leaf, gpa))
    (hf : f b leaf gpa = .ok (s.handleTaken z answers id pins, 0, v)) (ha : ∀ x ∈ answers, x.who ≠ .stream s.curTile 0) :
    s.rtCommand d a false f = { s with
      nextOp := s.nextOp + 1
      dies := s.dies.set (tileDie s.curTile).toNat z
      fabric := { s.fabric with answers := answers }
      tiles := s.tiles.set s.curTile.toNat { s.tile s.curTile with
        opPins := (s.tile s.curTile).opPins ++ pins.map fun p => { op := id, pin := p }
        control := { s.ctl.next with g := if d = 0 then s.ctl.g else s.ctl.g.set d.toNat (BitVec.ofNat 64 (v * 2 ^ 32)) } } } :=
  (State.rtCommand_done hb hf ha).trans (s.result_die (s.nextOp + 1) z answers
    (fun t => { t with opPins := t.opPins ++ pins.map fun p => { op := id, pin := p } }) d _ rfl)

/-- The handle that rt.close closes, and its pins with it. -/
theorem State.closedRecv_spec (s : State) (f : Die → Die) (tn : BitVec 6) (p : OpPin → Bool) (d : BitVec 5) (v : W64) :
    let t := State.result ((s.onDie (tileDie s.curTile) f).onTile tn fun u => { u with opPins := u.opPins.filter p }) d v
    t.dies = s.dies.set (tileDie s.curTile).toNat (f (s.die (tileDie s.curTile))) ∧
      t.ctl = { s.ctl.next with g := if d = 0 then s.ctl.g else s.ctl.g.set d.toNat v } ∧
      (∀ u, t.tile u = { s.tile u with
        control := (t.tile u).control, opPins := if u = tn then (s.tile u).opPins.filter p else (s.tile u).opPins }) ∧
      t = { s with dies := t.dies, tiles := t.tiles } := by
  intro t
  obtain ⟨u, hu⟩ : ∃ u, u = (s.onDie (tileDie s.curTile) f).onTile tn fun u => { u with opPins := u.opPins.filter p } := ⟨_, rfl⟩
  have htile (z : BitVec 6) : u.tile z =
      { s.tile z with opPins := if z = tn then (s.tile z).opPins.filter p else (s.tile z).opPins } := by
    rw [hu]
    by_cases hz : z = tn
    · rw [hz, State.onTile_tile, if_pos rfl]; rfl
    · rw [State.onTile_other _ _ _ _ hz, if_neg hz]; rfl
  have hcur : u.curTile = s.curTile := by rw [hu]; rfl
  have hctl : u.ctl = s.ctl := by rw [State.ctl, hcur, htile]; rfl
  have ht : t = u.onCur fun x => { x with control := (x.control.setReg d v).next } := by
    rw [show t = u.result d v by rw [hu], State.result, State.cDone_eq, State.setG, State.onCtl]
    exact State.onCur_onCur _ _ _
  refine ⟨rfl, by rw [show t = u.result d v by rw [hu], State.result_ctl, hctl], fun z => ?_, rfl⟩
  by_cases hz : z = u.curTile
  · have hown : t.tile z = { u.tile z with control := (t.tile z).control } := by rw [ht, hz, State.onCur_tile]
    rw [hown, htile]
  · have hother : t.tile z = u.tile z := by rw [ht]; exact State.onTile_other _ _ _ _ hz
    rw [hother, htile]

/-- Settles O55: the block's checks decide the status; a command that they pass changes its die and its tile alone. -/
theorem routingCommands : Obligations.RoutingCommands := by
  intro s d a leaf pa pins p1 p2 es h g x tl dn y w f block rest withG holds only taken
  have hw : ∀ j < 8, Block.word (s.blockAt pa) j = w j := fun j hj => s.blockAt_word pa hj
  have hw0 := hw 0 (by decide)
  have hw1 := hw 1 (by decide)
  have hw2 := hw 2 (by decide)
  have hw3 := hw 3 (by decide)
  have hh : Block.handle (s.blockAt pa) = BitVec.ofNat 6 (f 0 5 0) := by rw [Block.handle, hw0]; rfl
  have hhn : (Block.handle (s.blockAt pa)).toNat = f 0 5 0 := by rw [Block.handle_toNat, hw0]; rfl
  have hrecv : y.recv (Block.handle (s.blockAt pa)) = y.recv (BitVec.ofNat 6 (f 0 5 0)) := by rw [hh]
  have hgn : y.sending ((Block.handle (s.blockAt pa)).setWidth 4) = y.sending (BitVec.ofNat 4 (f 0 5 0)) := by
    rw [Block.handle_send, hw0]; rfl
  have hroute := Block.routeOk_iff hw
  have hopen := Block.openOk_iff hw
  have hsend := Block.sendOk_iff hw
  have hhandle := Block.handleOk_iff hw
  have hunknown (hun : f 0 8 8 = 1 ∧ (y.recv (BitVec.ofNat 6 (f 0 5 0))).opened = false ∨
      f 0 8 8 = 0 ∧ (16 ≤ f 0 5 0 ∨ y.sending (BitVec.ofNat 4 (f 0 5 0)) = none)) : Block.unknown (s.blockAt pa) y := by
    rw [Block.unknown, hw0, hhn, hgn, hrecv]
    exact hun
  have hlist (hp : s.pinRanges s.curTile (s.root s.curTile) .read [(w 0, 16 * f 3 15 0)] [] = .ok p1) :
      s.pinRanges s.curTile (s.root s.curTile) .read [(Block.list (s.blockAt pa), 16 * Block.count (s.blockAt pa))] [] = .ok p1 := by
    rw [Block.list, Block.count, hw0, hw3]
    exact hp
  refine ⟨fun hr hacc hbad hready hrest h31 h63 => ?_, fun hr hacc hbad hready => ⟨⟨fun hok => ?_, fun hok => ?_⟩,
    ⟨fun hok => ?_, fun hok hl => ?_, fun hok hp1 hpins hlim => ?_⟩,
    ⟨fun hok => ?_, fun hok hp1 hes => ⟨fun hent => ?_, fun hent hkn => ?_, fun hent hkn hp2 hpins hlim => ?_⟩⟩,
    ⟨fun hacc' => ⟨fun hok => ?_, fun hok hun => ?_, fun hok h1 ho => ?_, fun hok h1 hlt hx => ?_⟩, fun hok => ?_, fun hok hun => ?_,
      fun hok h1 ho hs hq => ?_, fun hok h1 hlt hx => ⟨fun hu => ?_, fun hu => ?_⟩⟩⟩⟩
  all_goals
    have halone := hacc.alone
    have hblock := hacc.rtBlock hbad false nofun
  · exact State.rtCommand_only halone hblock (i := .rtRoute d a) rfl (State.rtRoute_full (hroute.2 ⟨hrest, h31, h63⟩) hready) (by decide)
  · exact State.rtCommand_only halone hblock (i := .rtRoute d a) rfl (State.rtRoute_bad (Bool.eq_false_iff.2 (mt hroute.1 hok))) (by decide)
  · have hdone := State.rtCommand_done (d := d) hblock (f := fun b _ _ => s.rtRoute b) (State.rtRoute_routes (hroute.2 hok) hready) halone
    refine congrArg Host.Outcome.next ((hdone.trans (s.onDie_result _ d _)).trans ?_)
    rw [Block.route, hw0]
    rfl
  · exact State.rtCommand_only halone hblock (i := .rtOpen d a) rfl (State.rtOpen_bad (.inl (Bool.eq_false_iff.2 (mt hopen.1 hok)))) (by decide)
  · exact State.rtCommand_only halone hblock (i := .rtOpen d a) rfl (State.rtOpen_bad (.inr (by rw [hw1]; exact hl))) (by decide)
  · have hpinned := State.rtOpen_pinned (hopen.2 hok) (by rw [Block.cap, Block.slotu, hw0, hw2]; exact hp1) (by rw [hw1]; exact hpins) hlim hready
    refine ⟨fun hfull => ?_, fun hfree ⟨i, hi⟩ => ?_, fun hfree hlow hsame => ?_⟩
    · exact State.rtCommand_only halone hblock (i := .rtOpen d a) rfl (hpinned.trans (State.opensRecv_full (Die.freeRecv_none hfull))) (by decide)
    · obtain ⟨k, hk⟩ := Die.freeRecv_exists hfree
      exact State.rtCommand_only halone hblock (i := .rtOpen d a) rfl
        (hpinned.trans (State.opensRecv_taken hk ((RecvHandle.taken_iff hw2 _).2 hi))) (by decide)
    · have htaken (i : Fin 64) : y.recvs[i].taken (s.blockAt pa) = false :=
        Bool.eq_false_iff.2 (mt (RecvHandle.taken_iff hw2 _).1 (hsame i))
      have hopens := State.opensRecv_opens (pins := pins) (Die.freeRecv_some hfree hlow) htaken rfl
      rw [State.newRecv, Block.expert, Block.cap, Block.slotu, Block.openPhase, hw2] at hopens
      exact congrArg Host.Outcome.next (State.rtCommand_takes hblock (f := fun b _ _ => s.rtOpen b) (hpinned.trans hopens)
        fun x hx => halone x (List.mem_of_mem_filter hx))
  · exact State.rtCommand_only halone hblock (i := .rtSend d a) rfl (State.rtSend_bad (Bool.eq_false_iff.2 (mt hsend.1 hok))) (by decide)
  · exact State.rtCommand_only halone hblock (i := .rtSend d a) rfl (State.rtSend_entry (hsend.2 hok) (hlist hp1) hes
      (List.all_eq_false.2 (hent.imp fun e he => ⟨he.1, mt (Entry.ok_iff e).1 he.2⟩))) (by decide)
  · exact State.rtCommand_only halone hblock (i := .rtSend d a) rfl
      (State.rtSend_unrouted (hsend.2 hok) (hlist hp1) hes
        (List.all_eq_true.2 fun e he => (Entry.ok_iff e).2 (hent e he))
        (List.all_eq_false.2 (hkn.imp fun e he => ⟨he.1, mt (Die.routed_iff y e).1 he.2⟩))) (by decide)
  · have hpinned := State.rtSend_pinned (hsend.2 hok) (hlist hp1) hes
      (List.all_eq_true.2 fun e he => (Entry.ok_iff e).2 (hent e he)) (List.all_eq_true.2 fun e he => (Die.routed_iff y e).2 (hkn e he))
      (by simp only [Block.payload, Block.pay, Block.pitchu, Block.len, hw1, hw3]; exact hp2)
      (by rw [Block.ovf, Block.count, hw2, hw3]; exact hpins) hlim hready
    refine ⟨fun hfull => ?_, fun hfree hlow => ?_⟩
    · exact State.rtCommand_only halone hblock (i := .rtSend d a) rfl (hpinned.trans (State.opensSend_full (Die.freeSend_none hfull))) (by decide)
    · exact congrArg Host.Outcome.next (State.rtCommand_takes hblock (f := fun b _ _ => s.rtSend b)
        (hpinned.trans (State.opensSend_opens (Die.freeSend_some hfree hlow))) halone)
  · exact State.rtCommand_only halone (hacc.rtBlock hbad true fun _ => hacc') (i := .rtStat d a) (f := s.rtStats) rfl
      (State.rtStats_bad (Bool.eq_false_iff.2 (mt hhandle.1 hok))) (by decide)
  · exact State.rtCommand_only halone (hacc.rtBlock hbad true fun _ => hacc') (i := .rtStat d a) (f := s.rtStats) rfl
      (State.rtStats_unknown (hhandle.2 hok) (hunknown hun)) (by decide)
  · exact hacc'.rtStat_stores (hacc.rtBlock hbad true fun _ => hacc') (hhandle.2 hok) (State.rtStat_recv (by rw [hw0]; exact h1) hrecv ho)
      (by simp) (by simp) hready
  · have hstat := State.rtStat_send (by rw [hw0]; exact h1) (hhn ▸ hlt) (hgn.trans hx)
    rw [x.unack_eq] at hstat
    exact hacc'.rtStat_stores (hacc.rtBlock hbad true fun _ => hacc') (hhandle.2 hok) hstat (by simp) (by simp) hready
  · exact State.rtCommand_only halone hblock (i := .rtClose d a) rfl (State.rtClose_bad (Bool.eq_false_iff.2 (mt hhandle.1 hok))) (by decide)
  · exact State.rtCommand_only halone hblock (i := .rtClose d a) rfl (State.rtClose_unknown (hhandle.2 hok) (hunknown hun)) (by decide)
  · have hclose := State.rtClose_recv (hhandle.2 hok) hready (by rw [hw0]; exact h1) hrecv ho hs hq
    have hdone := State.rtCommand_done (d := d) hblock (f := fun b _ _ => s.rtClose b) hclose halone
    obtain ⟨hdies, hctl, htile, hframe⟩ := s.closedRecv_spec
      (fun z => z.setRecv (Block.handle (s.blockAt pa)) { z.recv (Block.handle (s.blockAt pa)) with opened := false, pins := [] })
      (y.recv (BitVec.ofNat 6 (f 0 5 0))).tile (fun z => z.op != (y.recv (BitVec.ofNat 6 (f 0 5 0))).id) d
      (BitVec.ofNat 64 ((y.recv (BitVec.ofNat 6 (f 0 5 0))).accept * 2 ^ 32))
    refine ⟨_, congrArg Host.Outcome.next hdone, hdies.trans ?_, hctl, htile, hframe⟩
    rw [hh]
  · exact State.rtCommand_only halone hblock (i := .rtClose d a) rfl
      (State.rtClose_unacked (hhandle.2 hok) (by rw [hw0]; exact h1) (hhn ▸ hlt) (hgn.trans hx) (x.unack_eq ▸ hu)) (by decide)
  · have hclose := State.rtClose_send (hhandle.2 hok) hready (by rw [hw0]; exact h1) (hhn ▸ hlt) (hgn.trans hx) (x.unack_eq ▸ hu)
    have hdone := State.rtCommand_done (d := d) hblock (f := fun b _ _ => s.rtClose b) hclose halone
    rw [s.onDie_result, Block.handle_send, hw0] at hdone
    exact congrArg Host.Outcome.next hdone

end Sys2Proof.Machine

/-! ## The V stream: element-wise words and float arithmetic (R111, R124, R150) -/

namespace Sys2Proof.Machine

/-! ### A word of a block stream that takes effect -/

/-- A word whose effect is one change of its stream's tile ends, and nothing else of the package differs. -/
theorem State.BlockTurn.ends {s : State} {tn : BitVec 6} {x : BStream} (h : s.BlockTurn tn x) (c l : Nat) {f : BitVec 6 → BStream → State → Res State}
    {v : Tile} (hf : f tn x (s.setTile tn ((s.tile tn).atIssue x)) = .ok (s.setTile tn v)) : s.BlockEnds (s.blockIssue c l f) tn x c l v := by
  have hclock : ¬(((s.tile tn).stream x).exposed && (s.tile tn).frozenAt ((s.tile tn).stream x).nextTc) = true := by
    rcases h.clock with h | h <;> simp [h]
  have hissue : s.blockIssue c l f = s.setTile tn (v.issued x c l) := by
    unfold State.blockIssue
    rw [State.block?, h.cur]
    dsimp only
    rw [if_neg hclock, State.onTile, hf]
    dsimp only
    rw [State.dropReads_none (by exact h.alone), State.onTile, State.setTile_tile, State.setTile_setTile]
  rw [hissue]
  exact s.setTile_becomes tn _

/-- A V word that touches only its tile. -/
theorem State.BlockTurn.gives {s : State} {tn : BitVec 6} (h : s.BlockTurn tn .v) (c l : Nat) {f : Tile → Bool → Res VEffect} {u : Tile}
    {ws : List Late} {fl : Flags} (hf : f ((s.tile tn).atIssue .v) ((s.tile tn).atIssue .v).v.exposed = .ok (u, ws, fl)) :
    s.VGives (s.vIssue c l f) tn c l u ws fl := by
  apply h.ends c l
  rw [State.setTile_tile]
  show (f _ ((s.tile tn).atIssue .v).v.exposed >>= _) = _
  rw [hf]
  show Except.ok ((s.setTile tn _).setTile tn _) = _
  rw [State.setTile_setTile]

/-! ### Elements and draws (R111, R124) -/

theorem drawsIn_succ (w : Nat) (written : Nat → Bool) (n j : Nat) :
    drawsIn w written (n + 1) j = drawsIn w written n j + if (written n && n * w / 32 == j) = true then 1 else 0 := by
  rw [drawsIn, List.range_succ, List.filter_append, List.length_append, List.filter_singleton]
  congr 1
  cases written n && n * w / 32 == j <;> rfl

/-- The seeds after the first n elements have drawn. -/
def seedsBefore (w : Nat) (sr : Bool) (written : Nat → Bool) (seeds : Vector W32 64) (n : Nat) : Vector W32 64 :=
  if sr = true then Vector.ofFn fun (j : Fin 64) => nextSeed^[drawsIn w written n j] seeds[j] else seeds

theorem seedsBefore_zero (w : Nat) (sr : Bool) (written : Nat → Bool) (seeds : Vector W32 64) : seedsBefore w sr written seeds 0 = seeds := by
  unfold seedsBefore
  split
  · ext j hj
    simp [drawsIn]
  · rfl

theorem seedsBefore_skip {w : Nat} {sr : Bool} {written : Nat → Bool} (seeds : Vector W32 64) {n : Nat} (h : written n = false) :
    seedsBefore w sr written seeds (n + 1) = seedsBefore w sr written seeds n := by
  simp only [seedsBefore, drawsIn_succ, h, Bool.false_and, Bool.false_eq_true, if_false, Nat.add_zero]

theorem seedsBefore_getElem (w : Nat) (written : Nat → Bool) (seeds : Vector W32 64) (n : Nat) {j : Nat} (hj : j < 64) :
    (seedsBefore w true written seeds n)[j] = nextSeed^[drawsIn w written n j] seeds[j] := by
  simp only [seedsBefore, if_true, Vector.getElem_ofFn]
  rfl

/-- Element n draws from its lane what `drawOf` says, and leaves the lane its next seed. -/
theorem drawLane_seedsBefore {w : Nat} {written : Nat → Bool} (seeds : Vector W32 64) {n : Nat} (h : written n = true) (hlane : n * w / 32 < 64) :
    drawLane (seedsBefore w true written seeds n) (n * w / 32) = (seedsBefore w true written seeds (n + 1), drawOf w written seeds n) := by
  have hcount : drawsIn w written (n + 1) (n * w / 32) = drawsIn w written n (n * w / 32) + 1 := by
    rw [drawsIn_succ, h, Bool.true_and, beq_self_eq_true, if_pos rfl]
  have hseed : drawSeed (seedsBefore w true written seeds n)[n * w / 32] =
      nextSeed^[drawsIn w written (n + 1) (n * w / 32)] seeds[n * w / 32] := by
    rw [seedsBefore_getElem w written seeds n hlane, hcount, Function.iterate_succ_apply']
    rfl
  have hseeds : (seedsBefore w true written seeds n).set (n * w / 32) (nextSeed^[drawsIn w written (n + 1) (n * w / 32)] seeds[n * w / 32]) =
      seedsBefore w true written seeds (n + 1) := by
    refine Vector.ext fun j hj => ?_
    rw [Vector.getElem_set, seedsBefore_getElem w written seeds n hj, seedsBefore_getElem w written seeds (n + 1) hj, drawsIn_succ w written n j, h,
      Bool.true_and]
    split
    · next hlane => subst hlane; rw [hcount, beq_self_eq_true, if_pos rfl]
    · next hlane => rw [if_neg (by simpa using hlane), Nat.add_zero]
  have hdraw : drawOf w written seeds n = (nextSeed^[drawsIn w written (n + 1) (n * w / 32)] seeds[n * w / 32]).toNat / 65536 := by
    simp only [drawOf, Nat.mod_eq_of_lt hlane]
  rw [drawLane, dif_pos hlane]
  dsimp only
  rw [hseed, hseeds, hdraw]

/-- What element e draws: nothing but under SR. -/
def drawFor (w : Nat) (sr : Bool) (written : Nat → Bool) (seeds : Vector W32 64) (e : Nat) : Nat := if sr = true then drawOf w written seeds e else 0

theorem drawStep_eq {w : Nat} (sr : Bool) {written : Nat → Bool} (seeds : Vector W32 64) {n : Nat} (h : written n = true) (hlane : n * w / 32 < 64) :
    (if sr = true then drawLane (seedsBefore w sr written seeds n) (n * w / 32) else (seedsBefore w sr written seeds n, 0)) =
      (seedsBefore w sr written seeds (n + 1), drawFor w sr written seeds n) := by
  cases sr with
  | false => simp only [seedsBefore, drawFor, Bool.false_eq_true, if_false]
  | true => simp only [drawFor, if_true, drawLane_seedsBefore seeds h hlane]

/-- The first n elements of a destination, each governed one computed with its draw, their flags, and the seeds after them. -/
def elemsBefore (w : Nat) (sr : Bool) (gov : Nat → Bool) (old : Nat → Nat) (f : Nat → Nat → Nat × Flags) (seeds : Vector W32 64) (n : Nat) :
    List Nat × Flags × Vector W32 64 :=
  ((List.range n).map fun e => if gov e = true then (f e (drawFor w sr gov seeds e)).1 else old e,
    (List.range n).foldl (fun fl e => if gov e = true then fl ||| (f e (drawFor w sr gov seeds e)).2 else fl) 0,
    seedsBefore w sr gov seeds n)

theorem mapElems_eq {n w : Nat} (sr : Bool) (gov : Nat → Bool) (old : Nat → Nat) (f : Nat → Nat → Nat × Flags) (seeds : Vector W32 64)
    (hw : 0 < w) (h : n * w ≤ 2048) : mapElems n w sr gov old f seeds = elemsBefore w sr gov old f seeds n := by
  have hfold : (List.range n).foldl (init := (([] : List Nat), (0 : Flags), seeds)) (fun acc e =>
      if gov e then
        let d := if sr then drawLane acc.2.2 (w * e / 32) else (acc.2.2, 0)
        let y := f e d.2
        (y.1 :: acc.1, acc.2.1 ||| y.2, d.1)
      else (old e :: acc.1, acc.2.1, acc.2.2)) =
      ((elemsBefore w sr gov old f seeds n).1.reverse, (elemsBefore w sr gov old f seeds n).2) := by
    unfold elemsBefore
    induction n with
    | zero => rw [seedsBefore_zero]; rfl
    | succ n ih =>
      rw [Nat.succ_mul] at h
      rw [List.range_succ, List.foldl_append, ih (by omega), List.foldl_append, List.map_append, List.reverse_append]
      by_cases hg : gov n = true
      · simp only [List.foldl_cons, List.foldl_nil, hg, if_true, drawStep_eq sr seeds hg (by omega : n * w / 32 < 64), Nat.mul_comm w n,
          List.map_cons, List.map_nil, List.reverse_cons, List.reverse_nil, List.nil_append, List.cons_append]
      · rw [Bool.not_eq_true] at hg
        simp only [List.foldl_cons, List.foldl_nil, hg, seedsBefore_skip seeds hg, Bool.false_eq_true, if_false,
          List.map_cons, List.map_nil, List.reverse_cons, List.reverse_nil, List.nil_append, List.cons_append]
  show (_, _, _) = _
  rw [upto, hfold, List.reverse_reverse]

/-! ### Element-wise words (R143, R150) -/

/-- What an element-wise word does to its tile when its queues allow it. -/
theorem Tile.vmap_ok {t taken : Tile} {peek : Bool} {srcs : List (BitVec 5)} {d : BitVec 5} (h : t.takeSources peek srcs [d] = .ok taken)
    {w : Nat} (hw : 0 < w) (sr : Bool) (p : PReg) (f : Nat → Nat → Nat × Flags) :
    t.vmap peek srcs d w sr (governed p w) f =
      .ok ({ taken with seeds := if sr = true then seedsAfter w (governed p w) t.seeds else t.seeds },
        [toDest d (governedBy w p (t.vold d) fun e => (f e (drawFor w sr (governed p w) t.seeds e)).1)],
        flagsOf w p fun e => (f e (drawFor w sr (governed p w) t.seeds e)).2) := by
  have helems := mapElems_eq sr (governed p w) (elem w (t.vold d)) f t.seeds hw (Nat.div_mul_le_self 2048 w)
  rw [Tile.vmap, h, countOf]
  show Except.ok _ = _
  rw [helems]
  rfl

/-- A word that computes the elements of d by f meets the statement of its form. -/
theorem State.BlockTurn.elements {s : State} {tn : BitVec 6} (h : s.BlockTurn tn .v) {d : BitVec 5} {w : Nat} (hw : 0 < w) {p : BitVec 3}
    {q : VForm} (sr : Bool) (f : Tile → Bool → Nat → Nat → Nat × Flags)
    (hexec : exec q.instr s = .next (s.vIssue 1 q.latency fun tl flush => tl.vmap q.peek q.sources d w sr (governed (tl.preg p) w) (f tl flush)))
    (hvalue : ∀ e, f ((s.tile tn).atIssue .v) ((s.tile tn).atIssue .v).v.exposed e
      (drawFor w sr (governed (((s.tile tn).atIssue .v).preg p) w) ((s.tile tn).atIssue .v).seeds e) = q.value e) :
    s.VElements tn d w p (if sr = true then seedsAfter w (governed (((s.tile tn).atIssue .v).preg p) w) ((s.tile tn).atIssue .v).seeds
      else ((s.tile tn).atIssue .v).seeds) q := by
  intro taken htaken
  refine ⟨_, hexec, h.gives 1 q.latency ?_⟩
  rw [Tile.vmap_ok htaken hw]
  simp only [hvalue]

theorem tyWidth_float {t : BitVec 4} (h : t.toNat ≤ 2) : tyWidth t = if t = 0 then 32 else 16 := by
  revert t; decide

theorem floatOf_float {t : BitVec 4} (h : t.toNat ≤ 2) : floatOf t = if t = 0 then f32 else if t = 1 then bf16 else f16 := by
  revert t; decide

theorem isFloatTy_float {t : BitVec 4} (h : t.toNat ≤ 2) : isFloatTy t = true := decide_eq_true h

/-- The exact result of the values, rounded once to the format (R122, R150). -/
theorem arithElem_float {t : BitVec 4} (h : t.toNat ≤ 2) (op : VArith) (m : BitVec 4) (flush : Bool) (draw a b d : Nat) :
    arithElem op t m flush draw a b d =
      let f := floatOf t
      let v := arithFloat op (m.toNat % 8) (f.value flush a) (f.value flush b) (f.value flush d)
      ((f.convert (m.toNat % 8) false flush draw v.1).1, v.2 ||| (f.convert (m.toNat % 8) false flush draw v.1).2) := by
  rw [arithElem, isFloatTy_float h]
  rfl

/-- Settles O31: a form's element is the exact result of the values, rounded with the draw that R124 gives the element. -/
theorem vectorFloats : Obligations.VectorFloats := by
  intro s tn d a b p t m hturn ht _ w f mode tl flush pr gov draw seeds va vb vd rounded q hq
  have hw : tyWidth t = w := tyWidth_float ht
  have hf : floatOf t = f := floatOf_float ht
  have hpos : 0 < w := by show 0 < if t = 0 then 32 else 16; split <;> decide
  have hadd : addLatency t = 4 := if_pos (isFloatTy_float ht)
  have harith (op : VArith) (i : Instr) (l : Nat) (hexec : exec i s = .next (s.vArith op l d a b p t m)) : s.VElements tn d w p seeds
      ⟨i, m.getLsbD 3, [a, b], l, fun e => rounded e (arithFloat op mode (va e) (vb e) (vd e))⟩ := by
    clear_value w f
    subst hw hf
    have h := hturn.elements hpos (d := d) (p := p) (q := ⟨i, m.getLsbD 3, [a, b], l, fun e => rounded e (arithFloat op mode (va e) (vb e) (vd e))⟩)
      (isFloatTy t && m.toNat % 8 == 2)
      (fun tl flush e draw => arithElem op t m flush draw (elem (tyWidth t) (tl.vread a) e) (elem (tyWidth t) (tl.vread b) e)
        (elem (tyWidth t) (tl.vold d) e))
      hexec fun e => ?_
    · simp only [isFloatTy_float ht, Bool.true_and, beq_iff_eq] at h
      exact h
    · rw [arithElem_float ht]
      simp only [drawFor, isFloatTy_float ht, Bool.true_and, beq_iff_eq]
      rfl
  simp only [List.mem_cons, List.not_mem_nil, or_false] at hq
  rcases hq with rfl | rfl | rfl | rfl | rfl
  · exact harith .add _ _ (hadd ▸ rfl)
  · exact harith .sub _ _ (hadd ▸ rfl)
  · exact harith .mul _ _ rfl
  · exact harith .fma _ _ rfl
  · exact harith .fms _ _ rfl

end Sys2Proof.Machine

/-! ## Rounding: exact operations, encodings, and the one rounding (R112, R121, R122, R127, R161) -/

namespace Sys2Proof.Machine

/-! ### Exact operations -/

theorem Val.rat_fin (neg : Bool) {n d : Nat} (h : d ≠ 0) : (Val.fin neg n d).rat = some ((if neg then -1 else 1) * (n : ℚ) / d) := if_neg h

theorem Val.rat_eq_some {v : Val} {q : ℚ} (h : v.rat = some q) :
    ∃ neg n d, v = .fin neg n d ∧ d ≠ 0 ∧ q = (if neg then -1 else 1) * (n : ℚ) / d := by
  cases v with
  | nan b => cases h
  | inf b => cases h
  | fin neg n d =>
    by_cases hd : d = 0
    · rw [Val.rat, if_pos hd] at h; cases h
    · rw [Val.rat_fin neg hd] at h
      exact ⟨neg, n, d, rfl, hd, (Option.some.inj h).symm⟩

/-- The numerator of a value with its sign. -/
def signedNum (neg : Bool) (n : Nat) : Int := if neg then -(n : Int) else n

theorem signedNum_cast (neg : Bool) (n : Nat) : (signedNum neg n : ℚ) = (if neg then -1 else 1) * n := by
  cases neg <;> simp [signedNum]

theorem Val.rat_ofInt (t : Int) {d : Nat} (h : d ≠ 0) : (Val.fin (decide (t < 0)) t.natAbs d).rat = some ((t : ℚ) / d) := by
  rw [Val.rat_fin _ h, ← signedNum_cast, show signedNum (decide (t < 0)) t.natAbs = t from ?_]
  unfold signedNum
  simp only [decide_eq_true_eq]
  split <;> omega

theorem Val.rat_one : (Val.fin false 1 1).rat = some 1 := by simp [Val.rat]

theorem Val.rat_zero (neg : Bool) : (Val.fin neg 0 1).rat = some 0 := by simp [Val.rat]

theorem Val.flip_rat {v : Val} {q : ℚ} (h : v.rat = some q) : v.flip.rat = some (-q) := by
  obtain ⟨neg, n, d, rfl, hd, rfl⟩ := Val.rat_eq_some h
  rw [Val.flip, Val.rat_fin _ hd]
  cases neg <;> simp [neg_div]

theorem addVal_fin (mode : Nat) (x y : Bool) (n m : Nat) {d e : Nat} (hd : d ≠ 0) (he : e ≠ 0) :
    (addVal mode (.fin x n d) (.fin y m e)).1.rat = some ((signedNum x n : ℚ) / d + (signedNum y m : ℚ) / e) ∧
    (addVal mode (.fin x n d) (.fin y m e)).2 = 0 := by
  have hsum : (signedNum x n : ℚ) / d + (signedNum y m : ℚ) / e = ((signedNum x n * e + signedNum y m * d : Int) : ℚ) / (d * e : Nat) := by
    push_cast; field_simp
  have hdef : addVal mode (.fin x n d) (.fin y m e) = if signedNum x n * e + signedNum y m * d = 0
      then (.fin (if n = 0 ∧ m = 0 ∧ x = y then x else mode == 3) 0 1, 0)
      else (.fin (decide (signedNum x n * e + signedNum y m * d < 0)) (signedNum x n * e + signedNum y m * d).natAbs (d * e), 0) := rfl
  rw [hsum, hdef]
  split
  · next h0 => exact ⟨by rw [Val.rat_zero, h0]; simp, rfl⟩
  · exact ⟨Val.rat_ofInt _ (Nat.mul_ne_zero hd he), rfl⟩

theorem addVal_rat (mode : Nat) {x y : Val} {a b : ℚ} (hx : x.rat = some a) (hy : y.rat = some b) :
    (addVal mode x y).1.rat = some (a + b) ∧ (addVal mode x y).2 = 0 := by
  obtain ⟨s, n, d, rfl, hd, rfl⟩ := Val.rat_eq_some hx
  obtain ⟨s', n', d', rfl, hd', rfl⟩ := Val.rat_eq_some hy
  rw [← signedNum_cast, ← signedNum_cast]
  exact addVal_fin mode s s' n n' hd hd'

theorem mulVal_rat {x y : Val} {a b : ℚ} (hx : x.rat = some a) (hy : y.rat = some b) :
    (mulVal x y).1.rat = some (a * b) ∧ (mulVal x y).2 = 0 := by
  obtain ⟨s, n, d, rfl, hd, rfl⟩ := Val.rat_eq_some hx
  obtain ⟨s', n', d', rfl, hd', rfl⟩ := Val.rat_eq_some hy
  refine ⟨?_, rfl⟩
  rw [mulVal, Val.rat_fin _ (Nat.mul_ne_zero hd hd')]
  cases s <;> cases s' <;> simp [div_mul_div_comm]

theorem fmaVal_rat (mode : Nat) {x y z : Val} {a b c : ℚ} (hx : x.rat = some a) (hy : y.rat = some b) (hz : z.rat = some c) :
    (fmaVal mode x y z).1.rat = some (a * b + c) ∧ (fmaVal mode x y z).2 = 0 := by
  obtain ⟨hp, hpf⟩ := mulVal_rat hx hy
  obtain ⟨hq, hqf⟩ := addVal_rat mode hp hz
  exact ⟨hq, by rw [fmaVal, hpf, hqf]; rfl⟩

theorem dyadic_rat (neg : Bool) (m : Nat) (e : Int) : ∃ n d, dyadic neg m e = .fin neg n d ∧ 0 < d ∧ (n : ℚ) / d = m * 2 ^ e := by
  unfold dyadic
  split
  · next h =>
    obtain ⟨k, rfl⟩ := Int.eq_ofNat_of_zero_le h
    exact ⟨_, _, rfl, Nat.one_pos, by simp⟩
  · next h =>
    obtain ⟨k, rfl⟩ : ∃ k : Nat, e = -k := ⟨(-e).toNat, by omega⟩
    exact ⟨_, _, rfl, Nat.two_pow_pos _, by simp [div_eq_mul_inv]⟩

/-! ### Logarithms of fractions -/

/-- The numerator of a fraction over 2^x. -/
def scaledNum (n : Nat) (x : Int) : Nat := if 0 ≤ x then n else n * 2 ^ (-x).toNat
/-- The denominator of a fraction over 2^x. -/
def scaledDen (d : Nat) (x : Int) : Nat := if 0 ≤ x then d * 2 ^ x.toNat else d

theorem scaledDen_pos {d : Nat} (h : 0 < d) (x : Int) : 0 < scaledDen d x := by
  unfold scaledDen
  split
  · exact Nat.mul_pos h (Nat.two_pow_pos _)
  · exact h

theorem scaled_div (n d : Nat) (x : Int) : (scaledNum n x : ℚ) / scaledDen d x = (n : ℚ) / d / 2 ^ x := by
  unfold scaledNum scaledDen
  split
  · next h =>
    obtain ⟨k, rfl⟩ := Int.eq_ofNat_of_zero_le h
    push_cast [Int.toNat_natCast, zpow_natCast]
    rw [div_div]
  · next h =>
    obtain ⟨k, rfl⟩ : ∃ k : Nat, x = -k := ⟨(-x).toNat, by omega⟩
    push_cast [neg_neg, Int.toNat_natCast, zpow_neg, zpow_natCast]
    rw [div_inv_eq_mul, div_mul_eq_mul_div]

theorem scaled_lt_iff (n : Nat) {d : Nat} (hd : 0 < d) (x : Int) : scaledNum n x < scaledDen d x ↔ (n : ℚ) / d < 2 ^ x := by
  have hD : (0 : ℚ) < scaledDen d x := by exact_mod_cast scaledDen_pos hd x
  rw [← Nat.cast_lt (α := ℚ), ← div_lt_one hD, scaled_div, div_lt_one (by positivity)]

theorem log_eq_of_bounds {q : ℚ} {e : Int} (h1 : (2 : ℚ) ^ e ≤ q) (h2 : q < 2 ^ (e + 1)) : Int.log 2 q = e := by
  have hq : 0 < q := lt_of_lt_of_le (by positivity) h1
  have hle : e ≤ Int.log 2 q := (Int.zpow_le_iff_le_log one_lt_two hq).1 (by exact_mod_cast h1)
  have hlt : Int.log 2 q < e + 1 := (Int.lt_zpow_iff_log_lt one_lt_two hq).1 (by exact_mod_cast h2)
  omega

theorem zpow_log_le {q : ℚ} (h : 0 < q) : (2 : ℚ) ^ Int.log 2 q ≤ q := by exact_mod_cast Int.zpow_log_le_self one_lt_two h

theorem lt_zpow_log_succ (q : ℚ) : q < 2 ^ (Int.log 2 q + 1) := by exact_mod_cast Int.lt_zpow_succ_log_self one_lt_two q

/-- The estimate from the lengths of the two numbers is one too high at most. -/
theorem log2_div_bounds {n d : Nat} (hn : 0 < n) (hd : 0 < d) :
    (2 : ℚ) ^ ((Nat.log2 n : Int) - Nat.log2 d - 1) ≤ (n : ℚ) / d ∧ (n : ℚ) / d < 2 ^ ((Nat.log2 n : Int) - Nat.log2 d + 1) := by
  have cast (k : Nat) (hk : 0 < k) : (2 : ℚ) ^ (Nat.log2 k : Int) ≤ k ∧ (k : ℚ) < 2 ^ ((Nat.log2 k : Int) + 1) :=
    ⟨by exact_mod_cast Nat.log2_self_le hk.ne', by exact_mod_cast Nat.lt_log2_self⟩
  obtain ⟨hn1, hn2⟩ := cast n hn
  obtain ⟨hd1, hd2⟩ := cast d hd
  have hd0 : (0 : ℚ) < d := by exact_mod_cast hd
  constructor
  · rw [le_div_iff₀ hd0]
    calc (2 : ℚ) ^ ((Nat.log2 n : Int) - Nat.log2 d - 1) * d ≤ 2 ^ ((Nat.log2 n : Int) - Nat.log2 d - 1) * 2 ^ ((Nat.log2 d : Int) + 1) := by gcongr
      _ = 2 ^ (Nat.log2 n : Int) := by rw [← zpow_add₀ two_ne_zero]; congr 1; ring
      _ ≤ n := hn1
  · rw [div_lt_iff₀ hd0]
    calc (n : ℚ) < 2 ^ ((Nat.log2 n : Int) + 1) := hn2
      _ = 2 ^ ((Nat.log2 n : Int) - Nat.log2 d + 1) * 2 ^ (Nat.log2 d : Int) := by rw [← zpow_add₀ two_ne_zero]; congr 1; ring
      _ ≤ _ := by gcongr

/-- `floorLog2` is the logarithm of the quotient, rounded down. -/
theorem floorLog2_eq_log {n d : Nat} (hn : 0 < n) (hd : 0 < d) : floorLog2 n d = Int.log 2 ((n : ℚ) / d) := by
  have hdef : floorLog2 n d = if scaledNum n ((Nat.log2 n : Int) - Nat.log2 d) < scaledDen d ((Nat.log2 n : Int) - Nat.log2 d)
      then (Nat.log2 n : Int) - Nat.log2 d - 1 else (Nat.log2 n : Int) - Nat.log2 d := by
    unfold floorLog2 scaledNum scaledDen
    simp only
    split <;> simp only [*, decide_eq_true_eq]
  obtain ⟨hlow, hhigh⟩ := log2_div_bounds hn hd
  rw [hdef]
  split
  · next h => exact (log_eq_of_bounds hlow (by rwa [sub_add_cancel, ← scaled_lt_iff n hd])).symm
  · next h => exact (log_eq_of_bounds (not_lt.1 (mt (scaled_lt_iff n hd _).2 h)) hhigh).symm

/-! ### exp2 and log2 -/

theorem exp2Val_int {n : Int} {neg : Bool} {a d : Nat} (hd : d ≠ 0) (h : (if neg then -1 else 1) * (a : ℚ) / d = n) (hn : |n| ≤ 300) :
    (exp2Val neg a d).rat = some ((2 : ℚ) ^ n) := by
  have ht : signedNum neg a = n * d := by
    have : (signedNum neg a : ℚ) = (n * d : Int) := by
      rw [signedNum_cast]; push_cast; rwa [div_eq_iff (by exact_mod_cast hd)] at h
    exact_mod_cast this
  obtain ⟨hlow, hhigh⟩ := abs_le.1 hn
  have hq : signedNum neg a / d = n := by rw [ht]; exact Int.mul_ediv_cancel _ (by exact_mod_cast hd)
  have hr : (signedNum neg a % (d : Int)).toNat = 0 := by rw [ht, Int.mul_emod_left]; rfl
  have hval : exp2Val neg a d = dyadic false 1 n := by
    show (if signedNum neg a / (d : Int) > 300 then _ else if signedNum neg a / (d : Int) < -300 then _
      else if (signedNum neg a % (d : Int)).toNat = 0 then dyadic false 1 (signedNum neg a / (d : Int)) else _) = _
    rw [if_neg (by omega), if_neg (by omega), if_pos hr, hq]
  obtain ⟨m, e, hfin, he, hrat⟩ := dyadic_rat false 1 n
  rw [hval, hfin, Val.rat_fin _ he.ne']
  simpa using hrat

theorem log2Val_pow {n : Int} {a d : Nat} (ha : 0 < a) (hd : 0 < d) (h : (a : ℚ) / d = 2 ^ n) : (log2Val a d).rat = some (n : ℚ) := by
  have hlog : floorLog2 a d = n := by
    rw [floorLog2_eq_log ha hd, h]
    exact log_eq_of_bounds le_rfl (zpow_lt_zpow_right₀ one_lt_two (lt_add_one n))
  have hscaled : scaledNum a n = scaledDen d n := by
    have hD : (scaledDen d n : ℚ) ≠ 0 := by exact_mod_cast (scaledDen_pos hd n).ne'
    have : (scaledNum a n : ℚ) / scaledDen d n = 1 := by rw [scaled_div, h, div_self (by positivity)]
    exact_mod_cast (div_eq_one_iff_eq hD).1 this
  have hm : (if 0 ≤ n then a * 2 ^ 256 / (d * 2 ^ n.toNat) else a * 2 ^ (-n).toNat * 2 ^ 256 / d) = 2 ^ 256 := by
    have hsplit : (if 0 ≤ n then a * 2 ^ 256 / (d * 2 ^ n.toNat) else a * 2 ^ (-n).toNat * 2 ^ 256 / d) =
        scaledNum a n * 2 ^ 256 / scaledDen d n := by
      unfold scaledNum scaledDen
      split <;> rfl
    rw [hsplit, hscaled]
    exact Nat.mul_div_cancel_left _ (scaledDen_pos hd n)
  have hval : log2Val a d = .fin (decide (n < 0)) n.natAbs 1 := by
    unfold log2Val
    rw [hlog]
    exact if_pos hm
  rw [hval, Val.rat_ofInt _ one_ne_zero, Nat.cast_one, div_one]

/-- R161: what the functions give a finite value exactly. -/
theorem sfuVal_rat {x : Val} {q : ℚ} (h : x.rat = some q) :
    (q = 0 → sfuVal 0 x = (.inf x.neg, flagDZ) ∧ sfuVal 1 x = (.inf x.neg, flagDZ) ∧ (sfuVal 2 x).1.rat = some 1 ∧ sfuVal 3 x = (.inf true, flagDZ)) ∧
    (q ≠ 0 → (sfuVal 0 x).1.rat = some (1 / q) ∧ (sfuVal 0 x).2 = 0) ∧
    (q < 0 → sfuVal 1 x = (.nan false, flagNV) ∧ sfuVal 3 x = (.nan false, flagNV)) ∧
    (∀ n : Int, q = n → |n| ≤ 300 → (sfuVal 2 x).1.rat = some ((2 : Rat) ^ n)) ∧
    (∀ n : Int, q = (2 : Rat) ^ n → (sfuVal 3 x).1.rat = some (n : Rat)) := by
  obtain ⟨neg, a, d, rfl, hd, rfl⟩ := Val.rat_eq_some h
  have hd0 : (d : ℚ) ≠ 0 := by exact_mod_cast hd
  have hzero : (if neg then -1 else 1) * (a : ℚ) / d = 0 ↔ a = 0 := by
    cases neg <;> simp [hd0]
  have hsign : (if neg then -1 else 1) * (a : ℚ) / d = if neg then -((a : ℚ) / d) else (a : ℚ) / d := by
    cases neg <;> simp [neg_div]
  have hmag : 0 ≤ (a : ℚ) / d := by positivity
  refine ⟨fun h0 => ?_, fun h0 => ?_, fun hlt => ?_, fun n hn hle => ?_, fun n hn => ?_⟩
  · rw [hzero.1 h0]
    exact ⟨rfl, rfl, Val.rat_one, rfl⟩
  · have ha := mt hzero.2 h0
    have hval : sfuVal 0 (.fin neg a d) = (.fin neg d a, 0) := if_neg ha
    rw [hval, Val.rat_fin _ ha]
    refine ⟨?_, rfl⟩
    cases neg <;> simp [neg_div]
  · have ha := mt hzero.2 hlt.ne
    obtain rfl : neg = true := by
      cases neg with
      | true => rfl
      | false => exact absurd (hsign.symm.trans_lt hlt) (not_lt.2 hmag)
    exact ⟨(if_neg ha).trans (if_pos rfl), (if_neg ha).trans (if_pos rfl)⟩
  · by_cases ha : a = 0
    · have hn0 : n = 0 := by exact_mod_cast hn.symm.trans (hzero.2 ha)
      have hval : sfuVal 2 (.fin neg a d) = (.fin false 1 1, 0) := if_pos ha
      rw [hval, hn0, zpow_zero]
      exact Val.rat_one
    · have hval : sfuVal 2 (.fin neg a d) = (exp2Val neg a d, 0) := if_neg ha
      rw [hval]
      exact exp2Val_int hd hn hle
  · have hpos : 0 < (if neg then -1 else 1) * (a : ℚ) / d := hn ▸ by positivity
    have ha := mt hzero.2 hpos.ne'
    obtain rfl : neg = false := by
      cases neg with
      | false => rfl
      | true => exact absurd (hpos.trans_eq hsign) (not_lt.2 (neg_nonpos.2 hmag))
    have hval : sfuVal 3 (.fin false a d) = (log2Val a d, 0) := (if_neg ha).trans (if_neg Bool.false_ne_true)
    rw [hval]
    exact log2Val_pow (Nat.pos_of_ne_zero ha) (Nat.pos_of_ne_zero hd) (by simpa using hn)

/-! ### Encodings -/

/-- What the six formats of R112 have in common: a sign, an exponent and a mantissa, and the largest finite value just below the infinity,
the one NaN, or the end of the codes. -/
structure FloatFormat.Regular (f : FloatFormat) : Prop where
  man_pos : 0 < f.man
  exp_pos : 0 < f.exp
  width_eq : f.width = f.exp + f.man + 1
  largest_eq : f.largest + (if f.hasInf then 2 ^ f.man + 1 else if f.hasNan then 2 else 1) = 2 ^ (f.exp + f.man)

theorem regular_of_mem {f : FloatFormat} (h : f ∈ [f32, bf16, f16, e4m3, e5m2, e2m1]) : f.Regular := by
  simp only [List.mem_cons, List.not_mem_nil, or_false] at h
  rcases h with rfl | rfl | rfl | rfl | rfl | rfl <;> constructor <;> decide

/-- The significand of the exponent and mantissa bits c. -/
def FloatFormat.significand (f : FloatFormat) (c : Nat) : Nat := if c / 2 ^ f.man = 0 then c % 2 ^ f.man else 2 ^ f.man + c % 2 ^ f.man
/-- The exponent of the significand's last place. -/
def FloatFormat.exponent (f : FloatFormat) (c : Nat) : Int := max 1 ((c / 2 ^ f.man : Nat) : Int) - f.bias - f.man
/-- The magnitude that the bits c stand for. -/
def FloatFormat.magnitude (f : FloatFormat) (c : Nat) : ℚ := f.significand c * 2 ^ f.exponent c

/-- The least exponent. -/
def FloatFormat.least (f : FloatFormat) : Int := 1 - f.bias - f.man

theorem FloatFormat.least_le_exponent (f : FloatFormat) (c : Nat) : f.least ≤ f.exponent c := by
  unfold FloatFormat.least FloatFormat.exponent; omega

theorem FloatFormat.code_subnormal (f : FloatFormat) {c : Nat} (h : c < 2 ^ f.man) : f.significand c = c ∧ f.exponent c = f.least := by
  have h0 : c / 2 ^ f.man = 0 := Nat.div_eq_of_lt h
  rw [FloatFormat.significand, FloatFormat.exponent, if_pos h0, h0, Nat.mod_eq_of_lt h]
  exact ⟨rfl, rfl⟩

theorem FloatFormat.code_normal (f : FloatFormat) {e m : Nat} (he : 0 < e) (hm : m < 2 ^ f.man) :
    f.significand (e * 2 ^ f.man + m) = 2 ^ f.man + m ∧ f.exponent (e * 2 ^ f.man + m) = (e : Int) - f.bias - f.man := by
  have hdiv : (e * 2 ^ f.man + m) / 2 ^ f.man = e := by
    rw [Nat.mul_comm, Nat.mul_add_div (Nat.two_pow_pos _), Nat.div_eq_of_lt hm, Nat.add_zero]
  have hmod : (e * 2 ^ f.man + m) % 2 ^ f.man = m := by rw [Nat.mul_comm, Nat.mul_add_mod, Nat.mod_eq_of_lt hm]
  rw [FloatFormat.significand, FloatFormat.exponent, hdiv, hmod, if_neg he.ne']
  exact ⟨rfl, by omega⟩

/-- A code below 2^man, or an exponent field of at least 1 and a mantissa field. -/
theorem FloatFormat.code_cases (f : FloatFormat) (c : Nat) : c < 2 ^ f.man ∨ ∃ e m, 0 < e ∧ m < 2 ^ f.man ∧ c = e * 2 ^ f.man + m := by
  rcases Nat.lt_or_ge c (2 ^ f.man) with h | h
  · exact Or.inl h
  · exact Or.inr ⟨c / 2 ^ f.man, c % 2 ^ f.man, Nat.div_pos h (Nat.two_pow_pos _), Nat.mod_lt _ (Nat.two_pow_pos _), (Nat.div_add_mod' c _).symm⟩

/-- The next code stands for one spacing more. -/
theorem FloatFormat.magnitude_succ (f : FloatFormat) (c : Nat) : f.magnitude (c + 1) = f.magnitude c + 2 ^ f.exponent c := by
  rcases f.code_cases c with h | ⟨e, m, he, hm, rfl⟩
  · obtain ⟨hs, hx⟩ := f.code_subnormal h
    rcases Nat.lt_or_ge (c + 1) (2 ^ f.man) with h' | h'
    · obtain ⟨hs', hx'⟩ := f.code_subnormal h'
      rw [FloatFormat.magnitude, FloatFormat.magnitude, hs, hx, hs', hx']
      push_cast; ring
    · have hc : c + 1 = 1 * 2 ^ f.man + 0 := by omega
      obtain ⟨hs', hx'⟩ := f.code_normal Nat.one_pos (Nat.two_pow_pos f.man)
      rw [FloatFormat.magnitude, FloatFormat.magnitude, hs, hx, hc, hs', hx', show 2 ^ f.man + 0 = c + 1 by omega, FloatFormat.least]
      push_cast; ring
  · obtain ⟨hs, hx⟩ := f.code_normal he hm
    rcases Nat.lt_or_ge (m + 1) (2 ^ f.man) with h' | h'
    · obtain ⟨hs', hx'⟩ := f.code_normal he h'
      rw [FloatFormat.magnitude, FloatFormat.magnitude, hs, hx, Nat.add_assoc, hs', hx']
      push_cast; ring
    · have hc : e * 2 ^ f.man + m + 1 = (e + 1) * 2 ^ f.man + 0 := by rw [Nat.succ_mul]; omega
      obtain ⟨hs', hx'⟩ := f.code_normal (Nat.succ_pos e) (Nat.two_pow_pos f.man)
      have hexp : ((e + 1 : Nat) : Int) - f.bias - f.man = (e - f.bias - f.man) + 1 := by push_cast; ring
      rw [FloatFormat.magnitude, FloatFormat.magnitude, hs, hx, hc, hs', hx', hexp, zpow_add_one₀ two_ne_zero,
        show m = 2 ^ f.man - 1 by omega]
      push_cast [Nat.one_le_two_pow]; ring

theorem FloatFormat.magnitude_strictMono (f : FloatFormat) : StrictMono f.magnitude :=
  strictMono_nat_of_lt_succ fun c => by rw [f.magnitude_succ]; exact lt_add_of_pos_right _ (by positivity)

theorem FloatFormat.magnitude_zero (f : FloatFormat) : f.magnitude 0 = 0 := by
  rw [FloatFormat.magnitude, (f.code_subnormal (Nat.two_pow_pos f.man)).1, Nat.cast_zero, zero_mul]

theorem FloatFormat.magnitude_nonneg (f : FloatFormat) (c : Nat) : 0 ≤ f.magnitude c :=
  f.magnitude_zero ▸ f.magnitude_strictMono.monotone (Nat.zero_le c)

theorem FloatFormat.codes_eq (f : FloatFormat) : 2 ^ (f.exp + f.man) = (2 ^ f.exp - 1) * 2 ^ f.man + 2 ^ f.man := by
  rw [Nat.pow_add, ← Nat.succ_mul, Nat.succ_eq_add_one, Nat.sub_add_cancel Nat.one_le_two_pow]

/-- The exponent field is all ones exactly in the last 2^man codes. -/
theorem FloatFormat.ones_iff (f : FloatFormat) {c : Nat} (hc : c < 2 ^ (f.exp + f.man)) :
    c / 2 ^ f.man = 2 ^ f.exp - 1 ↔ 2 ^ (f.exp + f.man) ≤ c + 2 ^ f.man := by
  have hlt : c / 2 ^ f.man < 2 ^ f.exp := Nat.div_lt_of_lt_mul (by rwa [Nat.mul_comm, ← Nat.pow_add])
  rw [f.codes_eq, Nat.add_le_add_iff_right, ← Nat.le_div_iff_mul_le (Nat.two_pow_pos _)]
  omega

/-- All exponent and mantissa bits are ones exactly in the last code. -/
theorem FloatFormat.allOnes_iff (f : FloatFormat) {c : Nat} (hc : c < 2 ^ (f.exp + f.man)) :
    c / 2 ^ f.man = 2 ^ f.exp - 1 ∧ c % 2 ^ f.man = 2 ^ f.man - 1 ↔ c + 1 = 2 ^ (f.exp + f.man) := by
  have hpos := Nat.two_pow_pos f.man
  have hsplit := Nat.div_add_mod' c (2 ^ f.man)
  have hE := f.codes_eq
  constructor
  · rintro ⟨he, hm⟩
    rw [he, hm] at hsplit
    omega
  · intro h
    have he := (f.ones_iff hc).2 (by omega)
    rw [he] at hsplit
    exact ⟨he, by omega⟩

/-! ### What an encoding stands for -/

section
variable {f : FloatFormat} (hf : f.Regular)
include hf

theorem FloatFormat.Regular.signBit_eq (neg : Bool) : signBit f neg = (if neg then 1 else 0) * 2 ^ (f.exp + f.man) := by
  rw [signBit, hf.width_eq, Nat.add_sub_cancel]
  cases neg <;> simp

/-- Every code of the format is a sign, and exponent and mantissa bits. -/
theorem FloatFormat.Regular.split {x : Nat} (hx : x < 2 ^ f.width) : ∃ neg c, c < 2 ^ (f.exp + f.man) ∧ x = signBit f neg + c := by
  rw [hf.width_eq, Nat.pow_succ] at hx
  refine ⟨decide (2 ^ (f.exp + f.man) ≤ x), x % 2 ^ (f.exp + f.man), Nat.mod_lt _ (Nat.two_pow_pos _), ?_⟩
  rw [hf.signBit_eq]
  by_cases h : 2 ^ (f.exp + f.man) ≤ x
  · simp only [h, decide_true, if_true, Nat.one_mul]
    rw [Nat.mod_eq_sub_mod h, Nat.mod_eq_of_lt (by omega)]
    omega
  · simp only [h, decide_false, Bool.false_eq_true, if_false, Nat.zero_mul, Nat.zero_add]
    rw [Nat.mod_eq_of_lt (by omega)]

variable {neg : Bool} {c : Nat} (hc : c < 2 ^ (f.exp + f.man))
include hc

/-- The three fields of an encoding. -/
theorem FloatFormat.Regular.fields : (bits (signBit f neg + c) (f.width - 1) (f.width - 1) == 1) = neg ∧
    bits (signBit f neg + c) (f.width - 2) f.man = c / 2 ^ f.man ∧ bits (signBit f neg + c) (f.man - 1) 0 = c % 2 ^ f.man := by
  have hw := hf.width_eq
  have hman := hf.man_pos
  have hexp := hf.exp_pos
  rw [hf.signBit_eq, bits, bits, bits, show f.width - 1 = f.exp + f.man by omega, show f.exp + f.man + 1 - (f.exp + f.man) = 1 by omega,
    show f.width - 2 + 1 - f.man = f.exp by omega, show f.man - 1 + 1 - 0 = f.man by omega]
  refine ⟨?_, ?_, ?_⟩
  · rw [Nat.mul_comm, Nat.mul_add_div (Nat.two_pow_pos _), Nat.div_eq_of_lt hc]
    cases neg <;> rfl
  · rw [Nat.pow_add, ← Nat.mul_assoc, Nat.mul_comm, Nat.mul_add_div (Nat.two_pow_pos _), Nat.mul_comm, Nat.mul_add_mod]
    exact Nat.mod_eq_of_lt (Nat.div_lt_of_lt_mul (by rwa [Nat.mul_comm, ← Nat.pow_add]))
  · rw [Nat.pow_zero, Nat.div_one, Nat.pow_add, ← Nat.mul_assoc, Nat.mul_comm, Nat.mul_add_mod]

theorem FloatFormat.Regular.value_eq : f.value false (signBit f neg + c) =
    if f.hasInf ∧ c / 2 ^ f.man = 2 ^ f.exp - 1 then
      if c % 2 ^ f.man = 0 then .inf neg else .nan (f.width != 8 && bits (c % 2 ^ f.man) (f.man - 1) (f.man - 1) == 0)
    else if f.hasNan ∧ !f.hasInf ∧ c / 2 ^ f.man = 2 ^ f.exp - 1 ∧ c % 2 ^ f.man = 2 ^ f.man - 1 then .nan false
    else dyadic neg (f.significand c) (f.exponent c) := by
  obtain ⟨hneg, he, hm⟩ := hf.fields (neg := neg) hc
  unfold FloatFormat.value
  simp only [hneg, he, hm, Bool.false_eq_true, false_and, if_false, FloatFormat.significand, FloatFormat.exponent]
  congr 2
  split
  · next h => rw [h]; rfl
  · next h => rw [max_eq_right (by omega)]

theorem FloatFormat.Regular.value_finite (h : c ≤ f.largest) : f.value false (signBit f neg + c) = dyadic neg (f.significand c) (f.exponent c) := by
  have hL := hf.largest_eq
  rw [hf.value_eq hc, if_neg, if_neg]
  · rintro ⟨hn, hi, hones⟩
    have := (f.allOnes_iff hc).1 hones
    rw [if_neg (by simpa using hi), if_pos hn] at hL
    omega
  · rintro ⟨hi, he⟩
    have := (f.ones_iff hc).1 he
    rw [if_pos hi] at hL
    omega

theorem FloatFormat.Regular.value_special (h : f.largest < c) : (f.value false (signBit f neg + c)).rat = none := by
  have hL := hf.largest_eq
  rw [hf.value_eq hc]
  by_cases hi : f.hasInf = true
  · rw [if_pos hi] at hL
    rw [if_pos ⟨hi, (f.ones_iff hc).2 (by omega)⟩]
    split <;> rfl
  · rw [if_neg hi] at hL
    by_cases hn : f.hasNan = true
    · rw [if_pos hn] at hL
      obtain ⟨he, hm⟩ := (f.allOnes_iff hc).2 (by omega)
      rw [if_neg (fun hx => hi hx.1), if_pos ⟨hn, by simpa using hi, he, hm⟩]
      rfl
    · rw [if_neg hn] at hL
      omega

end

/-! ### The count of spacings -/

theorem scaled_floor (n d : Nat) (x : Int) : scaledNum n x / scaledDen d x = ⌊(n : ℚ) / d / 2 ^ x⌋₊ := by
  rw [← scaled_div, Nat.floor_div_eq_div]

/-- Whether a mode goes up from k spacings of size d with a remainder of r (R122, R123). -/
def goesUp (mode : Nat) (neg : Bool) (d k r draw : Nat) : Bool :=
  match mode with
  | 0 => decide (d < 2 * r) || (decide (2 * r = d) && k % 2 == 1)
  | 1 => false
  | 2 => decide (65536 ≤ r * 65536 / d + draw)
  | 3 => neg && decide (r ≠ 0)
  | _ => !neg && decide (r ≠ 0)

theorem roundCount_eq (mode : Nat) (neg : Bool) (n d : Nat) (x : Int) (draw : Nat) :
    let k := scaledNum n x / scaledDen d x
    let r := scaledNum n x % scaledDen d x
    roundCount mode neg n d x draw =
      (if goesUp mode neg (scaledDen d x) k r draw = true then k + 1 else k, decide (r ≠ 0), goesUp mode neg (scaledDen d x) k r draw) := rfl

/-- A multiple of the spacing is never moved (R123). -/
theorem goesUp_exact (mode : Nat) (neg : Bool) {d : Nat} (k : Nat) {draw : Nat} (hd : 0 < d) (h : draw < 65536) :
    goesUp mode neg d k 0 draw = false := by
  match mode with
  | 0 => simp [goesUp, hd.ne]
  | 1 => rfl
  | 2 => simpa [goesUp] using h
  | 3 => simp [goesUp]
  | mode + 4 => simp [goesUp]

/-- A count is the one below, or the one above. -/
theorem roundCount_floor (mode : Nat) (neg : Bool) (n d : Nat) (x : Int) (draw : Nat) :
    (roundCount mode neg n d x draw).1 = ⌊(n : ℚ) / d / 2 ^ x⌋₊ ∨ (roundCount mode neg n d x draw).1 = ⌊(n : ℚ) / d / 2 ^ x⌋₊ + 1 := by
  rw [← scaled_floor, roundCount_eq]
  dsimp only
  split
  · exact Or.inr rfl
  · exact Or.inl rfl

/-- RTZ takes the one below. -/
theorem roundCount_towardZero (neg : Bool) (n d : Nat) (x : Int) (draw : Nat) : (roundCount 1 neg n d x draw).1 = ⌊(n : ℚ) / d / 2 ^ x⌋₊ :=
  scaled_floor n d x

/-- A whole number of spacings stays, in every mode and under every draw. -/
theorem roundCount_exact (mode : Nat) (neg : Bool) {n d k draw : Nat} {x : Int} (hd : 0 < d) (h : (n : ℚ) / d / 2 ^ x = k) (hdraw : draw < 65536) :
    roundCount mode neg n d x draw = (k, false, false) := by
  have hD := scaledDen_pos hd x
  have hN : scaledNum n x = k * scaledDen d x := by
    have hne : (scaledDen d x : ℚ) ≠ 0 := by exact_mod_cast hD.ne'
    rw [← scaled_div, div_eq_iff hne] at h
    exact_mod_cast h
  have hquot : scaledNum n x / scaledDen d x = k := by rw [hN, Nat.mul_div_cancel _ hD]
  have hrem : scaledNum n x % scaledDen d x = 0 := by rw [hN, Nat.mul_mod_left]
  rw [roundCount_eq, hquot, hrem, goesUp_exact mode neg k hD hdraw]
  rfl

/-! ### The spacing -/

/-- The exponent of the spacing at q (R122). -/
def FloatFormat.spacing (f : FloatFormat) (q : ℚ) : Int := max (Int.log 2 q - f.man) f.least

section
variable (f : FloatFormat) (mode : Nat) (neg : Bool) {n d : Nat} (draw : Nat) (hn : 0 < n) (hd : 0 < d)
include hn hd

theorem FloatFormat.round_exp : (f.round mode neg n d draw).exp = f.spacing (n / d) := by
  rw [FloatFormat.round, floorLog2_eq_log hn hd]; rfl

theorem FloatFormat.round_count : (f.round mode neg n d draw).count = (roundCount mode neg n d (f.spacing (n / d)) draw).1 := by
  rw [FloatFormat.round, floorLog2_eq_log hn hd]; rfl

theorem FloatFormat.round_inexact : (f.round mode neg n d draw).inexact = (roundCount mode neg n d (f.spacing (n / d)) draw).2.1 := by
  rw [FloatFormat.round, floorLog2_eq_log hn hd]; rfl

end

theorem FloatFormat.least_le_spacing (f : FloatFormat) (q : ℚ) : f.least ≤ f.spacing q := le_max_right _ _

/-- A magnitude is below 2^(man + 1) of its spacings, and at least 2^man of them where the spacing is not the least. -/
theorem FloatFormat.lt_spacing (f : FloatFormat) (q : ℚ) : q / 2 ^ f.spacing q < (2 ^ (f.man + 1) : Nat) := by
  have hlog : Int.log 2 q - f.man ≤ f.spacing q := le_max_left _ _
  rw [div_lt_iff₀ (by positivity)]
  calc q < 2 ^ (Int.log 2 q + 1) := lt_zpow_log_succ q
    _ ≤ 2 ^ ((f.man + 1 : Nat) + f.spacing q) := zpow_le_zpow_right₀ one_le_two (by push_cast; omega)
    _ = _ := by rw [zpow_add₀ two_ne_zero, zpow_natCast]; push_cast; rfl

theorem FloatFormat.spacing_normal (f : FloatFormat) {q : ℚ} (hq : 0 < q) (h : f.spacing q ≠ f.least) : (2 ^ f.man : Nat) ≤ q / 2 ^ f.spacing q := by
  have hx : f.spacing q = Int.log 2 q - f.man := (max_choice _ _).resolve_right h
  rw [le_div_iff₀ (by positivity), hx]
  calc ((2 ^ f.man : Nat) : ℚ) * 2 ^ (Int.log 2 q - f.man) = 2 ^ Int.log 2 q := by
        push_cast; rw [← zpow_natCast, ← zpow_add₀ two_ne_zero]; congr 1; ring
    _ ≤ q := zpow_log_le hq

/-- The spacing of a code's magnitude is that of the code. -/
theorem FloatFormat.spacing_magnitude (f : FloatFormat) {c : Nat} (hc : 0 < c) : f.spacing (f.magnitude c) = f.exponent c := by
  have hpos : 0 < f.magnitude c := f.magnitude_zero ▸ f.magnitude_strictMono hc
  rcases f.code_cases c with h | ⟨e, m, he, hm, rfl⟩
  · obtain ⟨hs, hx⟩ := f.code_subnormal h
    have hlt : f.magnitude c < 2 ^ (f.man + f.least) := by
      rw [FloatFormat.magnitude, hs, hx, zpow_add₀ two_ne_zero, zpow_natCast]
      gcongr
      exact_mod_cast h
    have hlog : Int.log 2 (f.magnitude c) < f.man + f.least := (Int.lt_zpow_iff_log_lt one_lt_two hpos).1 (by exact_mod_cast hlt)
    rw [FloatFormat.spacing, hx, max_eq_right (by omega)]
  · obtain ⟨hs, hx⟩ := f.code_normal he hm
    have hlog : Int.log 2 (f.magnitude (e * 2 ^ f.man + m)) = f.man + f.exponent (e * 2 ^ f.man + m) := by
      apply log_eq_of_bounds
      · rw [FloatFormat.magnitude, zpow_add₀ two_ne_zero, zpow_natCast, hs]
        gcongr
        push_cast
        exact le_add_of_nonneg_right (by positivity)
      · rw [FloatFormat.magnitude, add_right_comm, zpow_add₀ two_ne_zero, hs, ← Nat.cast_succ, zpow_natCast]
        gcongr
        exact_mod_cast (by rw [Nat.pow_succ]; omega : 2 ^ f.man + m < 2 ^ (f.man + 1))
    rw [FloatFormat.spacing, hlog, add_sub_cancel_left, max_eq_left (f.least_le_exponent _)]

/-! ### Encoding -/

/-- A significand of man + 1 bits and an exponent, put into their fields. -/
theorem FloatFormat.magnitude_normal (f : FloatFormat) {k : Nat} {x : Int} (hlow : 2 ^ f.man ≤ k) (hhigh : k < 2 ^ (f.man + 1)) (hx : f.least ≤ x) :
    f.magnitude ((x + f.man + f.bias).toNat * 2 ^ f.man + (k - 2 ^ f.man)) = k * 2 ^ x := by
  unfold FloatFormat.least at hx
  rw [Nat.pow_succ] at hhigh
  obtain ⟨hs, he⟩ := f.code_normal (e := (x + f.man + f.bias).toNat) (m := k - 2 ^ f.man) (by omega) (by omega)
  rw [FloatFormat.magnitude, hs, he, Nat.add_sub_cancel' hlow, show ((x + f.man + f.bias).toNat : Int) - f.bias - f.man = x by omega]

/-- The encoding of k spacings of size 2^x stands for k × 2^x. -/
theorem FloatFormat.pack_code (f : FloatFormat) (neg : Bool) {k : Nat} {x : Int} (hk : k ≤ 2 ^ (f.man + 1)) (hx : f.least ≤ x)
    (hleast : k < 2 ^ f.man → x = f.least) : ∃ c, f.pack neg k x = signBit f neg + c ∧ f.magnitude c = k * 2 ^ x := by
  have hpow : 2 ^ (f.man + 1) = 2 ^ f.man * 2 := Nat.pow_succ ..
  have hpos := Nat.two_pow_pos f.man
  have hstay (h : k < 2 ^ (f.man + 1)) : (if 2 ^ (f.man + 1) ≤ k then (k / 2, x + 1) else (k, x)) = (k, x) := if_neg (Nat.not_le.2 h)
  unfold FloatFormat.pack
  rcases Nat.lt_or_ge k (2 ^ f.man) with hsub | hnormal
  · obtain ⟨hs, he⟩ := f.code_subnormal hsub
    refine ⟨k, ?_, by rw [FloatFormat.magnitude, hs, he, hleast hsub]⟩
    rw [hstay (by omega)]
    exact if_pos hsub
  · rcases Nat.lt_or_ge k (2 ^ (f.man + 1)) with hlt | hcarry
    · refine ⟨_, ?_, f.magnitude_normal hnormal hlt hx⟩
      rw [hstay hlt, ← Nat.add_assoc]
      exact if_neg (Nat.not_lt.2 hnormal)
    · obtain rfl : k = 2 ^ (f.man + 1) := le_antisymm hk hcarry
      refine ⟨(x + 1 + f.man + f.bias).toNat * 2 ^ f.man + (2 ^ f.man - 2 ^ f.man), ?_, ?_⟩
      · have hhalf : (if 2 ^ (f.man + 1) ≤ 2 ^ (f.man + 1) then (2 ^ (f.man + 1) / 2, x + 1) else (2 ^ (f.man + 1), x)) = (2 ^ f.man, x + 1) := by
          rw [if_pos le_rfl, hpow, Nat.mul_div_cancel _ two_pos]
        rw [hhalf, ← Nat.add_assoc]
        exact if_neg (Nat.lt_irrefl _)
      · rw [f.magnitude_normal le_rfl (by omega) (by omega), zpow_add_one₀ two_ne_zero]
        push_cast
        ring

/-! ### Conversion -/

theorem FloatFormat.convert_fits (f : FloatFormat) {mode n d draw : Nat} {sat neg : Bool} (hn : 0 < n)
    (h : ¬f.exceeds (f.round mode neg n d draw).count (f.round mode neg n d draw).exp = true) :
    f.convert mode sat false draw (.fin neg n d) = (f.pack neg (f.round mode neg n d draw).count (f.round mode neg n d draw).exp,
      flagIf (f.round mode neg n d draw).inexact flagNX ||| flagIf ((f.round mode neg n d draw).tiny && (f.round mode neg n d draw).inexact) flagUF) := by
  unfold FloatFormat.convert
  dsimp only
  rw [if_neg hn.ne', if_neg h, if_neg (by simp)]

theorem FloatFormat.convert_saturates (f : FloatFormat) {mode n d draw : Nat} {flush neg : Bool} (hn : 0 < n)
    (h : f.exceeds (f.round mode neg n d draw).count (f.round mode neg n d draw).exp = true) :
    f.convert mode true flush draw (.fin neg n d) = (signBit f neg + f.largest, flagOF ||| flagNX ||| flagST) := by
  unfold FloatFormat.convert
  dsimp only
  rw [if_neg hn.ne', if_pos h, if_pos (Or.inr rfl)]

theorem FloatFormat.significand_le (f : FloatFormat) (c : Nat) : f.significand c ≤ 2 ^ (f.man + 1) := by
  have hpow : 2 ^ (f.man + 1) = 2 ^ f.man * 2 := Nat.pow_succ ..
  rcases f.code_cases c with h | ⟨e, m, he, hm, rfl⟩
  · rw [(f.code_subnormal h).1]; omega
  · rw [(f.code_normal he hm).1]; omega

theorem FloatFormat.exponent_of_subnormal (f : FloatFormat) (c : Nat) (h : f.significand c < 2 ^ f.man) : f.exponent c = f.least := by
  rcases f.code_cases c with hc | ⟨e, m, he, hm, rfl⟩
  · exact (f.code_subnormal hc).2
  · rw [(f.code_normal he hm).1] at h; omega

/-- The fields of a code give the code. -/
theorem FloatFormat.pack_fields (f : FloatFormat) (neg : Bool) (c : Nat) : f.pack neg (f.significand c) (f.exponent c) = signBit f neg + c := by
  obtain ⟨c', hpack, hmag⟩ := f.pack_code neg (f.significand_le c) (f.least_le_exponent c) (f.exponent_of_subnormal c)
  rw [hpack, f.magnitude_strictMono.injective hmag]

/-- A count below 2^(man + 1) of the spacing at a positive value is encoded as it is. -/
theorem FloatFormat.pack_floor (f : FloatFormat) (neg : Bool) {q : ℚ} (hq : 0 < q) :
    ∃ c, f.pack neg ⌊q / 2 ^ f.spacing q⌋₊ (f.spacing q) = signBit f neg + c ∧ f.magnitude c = ⌊q / 2 ^ f.spacing q⌋₊ * 2 ^ f.spacing q := by
  refine f.pack_code neg (Nat.floor_le_of_le (f.lt_spacing q).le) (f.least_le_spacing q) fun hlt => ?_
  by_contra hne
  exact absurd hlt (Nat.not_lt.2 (Nat.le_floor (f.spacing_normal hq hne)))

/-- A value that no code but zero exceeds holds at least one of its spacings. -/
theorem FloatFormat.one_le_spacings (f : FloatFormat) {q : ℚ} {c : Nat} (hc : 0 < c) (h : f.magnitude c ≤ q) :
    (1 : ℚ) ≤ ⌊q / 2 ^ f.spacing q⌋₊ := by
  have hleast : (2 : ℚ) ^ f.least ≤ f.magnitude c := by
    have h1 := f.magnitude_succ 0
    rw [f.magnitude_zero, zero_add, zero_add, (f.code_subnormal (Nat.two_pow_pos f.man)).2] at h1
    exact h1 ▸ f.magnitude_strictMono.monotone hc
  have hq : 0 < q := lt_of_lt_of_le (by positivity) (hleast.trans h)
  have hone : 1 ≤ q / 2 ^ f.spacing q := by
    by_cases hx : f.spacing q = f.least
    · rw [hx, one_le_div (by positivity)]
      exact hleast.trans h
    · exact le_trans (by exact_mod_cast Nat.one_le_two_pow) (f.spacing_normal hq hx)
  exact_mod_cast Nat.one_le_iff_ne_zero.2 (Nat.floor_pos.2 hone).ne'

theorem floor_mul_le {q : ℚ} (hq : 0 < q) (x : Int) : ⌊q / 2 ^ x⌋₊ * 2 ^ x ≤ q := by
  rw [← le_div_iff₀ (by positivity)]
  exact Nat.floor_le (by positivity)

section
variable {f : FloatFormat} (hf : f.Regular)
include hf

theorem FloatFormat.Regular.largest_lt : f.largest < 2 ^ (f.exp + f.man) := by
  have hL := hf.largest_eq
  have hpos := Nat.two_pow_pos f.man
  split at hL
  · omega
  · split at hL <;> omega

theorem FloatFormat.Regular.largest_pos : 0 < f.largest := by
  have hL := hf.largest_eq
  have hman : 2 ≤ 2 ^ f.man := Nat.le_self_pow hf.man_pos.ne' 2
  have hexp : 2 ≤ 2 ^ f.exp := Nat.le_self_pow hf.exp_pos.ne' 2
  have hmul : 2 * 2 ^ f.man ≤ 2 ^ (f.exp + f.man) := by rw [Nat.pow_add]; exact Nat.mul_le_mul_right _ hexp
  split at hL
  · omega
  · split at hL <;> omega

/-- The value of a finite encoding. -/
theorem FloatFormat.Regular.value_fin (neg : Bool) {c : Nat} (hc : c ≤ f.largest) :
    ∃ n d, f.value false (signBit f neg + c) = .fin neg n d ∧ 0 < d ∧ (n : ℚ) / d = f.magnitude c := by
  rw [hf.value_finite (lt_of_le_of_lt hc hf.largest_lt) hc]
  exact dyadic_rat neg _ _

theorem FloatFormat.Regular.value_rat (neg : Bool) {c : Nat} (hc : c ≤ f.largest) :
    (f.value false (signBit f neg + c)).rat = some (if neg then -f.magnitude c else f.magnitude c) := by
  obtain ⟨n, d, hval, hd, hrat⟩ := hf.value_fin neg hc
  rw [hval, Val.rat_fin _ hd.ne', mul_div_assoc, hrat]
  cases neg <;> simp

theorem FloatFormat.Regular.largest_rat : (f.value false f.largest).rat = some (f.magnitude f.largest) := by
  have h := hf.value_rat false le_rfl
  rwa [show signBit f false = 0 from rfl, Nat.zero_add] at h

/-- k × 2^x lies beyond the largest finite value. -/
theorem FloatFormat.Regular.exceeds_iff (k : Nat) (x : Int) : f.exceeds k x = true ↔ f.magnitude f.largest < k * 2 ^ x := by
  obtain ⟨n, d, hval, hd, hrat⟩ := hf.value_fin false le_rfl
  rw [show signBit f false = 0 from rfl, Nat.zero_add] at hval
  have hdef : f.exceeds k x = decide (scaledNum n x < k * scaledDen d x) := by
    unfold FloatFormat.exceeds scaledNum scaledDen
    rw [hval]
    dsimp only
    split
    · rw [Nat.mul_assoc, Nat.mul_comm d]
    · rfl
  have hD : (0 : ℚ) < scaledDen d x := by exact_mod_cast scaledDen_pos hd x
  rw [hdef, decide_eq_true_eq, ← hrat, ← div_lt_iff₀ (by positivity), ← scaled_div, div_lt_iff₀ hD]
  exact_mod_cast Iff.rfl

/-! ### Conversion of finite values -/

/-- A finite encoding's value rounds to the encoding without a flag, in every mode and under every draw. -/
theorem FloatFormat.Regular.convert_code (mode : Nat) (sat neg : Bool) {draw c : Nat} (hdraw : draw < 65536) (hc : c ≤ f.largest) :
    f.convert mode sat false draw (f.value false (signBit f neg + c)) = (signBit f neg + c, 0) := by
  obtain ⟨n, d, hval, hd, hrat⟩ := hf.value_fin neg hc
  have hd0 : (d : ℚ) ≠ 0 := by exact_mod_cast hd.ne'
  rw [hval]
  rcases Nat.eq_zero_or_pos c with rfl | hcpos
  · rw [f.magnitude_zero, div_eq_zero_iff, or_iff_left hd0, Nat.cast_eq_zero] at hrat
    exact if_pos hrat
  · have hpos : 0 < f.magnitude c := f.magnitude_zero ▸ f.magnitude_strictMono hcpos
    have hn : 0 < n := by
      rcases Nat.eq_zero_or_pos n with rfl | h
      · rw [Nat.cast_zero, zero_div] at hrat; exact absurd hrat hpos.ne
      · exact h
    have hcount := roundCount_exact mode neg (x := f.exponent c) (k := f.significand c) hd
      (by rw [hrat, FloatFormat.magnitude, mul_div_assoc, div_self (by positivity), mul_one]) hdraw
    have hexceeds : ¬f.exceeds (f.significand c) (f.exponent c) = true := by
      rw [hf.exceeds_iff]
      exact not_lt.2 (f.magnitude_strictMono.monotone hc)
    have hspacing : f.spacing (n / d) = f.exponent c := by rw [hrat, f.spacing_magnitude hcpos]
    have hexp := f.round_exp mode neg draw hn hd
    have hround := f.round_count mode neg draw hn hd
    have hexact := f.round_inexact mode neg draw hn hd
    rw [hspacing] at hexp
    rw [hspacing, hcount] at hround hexact
    rw [f.convert_fits hn (by rw [hround, hexp]; exact hexceeds), hround, hexp, hexact, f.pack_fields, Bool.and_false]
    simp [flagIf]

theorem FloatFormat.Regular.convert_finite (mode : Nat) (sat : Bool) {draw x : Nat} {q : ℚ} (hdraw : draw < 65536) (hx : x < 2 ^ f.width)
    (hq : (f.value false x).rat = some q) : f.convert mode sat false draw (f.value false x) = (x, 0) := by
  obtain ⟨neg, c, hc, rfl⟩ := hf.split hx
  rcases Nat.lt_or_ge f.largest c with hspecial | hfinite
  · rw [hf.value_special hc hspecial] at hq
    cases hq
  · exact hf.convert_code mode sat neg hdraw hfinite

/-- Rounding toward zero gives a magnitude no greater than the value's. -/
theorem FloatFormat.Regular.convert_towardZero (neg : Bool) (n : Nat) {d draw : Nat} (hd : 0 < d) :
    ∃ c, c ≤ f.largest ∧ (f.convert 1 true false draw (.fin neg n d)).1 = signBit f neg + c ∧ f.magnitude c ≤ (n : ℚ) / d := by
  rcases Nat.eq_zero_or_pos n with rfl | hn
  · exact ⟨0, Nat.zero_le _, rfl, by rw [f.magnitude_zero, Nat.cast_zero, zero_div]⟩
  have hq : 0 < (n : ℚ) / d := by positivity
  have hcount := (f.round_count 1 neg draw hn hd).trans (roundCount_towardZero neg n d _ draw)
  have hexp := f.round_exp 1 neg draw hn hd
  have hle := floor_mul_le hq (f.spacing (n / d))
  by_cases hex : f.exceeds (f.round 1 neg n d draw).count (f.round 1 neg n d draw).exp = true
  · refine ⟨f.largest, le_rfl, by rw [f.convert_saturates hn hex], ?_⟩
    rw [hf.exceeds_iff, hcount, hexp] at hex
    exact hex.le.trans hle
  · obtain ⟨c, hpack, hmag⟩ := f.pack_floor neg hq
    refine ⟨c, ?_, by rw [f.convert_fits hn hex, hcount, hexp, hpack], hmag ▸ hle⟩
    rw [hf.exceeds_iff, hcount, hexp, ← hmag, not_lt] at hex
    exact f.magnitude_strictMono.le_iff_le.1 hex

/-- A magnitude of more than twice the largest one overflows, in every mode. -/
theorem FloatFormat.Regular.convert_overflow (mode : Nat) (flush neg : Bool) {n d : Nat} (draw : Nat) (hd : 0 < d)
    (h : 2 * f.magnitude f.largest < (n : ℚ) / d) :
    f.convert mode true flush draw (.fin neg n d) = (signBit f neg + f.largest, flagOF ||| flagNX ||| flagST) := by
  have hlargest := f.magnitude_nonneg f.largest
  have hq : 0 < (n : ℚ) / d := by linarith
  have hn : 0 < n := Nat.pos_of_ne_zero fun h0 => by rw [h0, Nat.cast_zero, zero_div] at hq; exact lt_irrefl _ hq
  have hone := f.one_le_spacings hf.largest_pos (by linarith : f.magnitude f.largest ≤ (n : ℚ) / d)
  have hbelow := Nat.lt_floor_add_one ((n : ℚ) / d / 2 ^ f.spacing (n / d))
  rw [div_lt_iff₀ (by positivity)] at hbelow
  have hcount : ⌊(n : ℚ) / d / 2 ^ f.spacing (n / d)⌋₊ ≤ (f.round mode neg n d draw).count := by
    rw [f.round_count mode neg draw hn hd]
    rcases roundCount_floor mode neg n d (f.spacing (n / d)) draw with h | h <;> omega
  refine f.convert_saturates hn ((hf.exceeds_iff _ _).2 ?_)
  rw [f.round_exp mode neg draw hn hd]
  have hhalf : (n : ℚ) / d < 2 * (⌊(n : ℚ) / d / 2 ^ f.spacing (n / d)⌋₊ * 2 ^ f.spacing (n / d)) := by
    refine hbelow.trans_le ?_
    rw [← mul_assoc]
    gcongr
    linarith
  calc f.magnitude f.largest < ⌊(n : ℚ) / d / 2 ^ f.spacing (n / d)⌋₊ * 2 ^ f.spacing (n / d) := by linarith
    _ ≤ _ := by gcongr

end

/-- Settles O33: the exact operations are those of the rationals, a code's magnitude is a whole number of its own spacings, and any other
value lies between two neighbours. -/
theorem rounding : Obligations.Rounding := by
  refine ⟨fun _ _ h => sfuVal_rat h, fun mode x y z a b c hx hy hz => ?_, fun f hmem mode draw sat _ hdraw => ?_⟩
  · obtain ⟨hsum, hsumFlags⟩ := addVal_rat mode hx hy
    obtain ⟨hprod, hprodFlags⟩ := mulVal_rat hx hy
    obtain ⟨hfma, hfmaFlags⟩ := fmaVal_rat mode hx hy hz
    have hsub := (addVal_rat mode hx (Val.flip_rat hy)).1
    have hfms := (fmaVal_rat mode (Val.flip_rat hx) hy hz).1
    rw [← sub_eq_add_neg] at hsub
    rw [neg_mul, neg_add_eq_sub] at hfms
    exact ⟨hsum, hsub, hprod, hfma, hfms, hsumFlags, hprodFlags, hfmaFlags⟩
  · have hf := regular_of_mem hmem
    refine ⟨fun x q hx hq => ?_, fun neg n d q hd hq => ?_, fun neg n d big hd hbig hlt => ?_⟩
    · exact hf.convert_finite mode sat hdraw hx hq
    · obtain ⟨c, hc, hconvert, hle⟩ := hf.convert_towardZero neg n (draw := draw) hd
      rw [hconvert, hf.value_rat neg hc, Option.some.injEq] at hq
      rw [← hq]
      cases neg <;> simpa [abs_of_nonneg (f.magnitude_nonneg c)] using hle
    · rw [hf.largest_rat, Option.some.injEq] at hbig
      exact hf.convert_overflow mode false neg draw hd (hbig ▸ hlt)

end Sys2Proof.Machine

/-! ## The M stream at its corners: an exposed drain that waits, and a product without a K (R196, R198) -/

namespace Sys2Proof.Machine

/-- Tile 0's M stream stands at a word of an exposed block with no format word, and bank 0 is written by the end of tc 10. -/
def bankInFlight : State := { State.reset with
  cur := .block 0 .m
  tiles := State.reset.tiles.set 0 { Tile.reset with
    status := .run
    m := { Stream.reset with state := .run, record := [0xB1000000, 0, 0, 0, 0, 0, 0] }
    pending := [{ due := 10, stream := .m, landed := true, load := false, what := .bank 0, kept := none }] } }

theorem bankInFlight_turn : bankInFlight.BlockTurn 0 .m := ⟨rfl, Or.inr rfl, fun _ h => nomatch h⟩

/-- The bubble of R198: acs does not issue yet, and so checks nothing. -/
theorem bankInFlight_acs :
    exec (.acs 0 0 0) bankInFlight = .next (bankInFlight.onTile 0 fun u => u.onStream .m fun y => { y with nextTc := 11 }) := rfl

/-- Refutes O45: its clause on acs without a format word has no premise that the bank's earlier writes have landed; in an exposed block
acs waits for them (R198) and makes its checks, FMTUNF among them, only when it issues. -/
theorem not_matrixBlocks : ¬ Obligations.MatrixBlocks := by
  intro h
  obtain ⟨-, hfaults, -⟩ := h
  obtain ⟨hempty, -⟩ := hfaults bankInFlight 0 0 0 0 0 0 0 0 [] ⟨Vector.replicate 8 0, []⟩ bankInFlight_turn
  obtain ⟨t, hexec, -, htile, -⟩ := (hempty rfl).2
  have ht := Host.Outcome.next.inj (bankInFlight_acs.symm.trans hexec)
  have hstate : ((t.tile 0).stream .m).state = .faulted := by rw [htile]; rfl
  rw [← ht, State.onTile_tile] at hstate
  exact absurd hstate (by decide)

/-- A window of E4M3 elements without pins, e0 by e1 by 1. -/
def boxOf (e0 e1 : Nat) : Window :=
  { image := (Vector.replicate 8 0).set 1 (BitVec.ofNat 64 (e0 * 2 ^ 16 + e1 * 2 ^ 32 + 2 ^ 48 + 3)), pins := [] }

/-- Element (0, 0) of the bank lists 5, and its granule holds an uncorrectable error. -/
def spoiltBank : Bank := { cells := [(0, 5)], flags := 0, poison := false, bad := [0] }

/-- Tile 0's M stream stands at a word of an interlocked block. Windows 0 and 1 are an A of one row and a B of one column, both of K = 0;
the format word names E4M3 operands without scales, not accumulated. -/
def emptyProduct : State := { State.reset with
  cur := .block 0 .m
  tiles := State.reset.tiles.set 0 { Tile.reset with
    status := .run
    m := { Stream.reset with state := .run, record := [0xB1100000, 0, 0, 0, 0, 0, 0] }
    formats := [0x33]
    windows := (Tile.reset.windows.set 0 (some (boxOf 0 1))).set 1 (some (boxOf 1 0))
    banks := Tile.reset.banks.set 0 spoiltBank } }

theorem emptyProduct_turn : emptyProduct.BlockTurn 0 .m := ⟨rfl, Or.inl rfl, fun _ h => nomatch h⟩

/-- With no block to add, mm writes back the element as it reads it: zero, since it lies in error (R197). -/
theorem emptyProduct_mm : ∃ t, exec (.mm 0 0 1 0 0 0) emptyProduct = .next t ∧ tget (t.tile 0).banks[0].cells 0 = none := ⟨_, rfl, by decide⟩

/-- Refutes O44: with K = 0 and no accumulation the element keeps its old value, which the statement takes from the bank's cells and the
model reads as zero where the granule is in error; the statement asks for a bank without errors under accumulation alone. -/
theorem not_matrixProducts : ¬ Obligations.MatrixProducts := by
  intro h
  obtain ⟨hmm, -⟩ := h emptyProduct 0 0 0 1 0 0 0 0x33 [] (boxOf 0 1) (boxOf 1 0) (boxOf 0 0) (boxOf 0 0) (fun _ _ => none) (fun _ _ => none)
    (fun _ _ => none) (fun _ _ _ => none) (fun _ => none) emptyProduct_turn (by decide) rfl (Or.inl rfl) (fun h => absurd h (by decide)) rfl rfl
    ⟨rfl, rfl, rfl, rfl⟩ ⟨rfl, rfl, rfl, rfl⟩ (by decide) (by decide) (by decide) (by decide) (by decide) (fun h => absurd h (by decide))
    (fun x hx => absurd hx (Nat.not_lt_zero x)) (Or.inl rfl)
  obtain ⟨t, hexec, -, -, hcells, -⟩ := hmm _ List.mem_cons_self (by decide) (Or.inl rfl) (fun _ => rfl) (fun _ _ y hy => absurd hy (Nat.not_lt_zero y))
  obtain ⟨u, hu, hcell⟩ := emptyProduct_mm
  have hold := hcells 0 (by decide) 0 (by decide)
  rw [Host.Outcome.next.inj (hexec.symm.trans hu)] at hold
  have hzero := congrArg (fun o : Option W32 => o.getD 0) hcell
  exact absurd (hold.symm.trans hzero) (by decide)

end Sys2Proof.Machine

/-! ## The V stream: words that compute each element on its own (R143 to R145) -/

namespace Sys2Proof.Machine

theorem elem_lt (w : Nat) (v : VReg) (e : Nat) : elem w v e < 2 ^ w := Nat.mod_lt _ (Nat.two_pow_pos w)

/-- A word that computes the elements of d by f, without a draw, meets the statement of its form. -/
theorem State.BlockTurn.drawless {s : State} {tn : BitVec 6} (h : s.BlockTurn tn .v) {d : BitVec 5} {w : Nat} (hw : 0 < w) {p : BitVec 3}
    {i : Instr} {peek : Bool} {srcs : List (BitVec 5)} {l : Nat} {val : Nat → Nat × Flags} (f : Tile → Bool → Nat → Nat → Nat × Flags)
    (hexec : exec i s = .next (s.vIssue 1 l fun tl flush => tl.vmap peek srcs d w false (governed (tl.preg p) w) (f tl flush)))
    (hval : ∀ e draw, f ((s.tile tn).atIssue .v) ((s.tile tn).atIssue .v).v.exposed e draw = val e) :
    s.VElements tn d w p ((s.tile tn).atIssue .v).seeds ⟨i, peek, srcs, l, val⟩ :=
  h.elements hw (q := ⟨i, peek, srcs, l, val⟩) false f hexec fun e => hval e _

/-- What a word that writes some elements does to its tile when its queues allow it. -/
theorem Tile.vmap_written {t taken : Tile} {peek : Bool} {srcs : List (BitVec 5)} {d : BitVec 5} (h : t.takeSources peek srcs [d] = .ok taken)
    {w : Nat} (hw : 0 < w) (sr : Bool) (written : Nat → Bool) (f : Nat → Nat → Nat × Flags) :
    t.vmap peek srcs d w sr written f =
      .ok ({ taken with seeds := if sr = true then seedsAfter w written t.seeds else t.seeds },
        [toDest d (ofElems w ((List.range (2048 / w)).map fun e =>
          if written e = true then (f e (drawFor w sr written t.seeds e)).1 else elem w (t.vold d) e))],
        (List.range (2048 / w)).foldl (fun fl e => if written e = true then fl ||| (f e (drawFor w sr written t.seeds e)).2 else fl) 0) := by
  have helems := mapElems_eq sr written (elem w (t.vold d)) f t.seeds hw (Nat.div_mul_le_self 2048 w)
  rw [Tile.vmap, h, countOf]
  show Except.ok _ = _
  rw [helems]
  rfl

/-! ### What taking the sources leaves alone (R144, R145) -/

theorem bind_ok_iff {α β : Type} {x : Res α} {f : α → Res β} {b : β} : (x >>= f) = .ok b ↔ ∃ a, x = .ok a ∧ f a = .ok b := by
  cases x with
  | error e => exact ⟨fun h => (nomatch h), fun ⟨_, h, _⟩ => (nomatch h)⟩
  | ok a => exact ⟨fun h => ⟨a, rfl, h⟩, fun ⟨_, h, hf⟩ => by cases h; exact hf⟩

/-- The pops of an instruction once its checks have passed. -/
theorem Tile.takeSources_eq {t taken : Tile} {peek : Bool} {srcs dsts : List (BitVec 5)} (h : t.takeSources peek srcs dsts = .ok taken) :
    taken = (if peek = true then [] else queuesOf srcs).foldl Tile.popQueue t := by
  obtain ⟨-, -, h⟩ := bind_ok_iff.1 h
  obtain ⟨-, -, h⟩ := bind_ok_iff.1 h
  exact (Except.ok.inj h).symm

theorem Tile.popQueues_frame (l : List (BitVec 3)) (t : Tile) : l.foldl Tile.popQueue t = { t with
    queues := (l.foldl Tile.popQueue t).queues, dirtyA := (l.foldl Tile.popQueue t).dirtyA, dirtyB := (l.foldl Tile.popQueue t).dirtyB } := by
  induction l generalizing t with
  | nil => rfl
  | cons q l ih => exact ih (t.popQueue q)

/-- Taking the sources changes nothing but the queues and their dirty marks. -/
theorem Tile.takeSources_frame {t taken : Tile} {peek : Bool} {srcs dsts : List (BitVec 5)} (h : t.takeSources peek srcs dsts = .ok taken) :
    taken = { t with queues := taken.queues, dirtyA := taken.dirtyA, dirtyB := taken.dirtyB } := by
  rw [Tile.takeSources_eq h]
  exact Tile.popQueues_frame _ t

theorem Tile.takeSources_seeds {t taken : Tile} {peek : Bool} {srcs dsts : List (BitVec 5)} (h : t.takeSources peek srcs dsts = .ok taken) :
    taken.seeds = t.seeds := by rw [Tile.takeSources_frame h]

theorem Tile.takeSources_withSeeds {t taken : Tile} {peek : Bool} {srcs dsts : List (BitVec 5)} (h : t.takeSources peek srcs dsts = .ok taken) :
    { taken with seeds := t.seeds } = taken := by rw [← Tile.takeSources_seeds h]

theorem queueOf_register {r : BitVec 5} (h : r.toNat < 24) : queueOf r = none := if_neg (by omega)

theorem queueOf_queue {r : BitVec 5} (h : 24 ≤ r.toNat) : queueOf r = some (BitVec.ofNat 3 (r.toNat - 24)) := if_pos h

/-- An instruction that names no queue takes effect as it stands. -/
theorem Tile.takeSources_registers (t : Tile) (peek : Bool) {srcs dsts : List (BitVec 5)} (hs : ∀ r ∈ srcs, r.toNat < 24)
    (hd : ∀ r ∈ dsts, r.toNat < 24) : t.takeSources peek srcs dsts = .ok t := by
  have hnone {l : List (BitVec 5)} (h : ∀ r ∈ l, r.toNat < 24) : queuesOf l = [] := by
    rw [queuesOf, List.filterMap_eq_nil_iff.2 fun r hr => queueOf_register (h r hr)]
    rfl
  rw [Tile.takeSources, hnone hs, hnone hd]
  cases peek <;> rfl

end Sys2Proof.Machine

/-! ## The V stream: integer elements (R129, R148, R150 to R152) -/

namespace Sys2Proof.Machine

/-! ### Integer values -/

theorem ofSigned_eq_ofInt (w : Nat) (x : Int) : ofSigned w x = (BitVec.ofInt w x).toNat := (BitVec.toNat_ofInt x).symm

theorem intValue_eq (sg : Bool) {w : Nat} (hw : 0 < w) (x : Nat) :
    intValue sg w x = if sg = true then (BitVec.ofNat w x).toInt else ((BitVec.ofNat w x).toNat : Int) := by
  cases sg with
  | true => exact toSigned_eq_toInt hw x
  | false => simp only [intValue, BitVec.toNat_ofNat, Bool.false_eq_true, if_false]

/-- Wrapping gives an element its own value back. -/
theorem ofInt_intValue (sg : Bool) {w : Nat} (hw : 0 < w) {x : Nat} (hx : x < 2 ^ w) : (BitVec.ofInt w (intValue sg w x)).toNat = x := by
  rw [intValue_eq sg hw]
  cases sg with
  | true => simp only [if_true, BitVec.ofInt_toInt, BitVec.toNat_ofNat, Nat.mod_eq_of_lt hx]
  | false => simp only [Bool.false_eq_true, if_false, BitVec.ofInt_natCast, BitVec.toNat_ofNat, Nat.mod_eq_of_lt hx]

/-- The least and the greatest value of an integer format. -/
def intLeast (sg : Bool) (w : Nat) : Int := if sg = true then -2 ^ (w - 1) else 0
def intGreatest (sg : Bool) (w : Nat) : Int := if sg = true then 2 ^ (w - 1) - 1 else 2 ^ w - 1

/-- An exact integer wrapped, or clamped with ST, in one expression. -/
theorem intToInt_eq (sg : Bool) (w : Nat) (sat : Bool) (x : Int) : intToInt sg w sat x =
    ((BitVec.ofInt w (if sat = true then max (intLeast sg w) (min (intGreatest sg w) x) else x)).toNat,
      if sat = true ∧ (x < intLeast sg w ∨ intGreatest sg w < x) then flagST else 0) := by
  have hlo : (if sg = true then -((2 ^ (w - 1) : Nat) : Int) else 0) = intLeast sg w := by unfold intLeast; push_cast; rfl
  have hhi : (if sg = true then ((2 ^ (w - 1) : Nat) : Int) - 1 else ((2 ^ w : Nat) : Int) - 1) = intGreatest sg w := by
    unfold intGreatest; push_cast; rfl
  have hle : intLeast sg w ≤ intGreatest sg w := by
    have h1 : (1 : Int) ≤ 2 ^ (w - 1) := one_le_pow₀ one_le_two
    have h2 : (1 : Int) ≤ 2 ^ w := one_le_pow₀ one_le_two
    unfold intLeast intGreatest
    cases sg
    · simp only [Bool.false_eq_true, if_false]; omega
    · simp only [if_true]; omega
  unfold intToInt
  simp only [hlo, hhi, ofSigned_eq_ofInt]
  cases sat with
  | false => simp only [Bool.false_eq_true, if_false, false_and]
  | true =>
    simp only [if_true, true_and]
    rcases lt_or_ge x (intLeast sg w) with h | h
    · rw [if_pos h, if_pos (Or.inl h), max_eq_left (by omega)]
    · rw [if_neg (by omega)]
      rcases lt_or_ge (intGreatest sg w) x with h' | h'
      · rw [if_pos h', if_pos (Or.inr h'), min_eq_left h'.le, max_eq_right hle]
      · rw [if_neg (by omega), if_neg (by omega), min_eq_right h', max_eq_right h]

/-! ### The integer type codes (R142) -/

/-- Class I of R142. -/
structure IntTy (t : BitVec 4) : Prop where
  least : 6 ≤ t.toNat
  greatest : t.toNat ≤ 11

theorem IntTy.width {t : BitVec 4} (h : IntTy t) : tyWidth t = if t.toNat % 3 = 0 then 32 else if t.toNat % 3 = 1 then 16 else 8 := by
  obtain ⟨h1, h2⟩ := h
  revert t; decide

theorem IntTy.width_pos {t : BitVec 4} (h : IntTy t) : 0 < tyWidth t := by
  rw [h.width]; split <;> [decide; split <;> decide]

theorem IntTy.notFloat {t : BitVec 4} (h : IntTy t) : isFloatTy t = false := decide_eq_false fun h' => by have := h.least; omega

theorem IntTy.signed {t : BitVec 4} (h : IntTy t) : isSignedTy t = true ↔ t.toNat ≤ 8 := by
  rw [isSignedTy, decide_eq_true_eq]; have := h.least; omega

theorem IntTy.addLatency {t : BitVec 4} (h : IntTy t) : addLatency t = 2 := if_neg (by rw [h.notFloat]; exact Bool.false_ne_true)

theorem IntTy.arithElem {t : BitVec 4} (h : IntTy t) (op : VArith) (m : BitVec 4) (hm : m.toNat % 8 ≤ 1) (flush : Bool) (draw a b d : Nat) :
    arithElem op t m flush draw a b d = intToInt (isSignedTy t) (tyWidth t) (decide (m.toNat % 8 = 1))
      (arithInt op (intValue (isSignedTy t) (tyWidth t) a) (intValue (isSignedTy t) (tyWidth t) b) (intValue (isSignedTy t) (tyWidth t) d)) := by
  rw [Machine.arithElem, h.notFloat]
  simp only [Bool.false_eq_true, if_false, clampInt]
  rcases Nat.le_one_iff_eq_zero_or_eq_one.1 hm with hm | hm <;> rw [hm] <;> rfl

theorem IntTy.minMaxElem {t : BitVec 4} (h : IntTy t) (isMax flush : Bool) {a b : Nat} (ha : a < 2 ^ tyWidth t) (hb : b < 2 ^ tyWidth t) :
    minMaxElem isMax t flush a b = intToInt (isSignedTy t) (tyWidth t) false
      (if isMax = true then max (intValue (isSignedTy t) (tyWidth t) a) (intValue (isSignedTy t) (tyWidth t) b)
        else min (intValue (isSignedTy t) (tyWidth t) a) (intValue (isSignedTy t) (tyWidth t) b)) := by
  have hself {x : Nat} (hx : x < 2 ^ tyWidth t) : ofSigned (tyWidth t) (intValue (isSignedTy t) (tyWidth t) x) = x := by
    rw [ofSigned_eq_ofInt, ofInt_intValue _ h.width_pos hx]
  rw [Machine.minMaxElem, h.notFloat]
  simp only [Bool.false_eq_true, if_false, intToInt]
  rcases lt_or_ge (intValue (isSignedTy t) (tyWidth t) a) (intValue (isSignedTy t) (tyWidth t) b) with hlt | hge
  · rw [decide_eq_true hlt, max_eq_right hlt.le, min_eq_left hlt.le]
    cases isMax
    · simp [hself ha]
    · simp [hself hb]
  · rw [decide_eq_false (not_lt.2 hge), max_eq_left hge, min_eq_right hge]
    cases isMax
    · simp [hself hb]
    · simp [hself ha]

theorem IntTy.absNegElem {t : BitVec 4} (h : IntTy t) (isNeg sat : Bool) (x : Nat) : absNegElem isNeg t sat x =
    intToInt (isSignedTy t) (tyWidth t) sat (if isNeg = true then -intValue (isSignedTy t) (tyWidth t) x
      else ((intValue (isSignedTy t) (tyWidth t) x).natAbs : Int)) := by
  rw [Machine.absNegElem, h.notFloat]
  rfl

/-- Settles O30: a form's element is the exact integer result, brought into its format by `intToInt`. -/
theorem vectorIntegers : Obligations.VectorIntegers := by
  intro s tn d a b p t m k u hturn h6 h11 hm w tl value lo hi ea eb ed wrapped sat q hq
  have ht : IntTy t := ⟨h6, h11⟩
  have hw : tyWidth t = w := ht.width
  have hlo : intLeast (isSignedTy t) (tyWidth t) = lo := by simp only [intLeast, ht.signed, hw]; rfl
  have hhi : intGreatest (isSignedTy t) (tyWidth t) = hi := by simp only [intGreatest, ht.signed, hw]; rfl
  have hvalue (x : Nat) : intValue (isSignedTy t) (tyWidth t) x = value x := by
    rw [intValue_eq _ ht.width_pos, hw]; simp only [ht.signed]; rfl
  have hwrapped (st : Bool) (x : Int) : intToInt (isSignedTy t) (tyWidth t) st x = wrapped st x := by rw [intToInt_eq, hlo, hhi, hw]
  have hlat := ht.addLatency
  have harith (op : VArith) (i : Instr) (l : Nat) (hexec : exec i s = .next (s.vArith op l d a b p t m)) :
      s.VElements tn d w p tl.seeds ⟨i, m.getLsbD 3, [a, b], l, fun e => wrapped sat (arithInt op (ea e) (eb e) (ed e))⟩ := by
    refine hw ▸ hturn.drawless ht.width_pos (fun tl flush e draw => arithElem op t m flush draw (elem (tyWidth t) (tl.vread a) e) (elem (tyWidth t) (tl.vread b) e)
      (elem (tyWidth t) (tl.vold d) e)) (hexec.trans ?_) fun e draw => ?_
    · simp only [State.vArith, ht.notFloat, Bool.false_and]
    · rw [ht.arithElem op m hm, hvalue, hvalue, hvalue, hwrapped, hw]
  have hminMax (isMax : Bool) (i : Instr) (hexec : exec i s = .next (s.vMinMax isMax d a b p t k)) : s.VElements tn d w p tl.seeds
      ⟨i, pk k, [a, b], 2, fun e => wrapped false (if isMax = true then max (ea e) (eb e) else min (ea e) (eb e))⟩ := by
    refine hw ▸ hturn.drawless ht.width_pos (fun tl flush e _ => minMaxElem isMax t flush (elem (tyWidth t) (tl.vread a) e) (elem (tyWidth t) (tl.vread b) e))
      (hlat ▸ hexec) fun e draw => ?_
    rw [ht.minMaxElem isMax _ (elem_lt _ _ _) (elem_lt _ _ _), hvalue, hvalue, hwrapped, hw]
  have habsNeg (isNeg : Bool) (i : Instr) (hexec : exec i s = .next (s.vUnary 2 d a p t k (absNegElem isNeg t (u == 1)))) : s.VElements tn d w p
      tl.seeds ⟨i, pk k, [a], 2, fun e => wrapped (u == 1) (if isNeg = true then -ea e else ((ea e).natAbs : Int))⟩ := by
    refine hw ▸ hturn.drawless ht.width_pos (fun tl _ e _ => absNegElem isNeg t (u == 1) (elem (tyWidth t) (tl.vread a) e)) hexec fun e draw => ?_
    rw [ht.absNegElem, hvalue, hwrapped, hw]
  simp only [List.mem_cons, List.not_mem_nil, or_false] at hq
  rcases hq with rfl | rfl | rfl | rfl | rfl | rfl | rfl | rfl | rfl
  · exact harith .add _ _ (hlat ▸ rfl)
  · exact harith .sub _ _ (hlat ▸ rfl)
  · exact harith .mul _ _ rfl
  · exact harith .fma _ _ rfl
  · exact harith .fms _ _ rfl
  · exact hminMax false _ rfl
  · exact hminMax true _ rfl
  · exact habsNeg false _ rfl
  · exact habsNeg true _ rfl

end Sys2Proof.Machine

/-! ## The V stream: signs, minimum and maximum of floats (R132, R151, R152) -/

namespace Sys2Proof.Machine

/-- The format of a float type code has its width. -/
theorem floatOf_width {t : BitVec 4} (h : t.toNat ≤ 2) : (floatOf t).width = tyWidth t ∧ (floatOf t).Regular := by
  have hmem : floatOf t ∈ [f32, bf16, f16, e4m3, e5m2, e2m1] := by revert t; decide
  exact ⟨by revert t; decide, regular_of_mem hmem⟩

/-- A code of a format with a zero exponent is flushed to a zero of its sign. -/
theorem FloatFormat.Regular.flushed_eq {f : FloatFormat} (hf : f.Regular) (flush : Bool) {x : Nat} (hx : x < 2 ^ f.width) :
    f.flushed flush x = if flush = true ∧ x / 2 ^ f.man % 2 ^ f.exp = 0 then x / 2 ^ (f.width - 1) * 2 ^ (f.width - 1) else x := by
  have hw := hf.width_eq
  have hman := hf.man_pos
  have hexp : bits x (f.width - 2) f.man = x / 2 ^ f.man % 2 ^ f.exp := by
    rw [bits, show f.width - 2 + 1 - f.man = f.exp by omega]
  have hsign : bits x (f.width - 1) (f.width - 1) = x / 2 ^ (f.width - 1) := by
    rw [bits, show f.width - 1 + 1 - (f.width - 1) = 1 by omega]
    refine Nat.mod_eq_of_lt (Nat.div_lt_of_lt_mul ?_)
    rwa [← Nat.pow_add, show f.width - 1 + 1 = f.width by omega]
  simp only [FloatFormat.flushed, hexp, hsign, Bool.and_eq_true, beq_iff_eq]

/-- R151 in one expression. -/
theorem minMax_eq (isMax : Bool) (a b : Val) (xa xb canonical : Nat) : minMax isMax a b xa xb canonical =
    (if a.isNan = true ∧ b.isNan = true then canonical
      else if a.isNan = true then xb
      else if b.isNan = true then xa
      else if (ltVal a b || (!ltVal b a && a.neg && !b.neg)) = isMax then xb else xa,
      if a.signals = true ∨ b.signals = true then flagNV else 0) := by
  have hflags : flagIf (a.signals || b.signals) flagNV = if a.signals = true ∨ b.signals = true then flagNV else 0 := by
    simp only [flagIf, Bool.or_eq_true]
  unfold minMax
  simp only [hflags]
  cases a <;> cases b <;> simp only [Val.isNan, Bool.false_eq_true, and_self, and_false, false_and, if_true, if_false]

/-- The sign bit changes by an addition without its carry. -/
theorem xor_signBit {n x : Nat} (hx : x < 2 ^ (n + 1)) : x ^^^ 2 ^ n = (x + 2 ^ n) % 2 ^ (n + 1) := by
  refine Nat.eq_of_testBit_eq fun i => ?_
  rw [Nat.testBit_xor, Nat.testBit_two_pow, Nat.testBit_mod_two_pow, Nat.add_comm x]
  rcases Nat.lt_trichotomy i n with h | h | h
  · rw [decide_eq_false (by omega), Bool.xor_false, Nat.testBit_two_pow_add_gt h, decide_eq_true (by omega : i < n + 1), Bool.true_and]
  · rw [h, decide_eq_true rfl, Bool.xor_true, Nat.testBit_two_pow_add_eq, decide_eq_true (Nat.lt_succ_self n), Bool.true_and]
  · have hxi : x.testBit i = false := Nat.testBit_lt_two_pow (hx.trans_le (Nat.pow_le_pow_right Nat.two_pos h))
    rw [hxi, decide_eq_false (by omega), decide_eq_false (by omega)]
    rfl

/-- Settles O32: `minMax` picks one of the two codes, and the sign forms touch the sign bit alone. -/
theorem vectorFloatSigns : Obligations.VectorFloatSigns := by
  intro s tn d a b p t k hturn ht w f tl flush xa xb va vb less flushed pick q hq
  have hw : tyWidth t = w := tyWidth_float ht
  have hf : floatOf t = f := floatOf_float ht
  have hpos : 0 < w := by show 0 < if t = 0 then 32 else 16; split <;> decide
  have hfloat := isFloatTy_float ht
  have hlat : addLatency t = 4 := if_pos hfloat
  obtain ⟨hwidth, hregular⟩ := floatOf_width ht
  rw [hf] at hwidth hregular
  have hflushed {x : Nat} (hx : x < 2 ^ w) : f.flushed flush x = flushed x := by
    rw [hregular.flushed_eq flush (hwidth ▸ hw ▸ hx), hwidth, hw]
  have hminMax (isMax : Bool) (i : Instr) (hexec : exec i s = .next (s.vMinMax isMax d a b p t k)) :
      s.VElements tn d w p tl.seeds ⟨i, pk k, [a, b], 4, pick isMax⟩ := by
    refine hturn.drawless hpos (fun tl flush e _ => minMaxElem isMax t flush (elem w (tl.vread a) e) (elem w (tl.vread b) e))
      (by rw [hexec, State.vMinMax, hlat, hw]) fun e _ => ?_
    rw [minMaxElem, hfloat]
    show minMax isMax _ _ _ _ _ = _
    rw [hf, hflushed (elem_lt _ _ _), hflushed (elem_lt _ _ _), minMax_eq]
  have hsign (isNeg : Bool) (i : Instr) (hexec : exec i s = .next (s.vUnary 2 d a p t k (absNegElem isNeg t false))) :
      s.VElements tn d w p tl.seeds ⟨i, pk k, [a], 2, fun e => (if isNeg = true then (xa e + 2 ^ (w - 1)) % 2 ^ w else xa e % 2 ^ (w - 1), 0)⟩ := by
    refine hturn.drawless hpos (fun tl _ e _ => absNegElem isNeg t false (elem w (tl.vread a) e)) (by rw [hexec, State.vUnary, hw]) fun e _ => ?_
    have hlt : xa e < 2 ^ (w - 1 + 1) := by rw [Nat.sub_add_cancel hpos]; exact elem_lt _ _ _
    have hxor := xor_signBit hlt
    rw [Nat.sub_add_cancel hpos] at hxor
    rw [absNegElem, hfloat, hw, ← hxor]
    rfl
  simp only [List.mem_cons, List.not_mem_nil, or_false] at hq
  rcases hq with rfl | rfl | rfl | rfl
  · exact hminMax false _ rfl
  · exact hminMax true _ rfl
  · exact hsign false _ rfl
  · exact hsign true _ rfl

end Sys2Proof.Machine

/-! ## The V stream: logic, shifts and moves (R154 to R156, R166 to R168) -/

namespace Sys2Proof.Machine

theorem tyWidth_mem {t : BitVec 4} (h12 : t ≠ 12) (h15 : t ≠ 15) : tyWidth t ∈ [4, 8, 16, 32] := by
  revert t; decide

theorem tyWidth_pos {t : BitVec 4} (h12 : t ≠ 12) (h15 : t ≠ 15) : 0 < tyWidth t := by
  have h := tyWidth_mem h12 h15
  simp only [List.mem_cons, List.not_mem_nil, or_false] at h
  omega

/-! ### Elements as bit vectors -/

theorem toNat_ofNat_elem (w : Nat) (v : VReg) (e : Nat) : (BitVec.ofNat w (elem w v e)).toNat = elem w v e := by
  rw [BitVec.toNat_ofNat, Nat.mod_eq_of_lt (elem_lt w v e)]

/-- The bits of a that b lacks. -/
theorem andNot_toNat {w : Nat} (a b : BitVec w) : (a &&& ~~~b).toNat = a.toNat - (a.toNat &&& b.toNat) := by
  have hdisjoint : (a &&& b) &&& (a &&& ~~~b) = 0#w := by
    ext i hi
    simp only [BitVec.getElem_and, BitVec.getElem_not, BitVec.getElem_zero]
    cases a[i] <;> cases b[i] <;> rfl
  have hunion : (a &&& b) ||| (a &&& ~~~b) = a := by
    ext i hi
    simp only [BitVec.getElem_or, BitVec.getElem_and, BitVec.getElem_not]
    cases a[i] <;> cases b[i] <;> rfl
  have hsum := BitVec.toNat_add_of_and_eq_zero hdisjoint
  rw [BitVec.add_eq_or_of_and_eq_zero _ _ hdisjoint, hunion, BitVec.toNat_and] at hsum
  omega

theorem shiftElem_sll {w x : Nat} (h : Nat) : shiftElem .sll w h x = (BitVec.ofNat w x <<< h).toNat := by
  rw [BitVec.toNat_shiftLeft, BitVec.toNat_ofNat, Nat.shiftLeft_eq, Nat.mod_mul_mod, shiftElem]
  split
  · next hw => rw [Nat.mod_eq_zero_of_dvd (Dvd.dvd.mul_left (Nat.pow_dvd_pow 2 hw) x)]
  · rfl

theorem shiftElem_srl {w x : Nat} (h : Nat) (hx : x < 2 ^ w) : shiftElem .srl w h x = (BitVec.ofNat w x >>> h).toNat := by
  rw [BitVec.toNat_ushiftRight, BitVec.toNat_ofNat, Nat.mod_eq_of_lt hx, Nat.shiftRight_eq_div_pow, shiftElem]
  split
  · next hw => exact (Nat.div_eq_of_lt (hx.trans_le (Nat.pow_le_pow_right Nat.two_pos hw))).symm
  · rfl

/-- A shift by the width or more leaves copies of the sign. -/
theorem sshiftRight_min {w : Nat} (x : BitVec w) (h : Nat) : x.sshiftRight (min h w) = x.sshiftRight h := by
  rcases Nat.le_total h w with hw | hw
  · rw [min_eq_left hw]
  · ext i hi
    rw [min_eq_right hw, BitVec.getElem_sshiftRight, BitVec.getElem_sshiftRight, dif_neg (by omega), dif_neg (by omega)]

theorem shiftElem_sra {w x : Nat} (hw : 0 < w) (h : Nat) : shiftElem .sra w h x = ((BitVec.ofNat w x).sshiftRight h).toNat := by
  rw [← sshiftRight_min, sshiftRight_eq_ofInt, ← ofSigned_eq_ofInt, ← toSigned_eq_toInt hw, shiftElem]
  push_cast
  rfl

/-! ### Words that give a single result -/

/-- A vsel writes all elements. -/
theorem State.BlockTurn.selects {s : State} {tn : BitVec 6} (h : s.BlockTurn tn .v) (d a b : BitVec 5) (p : BitVec 3) (t : BitVec 4)
    (k : BitVec 1) (hw : 0 < tyWidth t) {taken : Tile} (htaken : ((s.tile tn).atIssue .v).takeSources (pk k) [a, b] [d] = .ok taken) :
    let tl := (s.tile tn).atIssue .v
    ∃ t', exec (.vsel d a b p t k) s = .next t' ∧ s.VGives t' tn 1 2 taken [toDest d (ofElems (tyWidth t) ((List.range (2048 / tyWidth t)).map
      fun e => if (tl.preg p).getLsbD (e * tyWidth t / 4) = true then elem (tyWidth t) (tl.vread a) e else elem (tyWidth t) (tl.vread b) e))] 0 := by
  refine ⟨_, rfl, h.gives 1 2 ?_⟩
  dsimp only
  rw [Tile.vmap_written htaken hw]
  simp only [Tile.takeSources_withSeeds htaken, if_true, BitVec.ofNat_eq_ofNat, BitVec.or_zero, Bool.false_eq_true, if_false, List.foldl_fixed]
  rfl

/-- Settles O34: every element is a bit operation on the elements of the sources. -/
theorem vectorLogic : Obligations.VectorLogic := by
  intro s tn d a b p pa t j k i hturn h12 h15 w tl pr ea eb h shifted bits
  have hw : 0 < w := tyWidth_pos h12 h15
  have hea (e : Nat) : (ea e).toNat = elem w (tl.vread a) e := toNat_ofNat_elem w _ e
  have heb (e : Nat) : (eb e).toNat = elem w (tl.vread b) e := toNat_ofNat_elem w _ e
  have hbinary (f : Nat → Nat → Nat) (g : BitVec w → BitVec w → BitVec w) (x : Instr) (hexec : exec x s = .next (s.vBinary d a b p t k f))
      (hfg : ∀ e, f (ea e).toNat (eb e).toNat = (g (ea e) (eb e)).toNat) :
      s.VElements tn d w p tl.seeds ⟨x, pk k, [a, b], 2, fun e => bits (g (ea e) (eb e))⟩ := by
    refine hturn.drawless hw (fun tl _ e _ => (f (elem w (tl.vread a) e) (elem w (tl.vread b) e), 0)) hexec fun e _ => ?_
    rw [← hea, ← heb, hfg]
  have hunary (f : Nat → Nat) (g : BitVec w → BitVec w) (x : Instr) (hexec : exec x s = .next (s.vUnary 2 d a p t k fun x => (f x, 0)))
      (hfg : ∀ e, f (ea e).toNat = (g (ea e)).toNat) : s.VElements tn d w p tl.seeds ⟨x, pk k, [a], 2, fun e => bits (g (ea e))⟩ := by
    refine hturn.drawless hw (fun tl _ e _ => (f (elem w (tl.vread a) e), 0)) hexec fun e _ => ?_
    rw [← hea, hfg]
  have hshift (op : VShift) (g : BitVec w → Nat → BitVec w) (x : Instr) (hexec : exec x s = .next (s.vShift op d a b p t k i))
      (hfg : ∀ e n, shiftElem op w n (elem w (tl.vread a) e) = (g (ea e) n).toNat) :
      s.VElements tn d w p tl.seeds ⟨x, pk k, shifted, 2, fun e => bits (g (ea e) (h e))⟩ :=
    hturn.drawless hw (fun tl _ e _ => (shiftElem op w (if i = 1 then b.toNat else elem w (tl.vread b) e % 32) (elem w (tl.vread a) e), 0)) hexec
      fun e _ => congrArg (·, 0) (hfg e _)
  refine ⟨fun q hq => ?_, fun _ _ q hq => ?_, fun _ => ?_, fun taken htaken => ?_, fun taken htaken => ?_, fun taken htaken => ?_, ?_⟩
  · simp only [List.mem_cons, List.not_mem_nil, or_false] at hq
    rcases hq with rfl | rfl | rfl | rfl | rfl | rfl
    · exact hbinary _ (· &&& ·) _ rfl fun e => (BitVec.toNat_and _ _).symm
    · exact hbinary _ (· ||| ·) _ rfl fun e => (BitVec.toNat_or _ _).symm
    · exact hbinary _ (· ^^^ ·) _ rfl fun e => (BitVec.toNat_xor _ _).symm
    · exact hbinary _ (· &&& ~~~·) _ rfl fun e => (andNot_toNat _ _).symm
    · exact hunary _ (~~~·) _ rfl fun e => BitVec.toNat_not.symm
    · exact hunary _ (·) _ rfl fun e => rfl
  · simp only [List.mem_cons, List.not_mem_nil, or_false] at hq
    rcases hq with rfl | rfl | rfl | rfl
    · exact hshift .sll (· <<< ·) _ rfl fun e n => shiftElem_sll n
    · exact hshift .srl (· >>> ·) _ rfl fun e n => shiftElem_srl n (elem_lt _ _ _)
    · exact hshift .sra BitVec.sshiftRight _ rfl fun e n => shiftElem_sra hw n
    · refine hturn.drawless hw (fun tl _ e _ => ((elem w (tl.vread a) 0 + e) % 2 ^ w, 0)) rfl fun e _ => congrArg (·, 0) ?_
      rw [BitVec.toNat_add, hea, BitVec.toNat_ofNat, Nat.add_mod_mod]
  · refine hturn.drawless hw (fun tl _ _ _ => (elem w (tl.vread a) (b.toNat * 16 + j.toNat), 0)) rfl fun _ _ => congrArg (·, 0) ?_
    rw [← hea]
  · simp only [hea, heb]
    exact hturn.selects d a b p t k hw htaken
  · refine ⟨_, rfl, hturn.gives 1 2 ?_⟩
    rw [htaken]
    show Except.ok (taken, [toDest d ((tl.preg pa).setWidth 2048)], 0) = _
    rw [setWidth_eq_ofNat]
  · refine ⟨_, rfl, hturn.gives 1 2 ?_⟩
    rw [htaken]
    show Except.ok (taken, [Late.preg pa ((tl.vread a).setWidth 512)], 0) = _
    rw [setWidth_eq_ofNat]
  · have hends := hturn.gives (b.toNat + 1) (b.toNat + 1) (f := fun tl _ => .ok (tl, [], 0)) rfl
    rw [State.VGives, Tile.results] at hends
    refine ⟨_, rfl, ?_⟩
    simpa using hends

end Sys2Proof.Machine

/-! ## The V stream: rearrangement (R163 to R165) -/

namespace Sys2Proof.Machine

/-- Settles O38: the element-wise forms take their element from another place, and vtr reads its group before it writes. -/
theorem vectorRearrange : Obligations.VectorRearrange := by
  intro s tn d a b p t k h hturn w n m tl ea eb transposed
  refine ⟨fun h12 h15 => ?_, fun _ _ => ?_, fun _ _ => ?_⟩
  · have hw : 0 < w := tyWidth_pos h12 h15
    refine ⟨fun _ => ?_, ?_, ?_⟩
    · exact hturn.drawless hw (fun tl _ e _ => (if elem w (tl.vread b) e < n then elem w (tl.vread a) (elem w (tl.vread b) e) else 0, 0)) rfl
        fun _ _ => rfl
    · refine hturn.drawless hw (fun tl _ e _ => (elem w (if e % 2 = 0 then tl.vread a else tl.vread b) (h.toNat * m + e / 2), 0)) rfl
        fun e _ => congrArg (·, 0) ?_
      split <;> rfl
    · exact hturn.drawless hw (fun tl _ e _ => (if e < m then elem w (tl.vread a) (2 * e + h.toNat) else elem w (tl.vread b) (2 * (e - m) + h.toNat), 0))
        rfl fun _ _ => rfl
  · exact ⟨_, rfl, hturn.gives 8 10 rfl⟩
  · exact ⟨_, rfl, hturn.gives 4 8 rfl⟩

end Sys2Proof.Machine

/-! ## The V stream: what a word's step leaves of the package (R10, R149, R242) -/

namespace Sys2Proof.Machine

theorem State.onTile_byte (s : State) (t : BitVec 6) (f : Tile → Tile) (p : Nat) : (s.onTile t f).byte p = s.byte p := rfl
theorem State.setTile_byte (s : State) (t : BitVec 6) (u : Tile) (p : Nat) : (s.setTile t u).byte p = s.byte p := rfl

section
variable {s : State} {tn : BitVec 6} {x : BStream} (h : s.BlockTurn tn x) (c l : Nat)
include h

theorem State.BlockTurn.notFrozen : ¬(((s.tile tn).stream x).exposed && (s.tile tn).frozenAt ((s.tile tn).stream x).nextTc) = true := by
  rcases h.clock with h | h <;> simp [h]

/-- What a word's step becomes by its effect on the state at its issue. -/
theorem State.BlockTurn.issue_eq (f : BitVec 6 → BStream → State → Res State) : s.blockIssue c l f =
    match f tn x (s.setTile tn ((s.tile tn).atIssue x)) with
    | .ok t => (t.dropReads (streamAsker tn x)).onTile tn fun u => u.issued x c l
    | .error e => (s.setTile tn ((s.tile tn).atIssue x)).blockBad tn x ((s.tile tn).stream x).body e := by
  unfold State.blockIssue
  rw [State.block?, h.cur]
  dsimp only
  rw [if_neg h.notFrozen, State.onTile] <;> rfl

/-- A word that takes effect moves its stream on in the state it leaves. -/
theorem State.BlockTurn.issues {f : BitVec 6 → BStream → State → Res State} {t : State}
    (hf : f tn x (s.setTile tn ((s.tile tn).atIssue x)) = .ok t) (ht : t.fabric = s.fabric) :
    s.blockIssue c l f = t.onTile tn fun u => u.issued x c l := by
  rw [h.issue_eq, hf]
  dsimp only
  rw [State.dropReads_none (by rw [ht]; exact h.alone)]

/-- A word without effect whose trap no error in memory causes. -/
theorem State.BlockTurn.faults {f : BitVec 6 → BStream → State → Res State} {cause : Byte} {val : W64}
    (hf : f tn x (s.setTile tn ((s.tile tn).atIssue x)) = .error (.trap cause val)) :
    s.BlockFaults (s.blockIssue c l f) tn x cause ((s.tile tn).stream x).body := by
  have hissue : s.blockIssue c l f = s.setTile tn (((s.tile tn).atIssue x).blockFault x cause ((s.tile tn).stream x).body) := by
    rw [h.issue_eq, hf]
    refine (State.blockFail_setTile cause _ ?_).trans ?_
    · exact h.alone
    · rw [State.setTile_tile, State.setTile_setTile]
  rw [hissue]
  exact s.setTile_becomes tn _

end

/-- The trap of a V word that touches only its tile. -/
theorem State.BlockTurn.faultsTile {s : State} {tn : BitVec 6} (h : s.BlockTurn tn .v) (c l : Nat) {f : Tile → Bool → Res VEffect}
    {cause : Byte} {val : W64} (hf : f ((s.tile tn).atIssue .v) ((s.tile tn).atIssue .v).v.exposed = .error (.trap cause val)) :
    s.BlockFaults (s.vIssue c l f) tn .v cause ((s.tile tn).stream .v).body := by
  refine h.faults c l (val := val) ?_
  rw [State.setTile_tile]
  show (f _ ((s.tile tn).atIssue .v).v.exposed >>= _) = _
  rw [hf]
  rfl

/-- The tile at the issue of an interlocked word is the tile before it. -/
theorem Tile.atIssue_interlocked {t : Tile} {x : BStream} (h : (t.stream x).exposed = false) : t.atIssue x = t :=
  if_neg (by rw [h]; exact Bool.false_ne_true)

/-- How a stream goes on depends on nothing but the stream and the windows. -/
theorem Tile.issued_stream_congr {t u : Tile} {x : BStream} (c l : Nat) (hs : u.stream x = t.stream x) (hw : u.windows = t.windows) :
    (u.issued x c l).stream x = (t.issued x c l).stream x := by
  simp only [Tile.issued, Tile.ringEnds, Tile.ringOf, Tile.window, Tile.stream_setStream, hs, hw]

end Sys2Proof.Machine

/-! ## The V stream: comparisons, votes, counts, seeds and patches (R153, R169, R178 to R180) -/

namespace Sys2Proof.Machine

/-! ### Numbers by their bits -/

/-- A sum of distinct powers of two has just these bits. -/
theorem sum_two_pow_testBit (g : Nat → Bool) (n i : Nat) :
    ((List.range n).map fun j => if g j = true then 2 ^ j else 0).sum.testBit i = (decide (i < n) && g i) := by
  have hbits (n : Nat) : ((List.range n).map fun j => if g j = true then 2 ^ j else 0).sum < 2 ^ n ∧
      ∀ i, ((List.range n).map fun j => if g j = true then 2 ^ j else 0).sum.testBit i = (decide (i < n) && g i) := by
    induction n with
    | zero => simp
    | succ n ih =>
      obtain ⟨hlt, hbit⟩ := ih
      have hlt' : ((List.range (n + 1)).map fun j => if g j = true then 2 ^ j else 0).sum < 2 ^ (n + 1) := by
        rw [List.range_succ, List.map_append, List.sum_append, List.map_singleton, List.sum_singleton, Nat.pow_succ]
        split <;> omega
      refine ⟨hlt', fun i => ?_⟩
      rcases Nat.lt_or_ge n i with hi | hi
      · rw [Nat.testBit_lt_two_pow (hlt'.trans_le (Nat.pow_le_pow_right Nat.two_pos hi)), decide_eq_false (by omega), Bool.false_and]
      · rw [decide_eq_true (by omega), Bool.true_and, List.range_succ, List.map_append, List.sum_append, List.map_singleton, List.sum_singleton]
        rcases Nat.lt_or_eq_of_le hi with hi | rfl
        · have hsame := hbit i
          rw [decide_eq_true hi, Bool.true_and] at hsame
          split
          · rw [Nat.add_comm, Nat.testBit_two_pow_add_gt hi, hsame]
          · rw [Nat.add_zero, hsame]
        · cases hg : g i
          · rw [if_neg Bool.false_ne_true, Nat.add_zero, Nat.testBit_lt_two_pow hlt]
          · rw [if_pos rfl, Nat.add_comm, Nat.testBit_two_pow_add_eq, Nat.testBit_lt_two_pow hlt]
            rfl
  exact (hbits n).2 i

/-- The number that a list of digits of k bits stands for, least first. -/
def ofDigits (k : Nat) (l : List Nat) : Nat := l.foldr (fun x acc => acc * 2 ^ k + x) 0

theorem ofDigits_testBit {k : Nat} (hk : 0 < k) {l : List Nat} (hl : ∀ x ∈ l, x < 2 ^ k) (i : Nat) :
    (ofDigits k l).testBit i = (l[i / k]?.getD 0).testBit (i % k) := by
  induction l generalizing i with
  | nil => simp [ofDigits]
  | cons x l ih =>
    have hx : x < 2 ^ k := hl x List.mem_cons_self
    have hrest := ih fun y hy => hl y (List.mem_cons_of_mem _ hy)
    show (ofDigits k l * 2 ^ k + x).testBit i = _
    rw [Nat.mul_comm, Nat.testBit_two_pow_mul_add _ hx]
    rcases Nat.lt_or_ge i k with hi | hi
    · rw [if_pos hi, Nat.div_eq_of_lt hi, Nat.mod_eq_of_lt hi]
      rfl
    · have hdiv : i / k = (i - k) / k + 1 := by rw [← Nat.add_div_right _ hk, Nat.sub_add_cancel hi]
      rw [if_neg (by omega), hrest, hdiv, List.getElem?_cons_succ, ← Nat.mod_eq_sub_mod hi]

/-! ### Predicates of elements (R14, R153) -/

/-- A predicate whose w / 4 bits at each element are equal. -/
theorem predicate_of_elements {w : Nat} (hw : w ∈ [4, 8, 16, 32]) (g : Nat → Bool) :
    BitVec.ofNat 512 (ofDigits (w / 4) ((List.range (2048 / w)).map fun e => if g e = true then 2 ^ (w / 4) - 1 else 0)) =
      BitVec.ofNat 512 ((List.range 512).map fun j => if g (4 * j / w) = true then 2 ^ j else 0).sum := by
  obtain ⟨k, hk, rfl, hcount⟩ : ∃ k, 0 < k ∧ w = 4 * k ∧ 512 = 2048 / w * k := by
    simp only [List.mem_cons, List.not_mem_nil, or_false] at hw
    rcases hw with rfl | rfl | rfl | rfl
    exacts [⟨1, by decide⟩, ⟨2, by decide⟩, ⟨4, by decide⟩, ⟨8, by decide⟩]
  rw [Nat.mul_div_cancel_left k (by decide)]
  have hpow : 0 < 2 ^ k := Nat.two_pow_pos k
  refine BitVec.eq_of_getLsbD_eq fun i hi => ?_
  have hdiv : i / k < 2048 / (4 * k) := Nat.div_lt_of_lt_mul (by rw [Nat.mul_comm]; omega)
  have hmod : i % k < k := Nat.mod_lt i hk
  rw [BitVec.getLsbD_ofNat, BitVec.getLsbD_ofNat, sum_two_pow_testBit (fun j => g (4 * j / (4 * k))), ofDigits_testBit hk fun x hx => ?_,
    List.getElem?_map, List.getElem?_range hdiv, decide_eq_true hi, Bool.true_and, Bool.true_and, Bool.true_and,
    Nat.mul_div_mul_left i k (by decide)]
  · dsimp only [Option.map_some, Option.getD_some]
    cases g (i / k)
    · rw [if_neg Bool.false_ne_true, Nat.zero_testBit]
    · rw [if_pos rfl, Nat.testBit_two_pow_sub_one, decide_eq_true hmod]
  · obtain ⟨e, -, rfl⟩ := List.mem_map.1 hx
    split <;> omega

/-- The flag that some governed element raises. -/
theorem foldl_flag (gov c : Nat → Bool) (fl : Flags) (l : List Nat) :
    l.foldl (fun acc e => if gov e = true then acc ||| (if c e = true then fl else 0) else acc) 0 =
      if (l.any fun e => gov e && c e) = true then fl else 0 := by
  have hacc (a : Flags) : l.foldl (fun acc e => if gov e = true then acc ||| (if c e = true then fl else 0) else acc) a =
      a ||| if (l.any fun e => gov e && c e) = true then fl else 0 := by
    induction l generalizing a with
    | nil => simp
    | cons e l ih =>
      rw [List.foldl_cons, ih, List.any_cons]
      cases gov e <;> cases c e <;> cases l.any fun e => gov e && c e <;> simp [BitVec.or_assoc]
  rw [hacc]
  exact BitVec.zero_or

/-! ### Relations (R153) -/

/-- The relation cc of two ordered values. -/
def ccHolds (cc : Nat) (eq lt gt : Bool) : Bool :=
  match cc with
  | 0 => eq | 1 => !eq | 2 => lt | 3 => !gt | 4 => gt | 5 => !lt | _ => false

theorem cmpElem_float {t : BitVec 4} (h : t.toNat ≤ 2) {c : Nat} (hc : c ≤ 6) {flush : Bool} {a b : Nat} {x y : Val}
    (hx : (floatOf t).value flush a = x) (hy : (floatOf t).value flush b = y) : cmpElem t c flush a b =
      (if (x.isNan || y.isNan) = true then decide (c = 1 ∨ c = 6) else ccHolds c (!ltVal x y && !ltVal y x) (ltVal x y) (ltVal y x),
        if (if 2 ≤ c ∧ c ≤ 5 then x.isNan || y.isNan else x.signals || y.signals) = true then flagNV else 0) := by
  have hc' : c ∈ [0, 1, 2, 3, 4, 5, 6] := by simp only [List.mem_cons, List.not_mem_nil, or_false]; omega
  unfold cmpElem
  rw [isFloatTy_float h, if_pos rfl]
  dsimp only
  rw [hx, hy]
  refine Prod.ext ?_ ?_
  · dsimp only
    generalize (x.isNan || y.isNan) = un
    generalize ltVal x y = lt
    generalize ltVal y x = gt
    simp only [List.mem_cons, List.not_mem_nil, or_false] at hc'
    rcases hc' with rfl | rfl | rfl | rfl | rfl | rfl | rfl <;> revert un lt gt <;> decide
  · simp only [flagIf, decide_eq_true_eq]

theorem IntTy.cmpElem {t : BitVec 4} (h : IntTy t) {c : Nat} (hc : c ≤ 5) (flush : Bool) {a b : Nat} {x y : Int}
    (hx : intValue (isSignedTy t) (tyWidth t) a = x) (hy : intValue (isSignedTy t) (tyWidth t) b = y) :
    cmpElem t c flush a b = (ccHolds c (x == y) (decide (x < y)) (decide (y < x)), 0) := by
  have hc' : c ∈ [0, 1, 2, 3, 4, 5] := by simp only [List.mem_cons, List.not_mem_nil, or_false]; omega
  unfold Machine.cmpElem
  rw [h.notFloat, if_neg Bool.false_ne_true]
  simp only [hx, hy, List.mem_cons, List.not_mem_nil, or_false] at hc' ⊢
  rcases hc' with rfl | rfl | rfl | rfl | rfl | rfl <;> refine Prod.ext (Bool.eq_iff_iff.2 ?_) rfl <;> simp [ccHolds]

/-- What a comparison gives: a predicate, 0 where not governed, and one flag. -/
theorem execVcmp_gives {s : State} {tn : BitVec 6} (h : s.BlockTurn tn .v) (pa : BitVec 3) (a b : BitVec 5) (p : BitVec 3) {t : BitVec 4}
    (hw : tyWidth t ∈ [4, 8, 16, 32]) (k : BitVec 1) (c : BitVec 3) {taken : Tile}
    (htaken : ((s.tile tn).atIssue .v).takeSources (pk k) [a, b] [] = .ok taken) (rel inv : Nat → Bool)
    {fl : Flags} (hfl : (if someGoverned (tyWidth t) (((s.tile tn).atIssue .v).preg p) inv = true then flagNV else 0) = fl) (hcmp : ∀ e, let tl := (s.tile tn).atIssue .v
      cmpElem t c.toNat tl.v.exposed (elem (tyWidth t) (tl.vread a) e) (elem (tyWidth t) (tl.vread b) e) =
        (rel e, if inv e = true then flagNV else 0)) :
    let tl := (s.tile tn).atIssue .v
    ∃ t', exec (.vcmp pa a b p t k c) s = .next t' ∧ s.VGives t' tn 1 3 taken
      [.preg pa (BitVec.ofNat 512 ((List.range 512).map fun j =>
        if (governed (tl.preg p) (tyWidth t) (4 * j / tyWidth t) && rel (4 * j / tyWidth t)) = true then 2 ^ j else 0).sum)] fl := by
  have hpos : 0 < tyWidth t := by simp only [List.mem_cons, List.not_mem_nil, or_false] at hw; omega
  refine ⟨_, rfl, h.gives 1 3 ?_⟩
  dsimp only
  rw [htaken, countOf, mapElems_eq false _ _ _ _ hpos (Nat.div_mul_le_self 2048 _)]
  simp only [elemsBefore, hcmp]
  rw [foldl_flag, ← predicate_of_elements hw fun e => governed (((s.tile tn).atIssue .v).preg p) (tyWidth t) e && rel e]
  have hdigits (e : Nat) : (if governed (((s.tile tn).atIssue .v).preg p) (tyWidth t) e = true
      then (if rel e = true then 2 ^ (tyWidth t / 4) - 1 else 0) else 0) =
      if (governed (((s.tile tn).atIssue .v).preg p) (tyWidth t) e && rel e) = true then 2 ^ (tyWidth t / 4) - 1 else 0 := by
    cases governed (((s.tile tn).atIssue .v).preg p) (tyWidth t) e <;> rfl
  simp only [hdigits, ← hfl]
  rfl

/-! ### Votes (R178) -/

def Late.isVote : Late → Bool
  | .vote _ => true
  | _ => false

theorem Tile.voteCount_eq (t : Tile) : t.voteCount = t.votes.length + t.pending.countP fun p => p.what.isVote := by
  have hvote (p : Pending) : (match p.what with | .vote _ => true | _ => false) = p.what.isVote := by
    cases p.what <;> rfl
  rw [← funext hvote]
  rfl

/-- A result that is written changes what its kind names, with its dirty marks. -/
theorem Tile.applyLate_frame (t : Tile) (x : Late) : t.applyLate x = { t with
    vflags := (t.applyLate x).vflags, vregs := (t.applyLate x).vregs, pregs := (t.applyLate x).pregs, seeds := (t.applyLate x).seeds
    votes := (t.applyLate x).votes, queues := (t.applyLate x).queues, banks := (t.applyLate x).banks
    dirtyA := (t.applyLate x).dirtyA, dirtyB := (t.applyLate x).dirtyB } := by
  cases x <;> simp only [Tile.applyLate]
  case vreg => unfold Tile.setVreg; split <;> rfl
  case preg => unfold Tile.setPreg; split <;> rfl
  case push => rfl
  case acc => unfold Tile.setBank; split <;> rfl

theorem Tile.applyLate_pending (t : Tile) (x : Late) : (t.applyLate x).pending = t.pending := by rw [t.applyLate_frame]

theorem Tile.applyLate_windows (t : Tile) (x : Late) : (t.applyLate x).windows = t.windows := by rw [t.applyLate_frame]

theorem Tile.applyLate_votes (t : Tile) (x : Late) : (t.applyLate x).votes.length = t.votes.length + if x.isVote = true then 1 else 0 := by
  cases x <;> simp only [Tile.applyLate, Late.isVote, Bool.false_eq_true, if_false, if_true, Nat.add_zero]
  case vreg => unfold Tile.setVreg; split <;> rfl
  case preg => unfold Tile.setPreg; split <;> rfl
  case push => rfl
  case vote => exact List.length_append
  case acc => unfold Tile.setBank; split <;> rfl

theorem Tile.applyLates_votes (l : List Pending) (t : Tile) :
    (l.foldl (fun t p => t.applyLate p.what) t).votes.length = t.votes.length + l.countP fun p => p.what.isVote := by
  induction l generalizing t with
  | nil => rfl
  | cons p l ih => rw [List.foldl_cons, ih, Tile.applyLate_votes, List.countP_cons]; omega

theorem Tile.applyLates_pending (l : List Pending) (t : Tile) : (l.foldl (fun t p => t.applyLate p.what) t).pending = t.pending := by
  induction l generalizing t with
  | nil => rfl
  | cons p l ih => rw [List.foldl_cons, ih, Tile.applyLate_pending]

/-- A vote that is written leaves the results in flight for the queue: their number stays. -/
theorem Tile.write_voteCount (t : Tile) (f : Pending → Bool) : (t.write f).voteCount = t.voteCount := by
  have hsplit := List.countP_eq_countP_filter_add t.pending (fun p => p.what.isVote) f
  have hvotes := Tile.applyLates_votes (t.pending.filter f) { t with pending := t.pending.filter fun p => !f p }
  have hpending := Tile.applyLates_pending (t.pending.filter f) { t with pending := t.pending.filter fun p => !f p }
  rw [Tile.voteCount_eq, Tile.voteCount_eq, Tile.write, hvotes, hpending, hsplit]
  dsimp only
  rw [Nat.add_assoc, List.countP_filter]

theorem Tile.atIssue_voteCount (t : Tile) (x : BStream) : (t.atIssue x).voteCount = t.voteCount := by
  unfold Tile.atIssue
  dsimp only
  split
  · exact t.write_voteCount _
  · rfl

section
variable {s : State} {tn : BitVec 6} (h : s.BlockTurn tn .v)
include h

/-- A vote that finds room enters the queue. -/
theorem State.BlockTurn.votes (f : Tile → Bool) (hroom : ((s.tile tn).atIssue .v).voteCount < 16) :
    s.VGives (s.vVote f) tn 1 2 ((s.tile tn).atIssue .v) [.vote (f ((s.tile tn).atIssue .v))] 0 := by
  have hroom' : (s.tile tn).voteCount < 16 := by rwa [← Tile.atIssue_voteCount _ .v]
  have hissue : s.vVote f = s.vIssue 1 2 fun tl _ => if 16 ≤ tl.voteCount then .error .stall else .ok (tl, [.vote (f tl)], 0) := by
    unfold State.vVote
    rw [State.block?, h.cur]
    dsimp only
    rw [decide_eq_false (by omega), Bool.and_false, if_neg Bool.false_ne_true]
  rw [hissue]
  exact h.gives 1 2 (if_neg (by omega))

/-- A vote of an interlocked block to a full queue waits. -/
theorem State.BlockTurn.voteWaits (f : Tile → Bool) (hfull : (s.tile tn).votes.length = 16) (hx : (s.tile tn).v.exposed = false) :
    s.vVote f = s := by
  have hat : (s.tile tn).atIssue .v = s.tile tn := Tile.atIssue_interlocked hx
  have hcount : 16 ≤ (s.tile tn).voteCount := by rw [Tile.voteCount, hfull]; omega
  unfold State.vVote
  rw [State.block?, h.cur]
  dsimp only
  rw [show ((s.tile tn).stream .v).exposed = false from hx, Bool.false_and, Bool.false_and, if_neg Bool.false_ne_true, State.vIssue, h.issue_eq, hat,
    State.setTile_tile]
  dsimp only
  rw [if_pos hcount]
  exact s.setTile_same tn

end

/-! ### Seeds (R180) -/

/-- What vseed leaves of the seeds in an interlocked block. -/
theorem Tile.applyLate_seeds (t : Tile) (v : VReg) (g : Nat → Bool) :
    t.applyLate (.seeds v (BitVec.ofNat 64 ((List.range 64).map fun i => if g i = true then 2 ^ i else 0).sum)) =
      { t with seeds := Vector.ofFn fun (j : Fin 64) => if g j = true then BitVec.ofNat 32 (elem 32 v j) else t.seeds[j] } := by
  have hbit (j : Fin 64) : (BitVec.ofNat 64 ((List.range 64).map fun i => if g i = true then 2 ^ i else 0).sum).getLsbD j = g j := by
    rw [BitVec.getLsbD_ofNat, sum_two_pow_testBit, decide_eq_true j.isLt, Bool.true_and, Bool.true_and]
  have hlane (j : Nat) : BitVec.extractLsb' (32 * j) 32 v = BitVec.ofNat 32 (elem 32 v j) := by
    apply BitVec.eq_of_toNat_eq
    rw [BitVec.extractLsb'_toNat, toNat_ofNat_elem, elem, Nat.shiftRight_eq_div_pow]
  simp only [Tile.applyLate, hbit, hlane]

/-! ### Patches by the V stream (R88, R179) -/

theorem State.performKept_tile (s : State) (t : BitVec 6) (x : BStream) (gpa n : Nat) :
    s.performKept t x gpa n = s.onTile t fun u => if u.keptReads x gpa n = true then u.performAll x else u := by
  have hkept (v : Tile) (hv : v = if (s.tile t).keptReads x gpa n = true then (s.tile t).performAll x else s.tile t) :
      s.performKept t x gpa n = s.setTile t v := by
    subst hv
    unfold State.performKept
    split
    · rfl
    · exact (s.setTile_same t).symm
  exact hkept _ rfl

/-- A patched word fits in 32 bits. -/
theorem State.patch_lt {s : State} {t : BitVec 6} {a d k i off word : Nat} (h : s.patch t a d k i = .ok (off, word)) : word < 2 ^ 32 := by
  have hplace (depth : Nat) : (patchPlace k depth i).2.1 < 32 := by
    unfold patchPlace
    split <;> exact of_decide_eq_true rfl
  obtain ⟨-, -, h⟩ := bind_ok_iff.1 h
  obtain ⟨-, -, h⟩ := bind_ok_iff.1 h
  obtain ⟨w0, -, h⟩ := bind_ok_iff.1 h
  dsimp only at h
  obtain ⟨-, -, h⟩ := bind_ok_iff.1 h
  obtain ⟨-, -, h⟩ := bind_ok_iff.1 h
  obtain ⟨-, -, h⟩ := bind_ok_iff.1 h
  obtain ⟨-, -, h⟩ := bind_ok_iff.1 h
  obtain ⟨-, -, h⟩ := bind_ok_iff.1 h
  obtain ⟨old, -, h⟩ := bind_ok_iff.1 h
  obtain ⟨-, rfl⟩ := Prod.mk.inj (Except.ok.inj h)
  have hfield := patchPlace_field k (bits w0.toNat 23 21) i
  have hlt := hplace (bits w0.toNat 23 21)
  generalize patchPlace k (bits w0.toNat 23 21) i = q at hfield hlt ⊢
  refine Nat.lt_pow_two_of_testBit _ fun j hj => ?_
  have hbit := putBits_testBit old.toNat q.2.2 d (q.2.1 + 1 - q.2.2) j (by omega)
  rw [show q.2.2 + (q.2.1 + 1 - q.2.2) - 1 = q.2.1 by omega] at hbit
  rw [hbit, if_neg (by omega)]
  exact Nat.testBit_lt_two_pow (old.isLt.trans_le (Nat.pow_le_pow_right Nat.two_pos hj))

/-- A patch of the V stream whose checks pass is one store of 4 bytes. -/
theorem State.BlockTurn.vpatch {s : State} {tn : BitVec 6} (h : s.BlockTurn tn .v) {a : BitVec 5} {i k : BitVec 4} {taken : Tile}
    (htaken : ((s.tile tn).atIssue .v).takeSources false [a] [] = .ok taken) {off word : Nat}
    (hpatch : s.patch tn (laneOf (((s.tile tn).atIssue .v).vread a) 1) (laneOf (((s.tile tn).atIssue .v).vread a) 0) k.toNat i.toNat =
      .ok (off, word)) :
    exec (.vpatch a i k) s = .next (((s.setTile tn (if taken.keptReads .v (s.group (storeAddr tn off)) 4 = true then taken.performAll .v
      else taken)).put (storeAddr tn off) (leBytes 4 word)).onTile tn fun u => u.issued .v 1 1) := by
  refine congrArg Host.Outcome.next (h.issues 1 1 ?_ ?_)
  · rw [State.setTile_tile]
    show (Tile.takeSources _ _ _ _ >>= _) = _
    rw [htaken]
    show ((s.setTile tn _).setTile tn taken).doPatch tn (some .v) _ _ _ _ = _
    rw [State.setTile_setTile]
    show (State.patch s tn _ _ _ _ >>= _) = _
    rw [hpatch]
    show Except.ok (((s.setTile tn taken).performKept tn .v (s.group (storeAddr tn off)) (leBytes 4 word).length).put _ _) = _
    rw [State.performKept_tile, State.onTile, State.setTile_tile, State.setTile_setTile, length_leBytes]
  · rw [(State.put_stores _ _ _).fabric]
    rfl

/-- Settles O35: a comparison's predicate is its relation bit by bit, a vote and a count are over the governed elements, vseed masks the
lanes, and vpatch is one store. -/
theorem vectorPredicates : Obligations.VectorPredicates := by
  intro s tn d a b p pa t y z k c hturn w tl pr at_ bitsOf value ia ib f va vb holds unordered frel finv irel quiet votes
  have hholds (eq lt gt : Bool) : holds eq lt gt = ccHolds c.toNat eq lt gt := rfl
  refine ⟨fun taken htaken => ⟨fun ht hc => ?_, fun h6 h11 hc => ?_⟩, fun h12 h15 => ⟨fun taken htaken => ?_, fun hroom => ?_, fun hfull hx => ?_⟩,
    fun taken htaken => ⟨?_, fun off word hpatch => ?_⟩⟩
  · have hf : floatOf t = f := floatOf_float ht
    have hw : tyWidth t ∈ [4, 8, 16, 32] := by rw [tyWidth_float ht]; split <;> decide
    have hc6 : c.toNat ≤ 6 := by
      have h7 : c.toNat ≠ 7 := fun h => hc (BitVec.eq_of_toNat_eq h)
      omega
    exact execVcmp_gives hturn pa a b p hw k c htaken frel finv rfl fun e =>
      cmpElem_float ht hc6 (congrArg (fun f : FloatFormat => f.value _ _) hf) (congrArg (fun f : FloatFormat => f.value _ _) hf)
  · have ht : IntTy t := ⟨h6, h11⟩
    have hw : tyWidth t ∈ [4, 8, 16, 32] := by rw [ht.width]; split <;> [decide; split <;> decide]
    have hvalue (x : Nat) : intValue (isSignedTy t) (tyWidth t) x = value x := by
      rw [intValue_eq _ ht.width_pos]; simp only [ht.signed]; rfl
    have hnone : someGoverned (tyWidth t) (tl.preg p) (fun _ => false) = false := by simp [someGoverned]
    exact execVcmp_gives hturn pa a b p hw k c htaken irel (fun _ => false) (if_neg (by rw [hnone]; exact Bool.false_ne_true)) fun e =>
      ht.cmpElem hc _ (hvalue _) (hvalue _)
  · refine ⟨_, rfl, hturn.gives 1 3 ?_⟩
    rw [htaken]
    show Except.ok (taken, [toDest d (BitVec.ofNat 2048 (countTrue (tl.preg pa) (tl.preg p) (tyWidth t)))], 0) = _
    rw [countTrue, List.countP_eq_length_filter]
    rfl
  · have hany : decide (countTrue (tl.preg pa) (tl.preg p) (tyWidth t) ≠ 0) = someGoverned w pr (at_ (tl.preg pa)) := by
      rw [Bool.eq_iff_iff, decide_eq_true_eq, countTrue, Ne, List.countP_eq_zero]
      simp only [someGoverned, List.any_eq_true, not_forall, not_not]
      exact ⟨fun ⟨e, he, h⟩ => ⟨e, he, h⟩, fun ⟨e, he, h⟩ => ⟨e, he, h⟩⟩
    have hall : ((upto (countOf (tyWidth t))).all fun e => !governed (tl.preg p) (tyWidth t) e || governed (tl.preg pa) (tyWidth t) e) =
        !someGoverned w pr fun e => !at_ (tl.preg pa) e := by
      rw [someGoverned, List.any_eq_not_all_not, Bool.not_not]
      refine congrArg (fun f : Nat → Bool => (List.range (2048 / w)).all f) (funext fun e => ?_)
      rw [Bool.not_and, Bool.not_not]
      rfl
    refine ⟨⟨_, rfl, ?_⟩, ⟨_, rfl, ?_⟩⟩
    · have hvote := hturn.votes (fun tl => decide (countTrue (tl.preg pa) (tl.preg p) (tyWidth t) ≠ 0))
        (by rw [Tile.voteCount, List.countP_eq_length_filter]; exact hroom)
      rw [hany] at hvote
      exact hvote
    · have hvote := hturn.votes (fun tl => (upto (countOf (tyWidth t))).all fun e =>
          !governed (tl.preg p) (tyWidth t) e || governed (tl.preg pa) (tyWidth t) e)
        (by rw [Tile.voteCount, List.countP_eq_length_filter]; exact hroom)
      rw [hall] at hvote
      exact hvote
  · intro i hi
    simp only [List.mem_cons, List.not_mem_nil, or_false] at hi
    rcases hi with rfl | rfl
    · exact congrArg Host.Outcome.next (hturn.voteWaits _ hfull hx)
    · exact congrArg Host.Outcome.next (hturn.voteWaits _ hfull hx)
  · obtain ⟨honly, htile, hsame⟩ := hturn.gives (u := taken)
      (ws := [.seeds (tl.vread a) (BitVec.ofNat 64 ((List.range 64).map fun i => if governed (tl.preg p) 32 i = true then 2 ^ i else 0).sum)])
      (fl := 0) 1 1 (f := fun tl _ => do
        let t1 ← tl.takeSources false [a] []
        let m : BitVec 64 := BitVec.ofNat 64 (((upto 64).map fun i => if governed (tl.preg p) 32 i then 2 ^ i else 0).sum)
        return (t1, [.seeds (tl.vread a) m], 0)) (by rw [htaken]; rfl)
    refine ⟨_, rfl, honly, hsame, fun hx => ?_⟩
    have hx' : (taken.stream .v).exposed = false := by rw [Tile.takeSources_frame htaken]; exact hx
    refine htile.trans (congrArg (Tile.issued · .v 1 1) ?_)
    rw [Tile.results, if_pos rfl, hx', if_neg Bool.false_ne_true, List.foldl_cons, List.foldl_nil, Tile.applyLate_seeds]
    refine congrArg (fun v => { taken with seeds := v }) (congrArg Vector.ofFn (funext fun j => ?_))
    rw [governed, show j.val * 32 / 4 = 8 * j.val by omega]
  · have hexec := hturn.vpatch htaken hpatch
    have hkept : (if taken.keptReads .v (s.group (storeAddr tn off)) 4 = true then taken.performAll .v else taken) =
        { taken with pending := (if taken.keptReads .v (s.group (storeAddr tn off)) 4 = true then taken.performAll .v else taken).pending } := by
      split <;> rfl
    generalize (if taken.keptReads .v (s.group (storeAddr tn off)) 4 = true then taken.performAll .v else taken) = u at hexec hkept
    have hstores := (s.setTile tn u).put_stores (storeAddr tn off) (leBytes 4 word)
    refine ⟨_, hexec, ?_, fun q hq => ?_, ?_⟩
    · rw [State.onTile_mem, State.put_number]
      exact Nat.mod_eq_of_lt (State.patch_lt hpatch)
    · rw [State.onTile_byte, State.put_byte_other _ (by rw [length_leBytes]; exact hq), State.setTile_byte]
    · rw [State.onTile_tile, hstores.tile tn, State.setTile_tile, hkept]
      exact ⟨Tile.issued_stream_congr (x := .v) 1 1 rfl rfl, rfl⟩

end Sys2Proof.Machine

/-! ## The V stream: its queues (R15, R144, R145) -/

namespace Sys2Proof.Machine

/-- The queue that a field from 24 up names. -/
def queueNamed (r : BitVec 5) : BitVec 3 := BitVec.ofNat 3 (r.toNat - 24)

theorem queueNamed_toNat {r : BitVec 5} (h : 24 ≤ r.toNat) : (queueNamed r).toNat = r.toNat - 24 ∧ (r.toNat - 24) % 8 = r.toNat - 24 := by
  have hr := r.isLt
  rw [queueNamed, BitVec.toNat_ofNat]
  omega

theorem queueNamed_inj {r q : BitVec 5} (hr : 24 ≤ r.toNat) (hq : 24 ≤ q.toNat) : queueNamed r = queueNamed q ↔ r = q := by
  refine ⟨fun h => BitVec.eq_of_toNat_eq ?_, fun h => h ▸ rfl⟩
  have hn := congrArg BitVec.toNat h
  rw [(queueNamed_toNat hr).1, (queueNamed_toNat hq).1] at hn
  omega

theorem Tile.queue_named (t : Tile) {r : BitVec 5} (h : 24 ≤ r.toNat) : t.queue (queueNamed r) = t.queues[(r.toNat - 24) % 8] := by
  simp only [Tile.queue, (queueNamed_toNat h).1, (queueNamed_toNat h).2]

theorem queuesOf_queue {r : BitVec 5} (h : 24 ≤ r.toNat) : queuesOf [r] = [queueNamed r] := by
  rw [queuesOf, List.filterMap_cons, queueOf_queue h]
  rfl

theorem queuesOf_register {r : BitVec 5} (h : r.toNat < 24) : queuesOf [r] = [] := by
  rw [queuesOf, List.filterMap_cons, queueOf_register h]
  rfl

/-- The pushes in flight to the queue that a field names. -/
theorem Tile.pushesDue_named (t : Tile) {r : BitVec 5} (h : 24 ≤ r.toNat) : t.pushesDue (queueNamed r) =
    (t.pending.filter fun x => match x.what with | .push q _ => q.toNat == r.toNat - 24 | _ => false).length := by
  rw [Tile.pushesDue, List.countP_eq_length_filter]
  refine congrArg (fun f : Pending → Bool => (t.pending.filter f).length) (funext fun x => ?_)
  cases x.what
  case push q v =>
    rw [Bool.eq_iff_iff, beq_iff_eq, beq_iff_eq, ← (queueNamed_toNat h).1]
    exact ⟨congrArg _, BitVec.eq_of_toNat_eq⟩
  all_goals rfl

theorem pk_iff (k : BitVec 1) : pk k = true ↔ k ≠ 0 := by revert k; decide

/-- The queues that an instruction of one source and one destination pops. -/
def popsOf (peek : Bool) (a : BitVec 5) : List (BitVec 3) := if peek = true then [] else queuesOf [a]

theorem Tile.takeSources_single (t : Tile) (peek : Bool) (a d : BitVec 5) : t.takeSources peek [a] [d] =
    ((queuesOf [a]).forM t.canPop >>= fun _ => (queuesOf [d]).forM (fun q => t.canPush q (popsOf peek a)) >>= fun _ =>
      .ok ((popsOf peek a).foldl Tile.popQueue t)) := rfl

theorem forM_one {α : Type} (f : α → Res Unit) (x : α) : [x].forM f = f x := by
  show (f x >>= fun _ => .ok ()) = f x
  cases f x <;> rfl

/-- A queue that S does not drain and that holds an entry gives its head. -/
theorem Tile.canPop_ok {t : Tile} {q : BitVec 3} (hb : (t.queue q).bound ≠ 2) (he : (t.queue q).entries ≠ []) : t.canPop q = .ok () := by
  rw [Tile.canPop, if_neg hb, if_pos (by simpa using he)]

theorem Tile.canPop_qunf {t : Tile} {q : BitVec 3} (h : (t.queue q).bound = 2 ∨ ((t.queue q).bound = 0 ∧ (t.queue q).entries = [])) :
    t.canPop q = .error (.trap causeQunf 0) := by
  rw [Tile.canPop]
  rcases h with hb | ⟨hb, he⟩
  · rw [if_pos hb]
  · rw [if_neg (by rw [hb]; decide), if_neg (by simp [he]), if_pos hb]

/-- A queue that L does not fill takes an entry while it has room, its own pop counted. -/
theorem Tile.canPush_ok {t : Tile} {q : BitVec 3} {pops : List (BitVec 3)} (hb : (t.queue q).bound ≠ 1)
    (hroom : (t.queue q).entries.length + t.pushesDue q < if q ∈ pops then 5 else 4) : t.canPush q pops = .ok () := by
  have hlt : (t.queue q).entries.length + t.pushesDue q - (if pops.contains q = true then 1 else 0) < 4 := by
    simp only [List.contains_iff_mem]
    split at hroom
    · rw [if_pos ‹_›]; omega
    · rw [if_neg ‹_›]; omega
  rw [Tile.canPush, if_neg hb, if_pos hlt]

theorem Tile.canPush_qovf {t : Tile} {q : BitVec 3}
    (h : (t.queue q).bound = 1 ∨ ((t.queue q).bound = 0 ∧ 4 ≤ (t.queue q).entries.length + t.pushesDue q)) :
    t.canPush q [] = .error (.trap causeQovf 0) := by
  rw [Tile.canPush]
  rcases h with hb | ⟨hb, hfull⟩
  · rw [if_pos hb]
  · rw [if_neg (by rw [hb]; decide), if_neg (by simp only [List.contains_nil, Bool.false_eq_true, if_false]; omega), if_pos hb]

/-- A word that its queues do not allow has no effect. -/
theorem Tile.vmap_error {t : Tile} {peek : Bool} {srcs : List (BitVec 5)} {d : BitVec 5} {e : Bad} (h : t.takeSources peek srcs [d] = .error e)
    (w : Nat) (sr : Bool) (written : Nat → Bool) (f : Nat → Nat → Nat × Flags) : t.vmap peek srcs d w sr written f = .error e := by
  rw [Tile.vmap, h]
  rfl

/-- Settles O29: the checks run over the sources and then the destination, and only then the head of a source goes. -/
theorem vectorQueues : Obligations.VectorQueues := by
  intro s tn d a p t k hturn tl qa qd pushes room pops
  have hfaults {cause : Byte} (hbad : tl.takeSources (pk k) [a] [d] = .error (.trap cause 0)) :
      ∃ t', exec (.vmov d a p t k) s = .next t' ∧ s.BlockFaults t' tn .v cause ((s.tile tn).stream .v).body :=
    ⟨_, rfl, hturn.faultsTile 1 2 (val := 0) (Tile.vmap_error hbad _ _ _ _)⟩
  refine ⟨fun ha hb he => ?_, fun ha h => hfaults ?_, fun ha hd h => hfaults ?_⟩
  · have hqa : tl.queue (queueNamed a) = qa := tl.queue_named ha
    have hpop : tl.canPop (queueNamed a) = .ok () := Tile.canPop_ok (by rwa [hqa]) (by rwa [hqa])
    have hpops : (popsOf (pk k) a).foldl Tile.popQueue tl = pops := by
      rw [popsOf, queuesOf_queue ha]
      show _ = if k = 1 then tl else tl.popQueue (queueNamed a)
      simp only [pk, beq_iff_eq]
      split <;> rfl
    refine ⟨?_, ?_, fun hd => ?_, fun hd hbd hroom => ?_⟩
    · rw [Tile.vread, queueOf_queue ha]
      show (tl.queue (queueNamed a)).entries.head?.getD 0 = _
      rw [hqa, List.headD_eq_head?_getD]
    · have hpopped : (tl.popQueue (queueNamed a)).queue (queueNamed a) =
          { tl.queue (queueNamed a) with entries := (tl.queue (queueNamed a)).entries.tail, head := (tl.queue (queueNamed a)).head + 1 } :=
        Tile.queue_setQueue _ _ _
      rw [Tile.queue_named _ ha, hqa] at hpopped
      exact congrArg Queue.entries hpopped
    · rw [Tile.takeSources_single, queuesOf_queue ha, queuesOf_register hd, forM_one, hpop, hpops]
      rfl
    · have hqd : tl.queue (queueNamed d) = qd := tl.queue_named hd
      have hmem : queueNamed d ∈ popsOf (pk k) a ↔ a = d ∧ k = 0 := by
        simp only [popsOf, queuesOf_queue ha, pk_iff]
        split
        · next hk0 => exact iff_of_false List.not_mem_nil fun h => hk0 h.2
        · next hk0 => rw [List.mem_singleton, queueNamed_inj hd ha, eq_comm, and_iff_left (not_not.1 hk0)]
      have hpush : tl.canPush (queueNamed d) (popsOf (pk k) a) = .ok () := by
        refine Tile.canPush_ok (by rwa [hqd]) ?_
        rw [hqd, tl.pushesDue_named hd]
        simp only [hmem]
        exact hroom
      rw [Tile.takeSources_single, queuesOf_queue ha, queuesOf_queue hd, forM_one, forM_one, hpop, hpush, hpops]
      rfl
  · rw [Tile.takeSources_single, queuesOf_queue ha, forM_one, Tile.canPop_qunf (by rwa [tl.queue_named ha])]
    rfl
  · have hnone : popsOf (pk k) a = [] := by
      rw [popsOf, queuesOf_register ha]
      exact ite_self _
    rw [Tile.takeSources_single, queuesOf_register ha, queuesOf_queue hd, forM_one, hnone,
      Tile.canPush_qovf (by rwa [tl.queue_named hd, tl.pushesDue_named hd])]
    rfl

end Sys2Proof.Machine

/-! ## How block streams go on (R146, R147, R231, R239, R240) -/

namespace Sys2Proof.Machine

/-! ### Results in flight (R146, R236) -/

/-- A result enters a list in the order of its tcs behind those that land no later. -/
theorem insertPending_eq {l : List Pending} (x : Pending) (h : (l.map fun p => p.due).Pairwise (· ≤ ·)) :
    insertPending l x = l.filter (fun p => p.due ≤ x.due) ++ x :: l.filter (fun p => x.due < p.due) := by
  induction l with
  | nil => rfl
  | cons y r ih =>
    rw [List.map_cons, List.pairwise_cons] at h
    obtain ⟨hy, hr⟩ := h
    rw [insertPending]
    split
    · next hlt =>
      have hlater : ∀ p ∈ y :: r, x.due < p.due := fun p hp => by
        rcases List.mem_cons.1 hp with rfl | hp
        · exact hlt
        · exact hlt.trans_le (hy _ (List.mem_map_of_mem hp))
      rw [List.filter_eq_nil_iff.2 fun p hp => by simpa using hlater p hp, List.filter_eq_self.2 fun p hp => by simpa using hlater p hp,
        List.nil_append]
    · next hle =>
      rw [ih hr, List.filter_cons_of_pos (by simpa using Nat.not_lt.1 hle), List.filter_cons_of_neg (by simpa using hle), List.cons_append]

theorem foldl_max_eq {α : Type} (f : α → Nat) {l : List α} {d : Nat} (h : ∀ x ∈ l, f x ≤ d) : l.foldl (fun d x => max d (f x)) d = d := by
  induction l with
  | nil => rfl
  | cons x l ih =>
    rw [List.foldl_cons, max_eq_left (h x List.mem_cons_self)]
    exact ih fun y hy => h y (List.mem_cons_of_mem _ hy)

/-- A result that no earlier push of its queue holds back lands when its latency says. -/
theorem Tile.addPending_eq {t : Tile} {x : Pending}
    (h : ∀ p ∈ t.pending, p.stream = x.stream → p.what.queue? = x.what.queue? → x.what.queue? ≠ none → p.due ≤ x.due) :
    t.addPending x = { t with pending := insertPending t.pending x } := by
  rw [Tile.addPending]
  cases hq : x.what.queue? with
  | none => rfl
  | some q =>
    have hdue : (t.pending.filter fun p => p.stream == x.stream && p.what.queue? == some q).foldl (fun d p => max d p.due) x.due = x.due :=
      foldl_max_eq _ fun p hp => by
        obtain ⟨hp, hsame⟩ := List.mem_filter.1 hp
        rw [Bool.and_eq_true, beq_iff_eq, beq_iff_eq] at hsame
        exact h p hp hsame.1 (hsame.2.trans hq.symm) (by simp [hq])
    dsimp only
    rw [hdue]

/-! ### The signature (R240) -/

/-- One bit of the reflected CRC-32C. -/
def crcStep (c : W32) (b : Bool) : W32 := (c >>> 1) ^^^ if (c.getLsbD 0 != b) = true then 0x82F63B78 else 0

theorem crcBit_xor (c v : W32) : crcBit (c ^^^ v) = crcStep c (v.getLsbD 0) ^^^ (v >>> 1) := by
  rw [crcBit, crcStep, BitVec.getLsbD_xor, BitVec.ushiftRight_xor_distrib]
  split
  · rw [BitVec.xor_assoc, BitVec.xor_assoc, BitVec.xor_comm (v >>> 1)]
  · rw [show (0 : W32) = 0#32 from rfl, BitVec.xor_zero]

theorem foldl_crcBit (n : Nat) (c v : W32) : (List.range n).foldl (fun c _ => crcBit c) (c ^^^ v) =
    (List.range n).foldl (fun c k => crcStep c (v.getLsbD k)) c ^^^ (v >>> n) := by
  induction n with
  | zero => rfl
  | succ n ih =>
    rw [List.range_succ, List.foldl_append, List.foldl_append, ih]
    show crcBit (_ ^^^ v >>> n) = crcStep _ (v.getLsbD n) ^^^ v >>> (n + 1)
    rw [crcBit_xor, BitVec.getLsbD_ushiftRight, ← BitVec.shiftRight_add]
    rfl

/-- A byte enters the signature bit by bit, the least significant first. -/
theorem crcFeed_eq (c : W32) (b : Nat) : crcFeed c b = (List.range 8).foldl (fun c k => crcStep c (b.testBit k)) c := by
  have hzero : BitVec.ofNat 32 (b % 256) >>> 8 = 0#32 := BitVec.eq_of_toNat_eq (by simp; omega)
  rw [crcFeed, upto, foldl_crcBit, hzero, BitVec.xor_zero]
  refine List.foldl_ext _ _ _ fun c k hk => ?_
  have hk := List.mem_range.1 hk
  have hbit : (BitVec.ofNat 32 (b % 256)).getLsbD k = b.testBit k := by
    rw [BitVec.getLsbD_ofNat, show (256 : Nat) = 2 ^ 8 from rfl, Nat.testBit_mod_two_pow, decide_eq_true (show k < 32 by omega), decide_eq_true hk]
    simp
  rw [hbit]

/-- Feeding bytes is feeding their bits. -/
theorem foldl_crcFeed (m : Nat) (c : W32) (b : Nat) : (List.range m).foldl (fun c i => crcFeed c (b / 2 ^ (8 * i))) c =
    (List.range (8 * m)).foldl (fun c k => crcStep c (b.testBit k)) c := by
  induction m with
  | zero => rfl
  | succ m ih =>
    rw [List.range_succ, List.foldl_append, ih, Nat.mul_succ, List.range_add, List.foldl_append, List.foldl_map, List.foldl_cons, List.foldl_nil,
      crcFeed_eq]
    simp only [Nat.testBit_div_two_pow, Nat.add_comm]

/-- The six bytes of an issue as the bits of one number. -/
theorem crcIssue_eq (c : W32) (a : Nat) (w : W32) :
    crcIssue c a w = (List.range 48).foldl (fun c k => crcStep c ((a % 2 ^ 16 + w.toNat * 2 ^ 16).testBit k)) c := by
  have hmod (l : List Nat) (c : W32) : l.foldl crcFeed c = (l.map (· % 256)).foldl crcFeed c := by
    rw [List.foldl_map]
    exact List.foldl_ext _ _ _ fun c x _ => by rw [crcFeed, crcFeed, Nat.mod_mod]
  have hw := w.isLt
  have hbytes : [a, a / 256, w.toNat, w.toNat / 2 ^ 8, w.toNat / 2 ^ 16, w.toNat / 2 ^ 24].map (· % 256) =
      ((List.range 6).map fun i => (a % 2 ^ 16 + w.toNat * 2 ^ 16) / 2 ^ (8 * i)).map (· % 256) := by
    simp only [show List.range 6 = [0, 1, 2, 3, 4, 5] from rfl, List.map_cons, List.map_nil, List.cons.injEq, and_true]
    omega
  rw [crcIssue, hmod, hbytes, ← hmod, List.foldl_map]
  exact foldl_crcFeed 6 c _

/-! ### The next word (R231) -/

/-- A fold that its first step settles. -/
theorem foldl_range_first {α : Type} {f : α → Nat → α} {b a : α} (l : Nat) (hfirst : f b 0 = a) (hrest : ∀ j, f a j = a) :
    (List.range (l + 1)).foldl f b = a := by
  rw [List.range_succ_eq_map, List.foldl_cons, hfirst]
  exact List.foldl_fixed' hrest _

section
variable {r : List W32} (h4 : recWord r 4 = 0) (h5 : recWord r 5 = 0)
include h4 h5

theorem recQual_zero (j : Nat) : recQual r j = 0 := by simp [recQual, h4, h5, bits]

/-- Without qualifiers the next word of the body follows in the same iteration. -/
theorem nextIssue_word {n i : Nat} (hi : i < recLen r) (hn : n < recTotal r) : nextIssue r n i = some (n, i) := by
  have hfind : (upto (recLen r)).find? (fun j => decide (i ≤ j) && qualHolds r (recQual r j) n) = some i := by
    refine List.find?_range_eq_some.2 ⟨?_, List.mem_range.2 hi, fun j hj => ?_⟩
    · rw [recQual_zero h4 h5, decide_eq_true le_rfl]
      rfl
    · rw [decide_eq_false (by omega), Bool.false_and]
      rfl
  rw [nextIssue, hfind]
  exact if_pos hn

/-- After the last word of the body its first word follows in the next iteration, if there is one. -/
theorem nextIssue_iteration {n i : Nat} (hi : recLen r ≤ i) (hlen : 0 < recLen r) :
    nextIssue r n i = if n + 1 < recTotal r then some (n + 1, 0) else none := by
  have hfind : (upto (recLen r)).find? (fun j => decide (i ≤ j) && qualHolds r (recQual r j) n) = none :=
    List.find?_eq_none.2 fun j hj => by
      have hj := List.mem_range.1 hj
      rw [decide_eq_false (by omega), Bool.false_and]
      exact Bool.false_ne_true
  obtain ⟨l, hl⟩ := Nat.exists_eq_succ_of_ne_zero hlen.ne'
  rw [nextIssue, hfind, hl]
  dsimp only
  rw [upto, foldl_range_first (a := some (n + 1, 0)) _ (by rw [recQual_zero h4 h5]; rfl)
    fun j => by rw [recQual_zero h4 h5]; exact if_neg (Nat.lt_irrefl _)]

end

theorem recPeriod_eq {r : List W32} {j : Nat} (hj : j ≤ recDepth r) : recPeriod r j = ((List.range j).map (recTrip r)).prod := by
  rw [recPeriod, Nat.min_eq_left hj, List.prod_eq_foldl]
  rfl

/-! ### How the stream goes on (R239) -/

/-- A move changes the position in the nest alone. -/
theorem Stream.moveTo_frame (y : Stream) (p : Option (Nat × Nat)) :
    y.moveTo p = { y with idx := (y.moveTo p).idx, body := (y.moveTo p).body } := by
  cases p <;> rfl

theorem Stream.moveTo_body {y : Stream} {n i : Nat} (hi : i < 16) : (y.moveTo (some (n, i))).body.toNat = i := by
  show (BitVec.ofNat 4 i).toNat = i
  rw [BitVec.toNat_ofNat, Nat.mod_eq_of_lt hi]

theorem Stream.moveTo_body_end {y : Stream} (h : recLen y.record < 16) : (y.moveTo none).body.toNat = recLen y.record := by
  show (BitVec.ofNat 4 (recLen y.record)).toNat = _
  rw [BitVec.toNat_ofNat, Nat.mod_eq_of_lt h]

/-- The loop indices of an iteration of a nest without an empty level. -/
theorem Stream.moveTo_idx {y : Stream} {n i j : Nat} (hd : recDepth y.record ≤ 6) (hj : j < recDepth y.record) (ht : recTrip y.record j ≠ 0) :
    ((y.moveTo (some (n, i))).idx[j % 6]'(Nat.mod_lt _ (by decide))).toNat = n / recPeriod y.record j % recTrip y.record j := by
  have htrip : recTrip y.record j < 2 ^ 24 := Nat.mod_lt _ (by decide)
  have hlt := Nat.mod_lt (n / recPeriod y.record j) (Nat.pos_of_ne_zero ht)
  simp only [Stream.moveTo, Vector.getElem_ofFn, Nat.mod_eq_of_lt (hj.trans_le hd), idxOf, if_pos hj, BitVec.toNat_ofNat]
  exact Nat.mod_eq_of_lt (hlt.trans htrip)

/-- The iteration that the indices of at most six levels name. -/
theorem Stream.iter_eq {y : Stream} (hd : recDepth y.record ≤ 6) : y.iter =
    ((List.range (recDepth y.record)).map fun j => (y.idx[j % 6]'(Nat.mod_lt _ (by decide))).toNat * ((List.range j).map (recTrip y.record)).prod).sum := by
  rw [Stream.iter, upto]
  refine congrArg List.sum (List.map_congr_left fun j hj => ?_)
  have hj := List.mem_range.1 hj
  have hj6 := hj.trans_le hd
  rw [recPeriod_eq hj.le]
  simp only [Nat.mod_eq_of_lt hj6, Vector.getElem?_eq_getElem hj6, Option.getD_some]

/-- The active cycles of a stream up to the issue of its next word. -/
def Stream.active (y : Stream) : Nat :=
  if y.exposed = true then y.blockCount.toNat + (y.nextTc - (if y.started = true then y.t0 else y.nextTc) - (if y.started = true then y.stalls else 0))
  else y.count.toNat

/-- What an issue makes of its stream: it moves to the next word from a stream that has counted this one. -/
theorem Tile.issued_stream (t : Tile) (x : BStream) (c l : Nat) : ∃ z : Stream, (t.issued x c l).stream x =
      z.moveTo (nextIssue (t.stream x).record (t.stream x).iter ((t.stream x).body.toNat + 1)) ∧
    z.crc = crcIssue (t.stream x).crc (t.stream x).active (recBody (t.stream x).record (t.stream x).body.toNat) ∧
    z.count = BitVec.ofNat 32 ((t.stream x).active + c) ∧ z.started = true ∧
    ((t.stream x).exposed = true → z.nextTc = (t.stream x).nextTc + c) ∧
    z.record = (t.stream x).record ∧ z.state = (t.stream x).state ∧ z.pos = (t.stream x).pos :=
  ⟨_, Tile.stream_setStream _ _ _, rfl, rfl, rfl, fun h => if_pos h, rfl, rfl, rfl⟩

theorem Tile.issued_stream_other {t : Tile} {x z : BStream} (h : z ≠ x) (c l : Nat) : (t.issued x c l).stream z = t.stream z :=
  Tile.stream_setStream_other _ _ _ _ h

/-- Settles O41: the fields of the stream after an issue, and the next word by the cases of the body and of the nest. -/
theorem blockProgress : Obligations.BlockProgress := by
  intro u x c l r y v inter len depth trip period iter i word a fed feed
  have hexposed : y.exposed = true ↔ ¬inter := by simp [Stream.exposed, recInterlocked, inter]
  have hactive : y.active = a := by
    simp only [Stream.active, hexposed, ite_not]
    rfl
  have hresults : u.results x l [r] 0 = if y.exposed = true then
      u.addPending { due := y.nextTc + l - 1, stream := x, landed := true, load := false, what := r, kept := none } else u.applyLate r := rfl
  obtain ⟨z, (hv : v = _), hcrc, hcount, hstarted, hnext, hrecord, hstate, hpos⟩ := u.issued_stream x c l
  refine ⟨fun hi => ?_, fun hi hsort hpush => ?_, ?_, ?_, ?_, fun hi => ?_, ?_, ?_, ?_, fun h4 h5 hlen hlen12 hdepth hi hiter => ?_,
    fun w hw => Tile.issued_stream_other hw c l⟩
  · rw [hresults, if_neg (by rw [hexposed, not_not]; exact hi)]
  · rw [hresults, if_pos (hexposed.2 hi), Tile.addPending_eq hpush, insertPending_eq _ hsort]
  · rw [hv, Stream.moveTo_frame]
    refine hcrc.trans ((crcIssue_eq _ _ _).trans ?_)
    rw [hactive]
    rfl
  · rw [hv, Stream.moveTo_frame, ← hactive]
    exact hcount
  · rw [hv, Stream.moveTo_frame]
    exact hstarted
  · rw [hv, Stream.moveTo_frame]
    exact hnext (hexposed.2 hi)
  · rw [hv, Stream.moveTo_frame]
    exact hrecord
  · rw [hv, Stream.moveTo_frame]
    exact hstate
  · rw [hv, Stream.moveTo_frame]
    exact hpos
  · have hiter' : y.iter = iter := Stream.iter_eq hdepth
    have hperiod : recTotal y.record = period depth := recPeriod_eq le_rfl
    have htrip (j : Nat) (hj : j < depth) : recTrip y.record j ≠ 0 := fun h0 => by
      have hzero : period depth = 0 := List.prod_eq_zero (List.mem_map.2 ⟨j, List.mem_range.2 hj, h0⟩)
      omega
    have hidx (n b j : Nat) (hj : j < depth) : ((z.moveTo (some (n, b))).idx[j % 6]'(Nat.mod_lt _ (by decide))).toNat = n / period j % trip j := by
      refine (Stream.moveTo_idx (by rwa [hrecord]) (by rwa [hrecord]) (by rw [hrecord]; exact htrip j hj)).trans ?_
      rw [hrecord, recPeriod_eq hj.le]
      rfl
    have hlast (h : i + 1 = len) : v = z.moveTo (if iter + 1 < period depth then some (iter + 1, 0) else none) := by
      rw [hv, nextIssue_iteration h4 h5 (Nat.le_of_eq h.symm) hlen]
      show z.moveTo (if y.iter + 1 < recTotal y.record then some (y.iter + 1, 0) else none) = _
      rw [hiter', hperiod]
    refine ⟨fun hword => ?_, fun hword hmore => ?_, fun hword hdone => ?_⟩
    · have hmove : v = z.moveTo (some (iter, i + 1)) := by
        rw [hv, nextIssue_word h4 h5 hword (by rw [hperiod, hiter']; exact hiter), hiter']
      rw [hmove]
      exact ⟨Stream.moveTo_body (by omega), hidx iter (i + 1)⟩
    · rw [hlast hword, if_pos hmore]
      exact ⟨rfl, hidx (iter + 1) 0⟩
    · have hrec : recLen z.record = len := congrArg recLen hrecord
      rw [hlast hword, if_neg (by omega), Stream.moveTo_body_end (by omega), hrec]

end Sys2Proof.Machine

/-! ## The V stream: functions and reductions (R161, R162) -/

namespace Sys2Proof.Machine

/-! ### The tree of a reduction (R162) -/

/-- The flags that x 0 to x (n − 1) raise together. -/
def flagsTo (n : Nat) (x : Nat → Flags) : Flags := (List.range n).foldl (fun f i => f ||| x i) 0

theorem flagsTo_succ (n : Nat) (x : Nat → Flags) : flagsTo (n + 1) x = flagsTo n x ||| x n := by
  rw [flagsTo, List.range_succ, List.foldl_append]
  rfl

theorem flagsTo_first (n : Nat) (x : Nat → Flags) : flagsTo (n + 1) x = x 0 ||| flagsTo n fun i => x (i + 1) := by
  induction n with
  | zero => simp [flagsTo]
  | succ n ih => rw [flagsTo_succ, ih, flagsTo_succ, BitVec.or_assoc]

/-- The flags of two levels of the tree in another order. -/
theorem flagsTo_pairs (n : Nat) (x y : Nat → Flags) :
    flagsTo (2 * n) x ||| flagsTo n y = flagsTo n fun i => x (2 * i) ||| x (2 * i + 1) ||| y i := by
  induction n with
  | zero => exact BitVec.zero_or
  | succ n ih =>
    rw [Nat.mul_succ, flagsTo_succ, flagsTo_succ, flagsTo_succ, flagsTo_succ, ← ih]
    ac_rfl

theorem pairTree_bottom (comb : Nat → Nat → Nat × Flags) (k : Nat) (x : Nat → Nat × Flags) (i : Nat) :
    pairTree comb (k + 1) x i = pairTree comb k (pairTree comb 1 x) i := by
  induction k generalizing i with
  | zero => rfl
  | succ k ih =>
    rw [pairTree, ih, ih]
    rfl

section
variable (t : BitVec 4) (o : Nat) (flush : Bool)

/-- The values of one level, and the flags of its nodes. -/
theorem redLevel_eq (n : Nat) (x : Nat → Nat) : redLevel t o flush ((List.range (2 * n)).map x) =
    ((List.range n).map fun i => (redComb t o flush (x (2 * i)) (x (2 * i + 1))).1,
      flagsTo n fun i => (redComb t o flush (x (2 * i)) (x (2 * i + 1))).2) := by
  induction n generalizing x with
  | zero => rfl
  | succ n ih =>
    have htwo : (List.range (2 * (n + 1))).map x = x 0 :: x 1 :: (List.range (2 * n)).map fun i => x (i + 2) := by
      rw [Nat.mul_succ, List.range_succ_eq_map, List.range_succ_eq_map, List.map_cons, List.map_cons, List.map_cons, List.map_map, List.map_map]
      rfl
    rw [htwo, redLevel, ih, flagsTo_first, List.range_succ_eq_map, List.map_cons, List.map_map]
    rfl

/-- The reduction of 2^k values is their tree. -/
theorem redTree_eq (k fuel : Nat) (h : k ≤ fuel) (x : Nat → Nat × Flags) :
    ((redTree t o flush fuel ((List.range (2 ^ k)).map fun i => (x i).1, flagsTo (2 ^ k) fun i => (x i).2)).1.headD 0,
      (redTree t o flush fuel ((List.range (2 ^ k)).map fun i => (x i).1, flagsTo (2 ^ k) fun i => (x i).2)).2) =
    pairTree (redComb t o flush) k x 0 := by
  induction k generalizing x fuel with
  | zero =>
    have hone : redTree t o flush fuel ([(x 0).1], (x 0).2) = ([(x 0).1], (x 0).2) := by
      cases fuel with
      | zero => rfl
      | succ fuel => rw [redTree, if_pos (by simp)]
    have hflags : flagsTo (2 ^ 0) (fun i => (x i).2) = (x 0).2 := BitVec.zero_or
    rw [hflags]
    show ((redTree t o flush fuel ([(x 0).1], (x 0).2)).1.headD 0, (redTree t o flush fuel ([(x 0).1], (x 0).2)).2) = _
    rw [hone]
    rfl
  | succ k ih =>
    obtain ⟨fuel, rfl⟩ : ∃ f, fuel = f + 1 := ⟨fuel - 1, by omega⟩
    have hpos := Nat.one_le_two_pow (n := k)
    rw [redTree, if_neg (by simp only [List.length_map, List.length_range, pow_succ]; omega), pow_succ, Nat.mul_comm, redLevel_eq]
    dsimp only
    rw [flagsTo_pairs, pairTree_bottom]
    exact ih fuel (by omega) (pairTree (redComb t o flush) 1 x)

end

/-! ### Widening, the identities and the combinations (R162) -/

theorem elemOf_float {t : BitVec 4} (h : t.toNat ≤ 2) : elemOf t.toNat = .float (floatOf t) := by
  revert t; decide

theorem IntTy.elemOf {t : BitVec 4} (h : IntTy t) : elemOf t.toNat = .int (isSignedTy t) (tyWidth t) := by
  obtain ⟨h1, h2⟩ := h
  revert t; decide

/-- The wide type of an integer keeps its sign. -/
theorem IntTy.wide {t : BitVec 4} (h : IntTy t) : IntTy (wideTy t) ∧ isSignedTy (wideTy t) = isSignedTy t ∧ tyWidth (wideTy t) = 32 := by
  rw [wideTy, h.notFloat]
  cases isSignedTy t <;> exact ⟨⟨by decide, by decide⟩, by decide, by decide⟩

theorem wideTy_float {t : BitVec 4} (h : t.toNat ≤ 2) : wideTy t = 0 := if_pos (isFloatTy_float h)

/-- The value of an element wraps to its code. -/
theorem ofInt_intValue_width (sg : Bool) {w : Nat} (hw : 0 < w) (x : Nat) : BitVec.ofInt w (intValue sg w x) = BitVec.ofNat w x := by
  rw [intValue_eq sg hw]
  cases sg
  · simp only [Bool.false_eq_true, if_false, BitVec.ofInt_natCast, BitVec.ofNat_toNat, BitVec.setWidth_eq]
  · rw [if_pos rfl, BitVec.ofInt_toInt]

/-- Widening an integer extends its sign. -/
theorem IntTy.convert_wide {t : BitVec 4} (h : IntTy t) (flush : Bool) {x : Nat} (hx : x < 2 ^ tyWidth t) :
    convertElem (Machine.elemOf t.toNat) (Machine.elemOf (wideTy t).toNat) 0 false flush 0 x =
      (if t.toNat ≤ 8 then ((BitVec.ofNat (tyWidth t) x).signExtend 32).toNat else x, 0) := by
  obtain ⟨hwide, hsigned, hwidth⟩ := h.wide
  have hw : tyWidth t ≤ 32 := by rw [h.width]; split <;> [decide; split <;> decide]
  have hlt : x < 2 ^ 32 := hx.trans_le (Nat.pow_le_pow_right Nat.two_pos hw)
  rw [h.elemOf, hwide.elemOf, hwidth]
  show intToInt (isSignedTy (wideTy t)) 32 false (intValue (isSignedTy t) (tyWidth t) x) = _
  rw [intToInt_eq, intValue_eq _ h.width_pos]
  simp only [h.signed, Bool.false_eq_true, if_false, false_and]
  split
  · rfl
  · rw [BitVec.ofInt_natCast, BitVec.toNat_ofNat, BitVec.toNat_ofNat, Nat.mod_eq_of_lt hx, Nat.mod_eq_of_lt hlt]

theorem IntTy.redComb {t : BitVec 4} (h : IntTy t) (o : BitVec 2) (flush : Bool) (x y : Nat) :
    redComb t o.toNat flush x y =
      (if o = 0 then (x + y) % 2 ^ 32
        else if (intValue (isSignedTy t) 32 x < intValue (isSignedTy t) 32 y) = (o = 1) then y else x, 0) := by
  obtain ⟨hwide, hsigned, hwidth⟩ := h.wide
  have hzero : o.toNat = 0 ↔ o = 0 := by revert o; decide
  have hone : (o.toNat == 1) = decide (o = 1) := by revert o; decide
  simp only [Machine.redComb, hzero]
  split
  · rw [hwide.arithElem .add 0 (by decide), hsigned, hwidth, intToInt_eq]
    show ((BitVec.ofInt 32 (intValue _ 32 x + intValue _ 32 y)).toNat, _) = _
    rw [BitVec.ofInt_add, ofInt_intValue_width _ (by decide), ofInt_intValue_width _ (by decide), BitVec.toNat_add, BitVec.toNat_ofNat,
      BitVec.toNat_ofNat, ← Nat.add_mod]
    rfl
  · rw [Machine.minMaxElem, hwide.notFloat, if_neg Bool.false_ne_true, hsigned, hwidth, hone]
    simp only [decide_eq_decide, ← propext_iff]

theorem redComb_float {t : BitVec 4} (h : t.toNat ≤ 2) (o : BitVec 2) (flush : Bool) (x y : Nat) :
    redComb t o.toNat flush x y =
      if o = 0 then
        ((f32.convert 0 false flush 0 (addVal 0 (f32.value flush x) (f32.value flush y)).1).1,
          (addVal 0 (f32.value flush x) (f32.value flush y)).2 |||
            (f32.convert 0 false flush 0 (addVal 0 (f32.value flush x) (f32.value flush y)).1).2)
      else minMax (o == 1) (f32.value flush x) (f32.value flush y) (f32.flushed flush x) (f32.flushed flush y) 0x7FC00000 := by
  have hzero : o.toNat = 0 ↔ o = 0 := by revert o; decide
  have hone : (o.toNat == 1) = (o == 1) := by revert o; decide
  simp only [redComb, wideTy_float h, hzero, hone]
  rfl

/-- Element e of a reduction: widened where it is governed, else the identity. -/
def redLeaf (t : BitVec 4) (o : Nat) (flush : Bool) (p : PReg) (v : VReg) (e : Nat) : Nat × Flags :=
  if governed p (tyWidth t) e then convertElem (elemOf t.toNat) (elemOf (wideTy t).toNat) 0 false flush 0 (elem (tyWidth t) v e)
  else (redIdentity t o, (0 : Flags))

/-- The reduction of a register: the value that lane 0 gets, alone in its list, and the flags. -/
def reduction (t : BitVec 4) (o : Nat) (flush : Bool) (p : PReg) (v : VReg) : List Nat × Flags :=
  let xs := (List.range (2048 / tyWidth t)).map (redLeaf t o flush p v)
  redTree t o flush 10 (xs.map (·.1), xs.foldl (fun f x => f ||| x.2) 0)

theorem exec_vred (d a : BitVec 5) (p : BitVec 3) (t : BitVec 4) (k : BitVec 1) (o : BitVec 2) (s : State) :
    exec (.vred d a p t k o) s = .next (s.vIssue 2 16 fun tl flush => tl.takeSources (pk k) [a] [d] >>= fun taken =>
      .ok (taken, [toDest d (BitVec.ofNat 2048 ((reduction t o.toNat flush (tl.preg p) (tl.vread a)).1.headD 0))],
        (reduction t o.toNat flush (tl.preg p) (tl.vread a)).2)) := rfl

theorem reduction_eq {t : BitVec 4} {o : Nat} {flush : Bool} {p : PReg} {v : VReg} {k : Nat} (hk : k ≤ 10) (hcount : 2048 / tyWidth t = 2 ^ k) :
    ((reduction t o flush p v).1.headD 0, (reduction t o flush p v).2) = pairTree (redComb t o flush) k (redLeaf t o flush p v) 0 := by
  rw [← redTree_eq t o flush k 10 hk, reduction, hcount, List.map_map, List.foldl_map]
  rfl

theorem tyWidth_classA {t : BitVec 4} (ht : WellFormed.classA t) : tyWidth t = 8 ∨ tyWidth t = 16 ∨ tyWidth t = 32 := by
  revert t; decide

theorem redIdentity_eq {t : BitVec 4} (ht : WellFormed.classA t) {o : BitVec 2} (ho : o.toNat ≤ 2) : redIdentity t o.toNat =
    if t.toNat ≤ 2 then (if o = 0 then 0x80000000 else if o = 1 then 0xFF800000 else 0x7F800000)
    else if o = 0 then 0 else if t.toNat ≤ 8 then (if o = 1 then 0x80000000 else 0x7FFFFFFF)
    else if o = 1 then 0 else 0xFFFFFFFF := by
  revert t o; decide

/-- Settles O37: vsfu by element; vred by the tree over the governed elements, widened, and the identities. -/
theorem vectorFunctions : Obligations.VectorFunctions := by
  intro s tn d a p fn t k o hturn tl flush pr sfu w levels signed wide identity comb all
  refine ⟨fun _ taken htaken => ⟨_, rfl, ?_⟩, fun hwf taken htaken => ⟨_, exec_vred d a p t k o s, ?_⟩⟩
  · refine hturn.gives 4 14 ((Tile.vmap_ok htaken (w := 32) (by decide) false _ _).trans ?_)
    rw [if_neg Bool.false_ne_true, Tile.takeSources_withSeeds htaken]
    rfl
  · obtain ⟨ht, ho, -⟩ := of_decide_eq_true hwf
    have hlevels : levels ≤ 10 ∧ 2048 / tyWidth t = 2 ^ levels := by
      rcases tyWidth_classA ht with h | h | h <;> simp [levels, w, h]
    have hleaf : redLeaf t o.toNat flush pr (tl.vread a) =
        fun e => if pr.getLsbD (e * w / 4) = true then wide (elem w (tl.vread a) e) else (identity, 0) := by
      funext e
      have hwide : convertElem (elemOf t.toNat) (elemOf (wideTy t).toNat) 0 false flush 0 (elem w (tl.vread a) e) = wide (elem w (tl.vread a) e) := by
        rcases ht with ht | ⟨h6, h11⟩
        · rw [elemOf_float ht, wideTy_float ht]
          exact (if_pos ht).symm
        · rw [IntTy.convert_wide ⟨h6, h11⟩ flush (elem_lt _ _ _)]
          exact (if_neg (by omega)).symm
      rw [redLeaf, hwide, redIdentity_eq ht ho]
      rfl
    have hcomb : redComb t o.toNat flush = comb := by
      funext x y
      rcases ht with ht | ⟨h6, h11⟩
      · rw [redComb_float ht]
        exact (if_pos ht).symm
      · have hsigned (x : Nat) : intValue (isSignedTy t) 32 x = signed x := by
          rw [intValue_eq _ (by decide)]
          simp only [IntTy.signed ⟨h6, h11⟩]
          rfl
        rw [IntTy.redComb ⟨h6, h11⟩, hsigned, hsigned]
        exact (if_neg (by omega)).symm
    have hall : ((reduction t o.toNat flush pr (tl.vread a)).1.headD 0, (reduction t o.toNat flush pr (tl.vread a)).2) = all := by
      rw [reduction_eq hlevels.1 hlevels.2, hcomb, hleaf]
    refine hturn.gives 2 16 ?_
    show (tl.takeSources (pk k) [a] [d] >>= _) = _
    rw [htaken, ← hall]
    rfl

end Sys2Proof.Machine

/-! ## The V stream: faults of its memory forms, and the accumulator (R175, R177) -/

namespace Sys2Proof.Machine

/-! ### The window of a memory form (R175, R181) -/

theorem need_true {c : Bool} {cause : Byte} (h : c = true) : need c cause = .ok () := if_pos h

theorem need_false {c : Bool} {cause : Byte} (h : c = false) : need c cause = .error (.trap cause 0) := if_neg (by rw [h]; exact Bool.false_ne_true)

theorem Tile.vWindow_none {t : Tile} {n : BitVec 5} (h : t.windows[n.toNat] = none) (x : BStream) (writer : Bool) :
    t.vWindow x n writer = .error (.trap causeBfault 0) := by
  rw [Tile.vWindow, Tile.useWindow, Tile.window, h]
  rfl

theorem Tile.vWindow_some {t : Tile} {n : BitVec 5} {win : Window} (h : t.windows[n.toNat] = some win) (hfmt : win.image.fmt ≠ 12) (x : BStream)
    (writer : Bool) : t.vWindow x n writer = .ok (t.useOf x win writer) := by
  have hneed : need (!isIntn win.image.fmt) causeBfault = .ok () := need_true (by simpa [isIntn] using hfmt)
  rw [Tile.vWindow, Tile.useWindow, Tile.window, h]
  show (need (!isIntn win.image.fmt) causeBfault >>= _) = _
  rw [hneed]
  rfl

theorem Use.indexWidth_ok {u : Use} (h : fmtWidth u.image.fmt ∈ [8, 16, 32]) : u.indexWidth = .ok (fmtWidth u.image.fmt) := by
  have hneed : need (fmtWidth u.image.fmt == 8 || fmtWidth u.image.fmt == 16 || fmtWidth u.image.fmt == 32) causeBfault = .ok () :=
    need_true (by simpa [or_assoc] using h)
  rw [Use.indexWidth, hneed]
  rfl

theorem Use.indexWidth_error {u : Use} (h : fmtWidth u.image.fmt ∉ [8, 16, 32]) : u.indexWidth = .error (.trap causeBfault 0) := by
  have hneed : need (fmtWidth u.image.fmt == 8 || fmtWidth u.image.fmt == 16 || fmtWidth u.image.fmt == 32) causeBfault =
      .error (.trap causeBfault 0) := need_false (by simpa [and_assoc] using h)
  rw [Use.indexWidth, hneed]
  rfl

theorem Res.ok_bind {α β : Type} (a : α) (f : α → Res β) : ((.ok a : Res α) >>= f) = f a := rfl

theorem Res.error_bind {α β : Type} (e : Bad) (f : α → Res β) : ((.error e : Res α) >>= f) = .error e := rfl

/-! ### An element in error (R177, R398) -/

theorem State.logError_acc_tiles (s : State) (node : Option W32) (cause : Byte) (u : BitVec 6) (row : Nat) :
    (s.logError node cause (.acc u row)).tiles = s.tiles := by
  show (s.abandonClose node).tiles = _
  unfold State.abandonClose
  split
  · split <;> rfl
  · rfl

theorem State.logError_acc_byte (s : State) (node : Option W32) (cause : Byte) (u : BitVec 6) (row p : Nat) :
    (s.logError node cause (.acc u row)).byte p = s.byte p := by
  show (s.abandonClose node).byte p = _
  unfold State.abandonClose
  split
  · split <;> rfl
  · rfl

/-- A word that finds an accumulator element in error faults, with the error logged. -/
theorem State.BlockTurn.poisons {s : State} {tn : BitVec 6} {x : BStream} (h : s.BlockTurn tn x) (c l : Nat)
    {f : BitVec 6 → BStream → State → Res State} {u : BitVec 6} {row : Nat}
    (hf : f tn x (s.setTile tn ((s.tile tn).atIssue x)) = .error (.acc u row)) :
    (s.blockIssue c l f).tile tn = ((s.tile tn).atIssue x).blockFault x causePoison ((s.tile tn).stream x).body ∧
      s.SameBytes (s.blockIssue c l f) := by
  rw [h.issue_eq, hf]
  show (State.onTile _ tn _).tile tn = _ ∧ s.SameBytes (State.onTile _ tn _)
  refine ⟨?_, fun p => ?_⟩
  · rw [State.onTile_tile, State.tile, State.logError_acc_tiles]
    exact congrArg (fun u : Tile => u.blockFault x causePoison ((s.tile tn).stream x).body) (s.setTile_tile tn _)
  · rw [State.onTile_byte, State.logError_acc_byte]
    rfl

/-! ### The elements of a row (R177) -/

theorem State.bankRowOk_setTile (s : State) (tn : BitVec 6) (u : Tile) (b : BitVec 2) (row : Nat) :
    (s.setTile tn u).bankRowOk tn b row = need (decide (row < s.bankRows tn b)) causeXlate := rfl

theorem Tile.bank_eq {t : Tile} {b : BitVec 2} (hb : b.toNat ≤ 2) : t.bank b = t.banks[b.toNat % 3] := by
  have hlt : b.toNat < 3 := by omega
  simp only [Tile.bank, dif_pos hlt, Nat.mod_eq_of_lt hlt]

theorem Bank.get_sound {b : Bank} {row col : Nat} (h : b.badAt row col = false) : b.get row col = (tget b.cells (row * 512 + col)).getD 0 :=
  if_neg (by rw [h]; exact Bool.false_ne_true)

theorem toDest_register {d : BitVec 5} (h : d.toNat < 24) (v : VReg) : toDest d v = .vreg d v := by
  rw [toDest, queueOf_register h]

/-- Settles O40: a form faults at the first of its steps that its hypothesis refuses; a row of sound elements is read or written. -/
theorem vectorAccumulators : Obligations.VectorAccumulators := by
  intro s tn d n x o r k b o6 p g hturn tl here acc hd hx
  have hsources (srcs dsts : List (BitVec 5)) (hs : ∀ q ∈ srcs, q.toNat < 24) (hd : ∀ q ∈ dsts, q.toNat < 24) : tl.takeSources false srcs dsts = .ok tl :=
    tl.takeSources_registers false hs hd
  have hd1 : tl.takeSources false [] [d] = .ok tl := hsources _ _ (by simp) (by simpa)
  have hd2 : tl.takeSources false [d] [] = .ok tl := hsources _ _ (by simpa) (by simp)
  have hx1 : tl.takeSources false [x] [d] = .ok tl := hsources _ _ (by simpa) (by simpa)
  have hx2 : tl.takeSources false [d, x] [] = .ok tl := hsources _ _ (by simp [hd, hx]) (by simp)
  refine ⟨fun hwin i hi => ?_, fun win hwin hfmt => ?_, fun hb => ⟨fun hrow => ⟨fun hbad => ?_, fun hsound => ?_, ?_⟩, fun hrow i hi => ?_⟩⟩
  · have hnone := Tile.vWindow_none hwin .v
    simp only [List.mem_cons, List.not_mem_nil, or_false] at hi
    rcases hi with rfl | rfl | rfl | rfl | rfl
    all_goals
      refine ⟨_, rfl, hturn.faults _ _ (val := 0) ?_⟩
      simp only [State.setTile_tile, tl, hd1, hd2, hx1, hx2, hnone, Res.ok_bind, Res.error_bind]
      rfl
  · have hsome := Tile.vWindow_some hwin hfmt .v
    have halign {c : Prop} [Decidable c] (h : ¬c) : need (decide c) causeAlign = .error (.trap causeAlign 0) := need_false (decide_eq_false h)
    intro ul us width
    refine ⟨fun h => ⟨_, rfl, hturn.faults _ _ (val := 0) ?_⟩, fun h => ⟨_, rfl, hturn.faults _ _ (val := 0) ?_⟩,
      fun h => ⟨_, rfl, hturn.faults _ _ (val := 0) ?_⟩, fun hwidth i hi => ?_, fun hwidth => ⟨fun h => ⟨_, rfl, hturn.faults _ _ (val := 0) ?_⟩,
      fun h => ⟨_, rfl, hturn.faults _ _ (val := 0) ?_⟩⟩⟩
    · simp only [State.setTile_tile, tl, hd1, hsome, Res.ok_bind]
      rw [halign h]
      rfl
    · simp only [State.setTile_tile, tl, hd2, hsome, Res.ok_bind]
      rw [halign h]
      rfl
    · simp only [State.setTile_tile, tl, hsome, Res.ok_bind]
      rw [halign h]
      rfl
    · have hwd (writer : Bool) : (tl.useOf .v win writer).indexWidth = .error (.trap causeBfault 0) := Use.indexWidth_error hwidth
      simp only [List.mem_cons, List.not_mem_nil, or_false] at hi
      rcases hi with rfl | rfl
      all_goals
        refine ⟨_, rfl, hturn.faults _ _ (val := 0) ?_⟩
        simp only [State.setTile_tile, tl, hx1, hx2, hsome, hwd, Res.ok_bind, Res.error_bind]
        rfl
    all_goals
      have hwd (writer : Bool) : (tl.useOf .v win writer).indexWidth = .ok width := Use.indexWidth_ok hwidth
      simp only [State.setTile_tile, tl, hx1, hx2, hsome, hwd, Res.ok_bind]
      rw [halign h]
      rfl
  · refine ⟨_, rfl, hturn.poisons 1 3 (u := tn) (row := 256 * b.toNat + o.toNat) ?_⟩
    have hany : ((upto 64).any fun j => (tl.bank b).badAt o.toNat (64 * g.toNat + j)) = true := by rwa [Tile.bank_eq hb]
    simp only [State.setTile_tile, tl, hd1, State.bankRowOk_setTile, need_true (decide_eq_true hrow), Res.ok_bind]
    rw [if_pos hany]
    rfl
  · refine ⟨_, rfl, hturn.ends 1 3 ?_⟩
    have hbank : tl.bank b = acc := Tile.bank_eq hb
    have hany : ¬((upto 64).any fun j => (tl.bank b).badAt o.toNat (64 * g.toNat + j)) = true := by
      rw [hbank, upto, hsound]
      exact Bool.false_ne_true
    have hget : (upto 64).map (fun j => ((tl.bank b).get o.toNat (64 * g.toNat + j)).toNat) =
        (List.range 64).map fun j => ((tget acc.cells (512 * o.toNat + (64 * g.toNat + j))).getD 0).toNat := by
      refine List.map_congr_left fun j hj => ?_
      have hj : acc.badAt o.toNat (64 * g.toNat + j) = false := by simpa using List.any_eq_false.1 hsound j hj
      rw [hbank, Bank.get_sound hj, Nat.mul_comm 512]
    simp only [State.setTile_tile, tl, hd1, State.bankRowOk_setTile, need_true (decide_eq_true hrow), Res.ok_bind]
    rw [if_neg hany, ← toDest_register hd, ← hget]
    exact congrArg Except.ok (State.setTile_setTile s tn _ _)
  · refine ⟨_, rfl, hturn.ends 1 2 ?_⟩
    have hread : tl.vread d = tl.vreg d := by rw [Tile.vread, queueOf_register hd]
    simp only [State.setTile_tile, tl, hd2, State.bankRowOk_setTile, need_true (decide_eq_true hrow), Res.ok_bind]
    rw [hread]
    exact congrArg Except.ok (State.setTile_setTile s tn _ _)
  · have hxlate : need (decide (o.toNat < s.bankRows tn b)) causeXlate = .error (.trap causeXlate 0) := need_false (decide_eq_false (by omega))
    simp only [List.mem_cons, List.not_mem_nil, or_false] at hi
    rcases hi with rfl | rfl
    all_goals
      refine ⟨_, rfl, hturn.faults _ _ (val := 0) ?_⟩
      simp only [State.setTile_tile, tl, hd1, hd2, State.bankRowOk_setTile, hxlate, Res.ok_bind, Res.error_bind]
      rfl

end Sys2Proof.Machine

/-! ## The V stream: conversions into a slice (R157 to R159) -/

namespace Sys2Proof.Machine

/-- The elements of a slice raise the flags of the slice alone. -/
theorem foldl_slice {m base n : Nat} (h : base + n ≤ m) (x : Nat → Flags) :
    (List.range m).foldl (fun fl e => if decide (base ≤ e ∧ e < base + n) = true then fl ||| x e else fl) 0 =
      (List.range n).foldl (fun fl i => fl ||| x (base + i)) 0 := by
  obtain ⟨rest, rfl⟩ := Nat.exists_eq_add_of_le h
  have hskip (l : List Nat) (hl : ∀ e ∈ l, ¬(base ≤ e ∧ e < base + n)) (fl : Flags) :
      l.foldl (fun fl e => if decide (base ≤ e ∧ e < base + n) = true then fl ||| x e else fl) fl = fl := by
    rw [List.foldl_ext _ (fun fl _ => fl) _ fun fl e he => if_neg (by simpa using hl e he)]
    exact List.foldl_fixed' (fun _ => rfl) l
  rw [List.range_add, List.range_add, List.foldl_append, List.foldl_append, hskip (List.range base) (fun e he => by have := List.mem_range.1 he; omega),
    hskip _ (fun e he => by obtain ⟨i, -, rfl⟩ := List.mem_map.1 he; omega), List.foldl_map]
  exact List.foldl_ext _ _ _ fun fl i hi => if_pos (by have := List.mem_range.1 hi; simpa using this)

/-- A word that writes the slice [base, base + n) of d. -/
theorem Tile.vslice_ok {t taken : Tile} {srcs : List (BitVec 5)} {d : BitVec 5} (h : t.takeSources false srcs [d] = .ok taken)
    {w base n : Nat} (hw : 0 < w) (hn : base + n ≤ 2048 / w) (sr : Bool) (f : Nat → Nat → Nat × Flags) :
    let written (e : Nat) := decide (base ≤ e ∧ e < base + n)
    t.vslice srcs d w base n sr f =
      .ok ({ taken with seeds := if sr = true then seedsAfter w written t.seeds else t.seeds },
        [toDest d (sliceOf w base n (t.vold d) fun i => (f i (drawFor w sr written t.seeds (base + i))).1)],
        (List.range n).foldl (fun fl i => fl ||| (f i (drawFor w sr written t.seeds (base + i))).2) 0) := by
  intro written
  refine (Tile.vmap_written h hw sr written _).trans ?_
  have helems : ((List.range (2048 / w)).map fun e =>
        if written e = true then (f (e - base) (drawFor w sr written t.seeds e)).1 else elem w (t.vold d) e) =
      (List.range (2048 / w)).map fun e =>
        if base ≤ e ∧ e < base + n then (f (e - base) (drawFor w sr written t.seeds (base + (e - base)))).1 else elem w (t.vold d) e := by
    refine List.map_congr_left fun e _ => ?_
    simp only [written, decide_eq_true_eq]
    split
    · next hin => rw [Nat.add_sub_cancel' hin.1]
    · rfl
  have hflags := foldl_slice hn fun e => (f (e - base) (drawFor w sr written t.seeds e)).2
  simp only [Nat.add_sub_cancel_left] at hflags
  rw [helems]
  exact congrArg (fun fl => Except.ok (_, _, fl)) hflags

end Sys2Proof.Machine

/-! ## The V stream: block scales (R117, R118, R160) -/

namespace Sys2Proof.Machine

/-! ### The greatest magnitude of a block -/

theorem FloatFormat.value_den {f : FloatFormat} {flush neg : Bool} {x n d : Nat} (h : f.value flush x = .fin neg n d) : 0 < d := by
  have hdyadic {s : Bool} {m : Nat} {e : Int} (h : dyadic s m e = .fin neg n d) : 0 < d := by
    obtain ⟨n', d', hval, hd, -⟩ := dyadic_rat s m e
    rw [hval] at h
    cases h
    exact hd
  unfold FloatFormat.value at h
  dsimp only at h
  split at h
  · split at h <;> cases h
  · split at h
    · cases h
    · split at h
      · split at h
        · cases h; exact Nat.one_pos
        · exact hdyadic h
      · exact hdyadic h

/-- A value is a number exactly when it stands for a rational. -/
theorem FloatFormat.value_rat_none {f : FloatFormat} {flush : Bool} {x : Nat} :
    (f.value flush x).rat = none ↔ ((f.value flush x).isNan || (f.value flush x).isInf) = true := by
  cases h : f.value flush x with
  | nan b => exact iff_of_true rfl rfl
  | inf b => exact iff_of_true rfl rfl
  | fin neg n d =>
    rw [Val.rat_fin _ (FloatFormat.value_den h).ne']
    exact iff_of_false (by simp) (by simp [Val.isNan, Val.isInf])

/-- The greater of a fraction and the magnitude of a value (R160). -/
def maxFrac (m : Nat × Nat) (v : Val) : Nat × Nat :=
  match v with
  | .fin _ n d => if m.1 * d < n * m.2 then (n, d) else m
  | _ => m

theorem maxFrac_rat {m : Nat × Nat} (hm : 0 < m.2) {neg : Bool} {n d : Nat} (hd : 0 < d) :
    0 < (maxFrac m (.fin neg n d)).2 ∧ ((maxFrac m (.fin neg n d)).1 : ℚ) / (maxFrac m (.fin neg n d)).2 =
      max ((m.1 : ℚ) / m.2) |(Val.fin neg n d).rat.getD 0| := by
  have habs : |(Val.fin neg n d).rat.getD 0| = (n : ℚ) / d := by
    rw [Val.rat_fin _ hd.ne', Option.getD_some]
    cases neg <;> simp [neg_div, abs_div]
  have hlt : m.1 * d < n * m.2 ↔ (m.1 : ℚ) / m.2 < n / d := by
    rw [div_lt_div_iff₀ (by exact_mod_cast hm) (by exact_mod_cast hd)]
    exact_mod_cast Iff.rfl
  rw [habs, maxFrac]
  split
  · next h => exact ⟨hd, (max_eq_right (hlt.1 h).le).symm⟩
  · next h => exact ⟨hm, (max_eq_left (not_lt.1 (mt hlt.2 h))).symm⟩

/-- The greatest magnitude of values that are all numbers. -/
theorem foldl_maxFrac {l : List Val} (h : ∀ v ∈ l, ∃ neg n d, v = .fin neg n d ∧ 0 < d) {m : Nat × Nat} (hm : 0 < m.2) :
    0 < (l.foldl maxFrac m).2 ∧ ((l.foldl maxFrac m).1 : ℚ) / (l.foldl maxFrac m).2 =
      (l.map Val.rat).foldl (fun acc x => max acc |x.getD 0|) ((m.1 : ℚ) / m.2) := by
  induction l generalizing m with
  | nil => exact ⟨hm, rfl⟩
  | cons v l ih =>
    obtain ⟨neg, n, d, rfl, hd⟩ := h v List.mem_cons_self
    obtain ⟨hpos, hmax⟩ := maxFrac_rat hm (neg := neg) (n := n) hd
    rw [List.foldl_cons, List.map_cons, List.foldl_cons, ← hmax]
    exact ih (fun v hv => h v (List.mem_cons_of_mem _ hv)) hpos

/-! ### Rounding up (R160) -/

theorem roundCount_up (n d : Nat) (x : Int) (draw : Nat) (hd : 0 < d) : (roundCount 4 false n d x draw).1 = ⌈(n : ℚ) / d / 2 ^ x⌉₊ := by
  have hD := scaledDen_pos hd x
  have hD' : (0 : ℚ) < scaledDen d x := by exact_mod_cast hD
  have hsplit := Nat.div_add_mod (scaledNum n x) (scaledDen d x)
  have hlt := Nat.mod_lt (scaledNum n x) hD
  rw [roundCount_eq, ← scaled_div]
  generalize scaledNum n x / scaledDen d x = k at *
  generalize scaledNum n x % scaledDen d x = r at *
  rw [← hsplit]
  push_cast
  rw [add_div, mul_div_cancel_left₀ _ hD'.ne', add_comm (k : ℚ), Nat.ceil_add_natCast (by positivity), add_comm _ k]
  show (if (!false && decide (r ≠ 0)) = true then k + 1 else k) = _
  rcases Nat.eq_zero_or_pos r with rfl | hr
  · simp
  · have hone : ⌈(r : ℚ) / scaledDen d x⌉₊ = 1 :=
      (Nat.ceil_eq_iff one_ne_zero).2 ⟨by simpa using by positivity, by rw [Nat.cast_one, div_le_one hD']; exact_mod_cast hlt.le⟩
    rw [hone, if_pos (by simpa using hr.ne')]

theorem FloatFormat.spacing_mono (f : FloatFormat) {p q : ℚ} (hp : 0 < p) (h : p ≤ q) : f.spacing p ≤ f.spacing q :=
  max_le_max_right _ (by have := Int.log_mono_right (b := 2) hp h; omega)

/-- A code's magnitude is a whole number of the spacings of every smaller value. -/
theorem FloatFormat.magnitude_spacings (f : FloatFormat) {q : ℚ} (hq : 0 < q) {b : Nat} (h : q ≤ f.magnitude b) :
    ∃ k : Nat, f.magnitude b = k * 2 ^ f.spacing q := by
  have hb : 0 < b := Nat.pos_of_ne_zero fun h0 => by
    rw [h0, f.magnitude_zero] at h
    exact absurd hq (not_lt.2 h)
  have hle : f.spacing q ≤ f.exponent b := f.spacing_magnitude hb ▸ f.spacing_mono hq h
  obtain ⟨j, hj⟩ := Int.eq_ofNat_of_zero_le (sub_nonneg.2 hle)
  refine ⟨f.significand b * 2 ^ j, ?_⟩
  rw [FloatFormat.magnitude, show f.exponent b = j + f.spacing q by omega, zpow_add₀ two_ne_zero, zpow_natCast]
  push_cast
  ring

/-- Rounding a positive magnitude up takes the least code that is no smaller. -/
theorem FloatFormat.round_up (f : FloatFormat) {n d : Nat} (draw : Nat) (hn : 0 < n) (hd : 0 < d) :
    ∃ c, f.pack false (f.round 4 false n d draw).count (f.round 4 false n d draw).exp = c ∧
      f.magnitude c = (f.round 4 false n d draw).count * 2 ^ (f.round 4 false n d draw).exp ∧ ∀ b, (n : ℚ) / d ≤ f.magnitude b ↔ c ≤ b := by
  have hq : 0 < (n : ℚ) / d := by positivity
  rw [f.round_count 4 false draw hn hd, roundCount_up n d _ draw hd, f.round_exp 4 false draw hn hd]
  generalize (n : ℚ) / d = q at *
  have hspacing : (0 : ℚ) < 2 ^ f.spacing q := by positivity
  obtain ⟨c, hpack, hmag⟩ := f.pack_code false (k := ⌈q / 2 ^ f.spacing q⌉₊) (x := f.spacing q) (Nat.ceil_le.2 (f.lt_spacing q).le)
    (f.least_le_spacing q) fun hlt => by
      by_contra hne
      exact absurd hlt (Nat.not_lt.2 (by exact_mod_cast (f.spacing_normal hq hne).trans (Nat.le_ceil _)))
  refine ⟨c, hpack.trans (Nat.zero_add c), hmag, fun b => ⟨fun h => ?_, fun h => ?_⟩⟩
  · obtain ⟨k, hk⟩ := f.magnitude_spacings hq h
    rw [← f.magnitude_strictMono.le_iff_le, hmag, hk]
    rw [hk, ← div_le_iff₀ hspacing] at h
    gcongr
    exact Nat.ceil_le.2 h
  · calc q ≤ ⌈q / 2 ^ f.spacing q⌉₊ * 2 ^ f.spacing q := (div_le_iff₀ hspacing).1 (Nat.le_ceil _)
      _ ≤ f.magnitude b := hmag ▸ f.magnitude_strictMono.monotone h

/-! ### Scales as F32 (R117, R118, R132) -/

/-- A magnitude that a normal code can hold is not tiny, so that flushing does not touch it. -/
theorem FloatFormat.convert_flush (f : FloatFormat) (mode : Nat) (sat flush neg : Bool) (draw : Nat) {n d : Nat} (hd : 0 < d)
    (h : (2 ^ f.man : Nat) ≤ (n : ℚ) / d / 2 ^ f.least) :
    f.convert mode sat flush draw (.fin neg n d) = f.convert mode sat false draw (.fin neg n d) := by
  rcases Nat.eq_zero_or_pos n with rfl | hn
  · rfl
  have htiny : (f.round mode neg n d draw).tiny =
      (decide (f.spacing (n / d) = f.least) && decide ((roundCount mode neg n d (f.spacing (n / d)) draw).1 < 2 ^ f.man)) := by
    rw [FloatFormat.round, floorLog2_eq_log hn hd]; rfl
  have hnormal : (f.round mode neg n d draw).tiny = false := by
    rw [htiny, Bool.and_eq_false_iff, decide_eq_false_iff_not, decide_eq_false_iff_not, or_iff_not_imp_left, not_not]
    intro hx
    rw [hx, Nat.not_lt]
    refine (Nat.le_floor h).trans ?_
    rcases roundCount_floor mode neg n d f.least draw with h | h <;> omega
  unfold FloatFormat.convert
  simp only [hnormal, Bool.false_eq_true, false_and, and_false, if_false]

/-- A fraction that stands for a code is converted to the code without a flag. -/
theorem FloatFormat.Regular.convert_magnitude {f : FloatFormat} (hf : f.Regular) (mode : Nat) (sat neg : Bool) {draw c n d : Nat}
    (hdraw : draw < 65536) (hcpos : 0 < c) (hc : c ≤ f.largest) (hd : 0 < d) (h : (n : ℚ) / d = f.magnitude c) :
    f.convert mode sat false draw (.fin neg n d) = (signBit f neg + c, 0) := by
  have hn : 0 < n := Nat.pos_of_ne_zero fun h0 => by
    rw [h0, Nat.cast_zero, zero_div, ← f.magnitude_zero] at h
    exact hcpos.ne (f.magnitude_strictMono.injective h)
  have hspacing : f.spacing (n / d) = f.exponent c := by rw [h, f.spacing_magnitude hcpos]
  have hcount := roundCount_exact mode neg (x := f.exponent c) (k := f.significand c) hd
    (by rw [h, FloatFormat.magnitude, mul_div_assoc, div_self (by positivity), mul_one]) hdraw
  have hexp := f.round_exp mode neg draw hn hd
  have hround := f.round_count mode neg draw hn hd
  have hexact := f.round_inexact mode neg draw hn hd
  rw [hspacing] at hexp
  rw [hspacing, hcount] at hround hexact
  have hfits : ¬f.exceeds (f.round mode neg n d draw).count (f.round mode neg n d draw).exp = true := by
    rw [hf.exceeds_iff, hround, hexp]
    exact not_lt.2 (f.magnitude_strictMono.monotone hc)
  rw [f.convert_fits hn hfits, hround, hexp, hexact, f.pack_fields, Bool.and_false]
  simp [flagIf]

theorem f32_regular : f32.Regular := regular_of_mem (by simp)
theorem e4m3_regular : e4m3.Regular := regular_of_mem (by simp)

/-- A power of two in the range of E8M0 as F32: its exponent field. -/
theorem scale_e8m0 (flush : Bool) {c : Nat} (h1 : 1 ≤ c) (h2 : c ≤ 254) : (f32.convert 0 false flush 0 (scaleVal 1 c)).1 = c * 2 ^ 23 := by
  obtain ⟨n, d, hval, hd, hrat⟩ := dyadic_rat false 1 ((c : Int) - 127)
  have hscale : scaleVal 1 c = .fin false n d := (if_neg (by omega)).trans hval
  obtain ⟨hs, he⟩ := f32.code_normal (e := c) (m := 0) h1 (Nat.two_pow_pos _)
  have hmag : (n : ℚ) / d = f32.magnitude (c * 2 ^ 23) := by
    rw [hrat, FloatFormat.magnitude, show c * 2 ^ 23 = c * 2 ^ f32.man + 0 from (Nat.add_zero (c * 2 ^ f32.man)).symm, hs, he]
    show _ = (2 ^ 23 : Nat) * (2 : ℚ) ^ ((c : Int) - 127 - 23)
    rw [zpow_sub₀ two_ne_zero ((c : Int) - 127)]
    norm_num
    ring
  have hnormal : (2 ^ f32.man : Nat) ≤ (n : ℚ) / d / 2 ^ f32.least := by
    rw [hrat, Nat.cast_one, one_mul, ← zpow_sub₀ two_ne_zero, Nat.cast_pow, ← zpow_natCast]
    refine zpow_le_zpow_right₀ one_le_two ?_
    show (23 : Int) ≤ (c : Int) - 127 - (1 - 127 - 23)
    omega
  rw [hscale, f32.convert_flush 0 false flush false 0 hd hnormal, f32_regular.convert_magnitude 0 false false (by decide) (by omega)
    (show c * 2 ^ 23 ≤ 0x7F7FFFFF by omega) hd hmag]
  exact Nat.zero_add _

/-- The F32 that stands for an E4M3 scale does not depend on flushing. -/
theorem scale_e4m3 (flush : Bool) {c : Nat} (h : c < 127) :
    f32.convert 0 false flush 0 (scaleVal 2 c) = f32.convert 0 false false 0 (e4m3.value false c) := by
  have hscale : scaleVal 2 c = e4m3.value false c := if_neg (by omega)
  obtain ⟨n, d, hval, hd, hrat⟩ := e4m3_regular.value_fin false (show c ≤ e4m3.largest by show c ≤ 126; omega)
  rw [show signBit e4m3 false = 0 from rfl, Nat.zero_add] at hval
  rw [hscale, hval]
  rcases Nat.eq_zero_or_pos c with rfl | hc
  · rw [e4m3.magnitude_zero, div_eq_zero_iff, or_iff_left (by exact_mod_cast hd.ne'), Nat.cast_eq_zero] at hrat
    rw [hrat]
    rfl
  · refine f32.convert_flush 0 false flush false 0 hd ?_
    have hle : e4m3.magnitude 1 ≤ (n : ℚ) / d := hrat ▸ e4m3.magnitude_strictMono.monotone hc
    have hone : e4m3.magnitude 1 = 2 ^ (-9 : Int) := by
      obtain ⟨hs, he⟩ := e4m3.code_subnormal (c := 1) (by decide)
      rw [FloatFormat.magnitude, hs, he, Nat.cast_one, one_mul]
      rfl
    rw [hone] at hle
    rw [le_div_iff₀ (by positivity)]
    refine le_trans ?_ hle
    show ((2 ^ 23 : Nat) : ℚ) * 2 ^ (1 - 127 - 23 : Int) ≤ 2 ^ (-9 : Int)
    norm_num

/-! ### The codes of a block (R160) -/

theorem blockScale_nan {t : BitVec 4} {kind : Nat} {l : List Val} (h : (l.any fun v => v.isNan || v.isInf) = true) :
    blockScale t kind l = (if kind = 1 then 0xFF else 0x7F, flagNV) := if_pos h

/-- The code of a block of numbers whose greatest magnitude is n / d. -/
theorem blockScale_numbers {t : BitVec 4} {kind : Nat} {l : List Val} (h : ¬(l.any fun v => v.isNan || v.isInf) = true) :
    blockScale t kind l =
      let m := l.foldl maxFrac (0, 1)
      let lim := scaleLimit t
      if m.1 = 0 then (if kind = 1 then 0x7F else 0x38, 0)
      else if kind = 1 then
        let c := floorLog2 m.1 m.2 - lim.2 + 127
        if c < 1 then (1, 0) else if c > 254 then (254, flagST) else (c.toNat, 0)
      else
        let r := e4m3.round 4 false m.1 (m.2 * lim.1) 0
        if e4m3.exceeds r.count r.exp then (0x7E, flagST) else (e4m3.pack false r.count r.exp, 0) := if_neg h

/-- The E4M3 scale of a positive magnitude: the least code that is no smaller, or the greatest code, saturated. -/
theorem e4m3_scale {n d : Nat} (hn : 0 < n) (hd : 0 < d) :
    (let r := e4m3.round 4 false n d 0
      if e4m3.exceeds r.count r.exp then (0x7E, flagST) else (e4m3.pack false r.count r.exp, (0 : Flags))) =
    match (List.range 127).find? fun c => decide ((n : ℚ) / d ≤ ((e4m3.value false c).rat.getD 0)) with
      | some c => (c, 0)
      | none => (0x7E, flagST) := by
  obtain ⟨c, hpack, hmag, hleast⟩ := e4m3.round_up 0 hn hd
  have hvalue (b : Nat) (hb : b < 127) : (e4m3.value false b).rat.getD 0 = e4m3.magnitude b := by
    have h := e4m3_regular.value_rat false (show b ≤ e4m3.largest by show b ≤ 126; omega)
    rw [show signBit e4m3 false = 0 from rfl, Nat.zero_add] at h
    rw [h]
    rfl
  have hexceeds : e4m3.exceeds (e4m3.round 4 false n d 0).count (e4m3.round 4 false n d 0).exp = true ↔ 126 < c := by
    rw [e4m3_regular.exceeds_iff, ← hmag]
    exact e4m3.magnitude_strictMono.lt_iff_lt
  dsimp only
  rw [hpack]
  split
  · next h =>
    have hnone : (List.range 127).find? (fun c => decide ((n : ℚ) / d ≤ ((e4m3.value false c).rat.getD 0))) = none :=
      List.find?_eq_none.2 fun b hb => by
        have hb := List.mem_range.1 hb
        have := hexceeds.1 h
        rw [hvalue b hb, decide_eq_true_eq, hleast]
        omega
    rw [hnone]
  · next h =>
    rw [hexceeds, Nat.not_lt] at h
    have hsome : (List.range 127).find? (fun c => decide ((n : ℚ) / d ≤ ((e4m3.value false c).rat.getD 0))) = some c := by
      refine List.find?_range_eq_some.2 ⟨?_, List.mem_range.2 (by omega), fun b hb => ?_⟩
      · rw [hvalue c (by omega), decide_eq_true_eq, hleast]
      · rw [hvalue b (by omega), Bool.not_eq_true', decide_eq_false_iff_not, hleast]
        omega
    rw [hsome]

/-- The code of a block from the rationals of its values, and its flags (R160). -/
def blockCode (k : BitVec 2) (lmax : ℚ) (emax : Int) (block : List (Option ℚ)) : Nat × Flags :=
  let m : ℚ := block.foldl (fun acc x => max acc |x.getD 0|) 0
  if none ∈ block then (if k = 1 then 0xFF else 0x7F, flagNV)
  else if m = 0 then (if k = 1 then 0x7F else 0x38, 0)
  else if k = 1 then
    let c := Int.log 2 m - emax + 127
    (if c < 1 then 1 else if 254 < c then 254 else c.toNat, if 254 < c then flagST else 0)
  else match (List.range 127).find? fun c => decide (m / lmax ≤ ((e4m3.value false c).rat.getD 0)) with
    | some c => (c, 0)
    | none => (0x7E, flagST)

theorem blockScale_eq {t : BitVec 4} {lmax : ℚ} {emax : Int} (hpos : 0 < (scaleLimit t).1) (hmax : ((scaleLimit t).1 : ℚ) = lmax)
    (hexp : ((scaleLimit t).2 : Int) = emax) (k : BitVec 2) (flush : Bool) (l : List Nat) :
    blockScale t k.toNat (l.map (f32.value flush)) = blockCode k lmax emax (l.map fun x => (f32.value flush x).rat) := by
  have hk : k.toNat = 1 ↔ k = 1 := by revert k; decide
  have hnan : none ∈ (l.map fun x => (f32.value flush x).rat) ↔ ((l.map (f32.value flush)).any fun v => v.isNan || v.isInf) = true := by
    simp only [List.mem_map, List.any_map, List.any_eq_true, Function.comp, FloatFormat.value_rat_none]
  by_cases h : ((l.map (f32.value flush)).any fun v => v.isNan || v.isInf) = true
  · rw [blockScale_nan h, blockCode, if_pos (hnan.2 h)]
    simp only [hk]
  have hnumbers : ∀ v ∈ l.map (f32.value flush), ∃ neg n d, v = .fin neg n d ∧ 0 < d := fun v hv => by
    have hno := List.any_eq_false.1 (Bool.not_eq_true _ ▸ h) v hv
    obtain ⟨x, -, rfl⟩ := List.mem_map.1 hv
    cases hx : f32.value flush x with
    | nan b => rw [hx] at hno; exact absurd rfl hno
    | inf b => rw [hx] at hno; exact absurd rfl hno
    | fin neg n d => exact ⟨neg, n, d, rfl, FloatFormat.value_den hx⟩
  obtain ⟨hden, hrat⟩ := foldl_maxFrac hnumbers (m := (0, 1)) Nat.one_pos
  rw [List.map_map, Nat.cast_zero, zero_div] at hrat
  have hblock : (l.map fun x => (f32.value flush x).rat) = l.map (Val.rat ∘ f32.value flush) := rfl
  rw [blockScale_numbers h, blockCode, if_neg (mt hnan.1 h), hblock, ← hrat]
  generalize (l.map (f32.value flush)).foldl maxFrac (0, 1) = m at *
  obtain ⟨n, d⟩ := m
  dsimp only at hden ⊢
  have hd0 : (d : ℚ) ≠ 0 := by exact_mod_cast hden.ne'
  have hzero : (n : ℚ) / d = 0 ↔ n = 0 := by rw [div_eq_zero_iff, or_iff_left hd0, Nat.cast_eq_zero]
  simp only [hzero, hk]
  split
  · rfl
  · next hn =>
    have hn := Nat.pos_of_ne_zero hn
    split
    · rw [floorLog2_eq_log hn hden, hexp]
      generalize Int.log 2 ((n : ℚ) / d) - emax + 127 = c
      split
      · rw [if_neg (by omega)]
      · by_cases hc : 254 < c
        · simp only [gt_iff_lt, hc, if_true]
        · simp only [gt_iff_lt, hc, if_false]
    · have hscaled : (n : ℚ) / (d * (scaleLimit t).1 : Nat) = (n : ℚ) / d / lmax := by
        rw [Nat.cast_mul, hmax, div_mul_eq_div_div]
      rw [← hscaled]
      exact e4m3_scale hn (Nat.mul_pos hden hpos)

/-- The codes that a block can have. -/
theorem blockCode_range (k : BitVec 2) (lmax : ℚ) (emax : Int) (block : List (Option ℚ)) :
    (k = 1 → (blockCode k lmax emax block).1 = 255 ∨ 1 ≤ (blockCode k lmax emax block).1 ∧ (blockCode k lmax emax block).1 ≤ 254) ∧
      (k ≠ 1 → (blockCode k lmax emax block).1 ≤ 127) := by
  unfold blockCode
  generalize block.foldl (fun acc x => max acc |x.getD 0|) 0 = m
  by_cases hk : k = 1
  · refine ⟨fun _ => ?_, fun h => absurd hk h⟩
    simp only [hk, if_true]
    split
    · exact Or.inl rfl
    · refine Or.inr ?_
      split
      · exact ⟨by decide, by decide⟩
      · dsimp only
        split
        · exact ⟨le_rfl, by decide⟩
        · split <;> omega
  · refine ⟨fun h => absurd h hk, fun _ => ?_⟩
    simp only [hk, if_false]
    split
    · exact le_rfl
    · split
      · decide
      · split
        · next c hc => exact (List.mem_range.1 (List.mem_of_find?_eq_some hc)).le
        · decide

/-- The F32 lane of a scale code (R117, R118). -/
def scaleLane (k : BitVec 2) (c : Nat) : Nat :=
  if k = 1 then (if c = 255 then 0x7FC00000 else c * 2 ^ 23) else if c = 0x7F then 0x7FC00000
  else (f32.convert 0 false false 0 (e4m3.value false c)).1

theorem scaleLane_blockCode {k : BitVec 2} (hk : k = 1 ∨ k = 2) (flush : Bool) (lmax : ℚ) (emax : Int) (block : List (Option ℚ)) :
    (f32.convert 0 false flush 0 (scaleVal k.toNat (blockCode k lmax emax block).1)).1 = scaleLane k (blockCode k lmax emax block).1 := by
  obtain ⟨hone, htwo⟩ := blockCode_range k lmax emax block
  generalize (blockCode k lmax emax block).1 = c at *
  rcases hk with rfl | rfl
  · rw [scaleLane, if_pos rfl]
    rcases hone rfl with rfl | ⟨h1, h2⟩
    · rfl
    · rw [if_neg (by omega)]
      exact scale_e8m0 flush h1 h2
  · rw [scaleLane, if_neg (by decide)]
    rcases (htwo (by decide)).lt_or_eq with h | rfl
    · rw [if_neg h.ne]
      exact congrArg Prod.fst (scale_e4m3 flush h)
    · rfl

/-- The codes of the four blocks of a register, and their flags together. -/
theorem blockScales_eq (t : BitVec 4) (kind : Nat) (flush : Bool) (v : VReg) (code : Nat → Nat × Flags)
    (h : ∀ j, blockScale t kind (((List.range 16).map fun i => elem 32 v (16 * j + i)).map (f32.value flush)) = code j) :
    blockScales t kind flush v = ((List.range 4).map fun j => (code j).1, (code 0).2 ||| (code 1).2 ||| (code 2).2 ||| (code 3).2) := by
  have hl : ((upto 4).map fun b => blockScale t kind ((upto 16).map fun i => f32.value flush (laneOf v (16 * b + i)))) = (List.range 4).map code :=
    List.map_congr_left fun j _ => by rw [← h j, List.map_map]; rfl
  rw [blockScales, hl, List.map_map]
  refine Prod.ext rfl ?_
  have hzero : (0 : Flags) ||| (code 0).2 = (code 0).2 := BitVec.zero_or
  show (0 : Flags) ||| (code 0).2 ||| _ ||| _ ||| _ = _
  rw [hzero]

/-! ### The words (R157 to R160) -/

theorem tyWidth_classW {t : BitVec 4} (ht : WellFormed.classW t) : tyWidth t = 4 ∨ tyWidth t = 8 ∨ tyWidth t = 16 ∨ tyWidth t = 32 := by
  revert t; decide

theorem tyWidth_pos_classW {t : BitVec 4} (ht : WellFormed.classW t) : 0 < tyWidth t := by
  rcases tyWidth_classW ht with h | h | h | h <;> omega

/-- A word that writes a slice of d, with a draw for each of its elements under SR. -/
theorem State.BlockTurn.givesSlice {s : State} {tn : BitVec 6} (h : s.BlockTurn tn .v) {srcs : List (BitVec 5)} {d : BitVec 5} {taken : Tile}
    (htaken : ((s.tile tn).atIssue .v).takeSources false srcs [d] = .ok taken) {w base n : Nat} (hw : 0 < w) (hn : base + n ≤ 2048 / w)
    (r : BitVec 3) (f : Tile → Bool → Nat → Nat → Nat × Flags) :
    let tl := (s.tile tn).atIssue .v
    let written (e : Nat) := decide (base ≤ e ∧ e < base + n)
    let draw i := if r = 2 then drawOf w written tl.seeds (base + i) else 0
    s.VGives (s.vIssue 1 4 fun tl flush => tl.vslice srcs d w base n (r == 2) (f tl flush)) tn 1 4
      { taken with seeds := if r = 2 then seedsAfter w written tl.seeds else tl.seeds }
      [toDest d (sliceOf w base n (tl.vold d) fun i => (f tl tl.v.exposed i (draw i)).1)]
      ((List.range n).foldl (fun fl i => fl ||| (f tl tl.v.exposed i (draw i)).2) 0) := by
  intro tl written draw
  refine h.gives 1 4 ((Tile.vslice_ok htaken hw hn _ _).trans ?_)
  simp only [drawFor, beq_iff_eq]
  rfl

theorem exec_vcvt (d a : BitVec 5) (y : BitVec 4) (z : BitVec 1) (p : BitVec 3) (t : BitVec 4) (r : BitVec 3) (s : State) :
    exec (.vcvt d a y z p t r) s = .next (s.vIssue 1 4 fun tl flush =>
      tl.vslice [a] d (tyWidth t) (if tyWidth t ≤ tyWidth y then p.toNat * (2048 / max (tyWidth y) (tyWidth t)) else 0)
        (2048 / max (tyWidth y) (tyWidth t)) (r == 2) fun i draw =>
          convertElem (elemOf y.toNat) (elemOf t.toNat) r.toNat (z == 1) flush draw (elem (tyWidth y) (tl.vread a)
            (if tyWidth t ≤ tyWidth y then i else p.toNat * (2048 / max (tyWidth y) (tyWidth t)) + i))) := by
  show Host.Outcome.next _ = _
  simp only [decide_eq_true_eq]

/-- The slice of a conversion lies in the register. -/
theorem vcvt_slice {ws wd p : Nat} (hwd : 0 < wd) (hp : p < WellFormed.ratio ws wd) :
    (if wd ≤ ws then p * (2048 / max ws wd) else 0) + 2048 / max ws wd ≤ 2048 / wd := by
  rw [WellFormed.ratio] at hp
  split
  · next hle =>
    rw [max_eq_left hle, min_eq_right hle] at *
    rw [← Nat.succ_mul, Nat.le_div_iff_mul_le hwd]
    calc (p + 1) * (2048 / ws) * wd = 2048 / ws * ((p + 1) * wd) := by ring
      _ ≤ 2048 / ws * (ws / wd * wd) := by gcongr; exact hp
      _ ≤ 2048 / ws * ws := by gcongr; exact Nat.div_mul_le_self ws wd
      _ ≤ 2048 := Nat.div_mul_le_self 2048 ws
  · next hlt => rw [max_eq_right (by omega), Nat.zero_add]

/-- Settles O36: the conversions as slices whose elements `convertElem` rounds once; the block scales by the codes of their blocks. -/
theorem vectorConversions : Obligations.VectorConversions := by
  intro s tn d a b p r t y z k hturn tl flush ws wd n narrow slice lane
  refine ⟨fun hwf taken htaken => ⟨_, exec_vcvt d a y z p t r s, ?_⟩, fun hwf taken htaken => ⟨_, rfl, ?_⟩, fun hwf taken htaken => ⟨_, rfl, ?_⟩,
    fun hwf => ?_⟩
  · obtain ⟨ht, -, -, -, -, hp⟩ := of_decide_eq_true hwf
    exact hturn.givesSlice htaken (tyWidth_pos_classW ht) (vcvt_slice (tyWidth_pos_classW ht) hp) r _
  · obtain ⟨ht, -, -, hp⟩ := of_decide_eq_true hwf
    refine hturn.givesSlice htaken (tyWidth_pos_classW ht) ?_ r _
    change p.toNat < 32 / tyWidth t at hp
    rcases tyWidth_classW ht with ht | ht | ht | ht <;> rw [ht] at hp ⊢ <;> omega
  · exact hturn.givesSlice htaken (by decide) (by decide) r _
  · obtain ⟨ht, hk⟩ := of_decide_eq_true hwf
    intro block m lmax emax code scale flags taken htaken
    have hlim : 0 < (scaleLimit t).1 ∧ ((scaleLimit t).1 : ℚ) = lmax ∧ ((scaleLimit t).2 : Int) = emax := by
      rcases ht with h | h | h | h | h | h | h <;> simp [scaleLimit, lmax, emax, h]
    obtain ⟨hpos, hmax, hexp⟩ := hlim
    have hscales : blockScales t k.toNat flush (tl.vread a) = ((List.range 4).map fun j => (code j).1, flags) :=
      blockScales_eq t k.toNat flush (tl.vread a) code fun j => (blockScale_eq hpos hmax hexp k flush _).trans (by rw [List.map_map]; rfl)
    have hcode (j : Nat) (hj : j < 4) : ((List.range 4).map fun j => (code j).1)[j]?.getD 0 = (code j).1 := by
      rw [List.getElem?_map, List.getElem?_range hj]
      rfl
    refine ⟨⟨_, rfl, hturn.gives 2 6 ?_⟩, ⟨_, rfl, hturn.gives 2 6 ?_⟩⟩
    · show (tl.takeSources false [a] [d] >>= _) = _
      rw [htaken, Res.ok_bind, hscales]
      refine congrArg (fun l => Except.ok (taken, [toDest d (ofElems 32 l)], flags)) (List.map_congr_left fun e he => ?_)
      have he := List.mem_range.1 he
      rw [hcode _ (by omega)]
      exact scaleLane_blockCode hk flush lmax emax (block (e / 16))
    · show (tl.takeSources false [a] [d] >>= _) = _
      rw [htaken, Res.ok_bind, hscales]
      refine congrArg (fun l => Except.ok (taken, [toDest d (ofElems 8 l)], flags)) (List.map_congr_left fun e he => ?_)
      split
      · rw [hcode _ (by omega)]
      · rfl

end Sys2Proof.Machine

/-! ## Bytes through the pinned pages of a window (R170, R184, R187) -/

namespace Sys2Proof.Machine

/-! ### Consecutive runs -/

/-- The runs of a list, each an offset and a length, follow one another from o to n. -/
inductive Runs : List (Nat × Nat) → Nat → Nat → Prop
  | nil (n : Nat) : Runs [] n n
  | cons {l : List (Nat × Nat)} {o k n : Nat} (pos : 0 < k) (le : o + k ≤ n) (rest : Runs l (o + k) n) : Runs ((o, k) :: l) o n

/-- The pieces of lines are consecutive runs. -/
theorem pieces_runs (pa fuel : Nat) {o n : Nat} (ho : o ≤ n) (h : o < n → n - o + (pa + o) % 128 ≤ 128 * fuel) :
    ∃ l, Runs l o n ∧ pieces fuel (pa + o) (n - o) = l.map fun e => (pa + e.1, e.2) := by
  induction fuel generalizing o with
  | zero =>
    obtain rfl : o = n := by omega
    exact ⟨[], .nil o, rfl⟩
  | succ fuel ih =>
    rcases ho.eq_or_lt with rfl | hlt
    · exact ⟨[], .nil o, by rw [pieces, if_pos (Nat.sub_self o)]; rfl⟩
    · have h := h hlt
      obtain ⟨k, hk⟩ : ∃ k, k = min (n - o) (128 - (pa + o) % 128) := ⟨_, rfl⟩
      have hline : (pa + (o + k)) % 128 = ((pa + o) % 128 + k) % 128 := by omega
      have hend : k = n - o ∨ k = 128 - (pa + o) % 128 := by omega
      obtain ⟨l, hl, hpieces⟩ := ih (o := o + k) (by omega) (fun _ => by omega)
      refine ⟨(o, k) :: l, .cons (by omega) (by omega) hl, ?_⟩
      rw [pieces, if_neg (by omega), ← hk]
      dsimp only
      rw [Nat.add_assoc, Nat.sub_sub, hpieces]
      rfl

theorem pieces_all (pa n : Nat) : ∃ l, Runs l 0 n ∧ pieces (n / 128 + 2) pa n = l.map fun e => (pa + e.1, e.2) :=
  pieces_runs pa (n / 128 + 2) (Nat.zero_le n) fun _ => by omega

theorem vaOf_add (a : Int) (k : Nat) : vaOf (a + k) % 4096 = (vaOf a % 4096 + k) % 4096 := by
  simp only [vaOf, ofSigned]
  omega

/-- The spans of pages are consecutive runs. -/
theorem pageSpans_runs (a : Int) (fuel : Nat) {o n : Nat} (ho : o ≤ n) (h : o < n → n - o + vaOf (a + o) % 4096 ≤ 4096 * fuel) :
    ∃ l, Runs l o n ∧ pageSpans fuel (a + o) (n - o) = l.map fun e => (a + e.1, e.2) := by
  induction fuel generalizing o with
  | zero =>
    obtain rfl : o = n := by omega
    exact ⟨[], .nil o, rfl⟩
  | succ fuel ih =>
    rcases ho.eq_or_lt with rfl | hlt
    · exact ⟨[], .nil o, by rw [pageSpans, if_pos (Nat.sub_self o)]; rfl⟩
    · have h := h hlt
      obtain ⟨k, hk⟩ : ∃ k, k = min (n - o) (4096 - vaOf (a + o) % 4096) := ⟨_, rfl⟩
      have hva := vaOf_add (a + o) k
      rw [add_assoc, ← Nat.cast_add] at hva
      have hend : k = n - o ∨ k = 4096 - vaOf (a + o) % 4096 := by omega
      obtain ⟨l, hl, hspans⟩ := ih (o := o + k) (by omega) (fun _ => by omega)
      refine ⟨(o, k) :: l, .cons (by omega) (by omega) hl, ?_⟩
      rw [pageSpans, if_neg (by omega), ← hk]
      dsimp only
      rw [add_assoc, ← Nat.cast_add, Nat.sub_sub, hspans]
      rfl

theorem pageSpans_all (a : Int) (n : Nat) : ∃ l, Runs l 0 n ∧ pageSpans (n / 4096 + 2) a n = l.map fun e => (a + (e.1 : Int), e.2) := by
  have h := pageSpans_runs a (n / 4096 + 2) (Nat.zero_le n) fun _ => by omega
  rwa [Nat.cast_zero, add_zero] at h

/-- A fold over consecutive runs keeps what each step keeps. -/
theorem Runs.foldlM {α : Type} {P : Nat → α → Prop} {f : α → Nat × Nat → Res α} {l : List (Nat × Nat)} {o n : Nat} (h : Runs l o n)
    (hstep : ∀ o k x, P o x → 0 < k → o + k ≤ n → ∃ y, f x (o, k) = .ok y ∧ P (o + k) y) {x : α} (hx : P o x) :
    ∃ y, l.foldlM f x = .ok y ∧ P n y := by
  induction h generalizing x with
  | nil n => exact ⟨x, rfl, hx⟩
  | cons pos le rest ih =>
    obtain ⟨y, hy, hP⟩ := hstep _ _ x hx pos le
    obtain ⟨z, hz, hPz⟩ := ih hstep hP
    refine ⟨z, ?_, hPz⟩
    rw [List.foldlM_cons, hy]
    exact hz

/-- A fold over consecutive runs whose value after the first o is g o. -/
theorem Runs.foldlM_eq {α : Type} {g : Nat → α} {f : α → Nat × Nat → Res α} {l : List (Nat × Nat)} {n : Nat} (h : Runs l 0 n)
    (hstep : ∀ o k, 0 < k → o + k ≤ n → f (g o) (o, k) = .ok (g (o + k))) : l.foldlM f (g 0) = .ok (g n) := by
  obtain ⟨y, hy, rfl⟩ := h.foldlM (P := fun o x => x = g o) (fun o k x hx h0 hle => ⟨_, hx ▸ hstep o k h0 hle, rfl⟩) rfl
  exact hy

/-! ### Reads (R170, R396) -/

theorem Memory.bytes_append (m : Memory) (a n k : Nat) : m.bytes a n ++ m.bytes (a + n) k = m.bytes a (n + k) := by
  induction n generalizing a with
  | zero => rw [Nat.zero_add]; rfl
  | succ n ih =>
    have h := ih (a + 1)
    rw [Nat.add_assoc, Nat.add_comm 1] at h
    rw [Nat.succ_add, Memory.bytes, Memory.bytes, List.cons_append, h]

/-- Bytes that are sound one by one are sound together. -/
theorem State.anyPoison_bytes {s : State} {pa n : Nat} (h0 : 0 < n) (h : ∀ i < n, s.anyPoison (pa + i) 1 = false) : s.anyPoison pa n = false := by
  by_contra hbad
  simp only [State.anyPoison, Bool.not_eq_false, Bool.and_eq_true, List.any_eq_true, decide_eq_true_eq] at hbad
  obtain ⟨hne, g, hg, hlow, hhigh⟩ := hbad
  have hsize : 0 < granuleSize g := by unfold granuleSize; split <;> decide
  have hi := h (g - pa) (by omega)
  simp only [State.anyPoison, hne, Bool.true_and, List.any_eq_false, Bool.and_eq_true, decide_eq_true_eq, not_and] at hi
  exact hi g hg (by omega) (by omega)

theorem State.readLocal_sound (s : State) {leaf : Leaf} (view : View) (hv : leaf.ver = false) (hs : leaf.sealed = false) {pa n : Nat}
    (h : ∀ i < n, tget s.seals ((pa + i) / 128) = none ∧ s.scratchBusy (pa + i) = false ∧ s.anyPoison (pa + i) 1 = false) :
    s.readLocal leaf view pa n = .ok (s.mem.bytes pa n, false) := by
  obtain ⟨l, hl, hpieces⟩ := pieces_all pa n
  rw [State.readLocal, hpieces, List.foldlM_map]
  refine hl.foldlM_eq (g := fun o => (s.mem.bytes pa o, false)) fun o k h0 hle => ?_
  obtain ⟨htag, hopen, -⟩ := h o (by omega)
  have hsound : s.anyPoison (pa + o) k = false := State.anyPoison_bytes h0 fun i hi => by
    rw [Nat.add_assoc]
    exact (h (o + i) (by omega)).2.2
  dsimp only
  rw [s.readPart_plain view hv hs htag hopen hsound, ← s.mem.bytes_append pa o k]
  rfl

section
variable {s : State} {pins : List Held} {a : Int} {n : Nat} {leaf : Leaf} {pa : Nat}

/-- The bytes of a sub-range that are all used. -/
theorem State.PlainBytes.sub {used : Nat → Bool} (h : s.PlainBytes pins a n used leaf pa) {o k : Nat} (hle : o + k ≤ n)
    (hused : ∀ i < k, used (o + i) = true) : s.PlainBytes pins (a + o) k (fun _ => true) leaf (pa + o) := by
  refine ⟨fun i hi _ => ?_, fun i hi _ => ?_, h.plain⟩
  · have hpin := h.pin (o + i) (by omega) (hused i hi)
    rwa [Nat.cast_add, ← add_assoc, ← Nat.add_assoc] at hpin
  · have hstore := h.store (o + i) (by omega) (hused i hi)
    rwa [← Nat.add_assoc] at hstore

variable (h : s.PlainBytes pins a n (fun _ => true) leaf pa)
include h

/-- The page at an offset, which the quarantine table lets a window use. -/
theorem State.PlainBytes.page {o : Nat} (ho : o < n) : pinPa pins (vaOf (a + o)) = some (leaf, s.group (pa + o)) ∧
    s.refused (s.group (pa + o)) = false ∧ s.ownPkg (s.group (pa + o)) = true ∧ localOf (s.group (pa + o)) = pa + o := by
  obtain ⟨hlt, -, -, hq⟩ := h.store o ho rfl
  refine ⟨h.pin o ho rfl, ?_, s.ownPkg_group hlt, s.localOf_group hlt⟩
  rw [State.refused, s.localOf_group hlt, hq, Bool.and_false]

/-- Sound bytes read through a window. -/
theorem State.PlainBytes.readWhole (hsound : ∀ i < n, s.anyPoison (pa + i) 1 = false) (who : Asker) (view : View) {o k : Nat} (h0 : 0 < k)
    (hle : o + k ≤ n) : s.readWhole who leaf view (s.group (pa + o)) k = .ok (s.mem.bytes (pa + o) k) := by
  obtain ⟨-, -, hown, hlocal⟩ := h.page (o := o) (by omega)
  have hread : s.readAny who leaf view (s.group (pa + o)) k = .ok (s.mem.bytes (pa + o) k, false) := by
    rw [State.readAny, if_pos hown, hlocal]
    refine s.readLocal_sound view h.plain.1 h.plain.2.2 fun i hi => ?_
    obtain ⟨-, htag, hopen, -⟩ := h.store (o + i) (by omega) rfl
    rw [Nat.add_assoc]
    exact ⟨htag, hopen, hsound (o + i) (by omega)⟩
  rw [State.readWhole, hread]
  rfl

end

theorem State.PlainBytes.winWhole {s : State} {u : Use} {a : Int} {n : Nat} {leaf : Leaf} {pa : Nat}
    (h : s.PlainBytes u.pins a n (fun _ => true) leaf pa) (hsound : ∀ i < n, s.anyPoison (pa + i) 1 = false) (tn : BitVec 6) (x : BStream) :
    s.winWhole tn x u a n = .ok (s.mem.bytes pa n) := by
  obtain ⟨l, hl, hspans⟩ := pageSpans_all a n
  rw [State.winWhole, hspans, List.foldlM_map]
  refine hl.foldlM_eq (g := fun o => s.mem.bytes pa o) fun o k h0 hle => ?_
  obtain ⟨hpin, hok, -, -⟩ := h.page (o := o) (by omega)
  simp only [hpin, hok, Bool.not_false, need_true, Res.ok_bind, h.readWhole hsound _ _ h0 hle, s.mem.bytes_append pa o k]
  rfl

end Sys2Proof.Machine

/-! ## The V stream: a register's bytes from the cursor (R170, R184) -/

namespace Sys2Proof.Machine

/-- The elements of a range that a convex condition takes are one run. -/
theorem filter_range_convex {P : Nat → Bool} (n : Nat) (hP : ∀ i j k, i ≤ j → j ≤ k → P i = true → P k = true → P j = true) :
    ∃ l m, l + m ≤ n ∧ (List.range n).filter P = (List.range m).map (l + ·) := by
  induction n with
  | zero => exact ⟨0, 0, le_rfl, rfl⟩
  | succ n ih =>
    obtain ⟨l, m, hle, hfilter⟩ := ih
    rw [List.range_succ, List.filter_append, hfilter]
    by_cases hn : P n = true
    · rw [List.filter_cons_of_pos hn, List.filter_nil]
      rcases Nat.eq_zero_or_pos m with rfl | hm
      · exact ⟨n, 1, le_rfl, rfl⟩
      · have hmem (i : Nat) : i ∈ (List.range n).filter P ↔ l ≤ i ∧ i < l + m := by
          rw [hfilter, List.mem_map]
          exact ⟨fun ⟨j, hj, e⟩ => by have := List.mem_range.1 hj; omega, fun h => ⟨i - l, List.mem_range.2 (by omega), by omega⟩⟩
        have hfirst : P l = true := (List.mem_filter.1 ((hmem l).2 (by omega))).2
        have hlast : l + m = n := by
          by_contra hne
          have hin := (hmem (n - 1)).1 (List.mem_filter.2 ⟨List.mem_range.2 (by omega), hP l (n - 1) n (by omega) (by omega) hfirst hn⟩)
          omega
        refine ⟨l, m + 1, by omega, ?_⟩
        rw [List.range_succ, List.map_append, List.map_cons, List.map_nil, hlast]
    · rw [List.filter_cons_of_neg hn, List.filter_nil, List.append_nil]
      exact ⟨l, m, by omega, rfl⟩

theorem Use.byteIn_convex (u : Use) (o : Int) (i j k : Nat) (hij : i ≤ j) (hjk : j ≤ k) (hi : u.byteIn (o + i) = true)
    (hk : u.byteIn (o + k) = true) : u.byteIn (o + j) = true := by
  have hmono {a b : Nat} (h : a ≤ b) : u.c 0 + 8 * (o + a) / fmtWidth u.image.fmt ≤ u.c 0 + 8 * (o + b) / fmtWidth u.image.fmt := by
    rcases Nat.eq_zero_or_pos (fmtWidth u.image.fmt) with hw | hw
    · rw [hw, Nat.cast_zero, Int.ediv_zero, Int.ediv_zero]
    · have := Int.ediv_le_ediv (Int.natCast_pos.2 hw) (by omega : 8 * (o + a) ≤ 8 * (o + b))
      omega
  simp only [Use.byteIn, Image.inBounds, Bool.and_eq_true, decide_eq_true_eq] at hi hk ⊢
  obtain ⟨⟨⟨⟨⟨hi0, -⟩, h1⟩, h2⟩, h3⟩, h4⟩ := hi
  obtain ⟨⟨⟨⟨⟨-, hk0⟩, -⟩, -⟩, -⟩, -⟩ := hk
  exact ⟨⟨⟨⟨⟨hi0.trans (hmono hij), (hmono hjk).trans_lt hk0⟩, h1⟩, h2⟩, h3⟩, h4⟩

/-- The bytes in bounds are the run that `clip` gives. -/
theorem Use.clip_spec (u : Use) (o : Int) (n : Nat) : (u.clip o n).1 + (u.clip o n).2 ≤ n ∧
    ∀ i < n, u.byteIn (o + i) = true ↔ (u.clip o n).1 ≤ i ∧ i < (u.clip o n).1 + (u.clip o n).2 := by
  obtain ⟨l, m, hle, hfilter⟩ := filter_range_convex (P := fun i : Nat => u.byteIn (o + i)) n (u.byteIn_convex o)
  have hclip : u.clip o n = (((List.range m).map (l + ·)).headD 0, m) := by
    rw [Use.clip, upto, hfilter, List.length_map, List.length_range]
  have hmem (i : Nat) (hi : i < n) : u.byteIn (o + i) = true ↔ l ≤ i ∧ i < l + m := by
    have h : i ∈ (List.range n).filter (fun i : Nat => u.byteIn (o + i)) ↔ i ∈ (List.range m).map (l + ·) := by rw [hfilter]
    rw [List.mem_filter, List.mem_range, and_iff_right hi, List.mem_map] at h
    rw [h]
    exact ⟨fun ⟨j, hj, e⟩ => by have := List.mem_range.1 hj; omega, fun h => ⟨i - l, List.mem_range.2 (by omega), by omega⟩⟩
  rw [hclip]
  rcases Nat.eq_zero_or_pos m with rfl | hm
  · exact ⟨Nat.zero_le n, fun i hi => iff_of_false (fun h => by have := (hmem i hi).1 h; omega) (by simp)⟩
  · obtain ⟨m, rfl⟩ := Nat.exists_eq_succ_of_ne_zero hm.ne'
    rw [List.range_succ_eq_map]
    exact ⟨hle, hmem⟩

/-- What a load of n bytes from the cursor gives: those in bounds, and zeros. -/
theorem State.PlainBytes.readRow {s : State} {u : Use} {o : Int} {n : Nat} {leaf : Leaf} {pa : Nat}
    (h : s.PlainBytes u.pins (u.curAddr + o) n (fun i => u.byteIn (o + i)) leaf pa)
    (hsound : ∀ i < n, u.byteIn (o + i) = true → s.anyPoison (pa + i) 1 = false) (tn : BitVec 6) (x : BStream) :
    s.readRow tn x u o n = .ok ((List.range n).map fun i : Nat => if u.byteIn (o + i) = true then s.byte (pa + i) else 0) := by
  obtain ⟨hle, hin⟩ := u.clip_spec o n
  rw [State.readRow]
  generalize u.clip o n = c at *
  obtain ⟨l, m⟩ := c
  dsimp only at hle hin ⊢
  have hused (i : Nat) (hi : i < m) : u.byteIn (o + (l + i : Nat)) = true := (hin (l + i) (by omega)).2 (by omega)
  have hread := (h.sub hle hused).winWhole (fun i hi => by rw [Nat.add_assoc]; exact hsound (l + i) (by omega) (hused i hi)) tn x
  rw [hread, Res.ok_bind]
  refine congrArg Except.ok (List.ext_getElem ?_ fun i h1 h2 => ?_)
  · simp only [List.length_append, List.length_replicate, Memory.length_bytes, List.length_map, List.length_range]
    omega
  · have hi : i < n := by simpa using h2
    rw [List.getElem_map, List.getElem_range]
    simp only [List.getElem_append, List.length_append, List.length_replicate, Memory.length_bytes, List.getElem_replicate, Memory.getElem_bytes]
    have hiff := hin i hi
    by_cases hb : u.byteIn (o + i) = true
    · obtain ⟨h3, h4⟩ := hiff.1 hb
      rw [dif_pos (by omega), dif_neg (by omega), if_pos hb, show pa + l + (i - l) = pa + i by omega]
      rfl
    · have hout := mt hiff.2 hb
      rw [if_neg hb]
      split
      · split
        · rfl
        · omega
      · rfl

theorem leNat_eq_foldr (bs : List Byte) : leNat bs = (bs.map BitVec.toNat).foldr (fun x acc => acc * 2 ^ 8 + x % 2 ^ 8) 0 := by
  induction bs with
  | nil => rfl
  | cons b bs ih =>
    have hb := b.isLt
    rw [List.map_cons, List.foldr_cons, ← ih, leNat]
    omega

/-- A register from bytes is one of elements of width 8. -/
theorem regOf_eq (bs : List Byte) : regOf bs = ofElems 8 (bs.map BitVec.toNat) := by
  rw [regOf, leNat_eq_foldr]
  rfl

end Sys2Proof.Machine

/-! ## The V stream: loads through a window (R171 to R174, R236) -/

namespace Sys2Proof.Machine

/-! ### Landing (R236, R265) -/

/-- The tile once the results of a load are written, or stand in the landing buffer. -/
def State.landed (s : State) (tn : BitVec 6) (arr : Nat) (u : Tile) (ws : List (Late × Kept)) : Tile :=
  if (u.stream .v).exposed = true then
    ws.foldl (fun k w => k.addPending (Pending.mk ((u.stream .v).nextTc + arr - 1) .v (s.lateNext != some tn) true w.1 (some w.2)))
      (if s.lateNext = some tn then u else u.performAll .v)
  else ws.foldl (fun k w => k.applyLate w.1) u

theorem State.landResults_ok {s : State} {tn : BitVec 6} {arr : Nat} {u : Tile} {ws : List (Late × Kept)}
    (h : (u.pending.filter fun p => p.load).length + ws.length ≤ 32) : (s.setTile tn u).landResults tn .v arr ws =
      .ok { s.setTile tn (s.landed tn arr u ws) with lateNext := if (u.stream .v).exposed = true then none else s.lateNext } := by
  have hroom : ¬32 < (u.pending.countP fun p => p.load) + ws.length := by
    rw [List.countP_eq_length_filter]
    omega
  rw [State.landResults, State.landed, State.setTile_tile]
  dsimp only
  cases (u.stream .v).exposed
  · simp only [Bool.not_false, if_true, Bool.false_eq_true, if_false, State.setTile_setTile]
    rfl
  · have hlate : (s.setTile tn u).lateNext = s.lateNext := rfl
    simp only [Bool.not_true, Bool.false_eq_true, if_false, if_true, hroom, State.setTile_setTile, hlate, beq_iff_eq]
    rfl

/-- A load whose data have been read ends as R236 says. -/
theorem State.BlockTurn.lands {s : State} {tn : BitVec 6} (h : s.BlockTurn tn .v) (c arr : Nat) {f : BitVec 6 → BStream → State → Res State}
    {u : Tile} {ws : List (Late × Kept)} (hf : f tn .v (s.setTile tn ((s.tile tn).atIssue .v)) = (s.setTile tn u).landResults tn .v arr ws)
    (hroom : (u.pending.filter fun p => p.load).length + ws.length ≤ 32) : s.VLands (s.blockIssue c arr f) tn c arr u ws := by
  have hissue := h.issues c arr (hf.trans (State.landResults_ok hroom)) rfl
  have htile : (s.blockIssue c arr f).tile tn = (s.landed tn arr u ws).issued .v c arr := by
    rw [hissue, State.onTile_tile]
    exact congrArg (fun k : Tile => k.issued .v c arr) (s.setTile_tile tn _)
  refine ⟨?_, htile⟩
  rw [htile, hissue]
  generalize (if (u.stream .v).exposed = true then none else s.lateNext) = late
  show (State.setTile { s with lateNext := late } tn (s.landed tn arr u ws)).onTile tn _ = _
  rw [State.onTile, State.setTile_tile, State.setTile_setTile]
  rfl

/-! ### The loads (R171 to R174) -/

theorem State.PlainBytes.setTile {s : State} {pins : List Held} {a : Int} {n : Nat} {used : Nat → Bool} {leaf : Leaf} {pa : Nat}
    (h : s.PlainBytes pins a n used leaf pa) (tn : BitVec 6) (u : Tile) : (s.setTile tn u).PlainBytes pins a n used leaf pa :=
  ⟨h.pin, h.store, h.plain⟩

/-- The register that a load from the cursor gives. -/
def State.rowReg (s : State) (u : Use) (o : Int) (pa : Nat) : VReg :=
  ofElems 8 ((List.range 256).map fun i : Nat => if u.byteIn (o + i) = true then (s.byte (pa + i)).toNat else 0)

theorem State.regOf_row (s : State) (u : Use) (o : Int) (pa : Nat) :
    regOf ((List.range 256).map fun i : Nat => if u.byteIn (o + i) = true then s.byte (pa + i) else 0) = s.rowReg u o pa := by
  rw [regOf_eq, List.map_map, State.rowReg]
  refine congrArg (ofElems 8) (List.map_congr_left fun i _ => ?_)
  show (if _ then _ else _ : Byte).toNat = _
  split <;> rfl

/-- The coordinate of element e of an indexed form (R174). -/
def Use.at (u : Use) (v : VReg) (e : Nat) : Int := u.c 0 + elem 32 v e

/-- Element e of an indexed form is accessed: governed and in bounds. -/
def Use.taken (u : Use) (p : PReg) (v : VReg) (width e : Nat) : Bool :=
  e < 64 && p.getLsbD (e * width / 4) && u.image.inBounds (u.at v e) (u.c 1) (u.c 2)

/-- The address of element e of an indexed form. -/
def Use.place (u : Use) (v : VReg) (e : Nat) : Int := u.addr (u.at v e) (u.c 1) (u.c 2)

/-- What an indexed load gives element e. -/
def State.gathered (s : State) (u : Use) (p : PReg) (v : VReg) (width : Nat) (pas : Nat → Nat) (old : VReg) (e : Nat) : Nat :=
  if u.taken p v width e = true then leNat (s.mem.bytes (pas e) (width / 8))
  else if e < 64 ∧ p.getLsbD (e * width / 4) = true then 0 else elem width old e

/-- Element e of an indexed load as the form reads it. -/
def State.gather (s : State) (tn : BitVec 6) (u : Use) (p : PReg) (v : VReg) (width : Nat) (old : VReg) (e : Nat) : Res Nat :=
  if e < 64 && governed p width e then
    if u.image.inBounds (u.at v e) (u.c 1) (u.c 2) then
      s.winWhole tn .v u (u.place v e) (width / 8) >>= fun bs => .ok (leNat bs)
    else .ok 0
  else .ok (elem width old e)

theorem State.gather_ok {s : State} {u : Use} {p : PReg} {v : VReg} {width : Nat} {pas : Nat → Nat} {leaf : Leaf} {e : Nat}
    (h : e < 64 → u.taken p v width e = true → s.PlainBytes u.pins (u.place v e) (width / 8) (fun _ => true) leaf (pas e) ∧
      ∀ i < width / 8, s.anyPoison (pas e + i) 1 = false) (tn : BitVec 6) (old : VReg) :
    s.gather tn u p v width old e = .ok (s.gathered u p v width pas old e) := by
  have htaken : u.taken p v width e = (e < 64 && governed p width e && u.image.inBounds (u.at v e) (u.c 1) (u.c 2)) := rfl
  have hgov : e < 64 ∧ p.getLsbD (e * width / 4) = true ↔ (e < 64 && governed p width e) = true := by
    rw [Bool.and_eq_true, decide_eq_true_eq]
    rfl
  rw [State.gather, State.gathered, htaken]
  simp only [hgov]
  by_cases hg : (e < 64 && governed p width e) = true
  · by_cases hb : u.image.inBounds (u.at v e) (u.c 1) (u.c 2) = true
    · obtain ⟨hplain, hsound⟩ := h (hgov.2 hg).1 (by rw [htaken, hg, hb]; rfl)
      simp only [hg, hb, Bool.and_self, if_true, hplain.winWhole hsound tn .v, Res.ok_bind]
    · simp only [hg, hb, Bool.and_false, Bool.false_eq_true, if_true, if_false]
  · simp only [hg, Bool.false_and, Bool.false_eq_true, if_false]

theorem filterMap_ite {α β : Type} (c : α → Bool) (g : α → β) (l : List α) :
    (l.filterMap fun x => if c x = true then some (g x) else none) = (l.filter c).map g := by
  induction l with
  | nil => rfl
  | cons x l ih =>
    rw [List.filterMap_cons, List.filter_cons, ih]
    by_cases h : c x = true
    · rw [if_pos h, if_pos h, List.map_cons]
    · rw [if_neg h, if_neg h]

/-- Where an indexed load reads. -/
def Use.keptElems (u : Use) (p : PReg) (v : VReg) (width : Nat) (n : BitVec 5) : Kept :=
  { window := n, pieces := ((List.range (2048 / width)).filter (u.taken p v width)).map fun e => (e * (width / 8), u.place v e, width / 8) }

theorem mapM_ok {α β : Type} {f : α → Res β} {g : α → β} {l : List α} (h : ∀ x ∈ l, f x = .ok (g x)) : l.mapM f = .ok (l.map g) := by
  induction l with
  | nil => rfl
  | cons x l ih =>
    rw [List.mapM_cons, h x List.mem_cons_self, ih fun y hy => h y (List.mem_cons_of_mem _ hy)]
    rfl

section
variable {s : State} {tn : BitVec 6} (h : s.BlockTurn tn .v) {n : BitVec 5} {win : Window}
  (hwin : ((s.tile tn).atIssue .v).windows[n.toNat] = some win) (hfmt : win.image.fmt ≠ 12) {leaf : Leaf}
include h hwin hfmt

theorem vld_lands {d : BitVec 5} {o r : Byte} {pa : Nat} {ul : Use} (hul : ((s.tile tn).atIssue .v).useOf .v win false = ul)
    (halign : (ul.curAddr + o.toInt * 256) % 4 = 0)
    (hplain : s.PlainBytes ul.pins (ul.curAddr + o.toInt * 256) 256 (fun i => ul.byteIn (o.toInt * 256 + i)) leaf pa)
    (hsound : ∀ i : Nat, i < 256 → ul.byteIn (o.toInt * 256 + i) = true → s.anyPoison (pa + i) 1 = false)
    (hroom : (((s.tile tn).atIssue .v).pending.filter fun p => p.load).length < 32) {taken : Tile}
    (htaken : ((s.tile tn).atIssue .v).takeSources false [] [d] = .ok taken) :
    ∃ t, exec (.vld d n o r) s = .next t ∧
      s.VLands t tn 1 r.toNat taken [(toDest d (s.rowReg ul (o.toInt * 256) pa), ul.keptRow n (o.toInt * 256) 256)] := by
  refine ⟨_, rfl, h.lands 1 r.toNat ?_ ?_⟩
  · have hread := (hplain.setTile tn ((s.tile tn).atIssue .v)).readRow hsound tn .v
    simp only [State.setTile_tile, htaken, Tile.vWindow_some hwin hfmt, hul, Res.ok_bind, need_true (decide_eq_true halign), hread,
      State.setTile_setTile]
    exact congrArg (fun v => State.landResults _ tn .v r.toNat [(toDest d v, _)]) (s.regOf_row ul _ pa)
  · rw [Tile.takeSources_frame htaken]
    exact hroom

theorem vldm_lands {d : BitVec 5} {k : BitVec 2} {o : BitVec 6} {r : Byte} {pa : Nat} {ul : Use}
    (hul : ((s.tile tn).atIssue .v).useOf .v win false = ul) (halign : (ul.curAddr + o.toInt * 256) % 4 = 0)
    (hplain : ∀ j : Nat, j < 2 ^ (k.toNat + 1) → s.PlainBytes ul.pins (ul.curAddr + (o.toInt + j) * 256) 256
        (fun i => ul.byteIn ((o.toInt + j) * 256 + i)) leaf (pa + 256 * j) ∧
      ∀ i : Nat, i < 256 → ul.byteIn ((o.toInt + j) * 256 + i) = true → s.anyPoison (pa + 256 * j + i) 1 = false)
    (hroom : (((s.tile tn).atIssue .v).pending.filter fun p => p.load).length + 2 ^ (k.toNat + 1) ≤ 32) :
    ∃ t, exec (.vldm d n k o r) s = .next t ∧
      s.VLands t tn (2 ^ (k.toNat + 1)) r.toNat ((s.tile tn).atIssue .v) ((List.range (2 ^ (k.toNat + 1))).map fun j : Nat =>
        (Late.vreg (d + BitVec.ofNat 5 j) (s.rowReg ul ((o.toInt + j) * 256) (pa + 256 * j)), ul.keptRow n ((o.toInt + j) * 256) 256)) := by
  refine ⟨_, rfl, h.lands _ r.toNat ?_ ?_⟩
  · have hrows := mapM_ok (l := upto (2 ^ (k.toNat + 1))) (f := fun j : Nat => do
        let bs ← (s.setTile tn ((s.tile tn).atIssue .v)).readRow tn .v ul ((o.toInt + j) * 256) 256
        return (Late.vreg (d + BitVec.ofNat 5 j) (regOf bs), ul.keptRow n ((o.toInt + j) * 256) 256))
      (g := fun j : Nat => (Late.vreg (d + BitVec.ofNat 5 j) (s.rowReg ul ((o.toInt + j) * 256) (pa + 256 * j)),
        ul.keptRow n ((o.toInt + j) * 256) 256)) fun j hj => by
      obtain ⟨hp, hs⟩ := hplain j (List.mem_range.1 hj)
      rw [(hp.setTile tn ((s.tile tn).atIssue .v)).readRow hs tn .v, ← s.regOf_row]
      rfl
    simp only [State.setTile_tile, Tile.vWindow_some hwin hfmt, hul, Res.ok_bind, need_true (decide_eq_true halign), hrows]
    rfl
  · rwa [List.length_map, List.length_range]

theorem vgx_lands {d x : BitVec 5} {p : BitVec 3} {r : Byte} {pas : Nat → Nat} {ul : Use} {width : Nat}
    (hul : ((s.tile tn).atIssue .v).useOf .v win false = ul) (hwidth : fmtWidth win.image.fmt = width) (hw : width ∈ [8, 16, 32])
    (halign : ul.curAddr % (width / 8 : Nat) = 0)
    (hplain : ∀ e < 64, ul.taken (((s.tile tn).atIssue .v).preg p) (((s.tile tn).atIssue .v).vread x) width e = true →
      s.PlainBytes ul.pins (ul.place (((s.tile tn).atIssue .v).vread x) e) (width / 8) (fun _ => true) leaf (pas e) ∧
        ∀ i < width / 8, s.anyPoison (pas e + i) 1 = false)
    (hroom : (((s.tile tn).atIssue .v).pending.filter fun p => p.load).length < 32) {taken : Tile}
    (htaken : ((s.tile tn).atIssue .v).takeSources false [x] [d] = .ok taken) :
    ∃ t, exec (.vgx d n x p r) s = .next t ∧
      s.VLands t tn 4 r.toNat taken
        [(toDest d (ofElems width ((List.range (2048 / width)).map fun e =>
            s.gathered ul (((s.tile tn).atIssue .v).preg p) (((s.tile tn).atIssue .v).vread x) width pas (((s.tile tn).atIssue .v).vold d) e)),
          ul.keptElems (((s.tile tn).atIssue .v).preg p) (((s.tile tn).atIssue .v).vread x) width n)] := by
  refine ⟨_, rfl, h.lands 4 r.toNat ?_ ?_⟩
  · have hwd : ul.indexWidth = .ok width := by
      rw [← hul, ← hwidth]
      exact Use.indexWidth_ok (u := Tile.useOf _ .v win false) (hwidth ▸ hw)
    simp only [State.setTile_tile, htaken, Tile.vWindow_some hwin hfmt, hul, hwd, Res.ok_bind, need_true (decide_eq_true halign)]
    have helems := mapM_ok (l := List.range (2048 / width)) fun e _ =>
      State.gather_ok (s := s.setTile tn ((s.tile tn).atIssue .v)) (fun he hu => ⟨(hplain e he hu).1.setTile tn _, (hplain e he hu).2⟩) tn
        (((s.tile tn).atIssue .v).vold d)
    have hkept := filterMap_ite (ul.taken (((s.tile tn).atIssue .v).preg p) (((s.tile tn).atIssue .v).vread x) width)
      (fun e => (e * (width / 8), ul.place (((s.tile tn).atIssue .v).vread x) e, width / 8)) (List.range (2048 / width))
    refine (congrArg (· >>= _) helems).trans ?_
    rw [Res.ok_bind, State.setTile_setTile, Use.keptElems, ← hkept]
    rfl
  · rw [Tile.takeSources_frame htaken]
    exact hroom

end

end Sys2Proof.Machine

/-! ## The V stream: stores through a window (R171, R174) -/

namespace Sys2Proof.Machine

/-! ### What stores through the pages of one leaf leave (R276, R371, R396) -/

theorem State.markUnrollable_none {s : State} (h : ∀ n ∈ s.pool.nodes, n.ckpt = false) (w : Writer) (leaf : Leaf) (gpa : Nat) :
    s.markUnrollable w leaf gpa = s := by
  have hwriter {n : Node} (hn : s.writerNode w = some n) : n.ckpt = false := by
    obtain ⟨handle, -, hfind⟩ := Option.bind_eq_some_iff.1 hn
    exact h n (List.mem_of_find?_eq_some hfind)
  have hnodes {f : Node → Node} (hf : ∀ n ∈ s.pool.nodes, f n = n) : { s with pool := { s.pool with nodes := s.pool.nodes.map f } } = s := by
    rw [List.map_congr_left hf, List.map_id']
  unfold State.markUnrollable
  cases hw : s.writerNode w with
  | none =>
    dsimp only
    split
    · exact hnodes fun n hn => if_neg fun hc => by rw [h n hn] at hc; exact Bool.false_ne_true hc.1
    · rfl
  | some n =>
    simp only [hwriter hw, Bool.false_and, Bool.false_eq_true, if_false]
    split
    · exact hnodes fun n hn => if_neg fun hc => by rw [h n hn] at hc; exact Bool.false_ne_true hc.1
    · rfl

theorem State.StoresOnly.refl (s : State) (leaf : Leaf) : s.StoresOnly s leaf s.tile :=
  ⟨rfl, fun _ h => h, fun _ => rfl, fun _ h => h, fun _ => rfl⟩

theorem State.StoresOnly.trans {s t v : State} {leaf : Leaf} (h : s.StoresOnly t leaf s.tile) (h' : t.StoresOnly v leaf t.tile) :
    s.StoresOnly v leaf s.tile := by
  obtain ⟨hframe, hres, hpool, hpoison, htile⟩ := h
  obtain ⟨hframe', hres', hpool', hpoison', htile'⟩ := h'
  refine ⟨?_, fun r hr => hres r (hres' r hr), fun hc => ?_, fun p hp => hpoison p (hpoison' p hp), fun z => ?_⟩
  · rw [hframe', hframe]
  · have hp := hpool hc
    exact (hpool' (hc.imp_right fun hn => hp ▸ hn)).trans hp
  · rw [htile', htile]

theorem State.StoresOnly.put (s : State) (w : Writer) {leaf : Leaf} (hckpt : leaf.ckpt = false) (gpa pa : Nat) (bs : List Byte) :
    s.StoresOnly ((s.markUnrollable w leaf gpa).put pa bs) leaf s.tile := by
  refine ⟨?_, ?_, ?_, ?_, fun z => ?_⟩
  · rw [State.put_eq, s.markUnrollable_pool]
  · rw [State.put_eq, s.markUnrollable_pool]
    exact fun r hr => (List.mem_filter.1 hr).1
  · rintro (hc | hn)
    · exact absurd (hckpt.symm.trans hc) Bool.false_ne_true
    · rw [State.markUnrollable_none hn, State.put_eq]
  · rw [State.put_eq, s.markUnrollable_pool]
    exact fun p hp => (List.mem_filter.1 hp).1
  · rw [State.put_tile, s.markUnrollable_tile]

/-- Stores leave the pages of other stores as they are. -/
theorem State.PlainBytes.stored {s t : State} {pins : List Held} {a : Int} {n : Nat} {used : Nat → Bool} {leaf leaf' : Leaf} {pa : Nat}
    {u : BitVec 6 → Tile} (h : s.PlainBytes pins a n used leaf pa) (ht : s.StoresOnly t leaf' u) : t.PlainBytes pins a n used leaf pa := by
  rw [ht.1]
  exact ⟨h.pin, h.store, h.plain⟩

theorem Tile.noLateLoad.stored {s t : State} {tn : BitVec 6} {x : BStream} {leaf : Leaf} (h : (s.tile tn).noLateLoad x)
    (ht : s.StoresOnly t leaf s.tile) : (t.tile tn).noLateLoad x := by
  obtain ⟨-, -, -, -, htile⟩ := ht
  rw [htile]
  exact h

/-! ### Bytes written (R170) -/

theorem Memory.setBytes_append (m : Memory) (a : Nat) (l r : List Byte) : m.setBytes a (l ++ r) = (m.setBytes a l).setBytes (a + l.length) r := by
  induction l generalizing m a with
  | nil => rfl
  | cons b l ih =>
    rw [List.cons_append, Memory.setBytes, ih, Memory.setBytes, List.length_cons, Nat.add_assoc, Nat.add_comm 1]

theorem Memory.setBytes_take_add (m : Memory) (a : Nat) (bs : List Byte) {o k : Nat} (h : o ≤ bs.length) :
    (m.setBytes a (bs.take o)).setBytes (a + o) ((bs.drop o).take k) = m.setBytes a (bs.take (o + k)) := by
  rw [List.take_add, Memory.setBytes_append, List.length_take, min_eq_left h]

/-- Bytes of the own package written through pages without VER, CKPT and SEAL. -/
theorem State.writeLocal_stores (s : State) (w : Writer) {leaf : Leaf} (hplain : leaf.ver = false ∧ leaf.ckpt = false ∧ leaf.sealed = false)
    {pa : Nat} {bs : List Byte} (h : ∀ i < bs.length, tget s.seals ((pa + i) / 128) = none ∧ s.scratchBusy (pa + i) = false) :
    ∃ t, s.writeLocal w leaf pa bs = .ok t ∧ s.StoresOnly t leaf s.tile ∧ t.mem = s.mem.setBytes pa bs := by
  obtain ⟨l, hl, hpieces⟩ := pieces_all pa bs.length
  rw [State.writeLocal, hpieces, List.foldlM_map]
  have hall : s.mem.setBytes pa bs = s.mem.setBytes pa (bs.take bs.length) := by rw [List.take_length]
  rw [hall]
  refine hl.foldlM (P := fun o (t : State) => s.StoresOnly t leaf s.tile ∧ t.mem = s.mem.setBytes pa (bs.take o)) ?_
    ⟨.refl s leaf, by rw [List.take_zero]; rfl⟩
  intro o k t ⟨ht, hmem⟩ h0 hle
  have hopen := h o (by omega)
  have htag : tget t.seals ((pa + o) / 128) = none ∧ t.scratchBusy (pa + o) = false := by
    rw [ht.1]
    exact hopen
  dsimp only
  rw [Nat.add_sub_cancel_left, t.writePart_plain w _ _ hplain htag.1 htag.2]
  refine ⟨_, rfl, ht.trans (.put t w hplain.2.1 _ _ _), ?_⟩
  rw [State.put_mem, t.markUnrollable_pool]
  show t.mem.setBytes _ _ = _
  rw [hmem, Memory.setBytes_take_add _ _ _ (by omega)]

/-- Bytes written through a window that may be written. -/
theorem State.PlainBytes.winStore {s : State} {u : Use} {a : Int} {bs : List Byte} {leaf : Leaf} {pa : Nat}
    (h : s.PlainBytes u.pins a bs.length (fun _ => true) leaf pa) (hsnap : u.image.snap = false) (hw : leaf.w = true) {tn : BitVec 6}
    {x : BStream} (hlate : (s.tile tn).noLateLoad x) :
    ∃ t, s.winStore tn x u a bs = .ok t ∧ s.StoresOnly t leaf s.tile ∧ t.mem = s.mem.setBytes pa bs := by
  obtain ⟨l, hl, hspans⟩ := pageSpans_all a bs.length
  rw [State.winStore, hspans, List.foldlM_map]
  have hall : s.mem.setBytes pa bs = s.mem.setBytes pa (bs.take bs.length) := by rw [List.take_length]
  rw [hall]
  refine hl.foldlM (P := fun o (t : State) => s.StoresOnly t leaf s.tile ∧ t.mem = s.mem.setBytes pa (bs.take o)) ?_
    ⟨.refl s leaf, by rw [List.take_zero]; rfl⟩
  intro o k t ⟨ht, hmem⟩ h0 hle
  have hplain := h.stored ht
  have hlate' := hlate.stored ht
  obtain ⟨hpin, -⟩ := hplain.page (o := o) (by omega)
  obtain ⟨hlt, -, -, hq⟩ := hplain.store o (by omega) rfl
  have hchunk : (bs.drop (a + (o : Int) - a).toNat).take k = (bs.drop o).take k := by
    rw [add_sub_cancel_left, Int.toNat_natCast]
  obtain ⟨v, hv, hstores, hmem'⟩ := t.writeLocal_stores (t.tileWriter tn) h.plain (pa := pa + o) (bs := (bs.drop o).take k) fun i hi => by
    rw [List.length_take, List.length_drop] at hi
    obtain ⟨-, htag, hopen, -⟩ := hplain.store (o + i) (by omega) rfl
    rw [Nat.add_assoc]
    exact ⟨htag, hopen⟩
  refine ⟨v, ?_, ht.trans hstores, ?_⟩
  · rw [hchunk, State.winWrite_pinned hsnap hw hpin hlt hq hlate']
    exact hv
  · rw [hmem', hmem, Memory.setBytes_take_add _ _ _ (by omega)]

/-- A number written reads back byte by byte, and every other byte stays. -/
theorem Memory.byte_setBytes_number (m : Memory) (pa n v q : Nat) :
    (m.setBytes pa (leBytes n v)).byte q = if pa ≤ q ∧ q < pa + n then BitVec.ofNat 8 (v / 2 ^ (8 * (q - pa))) else m.byte q := by
  split
  · obtain ⟨i, rfl⟩ : ∃ i, q = pa + i := ⟨q - pa, by omega⟩
    rw [Memory.byte_setBytes _ _ _ _ (by rw [length_leBytes]; omega), getElem_leBytes, Nat.add_sub_cancel_left, Nat.pow_mul]
  · exact m.byte_setBytes_other _ _ _ (by rw [length_leBytes]; omega)

/-- A row from the cursor changes its bytes in bounds, and no other byte. -/
theorem State.PlainBytes.writeRow {s : State} {u : Use} {o : Int} {bs : List Byte} {leaf : Leaf} {pa : Nat}
    (h : s.PlainBytes u.pins (u.curAddr + o) bs.length (fun i => u.byteIn (o + i)) leaf pa) (hsnap : u.image.snap = false)
    (hw : leaf.w = true) {tn : BitVec 6} {x : BStream} (hlate : (s.tile tn).noLateLoad x) :
    ∃ t, s.writeRow tn x u o bs = .ok t ∧ s.StoresOnly t leaf s.tile ∧
      (∀ (i : Nat) (hi : i < bs.length), u.byteIn (o + i) = true → t.byte (pa + i) = bs[i]) ∧
      ∀ q, (∀ i : Nat, i < bs.length → u.byteIn (o + i) = true → q ≠ pa + i) → t.byte q = s.byte q := by
  obtain ⟨hle, hin⟩ := u.clip_spec o bs.length
  rw [State.writeRow]
  generalize u.clip o bs.length = c at *
  obtain ⟨l, m⟩ := c
  dsimp only at hle hin ⊢
  have hlen : ((bs.drop l).take m).length = m := by
    rw [List.length_take, List.length_drop]
    omega
  have hsub := h.sub (o := l) (k := ((bs.drop l).take m).length) (by omega) fun i hi => (hin (l + i) (by omega)).2 (by omega)
  obtain ⟨t, ht, hstores, hmem⟩ := hsub.winStore hsnap hw hlate
  refine ⟨t, ht, hstores, fun i hi hb => ?_, fun q hq => ?_⟩
  · obtain ⟨j, rfl⟩ : ∃ j, i = l + j := ⟨i - l, by have := (hin i hi).1 hb; omega⟩
    have hj := (hin _ hi).1 hb
    rw [State.byte, hmem, ← Nat.add_assoc, Memory.byte_setBytes _ _ _ _ (by omega), List.getElem_take, List.getElem_drop]
  · rw [State.byte, hmem, Memory.byte_setBytes_other _ _ _ _ _]
    · rfl
    · by_contra hne
      exact hq (q - pa) (by omega) ((hin _ (by omega)).2 (by omega)) (by omega)

/-! ### The step of a store (R239) -/

theorem Tile.issued_dirty (t : Tile) (x : BStream) (c l : Nat) (a b : Dirty) : ({ t with dirtyA := a, dirtyB := b } : Tile).issued x c l =
    { t.issued x c l with dirtyA := a, dirtyB := b } := by
  cases x <;> rfl

/-- A store that succeeds moves its stream on in the memory it leaves. -/
theorem State.BlockTurn.stores {s : State} {tn : BitVec 6} {x : BStream} (h : s.BlockTurn tn x) {i : Instr} {c l : Nat}
    {f : BitVec 6 → BStream → State → Res State} (hexec : exec i s = .next (s.blockIssue c l f)) {taken : Tile} {t : State} {leaf : Leaf}
    (hf : f tn x (s.setTile tn ((s.tile tn).atIssue x)) = .ok t) (ht : (s.setTile tn taken).StoresOnly t leaf (s.setTile tn taken).tile) :
    ∃ t', exec i s = .next t' ∧ (∀ q, t'.byte q = t.byte q) ∧
      s.StoresOnly t' leaf fun z => if z = tn then taken.issued x c l else s.tile z := by
  obtain ⟨hframe, hres, hpool, hpoison, htile⟩ := ht
  rw [h.issues c l hf (by rw [hframe]; rfl)] at hexec
  refine ⟨_, hexec, fun q => rfl, ?_, hres, hpool, hpoison, fun z => ?_⟩
  · rw [hframe]
    rfl
  · dsimp only
    split
    next hz =>
      subst hz
      have hz := htile z
      rw [State.setTile_tile] at hz
      rw [State.onTile_tile, hz, Tile.issued_dirty]
    next hz =>
      rw [State.onTile_other _ _ _ _ hz, htile z, State.setTile_other _ _ _ _ hz]

end Sys2Proof.Machine

/-! ## The V stream: vst, vsx and the obligation (R171 to R174) -/

namespace Sys2Proof.Machine

/-! ### Scattered elements (R174) -/

/-- The highest element below n that writes byte q. -/
def lastWriter (taken : Nat → Bool) (pas : Nat → Nat) (k n q : Nat) : Option Nat :=
  (List.range n).reverse.find? fun e => taken e && decide (pas e ≤ q ∧ q < pas e + k)

theorem lastWriter_succ (taken : Nat → Bool) (pas : Nat → Nat) (k n q : Nat) : lastWriter taken pas k (n + 1) q =
    if (taken n && decide (pas n ≤ q ∧ q < pas n + k)) = true then some n else lastWriter taken pas k n q := by
  rw [lastWriter, List.range_succ, List.reverse_append, List.reverse_singleton, List.singleton_append, List.find?_cons]
  cases h : taken n && decide (pas n ≤ q ∧ q < pas n + k) <;> rfl

/-- A byte once the elements of v below n are written. -/
def State.scattered (s : State) (taken : Nat → Bool) (pas : Nat → Nat) (width : Nat) (v : VReg) (n q : Nat) : Byte :=
  match lastWriter taken pas (width / 8) n q with
  | some e => BitVec.ofNat 8 (elem width v e / 2 ^ (8 * (q - pas e)))
  | none => s.byte q

theorem State.scattered_succ (s : State) (taken : Nat → Bool) (pas : Nat → Nat) (width : Nat) (v : VReg) (n q : Nat) :
    s.scattered taken pas width v (n + 1) q = if (taken n && decide (pas n ≤ q ∧ q < pas n + width / 8)) = true then
      BitVec.ofNat 8 (elem width v n / 2 ^ (8 * (q - pas n))) else s.scattered taken pas width v n q := by
  rw [State.scattered, lastWriter_succ]
  by_cases h : (taken n && decide (pas n ≤ q ∧ q < pas n + width / 8)) = true
  · rw [if_pos h, if_pos h]
  · rw [if_neg h, if_neg h]
    rfl

/-- The write of element e of v, where it is accessed. -/
def State.scatter (tn : BitVec 6) (u : Use) (p : PReg) (x v : VReg) (width : Nat) (s : State) (e : Nat) : Res State :=
  if (governed p width e && u.image.inBounds (u.at x e) (u.c 1) (u.c 2)) = true then
    s.winStore tn .v u (u.place x e) (leBytes (width / 8) (elem width v e))
  else .ok s

theorem State.scatter_all {s : State} {tn : BitVec 6} {u : Use} {p : PReg} {x v : VReg} {width : Nat} {leaf : Leaf} {pas : Nat → Nat}
    (hplain : ∀ e < 64, u.taken p x width e = true → s.PlainBytes u.pins (u.place x e) (width / 8) (fun _ => true) leaf (pas e))
    (hsnap : u.image.snap = false) (hw : leaf.w = true) (hlate : (s.tile tn).noLateLoad .v) {n : Nat} (hn : n ≤ 64) :
    ∃ t, (List.range n).foldlM (State.scatter tn u p x v width) s = .ok t ∧ s.StoresOnly t leaf s.tile ∧
      ∀ q, t.byte q = s.scattered (u.taken p x width) pas width v n q := by
  induction n with
  | zero => exact ⟨s, rfl, .refl s leaf, fun q => rfl⟩
  | succ n ih =>
    obtain ⟨t, ht, hstores, hbyte⟩ := ih (by omega)
    have htaken : u.taken p x width n = (governed p width n && u.image.inBounds (u.at x n) (u.c 1) (u.c 2)) := by
      rw [Use.taken, decide_eq_true (by omega : n < 64), Bool.true_and]
      rfl
    rw [List.range_succ, List.foldlM_append, ht, Res.ok_bind, List.foldlM_cons, State.scatter, ← htaken]
    by_cases hn' : u.taken p x width n = true
    · have hp := (hplain n (by omega) hn').stored hstores
      rw [← length_leBytes (width / 8) (elem width v n)] at hp
      obtain ⟨t', ht', hstores', hmem⟩ := hp.winStore hsnap hw (hlate.stored hstores)
      refine ⟨t', ?_, hstores.trans hstores', fun q => ?_⟩
      · rw [if_pos hn', ht']
        rfl
      · rw [State.byte, hmem, Memory.byte_setBytes_number, s.scattered_succ, hn', Bool.true_and, ← hbyte]
        simp only [decide_eq_true_eq]
        rfl
    · refine ⟨t, if_neg hn' ▸ rfl, hstores, fun q => ?_⟩
      rw [hbyte, s.scattered_succ, Bool.eq_false_iff.2 hn', Bool.false_and]
      rfl

/-! ### The stores (R171, R174) -/

theorem getElem_regBytes (v : VReg) (i : Nat) (hi : i < (regBytes v).length) : (regBytes v)[i].toNat = elem 8 v i := by
  simp only [regBytes]
  rw [getElem_leBytes, BitVec.toNat_ofNat, elem, Nat.pow_mul]

section
variable {s : State} {tn : BitVec 6} (h : s.BlockTurn tn .v) {n : BitVec 5} {win : Window}
  (hwin : ((s.tile tn).atIssue .v).windows[n.toNat] = some win) (hfmt : win.image.fmt ≠ 12) (hsnap : win.image.snap = false) {leaf : Leaf}
  (hw : leaf.w = true) (hlate : ((s.tile tn).atIssue .v).noLateLoad .v) {us : Use} (hus : ((s.tile tn).atIssue .v).useOf .v win true = us)
include h hwin hfmt hsnap hw hlate hus

theorem vst_stores {d : BitVec 5} {o r : Byte} {pa : Nat} (halign : (us.curAddr + o.toInt * 256) % 4 = 0)
    (hplain : s.PlainBytes us.pins (us.curAddr + o.toInt * 256) 256 (fun i => us.byteIn (o.toInt * 256 + i)) leaf pa) {taken : Tile}
    (htaken : ((s.tile tn).atIssue .v).takeSources false [d] [] = .ok taken) :
    ∃ t, exec (.vst d n o r) s = .next t ∧
      (∀ i : Nat, i < 256 → us.byteIn (o.toInt * 256 + i) = true →
        (t.byte (pa + i)).toNat = elem 8 (((s.tile tn).atIssue .v).vread d) i) ∧
      (∀ q, (∀ i : Nat, i < 256 → us.byteIn (o.toInt * 256 + i) = true → q ≠ pa + i) → t.byte q = s.byte q) ∧
      s.StoresOnly t leaf fun z => if z = tn then taken.issued .v 1 1 else s.tile z := by
  have hsnap' : us.image.snap = false := by rw [← hus]; exact hsnap
  have hlen : (regBytes (((s.tile tn).atIssue .v).vread d)).length = 256 := length_leBytes _ _
  have hlate' : ((s.setTile tn taken).tile tn).noLateLoad .v := by
    rw [State.setTile_tile, Tile.takeSources_frame htaken]
    exact hlate
  have hrow := hplain.setTile tn taken
  rw [← hlen] at hrow
  obtain ⟨t, ht, hstores, hin, hout⟩ := hrow.writeRow hsnap' hw (x := .v) hlate'
  obtain ⟨t', hexec, hbyte, hleaves⟩ := h.stores (i := .vst d n o r) rfl (by
    simp only [State.setTile_tile, htaken, Tile.vWindow_some hwin hfmt, hus, Res.ok_bind, need_true (decide_eq_true halign), Use.writable,
      hsnap', Bool.not_false, need_true, State.setTile_setTile]
    exact ht) hstores
  refine ⟨t', hexec, fun i hi hb => ?_, fun q hq => (hbyte q).trans (hout q fun i hi => hq i (hlen ▸ hi)), hleaves⟩
  rw [hbyte, hin i (hlen.symm ▸ hi) hb, getElem_regBytes]

theorem vsx_stores {d x : BitVec 5} {p : BitVec 3} {r : Byte} {pas : Nat → Nat} {width : Nat} (hwidth : fmtWidth win.image.fmt = width)
    (hwd : width ∈ [8, 16, 32]) (halign : us.curAddr % (width / 8 : Nat) = 0)
    (hplain : ∀ e < 64, us.taken (((s.tile tn).atIssue .v).preg p) (((s.tile tn).atIssue .v).vread x) width e = true →
      s.PlainBytes us.pins (us.place (((s.tile tn).atIssue .v).vread x) e) (width / 8) (fun _ => true) leaf (pas e)) {taken : Tile}
    (htaken : ((s.tile tn).atIssue .v).takeSources false [d, x] [] = .ok taken) :
    ∃ t, exec (.vsx d n x p r) s = .next t ∧
      (∀ q, t.byte q = s.scattered (us.taken (((s.tile tn).atIssue .v).preg p) (((s.tile tn).atIssue .v).vread x) width) pas width
        (((s.tile tn).atIssue .v).vread d) 64 q) ∧
      s.StoresOnly t leaf fun z => if z = tn then taken.issued .v 4 4 else s.tile z := by
  have hsnap' : us.image.snap = false := by rw [← hus]; exact hsnap
  have hwd' : us.indexWidth = .ok width := by
    rw [← hus, ← hwidth]
    exact Use.indexWidth_ok (u := Tile.useOf _ .v win true) (hwidth ▸ hwd)
  have hlate' : ((s.setTile tn taken).tile tn).noLateLoad .v := by
    rw [State.setTile_tile, Tile.takeSources_frame htaken]
    exact hlate
  obtain ⟨t, ht, hstores, hbyte⟩ := State.scatter_all (v := ((s.tile tn).atIssue .v).vread d)
    (fun e he hu => (hplain e he hu).setTile tn taken) hsnap' hw hlate' le_rfl
  obtain ⟨t', hexec, hmem, hleaves⟩ := h.stores (i := .vsx d n x p r) rfl (by
    simp only [State.setTile_tile, htaken, Tile.vWindow_some hwin hfmt, hus, hwd', Res.ok_bind, need_true (decide_eq_true halign),
      Use.writable, hsnap', Bool.not_false, need_true, State.setTile_setTile]
    exact ht) hstores
  exact ⟨t', hexec, fun q => (hmem q).trans (hbyte q), hleaves⟩

end

/-- Settles O39: bytes through pinned pages are read or written span by span and line by line, and the bytes in bounds of a row are one
run; of scattered elements the last written stands. -/
theorem vectorMemory : Obligations.VectorMemory := by
  intro s tn d n x o r k o6 p win leaf pa pas hturn tl hwin hfmt ul us width held sound regAt inAt at_ used elemAddr
  refine ⟨fun halign hplain hsound hroom taken htaken => ?_, fun hk hd halign hroom hplain => ?_,
    fun hw halign hroom hplain taken htaken => ?_,
    fun hsnap hwrite hlate => ⟨fun halign hplain taken htaken => ?_, fun hw halign hplain taken htaken => ?_⟩⟩
  · exact vld_lands hturn hwin hfmt rfl halign hplain hsound hroom htaken
  · exact vldm_lands hturn hwin hfmt rfl halign hplain hroom
  · exact vgx_lands hturn hwin hfmt rfl rfl hw halign (fun e he hu => ⟨(hplain e he hu).1, fun i hi => (hplain e he hu).2 i hi rfl⟩) hroom
      htaken
  · exact vst_stores hturn hwin hfmt hsnap hwrite hlate rfl halign hplain htaken
  · exact vsx_stores hturn hwin hfmt hsnap hwrite hlate rfl rfl hw halign hplain htaken

end Sys2Proof.Machine
